-- ==== Sys2Proof/Word.lean ====
section
/-!
DEFINITION. The plain types of the model: bytes and byte strings, tables, and exact binary numbers.
Every multi-byte field of the module is little-endian (R15); the readers and writers of such fields
stand in Machine/Bits.lean, the arithmetic on binary numbers in Machine/Num.lean.
-/

namespace Sys2Proof

/-- A byte. -/
abbrev Byte := BitVec 8

/-- A string of bytes, first byte first. -/
abbrev Bytes := List (BitVec 8)

/-- A table from numbers to values, kept in ascending order of the number with no entry that holds
the table's default value, so that equal tables are equal data. Memory is such a table of bytes. -/
abbrev Tab (α : Type) := List (Nat × α)

/-- The exact value `m × 2^e`. Every number of the formats of R190 is such a value. -/
structure Dyad where
  m : Int
  e : Int
deriving DecidableEq, Repr

end Sys2Proof
end

