-- ==== Sys2Proof/Syntax.lean ====
section
/-!
DEFINITION. The commands of the block: one constructor of `Instr` for each row of
spec/opcode_table.json, with the operands that reach the module with it.

* A host command (an Ubdor opcode) carries a `CmdIn`: the tag under which COMMAND_FETCH stored its
  packet, and the bytes the module reads from host memory for it.
* A plan operation carries its stack and its cut-list word (`PlanOp`).
* A later stage of an operation carries the number of that operation in flight.
* An event from outside carries what the module observes of it.
-/

namespace Sys2Proof

/-- The host memory that one fetched command reads: the out-of-line parameter block and the data. -/
structure CmdIn where
  /-- the tag COMMAND_FETCH gave the packet -/
  tag : Nat
  /-- the out-of-line parameter block, read once (R477) -/
  param : Bytes
  /-- the data buffer as read, empty for a buffer the module only writes -/
  data : Bytes
deriving DecidableEq, Repr

/-- One cut-list operation word (R61). -/
structure PlanOp where
  /-- INDEX_OFFSET, bits [127:108] -/
  offset : Nat
  /-- UNIT_KIND, bits [107:104] -/
  kind : Nat
  /-- UNIT, bits [103:92] -/
  unit : Nat
  /-- OPCODE, bits [91:84] -/
  code : Nat
  /-- GUARD_SRC, bit [83] -/
  guard : Bool
  /-- FILL_DST, bit [82] -/
  fill : Bool
  /-- DRAIN_SRC, bit [81] -/
  drain : Bool
  /-- the operands, bits [79:0] -/
  opnd : BitVec 80
  /-- the word's place in its cut list, counted from 0 -/
  pos : Nat
deriving DecidableEq, Repr

/-- Which host memory access failed (R470). -/
inductive AccessFault where
  /-- the ring of submission (0), completion (1) or event (2) queue `q`, at an address -/
  | ring (kind q addr : Nat)
  /-- the write of a step-batch record of output queue `q` -/
  | record (q addr : Nat)
  /-- the parameters or data of a fetched command -/
  | command (tag : Nat)
deriving DecidableEq, Repr

/-- What CAL_SELF measured on one ADC (R139 to R141). -/
structure AdcResult where
  /-- global engine address -/
  engine : Nat
  /-- ADC number, 0 to 131 -/
  adc : Nat
  /-- OFFSET_TRIM, in 1/16 LSB -/
  offset : Int
  /-- GAIN_TRIM -/
  gain : Int
  /-- the ADC failed verification -/
  failed : Bool
deriving DecidableEq, Repr

/-- A partition of a loaded plan: plan ID, version and partition number. -/
structure PartRef where
  plan : Nat
  version : Nat
  part : Nat
deriving DecidableEq, Repr

/-- A CRC that failed in the index: a tile at a read, by region (R399), or a crossing of a hub link (R370). Tiles that a MEM_READ, a page move or the recompute
service reads fail with the commands of those. -/
inductive CrcFail where
  /-- core store or stack store: a word of the tile, numbered as in Machine/StOps -/
  | store (word : Nat)
  /-- KV page: context key, layer, page index -/
  | kv (ctx layer page : Nat)
  /-- token log of a context: tenant × 2^32 + context ID -/
  | log (ctx : Nat)
  /-- adapter store: ID × 256 + version -/
  | adapter (version : Nat)
  /-- plan area 5, chuck area 6, model area 7, side data 8, module-memory region 9; the partitions that read the tile, the
  stack or channel, and the address -/
  | area (region : Nat) (readers : List PartRef) (place addr : Nat)
  /-- a crossing of a hub link, by the link's number in Machine/StNet -/
  | hub (link : Nat)
deriving DecidableEq, Repr

/-- The commands, in the order of spec/opcode_table.json. -/
inductive Instr where
  -- power, resets, boot, link
  | powerApply
  | resetRelease (pufOk : Bool)
  | perstAssert
  | d3hotToD0 (pufOk : Bool)
  | warmResetBegin (pufOk : Bool)
  | functionLevelReset (fn : Nat)
  | maskRomReady
  | configRequest (fn : Nat)
  | load (value : BitVec 32)
  | bootFetchDone (image : Bytes) (accessOk : Bool)
  | bootVerifyDone
  | firmwareRunning (trainOk : Bool)
  | analogueTrip (cause : Nat)
  | tripLatchRelease
  | linkDown
  | linkReturn (rate width : Nat)
  | linkRateChange (rate width : Nat)
  | hostAccessFault (f : AccessFault)
  -- registers and doorbells
  | aqEnable
  | aqDisable
  | hostFlagsClear (value : BitVec 32) (raced : BitVec 6)
  | syncFlagsClear (value : BitVec 32) (raced : BitVec 6)
  | sqTail (fn page value : Nat)
  | cqHead (fn page value : Nat)
  | evqHead (fn page value : Nat)
  | outqHead (fn page value : Nat)
  | doorbellConsume
  | lowWordRead (fn offset : Nat)
  | registerWrite (fn bar offset size : Nat) (value : BitVec 32)
  -- host commands
  | commandFetch (sq : Nat) (raw : Bytes)
  | unknownOpcode (c : CmdIn)
  | cqCreate (c : CmdIn)
  | sqCreate (c : CmdIn)
  | evqCreate (c : CmdIn)
  | queueDelete (c : CmdIn)
  | identify (c : CmdIn)
  | moduleReset (c : CmdIn)
  | stackReset (c : CmdIn)
  | stackResetDone
  | pwrModeSet (c : CmdIn)
  | powerModeEffectTurn
  | spindleSourceSet (c : CmdIn)
  | spindleStatus (c : CmdIn)
  | planLoad (c : CmdIn)
  | planArm (c : CmdIn)
  | planStop (c : CmdIn)
  | planUnload (c : CmdIn)
  | planQuery (c : CmdIn)
  | syncQuery (c : CmdIn)
  | modelManifestLoad (c : CmdIn)
  | modelInstall (c : CmdIn)
  | modelChunkRead (chunk : Bytes)
  | chuckSwitch (c : CmdIn)
  | modelRelease (c : CmdIn)
  | bindKeyCreate (c : CmdIn)
  | bindKeySupply (c : CmdIn)
  | chuckRead (c : CmdIn)
  | modelStatus (c : CmdIn)
  | adapterLoad (c : CmdIn)
  | adapterRetire (c : CmdIn)
  | adapterQuery (c : CmdIn)
  | sessionOpen (c : CmdIn)
  | sessionFeed (c : CmdIn)
  | sessionClose (c : CmdIn)
  | sessionQuery (c : CmdIn)
  | outqCreate (c : CmdIn)
  | outqDelete (c : CmdIn)
  | ctxTenantQuota (c : CmdIn)
  | ctxColdArea (c : CmdIn)
  | ctxCreate (c : CmdIn)
  | ctxDelete (c : CmdIn)
  | ctxQuery (c : CmdIn)
  | ctxExport (c : CmdIn)
  | ctxImport (c : CmdIn)
  | ctxConsolidate (c : CmdIn)
  | ctxJobCancel (c : CmdIn)
  | calSelf (c : CmdIn)
  | calSelfDone (refFail : BitVec 16) (results : List AdcResult)
  | adcTrimRead (c : CmdIn)
  | monTableSet (c : CmdIn)
  | monConvertNow (c : CmdIn)
  | monRingRead (c : CmdIn)
  | trueStats (c : CmdIn)
  | calPolicySet (c : CmdIn)
  | calFactorsRead (c : CmdIn)
  | calFactorsWrite (c : CmdIn)
  | calWarmup (c : CmdIn)
  | calStatus (c : CmdIn)
  | integrityPolicySet (c : CmdIn)
  | honeRequest (c : CmdIn)
  | honeStatus (c : CmdIn)
  | integrityStats (c : CmdIn)
  | bbRelease (c : CmdIn)
  | dritarPortEnable (c : CmdIn)
  | fabricMapSet (c : CmdIn)
  | dritarPortStatus (c : CmdIn)
  | tenantKeySet (c : CmdIn)
  | tenantKeyClear (c : CmdIn)
  | vfBind (c : CmdIn)
  | planKeyRegister (c : CmdIn)
  | planKeyRemove (c : CmdIn)
  | svnCommit (c : CmdIn)
  | identityRead (c : CmdIn)
  | loadLogRead (c : CmdIn)
  | diagSnapshot (c : CmdIn)
  -- SPDM requests on a function's DOE mailbox
  | spdmGetVersion (fn : Nat) (req : Bytes)
  | spdmGetCapabilities (fn : Nat) (req : Bytes)
  | spdmNegotiateAlgorithms (fn : Nat) (req : Bytes)
  | spdmGetDigests (fn : Nat) (req : Bytes)
  | spdmGetCertificate (fn : Nat) (req : Bytes)
  | spdmChallenge (fn : Nat) (req : Bytes)
  | spdmGetMeasurements (fn : Nat) (req : Bytes)
  | spdmKeyExchange (fn : Nat) (req : Bytes)
  | spdmFinish (fn : Nat) (req : Bytes)
  | spdmHeartbeat (fn : Nat) (req : Bytes)
  | spdmKeyUpdate (fn : Nat) (req : Bytes)
  | spdmEndSession (fn : Nat) (req : Bytes)
  | spdmVendorDefinedRequest (fn : Nat) (req : Bytes)
  -- spindle and passes
  | indexBoundary (fails : List CrcFail)
  | spindleFrame (bits : BitVec 67) (bitError : Bool)
  | dritarMarker (port : Nat) (block : Bytes)
  | selfSpindleLock
  | spindleStop
  | spindleResume
  | planStart (p : PartRef)
  | passBoundary (p : PartRef)
  | stallLimit (p : PartRef)
  | waitingOperationResume (id : Nat)
  -- plan operations and their later stages
  | nop (st : Nat) (op : PlanOp)
  | refOn (st : Nat) (op : PlanOp)
  | refOff (st : Nat) (op : PlanOp)
  | deckSel (st : Nat) (op : PlanOp)
  | stroke (st : Nat) (op : PlanOp)
  | strokeRecordWrite (id : Nat)
  | rangeSplitReread (id : Nat)
  | reverseRead (st : Nat) (op : PlanOp)
  | reverseReadRecordWrite (id : Nat)
  | move (st : Nat) (op : PlanOp)
  | trueOp (st : Nat) (op : PlanOp)
  | trueOutputWrite (id : Nat)
  | recomputeResult (st req : Nat) (tileOk : Bool)
  | readReplayResolve (id group : Nat)
  | pairedSampleResult (st req : Nat)
  | coreReduce (st : Nat) (op : PlanOp)
  | coreReduceWrite (id : Nat)
  | stackReduce (st : Nat) (op : PlanOp)
  | stackReduceWrite (id : Nat)
  | fuse (st : Nat) (op : PlanOp)
  | fuseWrite (id : Nat)
  | grainSend (st : Nat) (op : PlanOp)
  | grainFrameArrival (frame : Nat) (crcOk : Bool)
  | dritarSend (st : Nat) (op : PlanOp)
  | memRead (st : Nat) (op : PlanOp)
  | memReadArrival (id : Nat) (tileOk : Bool)
  | memWrite (st : Nat) (op : PlanOp)
  | memWriteDone (id : Nat)
  | clusterMatmul (st : Nat) (op : PlanOp)
  | clusterMatmulWrite (id : Nat)
  | attend (st : Nat) (op : PlanOp)
  | attendWrite (id : Nat)
  | kvAppend (st : Nat) (op : PlanOp)
  | kvAppendWrite (id : Nat)
  | sample (st : Nat) (op : PlanOp)
  | sampleWrite (id : Nat)
  | finish (st : Nat) (op : PlanOp)
  | finishDecisionWrite (id : Nat)
  | barrierArrive (st : Nat) (op : PlanOp)
  | barrierWait (st : Nat) (op : PlanOp)
  | barrierReleaseReach (id : Nat)
  | feWait (st : Nat) (op : PlanOp)
  | feEmpty (st : Nat) (op : PlanOp)
  | gatherTask (st : Nat) (op : PlanOp)
  | gatherTaskWrite (id : Nat)
  | adapterUpdateTask (st : Nat) (op : PlanOp)
  -- probes, program loops, honing, monitors
  | probeReadStart (engine : Nat)
  | probeReadDone (engine : Nat)
  | programLoopStart (engine : Nat)
  | programLoopDone (engine : Nat) (unreached : List Nat)
  | honeTestsDone (st core failedTest : Nat)
  | monitorConversionEnd (mon code : Nat) (skipped : Bool)
  | monitorDelayEnd (mon : Nat)
  -- pages and replays
  | pageMoveDone (ctx layer page : Nat) (tileOk : Bool)
  | coldPageFetchDone (ctx layer page : Nat) (cipher : Bytes)
  | replayResult (replay : Nat) (tileOk : Bool)
  | replayWaitExpiry (replay : Nat)
  | fatalFault (code : Nat) (location : Nat)
  -- Dritar ports and frames
  | portTrainingStart
  | fecLock (port : Nat) (roundTrips : List Nat)
  | trainingTimeout (port : Nat)
  | fecLockLoss (port : Nat)
  | helloTimer (port : Nat)
  | helloTimeout (port : Nat)
  | dritarHello (port : Nat) (frame : Bytes)
  | attCert (port : Nat) (frame : Bytes)
  | attOffer (port : Nat) (frame : Bytes)
  | attSign (port : Nat) (frame : Bytes)
  | attAbort (port : Nat) (frame : Bytes)
  | attestTimeout (port : Nat)
  | attestRetry (port : Nat)
  | dritarNack (port : Nat) (frame : Bytes)
  | dritarPlanData (port : Nat) (frame : Bytes)
  | dritarBarrierArrival (port : Nat) (frame : Bytes)
  | dritarManagement (port : Nat) (frame : Bytes)
  | dritarBulk (port : Nat) (frame : Bytes)
deriving DecidableEq, Repr

end Sys2Proof
end

