-- ==== Sys2Proof/Decode.lean ====
section
/-!
DEFINITION. The commands that words spell. The rows of spec/opcode_table.json give no bits: a command
reaches the module as a packet, a register access, a frame or an event, never as a table word (log 1).
-/

namespace Sys2Proof

/-- No row of the table has bits, so no word spells a command (log 1). -/
def decodeTableWord (_nbits _w : Nat) : Option Instr := none

end Sys2Proof
end

