-- ==== Sys2Proof/Config.lean ====
section
/-!
DEFINITION. What one implementation of the module fixes, and the free values: constants without a
body, so that no proof can rest on what they are. Each is named in the assumption log.
-/

namespace Sys2Proof

/-- The part: every statement of the spec applies to the K9M-16S-C2X, code 3 of PART (R1, R459). -/
def Config.part : Nat := 3

/-- STEPPING of BAR0: per silicon (R459). Free (log 7). -/
opaque Config.stepping : BitVec 8

/-- The identity digest of R427: the SHA-256 digest of this module's identity public key. Free
(log 7). -/
opaque Config.identity : BitVec 256

/-- ROOT_HASH of the fuse map (R427). Free (log 7). -/
opaque Config.rootHash : BitVec 256

/-- PUF_HELPER, ID_NONCE, ID_WRAPPED and ID_TAG of the fuse map (R427). Free (log 7). -/
opaque Config.pufHelper : BitVec 4096
opaque Config.idNonce : BitVec 96
opaque Config.idWrapped : BitVec 7744
opaque Config.idTag : BitVec 128

/-- DEVICE_CERT of the fuse map, at most 2,000 bytes (R427). Free (log 7). -/
opaque Config.deviceCert : Bytes

/-- Yarpawell's root certificate and product intermediate, which a firmware body carries (R428). Where they lie in it, the spec
does not say: free (log 7). -/
opaque Config.rootCert : Bytes → Bytes
opaque Config.intermediateCert : Bytes → Bytes

/-- The entropy source's 384 bits for a seeding of the random generator (R431), one for each value of the state's counter.
Free (log 8). -/
opaque Config.entropy : Nat → BitVec 384

/-- Digest of the mask ROM's contents, measurement 1 of R435. Free (log 7). -/
opaque Config.romDigest : BitVec 256

/-- Whether the optical engine of a rack port was fitted as single-mode (R507). Free (log 7). -/
opaque Config.singleMode : Nat → Bool

/-- A value the spec leaves open, one for each value of the state's counter (log 8). -/
opaque Config.fresh : Nat → BitVec 512

/-- The raw value of a conversion that no figure of the read envelope covers: the first argument is the state's counter
at the read, the second numbers the read's conversions (log 8). -/
opaque Config.rawCode : Nat → Nat → BitVec 16

/-- Whether the envelope of R184 covers no conversion of a column in a read: a defect, drift beyond the envelope, or
conditions outside the rated ones. The arguments are the state's counter at the read and the column (log 59). -/
opaque Config.uncoveredRead : Nat → Nat → Bool

/-- The read noise of one conversion, as `Config.rawCode` numbers them; the model takes it modulo the bound of R184
(R5, log 59). -/
opaque Config.readNoise : Nat → Nat → BitVec 16

/-- The gain, in the low half, and the offset of a physical column's path from cells to code: engine × 4096 + column, or
+ 1024 + row for a reverse read (R99, log 59). -/
opaque Config.columnPath : Nat → BitVec 32

/-- The own drift of a deck: engine × 32 + deck (R99, R228, log 59). -/
opaque Config.deckPath : Nat → BitVec 16

/-- The offset, in the low 9 bits, and the gain error of a column ADC: engine × 132 + ADC (R133, log 59). -/
opaque Config.adcPath : Nat → BitVec 32

/-- A 32-bit value the spec leaves open: the state's counter, and which of an operation's open values
it is (log 8). -/
opaque Config.openWord : Nat → Nat → BitVec 32

/-- RSASSA-PSS of RSA-3072 with SHA-256 and a 32-byte salt: modulus, exponent, message, signature
(log 10). -/
opaque Config.pssVerify : Bytes → Bytes → Bytes → Bytes → Bool

/-- RSASSA-PSS signing: private key, message, 32 bytes of salt (log 10). -/
opaque Config.pssSign : Bytes → Bytes → Bytes → Bytes

/-- RSA-OAEP-3072 unwrapping: private key, wrapped block, label; none where it fails (log 10). -/
opaque Config.oaepUnwrap : Bytes → Bytes → Bytes → Option Bytes

/-- RSA-OAEP-3072 wrapping to the public key in a certificate chain: chain, secret, 32 random bytes (log 10). -/
opaque Config.oaepWrap : Bytes → Bytes → Bytes → Bytes

/-- Whether a DER chain verifies to a root certificate, and the identity digest of its device certificate (R439, log 10). -/
opaque Config.chainIdentity : Bytes → Bytes → Option (BitVec 256)

/-- Whether a signature over a message verifies under the device certificate of a DER chain (R439, log 10). -/
opaque Config.chainVerify : Bytes → Bytes → Bytes → Bool

/-- The PUF root of R426, the same at every reset of one module. Free (log 9). -/
opaque Config.pufRoot : BitVec 256

/-- Whether the reductions of a plan image, bytes 0 to `SIGNATURE_OFFSET` − 1, match the reduction section of a manifest:
the spec requires the comparison (R72) and gives no procedure for it (log 47). -/
opaque Config.reductionsMatch : Bytes → Bytes → Bool

/-- The input that a probe drives on a row, before it is taken modulo 15: the key word of R235, the probe, the row. R235 draws the
inputs of all rows from kmix and gives no layout for the draw (log 20). -/
opaque Config.probeInput : Nat → Nat → Nat → BitVec 4

/-- The module's part of an SPDM response that the SPDM specification defines and this spec does
not: request code and request bytes, with a free value for nonces (log 24). -/
opaque Config.spdmBody : Nat → Bytes → BitVec 512 → Bytes

/-- Whether a secured message of an SPDM session is authentic under the session's keys: keys, message (log 24). -/
opaque Config.spdmSecured : BitVec 512 → Bytes → Bool

end Sys2Proof
end

