-- ==== Sys2Proof/Machine/Bits.lean ====
section
/-!
DEFINITION. Bytes, little-endian fields (R15), tables in canonical form, and the cyclic redundancy
codes the spec gives by polynomial (R43, R387, R399).
-/

namespace Sys2Proof.Machine

/-! ### Little-endian fields -/

/-- The number a byte string holds, little-endian (R15). -/
def leNat : Bytes → Nat
  | [] => 0
  | b :: bs => b.toNat + 256 * leNat bs

/-- `n` as `len` little-endian bytes, its low part where it does not fit. -/
def le : Nat → Nat → Bytes
  | 0, _ => []
  | len + 1, n => BitVec.ofNat 8 n :: le len (n / 256)

/-- A signed number as `len` little-endian two's-complement bytes. -/
def leInt (len : Nat) (z : Int) : Bytes := le len (z % (256 ^ len : Nat)).toNat

/-- The field of `len` bytes at byte `off`; bytes beyond the string read 0. -/
def fld (b : Bytes) (off len : Nat) : Nat := leNat ((b.drop off).take len)

/-- A number of `w` bits read as two's complement. -/
def signed (w n : Nat) : Int := if n < 2 ^ (w - 1) then (n : Int) else (n : Int) - (2 ^ w : Nat)

/-- The signed field of `len` bytes at byte `off`. -/
def sfld (b : Bytes) (off len : Nat) : Int := signed (8 * len) (fld b off len)

/-- Bits `[hi:lo]` of a number. -/
def bits (n hi lo : Nat) : Nat := n / 2 ^ lo % 2 ^ (hi + 1 - lo)

/-- Bit `k` of a number. -/
def bit (n k : Nat) : Bool := n.testBit k

/-- One byte of a string; 0 beyond its end. -/
def byteAt (b : Bytes) (k : Nat) : Byte := b.getD k 0#8

/-- `len` zero bytes. -/
def zeros (len : Nat) : Bytes := List.replicate len 0#8

/-- The string cut or padded with zeros to `len` bytes. -/
def padTo (len : Nat) (b : Bytes) : Bytes := b.take len ++ zeros (len - b.length)

/-- Whether the bytes from `off` to `off + len - 1` are all zero, as reserved fields must be (R16). -/
def zeroAt (b : Bytes) (off len : Nat) : Bool := ((b.drop off).take len).all (· == 0#8)

/-- The bytes `off` to `off + len - 1` of a string, padded with zeros beyond its end. -/
def slice (b : Bytes) (off len : Nat) : Bytes := padTo len ((b.drop off).take len)

/-- Zero or one as a number. -/
def b2n (b : Bool) : Nat := if b then 1 else 0

/-- A count as a saturating field of `w` bits. -/
def satBits (w n : Nat) : Nat := min n (2 ^ w - 1)

/-- Division rounded up. -/
def ceilDiv (a b : Nat) : Nat := (a + b - 1) / b

/-- The numbers `lo` to `lo + n - 1`. -/
def span (lo n : Nat) : List Nat := (List.range n).map (· + lo)

/-- The ASCII bytes of a label (R431). -/
def ascii (t : String) : Bytes := t.toList.map fun c => BitVec.ofNat 8 c.toNat

/-! ### Tables in canonical form -/

section
variable {α : Type} [DecidableEq α]

/-- What the table holds at `k`; `d` where it lists nothing. -/
def tget (d : α) : Tab α → Nat → α
  | [], _ => d
  | (j, v) :: t, k => if j = k then v else tget d t k

/-- The table without an entry at `k`. -/
def tdel (t : Tab α) (k : Nat) : Tab α := t.filter fun (j, _) => j != k

/-- The table with `v` at `k`, whatever it held there. -/
def tput : Tab α → Nat → α → Tab α
  | [], k, v => [(k, v)]
  | (j, w) :: t, k, v =>
    if j = k then (k, v) :: t else if k < j then (k, v) :: (j, w) :: t else (j, w) :: tput t k v

/-- The table with `v` at `k`: an entry equal to the default is removed, so that the form stays
canonical. -/
def tset (d : α) (t : Tab α) (k : Nat) (v : α) : Tab α := if v = d then tdel t k else tput t k v

/-- The canonical form: numbers strictly rising and no entry equal to the default. -/
def twf (d : α) : Tab α → Bool
  | [] => true
  | [(_, v)] => decide (v ≠ d)
  | (j, v) :: (k, w) :: t => decide (v ≠ d) && decide (j < k) && twf d ((k, w) :: t)

/-- The table with `f` applied at `k`. -/
def tmod (d : α) (t : Tab α) (k : Nat) (f : α → α) : Tab α := tset d t k (f (tget d t k))

end

/-- The values of a table of optional entries, in ascending order of their numbers. -/
def tvals {α : Type} (t : Tab (Option α)) : List (Nat × α) :=
  t.filterMap fun (k, o) => o.map fun v => (k, v)

/-- The numbers at which a table of optional entries holds something. -/
def tkeys {α : Type} (t : Tab (Option α)) : List Nat := (tvals t).map (·.1)

/-! ### Byte memory -/

/-- Read `len` bytes from address `a`. An unlisted address reads 0. -/
def mread (m : Tab Byte) (a : Nat) : Nat → Bytes
  | 0 => []
  | len + 1 => tget 0#8 m a :: mread m (a + 1) len

/-- Write a byte string from address `a` on. -/
def mwrite (m : Tab Byte) (a : Nat) : Bytes → Tab Byte
  | [] => m
  | b :: bs => mwrite (tset 0#8 m a b) (a + 1) bs

/-- A memory without its bytes at addresses `lo` to `lo + len - 1`: they read 0. -/
def mclear (m : Tab Byte) (lo len : Nat) : Tab Byte :=
  m.filter fun (a, _) => !(decide (lo ≤ a) && decide (a < lo + len))

/-! ### Cyclic redundancy codes -/

/-- One step of a code that takes the most significant bit first. -/
def crcStep (w poly : Nat) (c : Nat) (b : Bool) : Nat :=
  let top := c.testBit (w - 1) != b
  let c' := c * 2 % 2 ^ w
  if top then c' ^^^ poly else c'

/-- The bits of a byte, most significant first. -/
def byteBits (b : Byte) : List Bool := (List.range 8).map fun k => b.getLsbD (7 - k)

/-- CRC-8 with polynomial 0x07 and initial value 0 over bits, first bit sent first (R43). -/
def crc8 (bs : List Bool) : Nat := bs.foldl (crcStep 8 0x07) 0

/-- CRC-16 with polynomial 0x1021 and initial value 0xFFFF over bytes (R387). -/
def crc16 (bs : Bytes) : Nat := (bs.flatMap byteBits).foldl (crcStep 16 0x1021) 0xFFFF

/-- One bit of the reflected CRC-32C. -/
def crc32cBit (c : Nat) : Nat := if c.testBit 0 then (c / 2) ^^^ 0x82F63B78 else c / 2

/-- CRC-32C under the Castagnoli polynomial (R399), in its usual reflected form with initial and
final inversion (PRESUMED, log 12). -/
def crc32c (bs : Bytes) : Nat :=
  (bs.foldl (fun c b => (List.range 8).foldl (fun x _ => crc32cBit x) (c ^^^ b.toNat))
    0xFFFFFFFF) ^^^ 0xFFFFFFFF

end Sys2Proof.Machine
end

