-- ==== Sys2Proof/Machine/Aes.lean ====
section
/-!
DEFINITION. AES-256-GCM, which the spec names for every sealed blob, frame, record and page (R249, R297, R334, R372,
R441), and AES-256-XTS for module memory (R433). Their definitions are the standards' own (PRESUMED, log 10): FIPS 197 for the
block cipher, SP 800-38D for GCM, with 96-bit nonces and 128-bit tags, IEEE 1619 for XTS.
-/

namespace Sys2Proof.Machine

/-! ### The block cipher: bytes as numbers, a block as 16 of them -/

/-- The rows of the substitution table, its byte 0 the most significant of each. -/
def sboxRows : List Nat :=
  [0x637C777BF26B6FC53001672BFED7AB76, 0xCA82C97DFA5947F0ADD4A2AF9CA472C0, 0xB7FD9326363FF7CC34A5E5F171D83115,
   0x04C723C31896059A071280E2EB27B275, 0x09832C1A1B6E5AA0523BD6B329E32F84, 0x53D100ED20FCB15B6ACBBE394A4C58CF,
   0xD0EFAAFB434D338545F9027F503C9FA8, 0x51A3408F929D38F5BCB6DA2110FFF3D2] ++
  [0xCD0C13EC5F974417C4A77E3D645D1973, 0x60814FDC222A908846EEB814DE5E0BDB, 0xE0323A0A4906245CC2D3AC629195E479,
   0xE7C8376D8DD54EA96C56F4EA657AAE08, 0xBA78252E1CA6B4C6E8DD741F4BBD8B8A, 0x703EB5664803F60E613557B986C11D9E,
   0xE1F8981169D98E949B1E87E9CE5528DF, 0x8CA1890DBFE6426841992D0FB054BB16]

/-- The substitution of one byte. -/
def subByte (x : Nat) : Nat := sboxRows.getD (x / 16) 0 >>> (8 * (15 - x % 16)) % 256

/-- Bytewise exclusive or. -/
def xorBytes (a b : List Nat) : List Nat := a.zipWith (· ^^^ ·) b

/-- Twice a byte in the field of the cipher. -/
def xtime (a : Nat) : Nat := if a < 128 then 2 * a else (2 * a) ^^^ 0x11B

/-- The mix of one column. -/
def mixColumn (a b c d : Nat) : List Nat :=
  let t := a ^^^ b ^^^ c ^^^ d
  [a ^^^ t ^^^ xtime (a ^^^ b), b ^^^ t ^^^ xtime (b ^^^ c), c ^^^ t ^^^ xtime (c ^^^ d), d ^^^ t ^^^ xtime (d ^^^ a)]

/-- The mix of the four columns of a block. -/
def mixColumns : List Nat → List Nat
  | a :: b :: c :: d :: l => mixColumn a b c d ++ mixColumns l
  | _ => []

/-- Substitution, and the rotation of row r by r places: byte r of column c comes from column c + r. -/
def subShift (s : List Nat) : List Nat := (List.range 16).map fun i => subByte (s.getD ((i + 4 * (i % 4)) % 16) 0)

/-- The next eight words of the key schedule, 32 bytes, under a round constant. -/
def nextKeys (k : List Nat) (rcon : Nat) : List Nat :=
  let word := fun (i : Nat) => (k.drop (4 * i)).take 4
  let last := word 7
  let t := ((last.drop 1) ++ last.take 1).map subByte
  let w0 := xorBytes (word 0) (xorBytes t [rcon, 0, 0, 0])
  let w1 := xorBytes (word 1) w0
  let w2 := xorBytes (word 2) w1
  let w3 := xorBytes (word 3) w2
  let w4 := xorBytes (word 4) (w3.map subByte)
  let w5 := xorBytes (word 5) w4
  let w6 := xorBytes (word 6) w5
  w0 ++ w1 ++ w2 ++ w3 ++ w4 ++ w5 ++ w6 ++ xorBytes (word 7) w6

/-- The 15 round keys of a 256-bit key. -/
def roundKeys (key : List Nat) : List (List Nat) :=
  let ks := ([1, 2, 4, 8, 16, 32, 64].foldl (fun (acc : List Nat × List Nat) rcon =>
    let k := nextKeys acc.2 rcon
    (acc.1 ++ k, k)) (key, key)).1
  (List.range 15).map fun r => (ks.drop (16 * r)).take 16

/-- AES-256 of one block under its round keys. -/
def aesBlock (ks : List (List Nat)) (b : List Nat) : List Nat :=
  let s := ((ks.drop 1).take 13).foldl (fun s k => xorBytes (mixColumns (subShift s)) k) (xorBytes b (ks.getD 0 []))
  xorBytes (subShift s) (ks.getD 14 [])

/-! ### The mode: a block as one number, its first byte the most significant -/

/-- Bytes, most significant first, as a number. -/
def beNat (b : List Nat) : Nat := b.foldl (fun n x => 256 * n + x) 0

/-- A number as 16 bytes, most significant first. -/
def be16 (n : Nat) : List Nat := (List.range 16).map fun i => n >>> (8 * (15 - i)) % 256

/-- The product of the mode's field: bit 127 of a number is the coefficient of 1. -/
def gfMul (x y : Nat) : Nat :=
  ((List.range 128).foldl (fun (acc : Nat × Nat) i =>
    (if y.testBit (127 - i) then acc.1 ^^^ acc.2 else acc.1,
     if acc.2 % 2 = 1 then (acc.2 / 2) ^^^ (0xE1 * 2 ^ 120) else acc.2 / 2)) (0, x)).1

/-- Bytes in blocks of 16, the last padded with zeros, as numbers. -/
def gcmBlocks (b : Bytes) : List Nat :=
  (List.range ((b.length + 15) / 16)).map fun i => beNat ((slice b (16 * i) 16).map (·.toNat))

/-- GHASH of additional data and ciphertext under the hash key. -/
def ghash (h : Nat) (aad cipher : Bytes) : Nat :=
  (gcmBlocks aad ++ gcmBlocks cipher ++ [8 * aad.length * 2 ^ 64 + 8 * cipher.length]).foldl (fun y x => gfMul (y ^^^ x) h) 0

/-- The block that a 96-bit nonce and a 32-bit counter encrypt to. -/
def gcmPad (ks : List (List Nat)) (nonce : Bytes) (n : Nat) : List Nat :=
  aesBlock ks (nonce.map (·.toNat) ++ [n / 2 ^ 24 % 256, n / 2 ^ 16 % 256, n / 256 % 256, n % 256])

/-- Encryption and decryption of a string in counter mode, from counter 2 on. -/
def gcmStream (ks : List (List Nat)) (nonce b : Bytes) : Bytes :=
  let pad := (List.range ((b.length + 15) / 16)).flatMap fun i => gcmPad ks nonce (i + 2)
  b.zipWith (fun x p => x ^^^ BitVec.ofNat 8 p) pad

/-- The tag of a ciphertext. -/
def gcmTag (ks : List (List Nat)) (nonce aad cipher : Bytes) : Bytes :=
  let h := beNat (aesBlock ks (List.replicate 16 0))
  (xorBytes (be16 (ghash h aad cipher)) (gcmPad ks nonce 1)).map (BitVec.ofNat 8)

/-- AES-256-GCM, sealing: key, nonce, additional data, plaintext; ciphertext and tag. -/
def gcmSeal (key nonce aad plain : Bytes) : Bytes × Bytes :=
  let ks := roundKeys (key.map (·.toNat))
  let c := gcmStream ks nonce plain
  (c, gcmTag ks nonce aad c)

/-- AES-256-GCM, opening: key, nonce, additional data, ciphertext, tag; none when the tag fails. -/
def gcmOpen (key nonce aad cipher tag : Bytes) : Option Bytes :=
  let ks := roundKeys (key.map (·.toNat))
  if tag = gcmTag ks nonce aad cipher then some (gcmStream ks nonce cipher) else none

/-! ### XTS: a tweak as one number, its first byte the least significant -/

/-- A number as 16 bytes, least significant first. -/
def le16 (n : Nat) : List Nat := (List.range 16).map fun i => n >>> (8 * i) % 256

/-- The tweak of the next block. -/
def xtsNext (t : Nat) : Nat := if t.testBit 127 then (2 * t) % 2 ^ 128 ^^^ 0x87 else 2 * t

/-- One block under a tweak. -/
def xtsBlock (ks : List (List Nat)) (t : Nat) (b : List Nat) : List Nat :=
  xorBytes (aesBlock ks (xorBytes b (le16 t))) (le16 t)

/-- The ciphertext of `n` whole blocks from a tweak on, block by block, and the tweak behind them. -/
def xtsBlocks (ks : List (List Nat)) : Nat → Nat → List Nat → List (List Nat) × Nat
  | 0, t, _ => ([], t)
  | n + 1, t, b =>
    let r := xtsBlocks ks n (xtsNext t) (b.drop 16)
    (xtsBlock ks t (b.take 16) :: r.1, r.2)

/-- AES-256-XTS encryption of a data unit of at least one block: a last part of a block steals from the block before it. -/
def xtsSeal (key : Bytes) (unit : Nat) (plain : Bytes) : Bytes :=
  let k := key.map (·.toNat)
  let b := plain.map (·.toNat)
  let ks := roundKeys (k.take 32)
  let t := (aesBlock (roundKeys (k.drop 32)) (le16 unit)).reverse
  let n := b.length / 16
  let r := xtsBlocks ks n (beNat t) b
  let out :=
    if b.length % 16 = 0 then r.1.flatten
    else
      let last := r.1.getLast?.getD []
      r.1.dropLast.flatten ++ xtsBlock ks r.2 (b.drop (16 * n) ++ last.drop (b.length % 16)) ++ last.take (b.length % 16)
  out.map (BitVec.ofNat 8)

end Sys2Proof.Machine
end

