-- ==== Sys2Proof/Machine/Crypto.lean ====
section
/-!
DEFINITION. The hash constructions the spec names (R431, R447): SHA-256, HMAC with SHA-256 and KDF,
which is HKDF of RFC 5869. The manual names these standards; their definitions are the standards'
own (PRESUMED, log 10). AES-256-GCM stands in Aes; RSA and certificates are uninterpreted functions of Config.
-/

namespace Sys2Proof.Machine

/-- The round constants of SHA-256. -/
def shaK : List (BitVec 32) :=
  [0x428A2F98#32, 0x71374491#32, 0xB5C0FBCF#32, 0xE9B5DBA5#32, 0x3956C25B#32, 0x59F111F1#32, 0x923F82A4#32, 0xAB1C5ED5#32] ++
  [0xD807AA98#32, 0x12835B01#32, 0x243185BE#32, 0x550C7DC3#32, 0x72BE5D74#32, 0x80DEB1FE#32, 0x9BDC06A7#32, 0xC19BF174#32] ++
  [0xE49B69C1#32, 0xEFBE4786#32, 0x0FC19DC6#32, 0x240CA1CC#32, 0x2DE92C6F#32, 0x4A7484AA#32, 0x5CB0A9DC#32, 0x76F988DA#32] ++
  [0x983E5152#32, 0xA831C66D#32, 0xB00327C8#32, 0xBF597FC7#32, 0xC6E00BF3#32, 0xD5A79147#32, 0x06CA6351#32, 0x14292967#32] ++
  [0x27B70A85#32, 0x2E1B2138#32, 0x4D2C6DFC#32, 0x53380D13#32, 0x650A7354#32, 0x766A0ABB#32, 0x81C2C92E#32, 0x92722C85#32] ++
  [0xA2BFE8A1#32, 0xA81A664B#32, 0xC24B8B70#32, 0xC76C51A3#32, 0xD192E819#32, 0xD6990624#32, 0xF40E3585#32, 0x106AA070#32] ++
  [0x19A4C116#32, 0x1E376C08#32, 0x2748774C#32, 0x34B0BCB5#32, 0x391C0CB3#32, 0x4ED8AA4A#32, 0x5B9CCA4F#32, 0x682E6FF3#32] ++
  [0x748F82EE#32, 0x78A5636F#32, 0x84C87814#32, 0x8CC70208#32, 0x90BEFFFA#32, 0xA4506CEB#32, 0xBEF9A3F7#32, 0xC67178F2#32]

/-- The initial hash of SHA-256. -/
def shaInit : List (BitVec 32) :=
  [0x6A09E667#32, 0xBB67AE85#32, 0x3C6EF372#32, 0xA54FF53A#32, 0x510E527F#32, 0x9B05688C#32, 0x1F83D9AB#32, 0x5BE0CD19#32]

/-- Word `i` of a list of 32-bit words. -/
def w32 (l : List (BitVec 32)) (i : Nat) : BitVec 32 := l.getD i 0#32

/-- A 32-bit word from four bytes, most significant first. -/
def be32 (b : Bytes) (off : Nat) : BitVec 32 :=
  byteAt b off ++ byteAt b (off + 1) ++ byteAt b (off + 2) ++ byteAt b (off + 3)

/-- The message schedule: the last 16 words, newest first, extended `n` times. -/
def shaSchedule : Nat → List (BitVec 32) → List (BitVec 32)
  | 0, ws => ws
  | n + 1, ws =>
    let a := w32 ws 14
    let b := w32 ws 1
    let s0 := a.rotateRight 7 ^^^ a.rotateRight 18 ^^^ (a >>> 3)
    let s1 := b.rotateRight 17 ^^^ b.rotateRight 19 ^^^ (b >>> 10)
    shaSchedule n ((w32 ws 15 + s0 + w32 ws 6 + s1) :: ws)

/-- One round of the compression function on the eight working words. -/
def shaRound (h : List (BitVec 32)) (kw : BitVec 32) : List (BitVec 32) :=
  let a := w32 h 0
  let e := w32 h 4
  let s1 := e.rotateRight 6 ^^^ e.rotateRight 11 ^^^ e.rotateRight 25
  let ch := (e &&& w32 h 5) ^^^ (~~~e &&& w32 h 6)
  let t1 := w32 h 7 + s1 + ch + kw
  let s0 := a.rotateRight 2 ^^^ a.rotateRight 13 ^^^ a.rotateRight 22
  let mj := (a &&& w32 h 1) ^^^ (a &&& w32 h 2) ^^^ (w32 h 1 &&& w32 h 2)
  [t1 + (s0 + mj), a, w32 h 1, w32 h 2, w32 h 3 + t1, e, w32 h 5, w32 h 6]

/-- The compression of one 64-byte block. -/
def shaBlock (h : List (BitVec 32)) (b : Bytes) : List (BitVec 32) :=
  let ws := (shaSchedule 48 ((List.range 16).map fun i => be32 b (4 * i)).reverse).reverse
  let r := (shaK.zipWith (· + ·) ws).foldl shaRound h
  h.zipWith (· + ·) r

/-- The compression of `n` blocks in order. -/
def shaBlocks : Nat → List (BitVec 32) → Bytes → List (BitVec 32)
  | 0, h, _ => h
  | n + 1, h, b => shaBlocks n (shaBlock h (b.take 64)) (b.drop 64)

/-- SHA-256 of a byte string, 32 bytes. -/
def sha256 (msg : Bytes) : Bytes :=
  let len := msg.length
  let p := msg ++ [0x80#8] ++ zeros ((119 - len % 64) % 64) ++ (le 8 (8 * len)).reverse
  (shaBlocks (p.length / 64) shaInit p).flatMap fun w => (le 4 w.toNat).reverse

/-- HMAC with SHA-256. -/
def hmac (key msg : Bytes) : Bytes :=
  let k := padTo 64 (if 64 < key.length then sha256 key else key)
  let inner := sha256 (k.map (· ^^^ 0x36#8) ++ msg)
  sha256 (k.map (· ^^^ 0x5C#8) ++ inner)

/-- KDF(salt, ikm, info): the first 32 bytes of HKDF (R431). -/
def kdf (salt ikm info : Bytes) : Bytes := hmac (hmac salt ikm) (info ++ [1#8])

/-- The salt written "0": 32 zero bytes (R431). -/
def salt0 : Bytes := zeros 32

/-! ### Random values (R431): CTR_DRBG with AES-256, seeded with full entropy (PRESUMED, log 10) -/

/-- The state of the generator: key, V as a number, requests since it was seeded. -/
structure Drbg where
  key : Bytes
  v : Nat
  count : Nat
deriving DecidableEq, Repr

/-- The next `n` blocks of a generator. -/
def Drbg.blocks (d : Drbg) (n : Nat) : Bytes :=
  let ks := roundKeys (d.key.map (·.toNat))
  (List.range n).flatMap fun i => (aesBlock ks (be16 ((d.v + i + 1) % 2 ^ 128))).map (BitVec.ofNat 8)

/-- The update with 48 bytes of provided data. -/
def Drbg.update (d : Drbg) (data : Bytes) : Drbg :=
  let t := (d.blocks 3).zipWith (· ^^^ ·) data
  { d with key := t.take 32, v := beNat ((t.drop 32).map (·.toNat)) }

/-- Reseeding with entropy. -/
def Drbg.reseed (d : Drbg) (e : BitVec 384) : Drbg := { d.update (le 48 e.toNat) with count := 0 }

/-- A generator that has just been seeded. -/
def Drbg.seeded (e : BitVec 384) : Drbg := Drbg.reseed ⟨zeros 32, 0, 0⟩ e

/-- One request of `n` bytes. -/
def Drbg.generate (d : Drbg) (n : Nat) : Bytes × Drbg :=
  let b := ceilDiv n 16
  ((d.blocks b).take n, { Drbg.update { d with v := (d.v + b) % 2 ^ 128 } (zeros 48) with count := d.count + 1 })

/-- A 256-bit value as bytes. -/
def b256 (v : BitVec 256) : Bytes := le 32 v.toNat

/-- The identity digest as bytes (R427). -/
def identityBytes : Bytes := b256 Config.identity

/-- The identity wrapping key (R432). -/
def idWrapKey : Bytes := kdf salt0 (b256 Config.pufRoot) (ascii "K9ID")

/-- The identity private key: `ID_WRAPPED` of the fuses, opened (R427, R432). The spec names no additional data (PRESUMED none,
log 10). -/
def identityKey : Bytes :=
  (gcmOpen idWrapKey (le 12 Config.idNonce.toNat) [] (le 968 Config.idWrapped.toNat) (le 16 Config.idTag.toNat)).getD []

/-- The key-wrapping key of binding blobs (R432). -/
def wrapKey : Bytes := kdf salt0 (b256 Config.pufRoot) (ascii "K9BIND")

/-- The factor key of factor blobs (R432). -/
def factorKey : Bytes := kdf salt0 (b256 Config.pufRoot) (ascii "K9FACTOR")

end Sys2Proof.Machine
end

