-- ==== Sys2Proof/Machine/StHost.lean ====
section
/-!
DEFINITION. State of the module's edge: power and pins, boot and link, the BAR0 registers, queues and
fetched commands, events and the black box, security, and what the module has put out.
-/

namespace Sys2Proof.Machine

/-- The running firmware: `FW_VERSION`, `SVN`, SHA-256 of header bytes 0–447, and the certificates that its body carries (R428,
R429, R435). -/
structure Firmware where
  version : Nat
  svn : Nat
  digest : Bytes
  /-- bytes of the image's body (R430 needs none of them) -/
  length : Nat
  root : Bytes
  intermediate : Bytes
deriving DecidableEq, Repr

/-- Power input, sideband pins, boot mailbox, PCI Express link. -/
structure Phys where
  /-- 48 V lies above the trip comparators' 10 V (R512) -/
  powered : Bool
  /-- PWR_GOOD (R510, R512) -/
  pwrGood : Bool
  /-- PERST# is asserted (R510) -/
  perst : Bool
  /-- the latch of TRIP# (R512) -/
  trip : Bool
  /-- TRIP_CAUSE (R511) -/
  tripCause : Nat
  /-- the next reset release is that of a cold reset (R495) -/
  coldNext : Bool
  /-- STATE (R459) -/
  state : Nat
  /-- FATAL_CODE (R459) -/
  fatal : Nat
  /-- PUF reconstruction failed at this reset (R426) -/
  pufFailed : Bool
  /-- BOOT_ADDR (R459) -/
  bootAddr : Nat
  /-- BOOT_LENGTH (R459) -/
  bootLength : Nat
  /-- BOOT_STATE (R459) -/
  bootState : Nat
  /-- BOOT_ERROR (R461) -/
  bootError : Nat
  /-- BOOT_ATTEMPTS (R459) -/
  bootAttempts : Nat
  /-- the image the ROM has fetched (R497) -/
  image : Option Bytes
  /-- the running firmware -/
  fw : Option Firmware
  /-- attempts at memory training made, of three (R498) -/
  trainings : Nat
  /-- training failed for good: STATE stays 2 (R498) -/
  trainFailed : Bool
  /-- SVN_FUSES, the thermometer code (R427) -/
  svnFuses : BitVec 32
  /-- the data link layer is up (R456) -/
  link : Bool
  /-- link rate in GT/s ÷ 2 (R473) -/
  rate : Nat
  /-- link width (R473) -/
  width : Nat
  /-- MODULE_RESET has completed and its warm reset has not begun (R503) -/
  resetDue : Bool
deriving DecidableEq, Repr

/-- The registers of BAR0 that the host writes, the two flag registers and their set counters, and
the high-word latches (R458, R459). -/
structure Bar where
  asqBase : Nat
  acqBase : Nat
  asqExp : Nat
  acqExp : Nat
  /-- AQ_ENABLE -/
  enable : Bool
  /-- AQ_ACTIVE, which AQ_READY shows too -/
  active : Bool
  /-- AQ_ERROR -/
  error : Bool
  /-- AQ_CAUSE -/
  cause : Nat
  hostFlags : BitVec 6
  /-- set counters of HOST_FLAGS by bit, default 0 (R359) -/
  hostSets : Tab Nat
  syncFlags : BitVec 6
  /-- set counters of SYNC_FLAGS by bit, default 0 -/
  syncSets : Tab Nat
  /-- latched high words: function × 65536 + offset of the register (R458) -/
  latches : Tab Nat
deriving DecidableEq, Repr

/-- A submission queue (R466, R467). -/
structure Sq where
  base : Nat
  exp : Nat
  owner : Nat
  cq : Nat
  head : Nat
  tail : Nat
  faulted : Bool
deriving DecidableEq, Repr

/-- A completion queue; `phase` is the phase of the next entry written. -/
structure Cq where
  base : Nat
  exp : Nat
  owner : Nat
  head : Nat
  tail : Nat
  phase : Bool
  faulted : Bool
deriving DecidableEq, Repr

/-- An event queue (R489). -/
structure Evq where
  base : Nat
  exp : Nat
  mask : Nat
  head : Nat
  tail : Nat
  phase : Bool
  faulted : Bool
deriving DecidableEq, Repr

/-- An output queue (R332 to R335). -/
structure Outq where
  /-- the function that issued OUTQ_CREATE -/
  owner : Nat
  tenant : Nat
  base : Nat
  size : Nat
  head : Nat
  tail : Nat
  phase : Bool
  /-- record boundaries the host may move the head to, from head to tail (R464) -/
  marks : List Nat
  encrypt : Bool
  /-- the output key of R445 -/
  key : Bytes
  /-- the nonce counter of R334 -/
  nonce : Nat
deriving DecidableEq, Repr

/-- A step-batch record whose queue was deleted by a function-level reset: it goes to the tenant's queue of that number
when one exists again (R506). -/
structure Orphan where
  /-- tenant × 64 + queue -/
  key : Nat
  count : Nat
  part : Nat
  epoch : Nat
  entries : List Bytes
deriving DecidableEq, Repr

/-- A fetched command that has not completed (R468). -/
structure Fetched where
  sq : Nat
  cq : Nat
  fn : Nat
  raw : Bytes
  /-- SQ_HEAD of its completion -/
  head : Nat
  /-- the command has begun (R469) -/
  begun : Bool
  /-- its queue was deleted by a function-level reset: its completion is discarded (R505) -/
  lost : Bool
deriving DecidableEq, Repr

/-- Bytes the module wrote to host memory, by the function whose requester ID it used. -/
structure HostWrite where
  fn : Nat
  addr : Nat
  bytes : Bytes
deriving DecidableEq, Repr

/-- Queues and commands. -/
structure Queues where
  sqs : Tab (Option Sq)
  cqs : Tab (Option Cq)
  evqs : Tab (Option Evq)
  outqs : Tab (Option Outq)
  /-- doorbell values not yet consumed: kind × 64 + queue, kinds in the order of R463 (R358) -/
  bells : Tab (Option Nat)
  fetched : Tab (Option Fetched)
  /-- the tag the next fetched command gets -/
  nextTag : Nat
  /-- the last queue above 0 that fetching visited (R469) -/
  lastSq : Nat
  /-- the next visit of fetching is to queue 0 -/
  zeroNext : Bool
  /-- completions that wait for the link: completion queue and entry without phase (R456) -/
  waitCpl : List (Nat × Bytes)
  /-- event records that wait for the link: event queue and its one or two records (R456) -/
  waitEv : List (Nat × List Bytes)
  /-- other writes to host memory that wait for the link (R456) -/
  waitOut : List HostWrite
  /-- QUEUE_DELETE of a submission queue in progress: tag and queue (R471) -/
  deleting : List (Nat × Nat × Nat)
  /-- records that wait for their queue to exist again, oldest first -/
  orphans : List Orphan
  /-- STACK_RESET in progress: tag and mask (R504) -/
  stackResets : List (Nat × Nat)
deriving DecidableEq, Repr

/-- Events and the black box (R416 to R419, R488). -/
structure Ev where
  frozen : Bool
  /-- BB_CAUSE -/
  cause : Nat
  /-- the ring of 65,536 records by ring index; empty where none was written -/
  box : Tab Bytes
  /-- BB_WRITTEN -/
  written : Nat
  /-- BB_DROPPED -/
  dropped : Nat
  /-- BB_FREEZE_COUNT -/
  freezeCount : Nat
  /-- sequence number of each source's last record: class × 1024 + instance -/
  seqs : Tab (Option Nat)
  /-- marks of events posted at most once in the turn: event code and what it is about -/
  turnMarks : List (Nat × Nat)
  /-- sequence of the latest DIAG_SNAPSHOT, 0 for none (R465) -/
  snapSeq : Nat
  snapCount : Nat
  snapSources : Tab (Option Nat)
  snapQueues : Bytes
deriving DecidableEq, Repr

/-- What crosses the module's edge, in order. -/
structure Out where
  host : List HostWrite
  /-- frames sent: port and frame bytes -/
  frames : List (Nat × Bytes)
  /-- marker and index-mark blocks sent: port and block -/
  markers : List (Nat × Bytes)
  /-- SPINDLE_OUT: index of the own clock and whether it carries a 1 (R43) -/
  spindle : List (Nat × Bool)
  /-- words returned to register reads: function, offset, word -/
  reads : List (Nat × Nat × Nat)
  /-- configuration requests: function, and whether it was answered rather than retried (R496) -/
  config : List (Nat × Bool)
  /-- SPDM responses: function and response -/
  spdm : List (Nat × Bytes)
deriving DecidableEq, Repr

/-- A protected tenant (R443 to R448). -/
structure Tenant where
  ts : Bytes
  rs : Bytes
  mn : Bytes
  /-- highest accepted sequence H -/
  high : Nat
  /-- accepted sequences from H − 1,023 to H -/
  seen : List Nat
deriving DecidableEq, Repr

/-- The SPDM connection of one function's mailbox (R434). -/
structure Spdm where
  /-- 0 none, 1 version, 2 capabilities, 3 algorithms negotiated -/
  stage : Nat
  version : Nat
  /-- secured sessions: session ID, whether FINISH has passed, and the session's keys (R432) -/
  sessions : List (Nat × Bool × BitVec 512)
deriving DecidableEq, Repr

/-- An IDE stream: its keys with their initial values, by key set, direction and sub-stream, and those of them in use (R432,
R437). -/
structure Ide where
  keys : List (Nat × Bytes)
  go : List Nat
deriving DecidableEq, Repr

/-- Keys, bindings and logs (R427 to R450). -/
structure Trust where
  tenants : Tab (Option Tenant)
  /-- tenant bound to each virtual function, 0 for unbound (R442) -/
  binds : Tab Nat
  /-- operator plan keys by slot: modulus and exponent (R450) -/
  planKeys : Tab (Option Bytes)
  /-- load log entries of 64 bytes, oldest first (R436) -/
  log : List Bytes
  /-- running digest -/
  digest : Bytes
  /-- the module-memory key (R432, R433) -/
  memKey : Bytes
  /-- the random generator of R431 -/
  drbg : Drbg
  spdm : Tab (Option Spdm)
  /-- keyed IDE streams: 0 the Link stream, 1 to 4 the Selective streams (R437) -/
  ide : Tab (Option Ide)
deriving DecidableEq, Repr

end Sys2Proof.Machine
end

