-- ==== Sys2Proof/Machine/StModel.lean ====
section
/-!
DEFINITION. State of calibration (spec/07), of models, banks and decks (spec/08), and of integrity
(spec/13). Elements of an engine are numbered: 0 to 539 its columns by physical column, 1024 + r its row r,
3000 + d its deck d's drift word; an element's key is engine × 4096 + that number.
-/

namespace Sys2Proof.Machine

/-! ### Calibration -/

/-- The calibration policy (CAL_POLICY_SET, R238). -/
structure Policy where
  rate : Nat
  /-- glide mode -/
  glide : Bool
  window : Nat
  gainStep : Nat
  offsetStep : Nat
  seed : Nat
deriving DecidableEq, Repr

/-- The regression sums of an element's window (R226). -/
structure Window where
  size : Nat
  count : Nat
  rejected : Nat
  ww : Dyad
  wz : Dyad
  zz : Dyad
  wa : Dyad
  za : Dyad
deriving DecidableEq, Repr

/-- A Candidate under check (R237). -/
structure Cand where
  value : Nat
  /-- samples or reads seen, and samples beyond the tolerance -/
  seen : Nat
  beyond : Nat
  /-- observations of a drift candidate, their sum, and the sum of squared bounds -/
  count : Nat
  total : Dyad
  bound : Nat
  /-- it came from CAL_FACTORS_WRITE (R239) -/
  restored : Bool
deriving DecidableEq, Repr

/-- A staged value of an element: the whole word, and whether it glides (R230, R231). -/
structure Stage where
  word : Nat
  glide : Bool
deriving DecidableEq, Repr

/-- A glide in progress: from, to, and the steps taken (R231). -/
structure Glide where
  start : Nat
  goal : Nat
  step : Nat
deriving DecidableEq, Repr

/-- A window of reference observations: reads, and two sums (R228, R401). -/
structure RefWindow where
  reads : Nat
  count : Nat
  ac : Dyad
  cc : Dyad
  bound : Nat
deriving DecidableEq, Repr

/-- A spare column being brought into service (R235). -/
structure Repair where
  engine : Nat
  col : Nat
  spare : Nat
  /-- rows still to be programmed: deck and physical row -/
  left : List (Nat × Nat)
  /-- probe reads still to be made -/
  probes : Nat
  /-- its factor word is in range and its column-map change is staged -/
  staged : Bool
deriving DecidableEq, Repr

/-- A CAL_WARMUP in progress (R240): own clock at its start, forward probes since the last reverse one. -/
structure Warmup where
  tag : Nat
  mask : Nat
  start : Nat
deriving DecidableEq, Repr

/-- The factor memory, calibration epoch and everything that derives factors. -/
structure Cal where
  /-- active column and row factor words by element, default 0x8000 -/
  words : Tab Nat
  /-- active drift words by element, default 0x4000 -/
  drifts : Tab Nat
  /-- sign bytes by deck: bit k is the sign of group k (R250); none where the deck has no sign mask -/
  signs : Tab (Option Nat)
  epoch : Nat
  /-- epoch stamp of each engine -/
  stamps : Tab Nat
  policy : Policy
  staged : Tab (Option Stage)
  glides : Tab (Option Glide)
  cands : Tab (Option Cand)
  /-- Failing elements (R221) -/
  failing : Tab Bool
  windows : Tab (Option Window)
  /-- drift windows by deck (R229) -/
  drift : Tab (Option RefWindow)
  /-- windows of reference column 539 by deck (R401) -/
  leak : Tab (Option RefWindow)
  /-- windows of paired-sample errors by element (R400) -/
  stats : Tab (Option RefWindow)
  /-- in-service spare ADC swaps by engine, active and staged (R234); the staged value is the ADC + 1, with 256
  more for one that a factor blob restores (R239) -/
  swaps : Tab (Option Nat)
  stagedSwaps : Tab Nat
  /-- read reference selects by core, active and staged; the staged value is the select + 1 (R236) -/
  refSel : Tab Nat
  stagedRefs : Tab Nat
  /-- staged column-map changes: engine, spare, logical column (R235) -/
  stagedMaps : List (Nat × Nat × Nat)
  /-- paired-sample candidates dropped, by stack (R223) -/
  dropped : Tab Nat
  repairs : List Repair
  /-- Candidates of CAL_FACTORS_WRITE by stack: open, promoted, discarded (R239) -/
  restores : Tab (Option (Nat × Nat × Nat))
  warmups : List Warmup
  /-- probes made on a deck during warm-up and verification: forward since the last reverse one -/
  forward : Tab Nat
  /-- stacks that a partition released at the boundary of the index in progress and that a successor may take: what is
  staged for them comes into force once, by the successor's start or at the end of the index (R230, R231) -/
  released : List Nat
deriving DecidableEq, Repr

/-! ### Models -/

/-- A deck directory entry (R251). -/
structure DirEntry where
  image : Nat
  version : Nat
  complete : Bool
  index : Nat
  counter : Nat
deriving DecidableEq, Repr

/-- A held manifest with its content key (R242, R244). -/
structure Manifest where
  id : Nat
  version : Nat
  /-- the tenant whose function or field loaded it -/
  tenant : Nat
  raw : Bytes
  key : Bytes
  /-- base of its module-memory region and of its model areas by stack, once allocated -/
  region : Option Nat
  areas : Tab Nat
deriving DecidableEq, Repr

/-- A bank of an image that is not Empty (R259). -/
structure Bank where
  version : Nat
  /-- Bound, else Filling -/
  bound : Bool
  /-- 0 standby, 1 current, 2 retained -/
  role : Nat
deriving DecidableEq, Repr

/-- A CHUCK_SWITCH that has not taken effect everywhere (R260). -/
structure Switch where
  tag : Nat
  image : Nat
  bank : Nat
  turn : Nat
  limit : Nat
  action : Nat
  /-- partitions that have not switched -/
  left : List Nat
  /-- it has taken effect somewhere -/
  begun : Bool
  last : Nat
deriving DecidableEq, Repr

/-- A drain of a partition: the retained bank, the turn of the switch, DRAIN_TURNS and DRAIN_ACTION (R262). -/
structure Drain where
  image : Nat
  bank : Nat
  part : Nat
  turn : Nat
  limit : Nat
  action : Nat
deriving DecidableEq, Repr

/-- A MODEL_INSTALL in progress (R271, R268). -/
structure Install where
  tag : Nat
  image : Nat
  version : Nat
  bank : Nat
  restore : Bool
  rewrite : Bool
  /-- the placement: 8 bytes per deck image -/
  place : Bytes
  /-- the data of a tagged command, which the module has read to check its tag (R447) -/
  read : Option Bytes
  /-- plaintext stream read so far -/
  stream : Bytes
  /-- chunks read, deck images taken from the stream -/
  chunks : Nat
  taken : Nat
  /-- tier parts copied to their homes -/
  copied : Bool
  /-- deck images bound -/
  made : Nat
  written : Nat
  restored : Nat
  shared : Nat
deriving DecidableEq, Repr

/-- A deck in the Writing state, or a claimed one under verification (R252, R254, R255, R268, R413). -/
structure DeckWrite where
  engine : Nat
  deck : Nat
  image : Nat
  version : Nat
  index : Nat
  /-- bank and plan deck of the entry it becomes -/
  bank : Nat
  planDeck : Nat
  /-- the install's tag, or the honing of a core that programs it (physical core key of the suspect core) -/
  install : Option Nat
  hone : Option Nat
  /-- the chuck entry it becomes; empty until its deck image has been read -/
  entry : Bytes
  /-- its cells are written, not claimed -/
  writing : Bool
  /-- next physical row to write, 1,024 when every row is written -/
  row : Nat
  /-- the deck has been rewritten once -/
  again : Bool
  /-- fingerprint probes made -/
  prints : Nat
  /-- some group sum lay beyond its tolerance -/
  failed : Bool
  /-- the fingerprints of its deck image (R245); empty where it is written from the shadow (R413) -/
  phi : Bytes
deriving DecidableEq, Repr

/-- A program loop in progress on an engine: deck, physical row, the spare column it programs alone, and
the own clock from which it may end. -/
structure LoopRun where
  deck : Nat
  row : Nat
  spare : Option Nat
  /-- own clock of its start -/
  start : Nat
deriving DecidableEq, Repr

/-- What a probe read is for. -/
inductive ProbeUse where
  /-- warm-up, or the derivation of factors while a deck is verified (R240, R255) -/
  | factors
  /-- fingerprint probe p of a deck (R247, R255) -/
  | print (p : Nat)
  /-- measurement of a spare column (R235) -/
  | spare (col : Nat)
deriving DecidableEq, Repr

/-- A probe read in progress on an engine (R146, R235, R240, R255). -/
structure ProbeRun where
  deck : Nat
  reverse : Bool
  use : ProbeUse
  start : Nat
  number : Nat
deriving DecidableEq, Repr

/-- An adapter version (R269, R270). -/
structure Adapter where
  tenant : Nat
  image : Nat
  rank : Nat
  kind : Nat
  exp : Int
  /-- the decrypted adapter image -/
  raw : Bytes
  damaged : Bool
deriving DecidableEq, Repr

/-- Decks, chuck table, models and adapters. -/
structure Model where
  /-- deck directory by deck (R251) -/
  dir : Tab (Option DirEntry)
  /-- deck states by deck: 0 Free, 1 Writing, 2 Bound, 3 Persisted (R252) -/
  decks : Tab Nat
  /-- write counters by deck: the last counter used (R250) -/
  counters : Tab Nat
  /-- chuck entries: (bank × 65536 + engine) × 32 + plan deck (R256) -/
  chuck : Tab (Option Bytes)
  /-- the binding key held (R249) -/
  bindKey : Option Bytes
  /-- keys created on this module -/
  serial : Nat
  manifests : List Manifest
  /-- banks: image × 2 + bank -/
  banks : Tab (Option Bank)
  switches : List Switch
  drains : List Drain
  installs : List Install
  writes : List DeckWrite
  loops : Tab (Option LoopRun)
  probes : Tab (Option ProbeRun)
  /-- allocations of the side-data pools: stack, address, length, deck (R256) -/
  pool : List (Nat × Nat × Nat × Nat)
  /-- decks that left every bank and wait for the boundaries of R252: deck and partitions left -/
  leaving : List (Nat × List Nat)
  /-- adapter versions: ID × 256 + version -/
  adapters : Tab (Option Adapter)
  /-- current and pending version by adapter ID -/
  current : Tab (Option Nat)
  upcoming : Tab (Option Nat)
  /-- adapter IDs whose current version ends at the next boundary (R270) -/
  retiring : List Nat
  /-- new current versions that running partitions have still to adopt: partition key, and ID × 256 + version -/
  adopt : List (Nat × Nat)
  /-- versions whose tiles failed: image × 65536 + version (R399) -/
  broken : List Nat
deriving DecidableEq, Repr

/-! ### Integrity -/

/-- A core being replaced or tested (R413, R415). -/
structure Hone where
  /-- the command that waits, none under AUTO_HONE or once it has completed -/
  tag : Option Nat
  st : Nat
  logical : Nat
  core : Nat
  spare : Nat
  /-- action 1: it ends Retired -/
  retire : Bool
  /-- spares that failed their preparation -/
  tried : List Nat
  /-- decks programmed on the spare -/
  done : Nat
  /-- own clock at which the spare's buffer was enabled -/
  bufferOn : Option Nat
  /-- the substitution is staged -/
  staged : Bool
deriving DecidableEq, Repr

/-- Check statistics, substitution, honing and the integrity policy. -/
structure Integ where
  /-- physical core of each logical core; none for itself (R410) -/
  subst : Tab (Option Nat)
  /-- S of R398 by deck × 8 + check column -/
  sums : Tab Int
  /-- V of R398, in units of 1 ÷ 640,000 -/
  vars : Tab Nat
  /-- honing state by core: 0 Serving, 1 Intensified, 2 Preparing, 3 Honing, 4 Spare, 5 Retired -/
  cores : Tab Nat
  /-- cores whose intensified checking a Failing column requests (1: R234), and cores marked suspect (2: R411) -/
  marks : Tab Nat
  /-- cores whose intensified checking is in force (R411) -/
  intense : Tab Bool
  /-- cores whose mark is cleared at the next boundary -/
  clearing : List (Nat × Nat)
  /-- failed test of each core, 0 for none -/
  failedTest : Tab Nat
  hones : List Hone
  /-- LOCAL and AUTO_HONE -/
  local_ : Bool
  autoHone : Bool
  partners : List Nat
  /-- REPLAY_WAIT in turns -/
  wait : Nat
  /-- per stack: read replays, CHECK_NOISE, suspect steps, replays replaced -/
  readReplays : Tab Nat
  noise : Tab Nat
  suspects : Tab Nat
  replaced : Tab Nat
deriving DecidableEq, Repr

end Sys2Proof.Machine
end

