-- ==== Sys2Proof/Machine/StNet.lean ====
section
/-!
DEFINITION. State of the grain links and the Dritar fabric (spec/12) and of partner attestation (R438 to
R441). A connection is named by its port, 0 to 22, or for a peer across a switch by 64 + module number.
-/

namespace Sys2Proof.Machine

/-- An entry of the fabric map (fabric map entry). -/
structure MapEntry where
  module : Nat
  route : Nat
  rack : Nat
  board : Nat
  mask : Nat
  switchNs : Nat
  identity : Bytes
deriving DecidableEq, Repr

/-- A fabric map with its bytes (R378). -/
structure FabMap where
  self : Nat
  entries : List MapEntry
  raw : Bytes
deriving DecidableEq, Repr

/-- An attestation in progress (R438, R439): own payloads, nonce and secret; what has been received. -/
structure Att where
  certs : List Bytes
  offer : Bytes
  nonce : Bytes
  secret : Bytes
  signed : Bool
  peerCerts : List Bytes
  peerOffer : Bytes
  peerSecret : Bytes
deriving DecidableEq, Repr

/-- A frame as it is handed to a port (R372): its connection, physical port, type, header fields and payload; for
plan data and arrivals the partition that sends it. -/
structure FrameOut where
  conn : Nat
  port : Nat
  type : Nat
  blocks : Nat
  dst : Nat
  /-- the number in `SEQ` of a frame that is not sealed -/
  seq : Nat
  daddr : Nat
  flags : Nat
  part : Option Nat
  pay : Bytes
deriving DecidableEq, Repr

/-- A frame that waits for a slot (R373, R374): `again` for one that is sent again, `num` its extended sequence when
it keeps the one it had. -/
structure Waiting where
  frame : FrameOut
  again : Bool
  num : Option Nat
deriving DecidableEq, Repr

/-- A slot used in the index in progress: its link, the partition that holds it or none for an unreserved one, and
whether it was the partition's slot for sync frames (R362, R373). -/
structure SlotUse where
  link : Nat
  part : Option Nat
  sync : Bool
deriving DecidableEq, Repr

/-- A sealed frame that has not been acknowledged: extended sequence, times sent, bytes, and the frame in the clear
(R374, R385, R441). -/
structure Unacked where
  seq : Nat
  tries : Nat
  frame : Bytes
  body : FrameOut
deriving DecidableEq, Repr

/-- The sealed traffic with an attached partner (R440, R441). -/
structure Wire where
  key : Bytes
  /-- this module's identity is the smaller one -/
  lo : Bool
  /-- extended sequences: the next to send, the next expected -/
  sendE : Nat
  recvE : Nat
  unacked : List Unacked
deriving DecidableEq, Repr

/-- A port, or a peer session (R375, R377, R391). -/
structure Conn where
  /-- 0 Disabled, 1 Training, 2 Hello, 3 Attesting, 4 Attached, 5 Switched -/
  state : Nat
  /-- enabled and waiting for its training to begin -/
  waiting : Bool
  identity : Bytes
  /-- the partner's last hello payload -/
  hello : Bytes
  helloSeq : Nat
  latency : Nat
  resent : Nat
  fec : Nat
  detaches : Nat
  /-- the rack port of a peer session -/
  rack : Nat
  /-- a failed attestation waits for its retry -/
  retry : Bool
  att : Option Att
  wire : Option Wire
  /-- frames unacknowledged or not yet sent at a detach, and the identity for which they are kept (R385) -/
  kept : List FrameOut
  keptFor : Bytes
deriving DecidableEq, Repr

/-- A grain frame in flight (R366 to R370). -/
structure GrainFrame where
  id : Nat
  fly : Nat
  part : Nat
  /-- source transfer channel: stack × 16 + channel -/
  chan : Nat
  /-- the stack it has reached, its target, and the links still to cross -/
  at_ : Nat
  target : Nat
  route : List Nat
  words : List (Nat × Bytes)
  fill : Bool
  /-- own clock from which it may leave, or be written when it has landed -/
  ready : Nat
  landed : Bool
deriving DecidableEq, Repr

/-- A DRITAR_SEND with blocks not yet sent (R382, R385). -/
structure Send where
  fly : Nat
  part : Nat
  st : Nat
  module : Nat
  dst : Nat
  fill : Bool
  issue : Nat
  blocks : List Bytes
  /-- blocks that have crossed the hub link, with the own clock of the latest ones, and blocks sent -/
  hub : Nat
  hubTick : Nat
  hubBefore : Nat
  sent : Nat
deriving DecidableEq, Repr

/-- A plan-data frame that waits to be written (R384): source module, stack, words. -/
structure Incoming where
  src : Nat
  st : Nat
  words : List (Nat × Bytes)
  fill : Bool
  /-- own clock from which it may cross to the stack, or be written once it has -/
  ready : Nat
  landed : Bool
deriving DecidableEq, Repr

/-- An arrival from a partner that was refused and waits to be counted (R352). -/
structure FarArrival where
  src : Nat
  barrier : Nat
  gen : Nat
deriving DecidableEq, Repr

/-- The fabric. -/
structure Net where
  conns : Tab (Option Conn)
  /-- DRITAR_PORT_ENABLE in progress: tag, ports still to begin training, ports changed -/
  enables : List (Nat × List Nat × Nat)
  frames : List GrainFrame
  nextFrame : Nat
  /-- slots used in the index in progress -/
  used : List SlotUse
  /-- frames that wait for a slot of their port, oldest first -/
  queue : List Waiting
  /-- hub links with a frame whose CRC failed in the index that ends, once for each -/
  failed : List Nat
  /-- of the turn in progress: frames sent again by grain link, and plan-data frames discarded by
  65536 + source module × 16 + target stack -/
  errors : Tab Nat
  sends : List Send
  incoming : List Incoming
  arrivals : List FarArrival
  /-- the latest map, and the one that running partitions still use -/
  map : Option FabMap
  old : Tab (Option (Option FabMap))
  /-- FABRIC_MAP_SET in progress: tag and partitions that have not applied it -/
  staged : Option (Nat × List Nat)
  /-- bytes of the last map applied everywhere -/
  applied : Bytes
  /-- management and bulk payloads received: source module, frame type, payload -/
  inbox : List (Nat × Nat × Bytes)
deriving DecidableEq, Repr

end Sys2Proof.Machine
end

