-- ==== Sys2Proof/Machine/StPlan.lean ====
section
/-!
DEFINITION. State of the spindle, of power modes, and the contents of a loaded plan image (R40 to R72).
-/

namespace Sys2Proof.Machine

/-- A pending PWR_MODE_SET (R36 to R39). -/
structure PendMode where
  mode : Nat
  /-- EFFECT_TURN, 0 for the next pass boundary of each partition -/
  turn : Nat
  /-- the command's tag -/
  tag : Nat
  /-- the partitions without a running plan have adopted it -/
  idle : Bool
  /-- running partitions that have still to adopt it -/
  left : List Nat
deriving DecidableEq, Repr

/-- The spindle unit, the module's own index clock, and the power modes. -/
structure Spin where
  /-- 0 No source, 1 Acquiring, 2 Locked, 3 Coasting (R55, R57) -/
  state : Nat
  /-- source code of R41 -/
  source : Nat
  port : Nat
  /-- OUT_ENABLE: bit 0 SPINDLE_OUT, bit 1 markers -/
  outEnable : Nat
  /-- the spindle count (R17) -/
  count : Nat
  /-- turn of the last valid frame or marker while acquiring (R46) -/
  lastTurn : Option Nat
  /-- START_COUNT of a self spindle that is not yet Locked, and the own clock at selection (R46) -/
  selfStart : Option (Nat × Nat)
  /-- consecutive invalid frames or markers (R54) -/
  badRun : Nat
  /-- counters of R57, saturating -/
  invalid : Nat
  stutters : Nat
  slips : Nat
  /-- the count does not advance at the next edge (R52) -/
  held : Bool
  /-- the index in progress began a turn: its first boundary is a turn boundary -/
  atTurn : Bool
  /-- indices of the module's own clock since reset: they pass in every spindle state -/
  tick : Nat
  /-- a source has been Locked since reset (R479) -/
  everLocked : Bool
  /-- M_HOPS of this module's own markers (R387) -/
  hops : Nat
  /-- own clock at the last stop, for the number of indices held (R51) -/
  stopTick : Nat
  /-- power mode in force: 0 Full, 1 Standard, 2 Economy -/
  power : Nat
  pend : Option PendMode
deriving DecidableEq, Repr

/-- A slot table entry (R66). -/
structure SlotDef where
  slot : Nat
  kind : Nat
  maxCommit : Nat
  state : Nat
  home : Nat
deriving DecidableEq, Repr

/-- A link reservation entry (R67). -/
structure LinkRes where
  link : Nat
  mask : Nat
  vc : Nat
deriving DecidableEq, Repr

/-- A barrier definition entry (R68, R349). -/
structure BarrDef where
  id : Nat
  need : Nat
  scope : Nat
deriving DecidableEq, Repr

/-- A partition of a plan image with its sections. -/
structure PartDef where
  part : Nat
  turns : Nat
  mask : Nat
  slack : Nat
  budget : Nat
  stall : Nat
  gainBase : Nat
  descBase : Nat
  slots : List SlotDef
  links : List LinkRes
  barriers : List BarrDef
  /-- the cut list of each stack -/
  cuts : List (Nat × List PlanOp)
deriving DecidableEq, Repr

/-- A signature entry. -/
structure PlanSig where
  role : Nat
  key : Bytes
  sig : Bytes
deriving DecidableEq, Repr

/-- A parsed plan image. -/
structure PlanDef where
  id : Nat
  version : Nat
  length : Nat
  model : Nat
  modelVersion : Nat
  mode : Nat
  digref : Bool
  reduction : Bytes
  parts : List PartDef
  /-- preloads: stack, target word of the window, bytes -/
  preloads : List (Nat × Nat × Bytes)
  sigs : List PlanSig
  /-- image bytes 0 to SIGNATURE_OFFSET − 1 -/
  signed : Bytes
deriving DecidableEq, Repr

/-- The indices of a pass of the partition. -/
def PartDef.length (d : PartDef) : Nat := d.turns * 8192

/-- The pass-relative index at which the work of a pass ends: its length less SLACK (R60). -/
def PartDef.work (d : PartDef) : Nat := d.length - d.slack

/-- STALL_LIMIT in force: 0 selects 8,192 (partition section). -/
def PartDef.limit (d : PartDef) : Nat := if d.stall = 0 then 8192 else d.stall

/-- The stacks of the partition. -/
def PartDef.stacks (d : PartDef) : List Nat := (List.range 16).filter fun st => d.mask.testBit st

end Sys2Proof.Machine
end

