-- ==== Sys2Proof/Machine/StServe.lean ====
section
/-!
DEFINITION. State of serving: memory contexts and their pages (spec/09), sessions, jobs and replays (spec/10,
spec/13). A context is named by tenant × 2^32 + context ID, a page within it by layer × 2^20 + page index, a tail
entry by layer × 4096 + entry.
-/

namespace Sys2Proof.Machine

/-! ### Contexts -/

/-- A layer group of a KV profile (layer group entry). -/
structure KvGroup where
  first : Nat
  layers : Nat
  heads : Nat
  /-- head dimension d -/
  dim : Nat
  kind : Nat
  pageExp : Nat
  /-- FP32 codes -/
  kScale : Nat
  vScale : Nat
deriving DecidableEq, Repr

/-- A KV page (R277, R296). -/
structure Page where
  /-- 0 Hot, 1 Warm, 2 Cold, 3 Dropped -/
  tier : Nat
  /-- stack of a Hot page -/
  stack : Nat
  /-- the page's bytes, as attention reads them -/
  data : Tab Byte
  /-- turn of the stamp of R298 -/
  stamp : Nat
  /-- of a Cold page: offset in the cold area, nonce and tag (R297) -/
  home : Nat
  nonce : Nat
  auth : Bytes
deriving DecidableEq, Repr

/-- A page copy in progress (R296): where it goes, and whether the copy is complete. -/
structure Move where
  ctx : Nat
  page : Nat
  tier : Nat
  stack : Nat
  ready : Bool
deriving DecidableEq, Repr

/-- A recompute job of an Incomplete context (R302). -/
structure Recompute where
  /-- partition and slot it holds -/
  part : Nat
  slot : Nat
  /-- adapter version pinned for it -/
  adapter : Option Nat
  bank : Nat
  spans : Nat
  passes : Nat
deriving DecidableEq, Repr

/-- A staged adapter update (R307): element and gradient. An element's key is site × 2^34 + matrix × 2^33 +
row-major index. -/
structure Update where
  key : Nat
  grad : Dyad
  /-- order: stack, then place in the cut list -/
  st : Nat
  pos : Nat
deriving DecidableEq, Repr

/-- A consolidation job (R306 to R308). -/
structure Job where
  adapter : Nat
  /-- version of the adapter it started from, known at admission -/
  version : Nat
  first : Nat
  last : Nat
  chunk : Nat
  epochs : Nat
  lr : Nat
  momentum : Nat
  /-- partition and slot it holds -/
  place : Option (Nat × Nat)
  /-- sweeps completed, chunks of the present sweep completed, steps taken -/
  sweep : Nat
  next : Nat
  steps : Nat
  /-- working copy: masters and momenta by element, as FP32 codes, and the element form -/
  masters : Tab Nat
  momenta : Tab Nat
  form : Bytes
  staged : List Update
  /-- CTX_JOB_CANCEL's tag -/
  cancel : Option Nat
deriving DecidableEq, Repr

/-- A memory context (R273 to R276). -/
structure Ctx where
  tenant : Nat
  id : Nat
  image : Nat
  maxTokens : Nat
  droppable : Bool
  layers : Nat
  groups : List KvGroup
  /-- the parameter block -/
  param : Bytes
  /-- token log records; C is their number (R275) -/
  log : List Nat
  /-- the KV mark M -/
  mark : Nat
  pages : Tab (Option Page)
  damaged : Bool
  /-- created by CTX_IMPORT and not yet rebuilt (R302) -/
  imported : Bool
  /-- CTX_FULL has been posted (R303) -/
  full : Bool
  /-- spans dropped -/
  dropped : Nat
  recompute : Option Recompute
  job : Option Job
deriving DecidableEq, Repr

/-- A tenant's quotas, cold area and keys (R295, R297). -/
structure Quota where
  hot : Nat
  warm : Nat
  cold : Nat
  log : Nat
  /-- cold area: function, address, bytes -/
  area : Option (Nat × Nat × Nat)
  coldKey : Bytes
  coldNonce : Nat
deriving DecidableEq, Repr

/-! ### Sessions -/

/-- A session (R310, R311, session parameter block). -/
structure Session where
  id : Nat
  tenant : Nat
  ctx : Nat
  seed : Nat
  follow : Bool
  digref : Bool
  outq : Nat
  /-- tree nodes 1 to N: parent, source, rank -/
  tree : List (Nat × Nat × Nat)
  /-- adapter ID it names -/
  adapter : Option Nat
  temp : Nat
  topK : Nat
  window : Nat
  topP : Nat
  minP : Nat
  repPen : Nat
  presPen : Nat
  maxNew : Nat
  stops : List Nat
  /-- 0 Queued, 1 Prefilling, 2 Decoding, 3 Idle -/
  state : Nat
  /-- partition key and slot while admitted -/
  part : Nat
  slot : Nat
  pending : List Nat
  /-- tokens generated in the run, and in all -/
  run : Nat
  total : Nat
  /-- pins: bank and adapter version (R316) -/
  bank : Nat
  pinned : Option Nat
  /-- drafts of entries 1 to N for the next step; none for void -/
  drafts : List (Option Nat)
  /-- a stop took effect: the cause with which it departs (0 stop token, 1 MAX_NEW, 2 close, 3 drain) -/
  stop : Option Nat
  /-- it departs to Queued at the next step 7, for a cause that is not a stop -/
  requeue : Bool
  /-- it consumed its last pending input and moves to a decode slot (R311) -/
  moving : Bool
  /-- SESSION_CLOSE's tag -/
  closing : Option Nat
deriving DecidableEq, Repr

/-- What a slot computes in a pass, as recorded at its start (R200, R205, R280, R318). -/
structure Step where
  slot : Nat
  /-- KIND: 0 decode, 1 prefill, 2 consolidation -/
  kind : Nat
  empty : Bool
  /-- a session's step, a recompute job's, a consolidation job's, or a replay's -/
  sess : Option Nat
  ctx : Option Nat
  /-- 0 none, 1 recompute, 2 consolidation -/
  job : Nat
  replay : Option Nat
  base : Nat
  /-- C of R205 -/
  cpos : Nat
  seed : Nat
  sid : Nat
  avail : Nat
  final : Bool
  /-- tokens of the entries; none for void -/
  tokens : List (Option Nat)
  tree : List (Nat × Nat × Nat)
  /-- adapter version: ID × 256 + version -/
  adapter : Option Nat
  bank : Nat
  /-- δ of R318 -/
  delta : Nat
  /-- run tokens at the start of the step -/
  run : Nat
deriving DecidableEq, Repr

/-- A suspect step with its replay, or a replay that a partner asks for (R404 to R409). The context of the latter stands
in the contexts under 2^48 + the replay's number, with tenant 0. -/
structure Replay where
  /-- the partition, slot and step that became suspect -/
  part : Nat
  slot : Nat
  step : Step
  /-- session parameters as captured -/
  sess : Session
  causes : Nat
  /-- the original decision record; empty when none was written -/
  decision : Bytes
  /-- the original tail: entry records by tail entry -/
  tail : Tab Bytes
  /-- cores implicated in the step (R407) -/
  cores : List Nat
  /-- a store tile failure: no agreement test (R406) -/
  noTest : Bool
  turn : Nat
  /-- 0 waiting, 1 placed, 2 resolved: the original commits, 3 resolved: the replay's result commits -/
  state : Nat
  /-- where it runs: partition key and slot, or a partner module -/
  host : Option (Nat × Nat)
  partner : Option Nat
  /-- the replay's decision and tail -/
  result : Bytes
  own : Tab Bytes
  /-- the adapter updates that the replay of a consolidation step has staged -/
  updates : List Update
  /-- of a replay that a partner asks for: its module, its number of the replay, and the model version (R408) -/
  origin : Option (Nat × Nat × Nat)
deriving DecidableEq, Repr

/-- Contexts, sessions, queues, quotas and replays. -/
structure Serve where
  ctxs : Tab (Option Ctx)
  sessions : Tab (Option Session)
  /-- queued sessions, in order of receipt -/
  queue : List Nat
  /-- contexts whose consolidation jobs wait for a slot, in queue order -/
  jobs : List Nat
  quotas : Tab (Option Quota)
  moves : List Move
  replays : Tab (Option Replay)
  nextReplay : Nat
  /-- turns of the latest admissions, newest first (R336) -/
  admits : List Nat
  /-- refusals under R336 in the turn in progress (R337) -/
  refused : Nat
deriving DecidableEq, Repr

end Sys2Proof.Machine
end

