-- ==== Sys2Proof/Machine/StOps.lean ====
section
/-!
DEFINITION. State of the stores, the analogue arrays, the converters and monitors, loaded plans, their
running partitions, and the operations in flight.

Numbering used throughout: a core word is `(stack × 640 + core) × 32768 + word`, a stack-store word is
`335544320 + stack × 6291456 + word`, and byte `b` of word `g` has address `32 g + b`. An engine is named by
its global engine address (R18), a deck by `engine × 32 + deck`, a plan by `ID × 65536 + version`, a
partition of a plan by `plan × 16 + partition`, a core by `stack × 640 + core`.
-/

namespace Sys2Proof.Machine

/-! ### Stores -/

/-- A write made in the index in progress (R340, R341, R344). -/
structure PendWrite where
  /-- the operation in flight that writes -/
  fly : Nat
  /-- position of the writing unit: stack, unit kind, unit number -/
  unit : Nat
  /-- own clock at the operation's issue, and its place in the cut list -/
  issue : Nat
  pos : Nat
  /-- FILL_DST -/
  fill : Bool
  words : List (Nat × Bytes)
deriving DecidableEq, Repr

/-- The stores of cores and stacks (R22, R339). -/
structure Stores where
  mem : Tab Byte
  full : Tab Bool
  /-- words emptied at the end of the index in progress -/
  empties : List Nat
  /-- writes of the index in progress, in the order they became ready -/
  writes : List PendWrite
deriving DecidableEq, Repr

/-- Package memory and module memory (R25, R26). -/
structure Mem where
  /-- stack × 48 GiB + byte -/
  package : Tab Byte
  module : Tab Byte
  /-- scratch of R265: stack × 256 MiB + byte for package scratch, and 4 GiB + lowest stack × 4 GiB + byte
  for the module-memory scratch of a partition -/
  scratch : Tab Byte
  /-- per transfer channel (stack × 16 + channel): transfers in flight in issue order (R266) -/
  order : Tab (List Nat)
deriving DecidableEq, Repr

/-! ### Arrays and reads -/

/-- What a read drove: kept for its TRUE and for exact recomputation (R98, R163, R172). -/
structure ReadInputs where
  engine : Nat
  deck : Nat
  kind : Nat
  a8 : Bool
  burnish : Nat
  gain : Nat
  /-- driven activations of the rows, or of the columns of a reverse read -/
  xs : List Int
  /-- own clock in which the record was written -/
  written : Nat
  /-- columns or rows for which a request has been queued; 3000 + k for check column k -/
  asked : List Nat
  /-- exact values that have arrived: V of R177 by column or row, 64 × P by 3000 + k for check columns -/
  exact : List (Nat × Int)
deriving DecidableEq, Repr

/-- The result of a read, of a Split half, or of a reverse read, before its record is written. -/
structure HalfRead where
  /-- REC_KIND -/
  kind : Nat
  dest : Nat
  accs : List Int
  checks : List Int
  refs : List Int
  clip : List Bool
  clipCheck : List Bool
  clipRef : List Bool
  redo : List Bool
  redoCheck : List Bool
  zero : Bool
  split : Bool
  clamp : Bool
  weight : Nat
  xs : List Int
  /-- clip bits set in the original read, check columns included (R121) -/
  clips : Nat
deriving DecidableEq, Repr

/-- A read in flight (R100, R123, R129). -/
structure ReadJob where
  /-- the engine as the plan names it, and the physical engine -/
  engine : Nat
  phys : Nat
  deck : Nat
  reverse : Bool
  a8 : Bool
  /-- burnish code: repetitions are 2^code -/
  burnish : Nat
  gain : Nat
  unsettled : Bool
  notBound : Bool
  strokes : Nat
  count : Nat
  offset : Nat
  /-- RATE_EXP and CAL_SEED in force at issue (R238) -/
  rate : Nat
  seed : Nat
  halves : List HalfRead
  /-- own clock from which the re-read may drive, set when its freeze begins (R124, R125) -/
  ready : Option Nat
  /-- the sub-reads are done and the record holds their result -/
  done : Bool
  /-- own clock at which its sub-reads begin to drive -/
  drive : Option Nat
deriving DecidableEq, Repr

/-- A TRUE in flight that has read its record (R161 to R175). -/
structure TrueJob where
  /-- the record's word, and own clock in which it was written -/
  record : Nat
  written : Nat
  /-- REC_KIND and REC_FLAGS of the record -/
  kind : Nat
  flags : Nat
  engine : Nat
  phys : Nat
  deck : Nat
  burnish : Nat
  /-- q of the format gain 2^q -/
  q : Nat
  /-- T_a of every column or row, in physical polarity for columns (R169) -/
  parts : List Int
  /-- sign of each column, +1 or −1 -/
  signs : List Int
  /-- outlier and channel terms of each column or row (R172) -/
  adds : List Int
  /-- columns or rows whose value is the exact one (R177) -/
  exact : List Nat
  /-- columns replaced by a range-split re-read -/
  split : List Nat
  /-- T_a of the record's check columns, those computed exactly, and those re-read -/
  checks : List Int
  exactChecks : List Nat
  splitChecks : List Nat
  /-- Q_k of each check column of the record (R394) -/
  residuals : List Int
  /-- check columns whose comparison is still to be made, and those under read replay with Δ -/
  compare : List Nat
  replay : List (Nat × Int)
  /-- groups whose read replay chose the exact values -/
  chosen : List Nat
  /-- exact values that have arrived, as in ReadInputs -/
  got : List (Nat × Int)
  overCap : Bool
  added : Nat
  refs : List (Option Int)
  weight : Nat
  /-- what the read of its record drove (R98) -/
  inputs : ReadInputs
  /-- output words not yet written -/
  left : List Nat
  /-- the output index has come -/
  opened : Bool
deriving DecidableEq, Repr

/-- What an operation in flight waits for (R79). -/
inductive Wait where
  /-- nothing: it runs on -/
  | none
  /-- full source words -/
  | guard (words : List Nat)
  /-- empty destination words -/
  | fill (words : List Nat)
  /-- the counting of a refused arrival (R352) -/
  | arrival
  /-- the release of a generation (R353) -/
  | release (gen : Nat)
  /-- partners of a send held under R385 -/
  | link
deriving DecidableEq, Repr

/-- What an operation in flight carries. -/
inductive Body where
  /-- it has read nothing yet -/
  | fresh
  /-- the descriptor as read at issue, and what the operation has fixed from it -/
  | desc (b : Bytes) (n : Nat)
  /-- byte strings read so far: descriptor, header, values -/
  | held (bs : List Bytes)
  | read (j : ReadJob)
  | true (t : TrueJob)
  /-- words to write: word number and 32 bytes -/
  | out (words : List (Nat × Bytes))
  /-- a memory read: region (0 package, 1 module, 2 preload), byte address, bytes, destination word -/
  | memRead (region addr len dest : Nat)
  /-- a memory write: region, byte address and bytes -/
  | memWrite (region addr : Nat) (data : Bytes)
  /-- a KV append: context, layer, position, record bytes by page address -/
  | kv (ctx layer : Nat) (recs : List (Nat × Bytes))
  /-- an attention read over `words`, results to write, and the pages it needs (context, layer, page) -/
  | attend (words : List (Nat × Bytes)) (pages : List (Nat × Nat × Nat))
  /-- a decision of FINISH or SAMPLE: slot and words -/
  | decide (slot : Nat) (words : List (Nat × Bytes))
  /-- words queued for the end of the index -/
  | writing (words : List (Nat × Bytes))
  /-- a send with frames not yet delivered -/
  | send (frames : Nat)
  | barrier (id gen : Nat)
deriving DecidableEq, Repr

/-- An operation in flight (R80, R81). -/
structure Fly where
  st : Nat
  part : Nat
  op : PlanOp
  /-- own clock at issue -/
  issue : Nat
  /-- own clock before which its next stage cannot come -/
  due : Nat
  wait : Wait
  stall : Nat
  /-- spindle count at issue -/
  count : Nat
  /-- a read's gain word, taken in its issue index (R101) -/
  gain : Nat
  /-- a read's settle distance at issue, none where its core had no REF_ON since reset, and whether its core's
  reference buffer is on (R115) -/
  settle : Option Int
  on : Bool
  /-- a read's RATE_EXP and CAL_SEED in force at issue (R238) -/
  rate : Nat
  seed : Nat
  body : Body
deriving DecidableEq, Repr

/-- The arrays of all engines (R89 to R131). Cell contents and directories outlast resets. -/
structure Arr where
  /-- active deck by engine, default 0 (R109) -/
  active : Tab Nat
  /-- engines whose last DECK_SEL found no chuck-table entry (R257) -/
  noDeck : Tab Bool
  /-- settle distance since the last REF_ON by core, at offset 0 of the running pass; none before any (R115) -/
  refs : Tab (Option Int)
  /-- cores whose reference buffer is on (R114) -/
  refOn : Tab Bool
  /-- stored levels of each written row: deck × 1024 + physical row (R90) -/
  cells : Tab Bytes
  /-- read ordinal m by engine (R222) -/
  ordinal : Tab Nat
deriving DecidableEq, Repr

/-! ### Converters -/

/-- A sequencer table entry (R147). -/
structure MonEntry where
  channel : Nat
  times : Nat
  action : Nat
  mean : Bool
  delay : Nat
  low : Nat
  high : Nat
  hyst : Nat
  sweep : Nat
deriving DecidableEq, Repr

/-- The violation state of an entry (R151). -/
structure MonViol where
  select : Nat
  high : Bool
  count : Nat
deriving DecidableEq, Repr

/-- An urgent request (R156). -/
structure Urgent where
  tag : Nat
  channel : Nat
  left : Nat
  codes : List Nat
  below : Bool
  above : Bool
  absent : Bool
  skipped : Bool
deriving DecidableEq, Repr

/-- One monitor converter (R143 to R159). -/
structure Mon where
  running : Bool
  table : List MonEntry
  entry : Nat
  /-- passes through the table -/
  pass : Nat
  /-- conversions of the running entry made, and the sum of their codes -/
  made : Nat
  sum : Nat
  /-- one of them was absent or skipped -/
  gap : Bool
  /-- index boundaries until the delay ends; none while converting -/
  delay : Option Nat
  /-- the conversion in progress belongs to an urgent request -/
  urgentNow : Bool
  interleave : Bool
  /-- this odd converter serves its partner's table (R155) -/
  suspended : Bool
  /-- the odd converter makes the next interleaved conversion -/
  oddNext : Bool
  viol : List (Option MonViol)
  urgent : List Urgent
  /-- the latest 64 results, oldest first -/
  ring : List Bytes
  written : Nat
  /-- MON_TABLE_SET that waits for the conversion in progress: tag, entries, interleave -/
  next : Option (Nat × List MonEntry × Bool)
  /-- own clock since which a reference-column conversion in progress asks for a span, whether it has begun its probe, and
  the engine and own clock of the latest probe (R146) -/
  asked : Option Nat
  probed : Bool
  probe : Option (Nat × Nat)
deriving DecidableEq, Repr

/-- A raised hold (R153). -/
structure Hold where
  mon : Nat
  thermal : Bool
  /-- own clock at the boundary at which it took effect -/
  tick : Nat
deriving DecidableEq, Repr

/-- A monitor action that takes effect at the next index boundary (R150). -/
structure MonAct where
  mon : Nat
  entry : Nat
  hold : Bool
  thermal : Bool
deriving DecidableEq, Repr

/-- CAL_SELF in progress (R139). -/
structure CalRun where
  tag : Nat
  mask : Nat
deriving DecidableEq, Repr

/-- Column ADCs and monitor converters. -/
structure Conv where
  /-- trim words: engine × 132 + ADC (R133) -/
  trims : Tab Nat
  /-- the ADC the spare replaces, by engine (R136) -/
  spare : Tab (Option Nat)
  /-- stacks whose trims are valid (R140) -/
  valid : List Nat
  /-- spindle count at the end of a stack's last CAL_SELF -/
  calCount : Tab Nat
  runs : List CalRun
  mons : Tab (Option Mon)
  holds : List Hold
  acts : List MonAct
  /-- monitors whose suspect-marks took effect at the boundary of the index in progress (R152) -/
  marked : List Nat
deriving DecidableEq, Repr

/-! ### Plans and partitions -/

/-- The copy of a barrier (R351, R356). -/
structure Barrier where
  g : Nat
  c0 : Nat
  c1 : Nat
  refused : Nat
  /-- own clock of the latest releases, newest first: generation and index -/
  released : List (Nat × Nat)
deriving DecidableEq, Repr

/-- A loaded plan and the state of its run (R73 to R76, R356). -/
structure Plan where
  d : PlanDef
  /-- 0 Loaded, 1 Armed, 2 Running, 3 Halted -/
  state : Nat
  startTurn : Nat
  /-- pending PLAN_STOP: tag and STOP_TURN -/
  stop : Option (Nat × Nat)
  /-- count at which the plan became Halted -/
  haltCount : Nat
  /-- the checks of R72 have moved to its arming -/
  unchecked : Bool
  /-- a tile failure since it was loaded (R399) -/
  tileFail : Bool
  /-- partitions not yet started since arming -/
  waiting : List Nat
  /-- partitions of a Halted plan whose stacks a successor has taken (R75) -/
  released : List Nat
  /-- slack left in the last completed pass of partition 0, and its passes completed -/
  lastSlack : Nat
  passes : Nat
  /-- plans it replaces -/
  replaces : List Nat
  barriers : Tab (Option Barrier)
  /-- arrival numbers: unit position × 4096 + barrier ID (R350) -/
  arrivals : Tab Nat
deriving DecidableEq, Repr

/-- A running partition (R78 to R85). -/
structure Part where
  plan : Nat
  d : PartDef
  p : Nat
  /-- spindle count at the start of the pass -/
  start : Nat
  frozen : Bool
  /-- P has been 0 in an index that was not frozen: the operations of offset 0 have become due (R35, R78) -/
  begun : Bool
  /-- its pass ends at the boundary that began the index in progress (R81) -/
  ending : Bool
  /-- freeze causes of R79 that occurred in the pass, bit k for the (k + 1)-th -/
  causes : Nat
  /-- frozen indices of the pass before the end of its work -/
  lost : Nat
  /-- operations due in this index that have not issued yet -/
  due : List (Nat × PlanOp)
  /-- truing budget: charges, overflow charges, indices frozen under R182 -/
  charges : Nat
  overflow : Nat
  overFrozen : Nat
  /-- overflow corrections occupy the index in progress (R182) -/
  flood : Bool
  /-- re-reads made, frozen indices, columns left for recomputation (R127) -/
  rereads : Nat
  rereadFrozen : Nat
  rereadLeft : Nat
  /-- own clock at which the range-split freeze in progress ends, 0 for none (R124) -/
  splitEnd : Nat
  /-- events posted at most once in the pass: code and subject -/
  marks : List (Nat × Nat)
  /-- causes of R404 that make the steps of the pass's non-empty slots suspect, bit k for the
  (k + 1)-th of its list -/
  suspect : Nat
  /-- slots whose step of the pass is discarded as under R292 (R399) -/
  discards : List Nat
  /-- cores whose checks R397, R398 or R402 failed in the pass (R407) -/
  blamed : List Nat
  /-- what the reads of the pass drove, by record word -/
  reads : Tab (Option ReadInputs)
  /-- charges, overflow and frozen indices of the last completed pass (R188) -/
  last : Option (Nat × Nat × Nat)
  /-- power mode adopted (R34) -/
  mode : Nat
  /-- the partition's current bank and its bank in force (R260, R261) -/
  current : Nat
  bank : Nat
  /-- a bank switch, or the first pass, lets sessions be admitted at this boundary (R261) -/
  admits : Bool
  /-- what each slot computes in the pass -/
  steps : List Step
  /-- tail entry records written in the pass: slot × 2^22 + tail entry -/
  tails : Tab Bytes
  /-- slots that a FINISH or SAMPLE of the pass has named (R321) -/
  named : List Nat
  /-- decision records written: slot and first word -/
  decided : List (Nat × Nat)
  /-- room reserved in output queues for the pass's record: queue and bytes (R335) -/
  reserve : List (Nat × Nat)
  /-- calibration epoch at the start of the pass -/
  epoch : Nat
deriving DecidableEq, Repr

/-- A request to a stack's recompute service (R178): an exact value or a paired sample. -/
structure Request where
  id : Nat
  part : Nat
  /-- the record's word -/
  record : Nat
  engine : Nat
  phys : Nat
  deck : Nat
  col : Nat
  /-- counts against the truing budget as overflow -/
  extra : Bool
  /-- a paired sample: corrected value is checked against the exact one (R223) -/
  paired : Bool
  /-- a check replay of R396: the group of the check column -/
  group : Option Nat
  inputs : ReadInputs
  /-- what a paired sample carries: accumulator and offset weight -/
  acc : Int
  weight : Nat
  /-- own clock at which it was queued, and whether it has been charged (R180) -/
  queued : Nat
  counted : Bool
  /-- own clock at its start -/
  started : Option Nat
deriving DecidableEq, Repr

/-- Loaded plans, running partitions, operations in flight, recompute services. -/
structure Plans where
  loaded : Tab (Option Plan)
  parts : Tab (Option Part)
  flies : Tab (Option Fly)
  nextFly : Nat
  /-- per stack: queued and started requests in queue order -/
  queues : Tab (List Request)
  nextReq : Nat
  /-- stacks, as masks, of the partitions armed since reset, whose scratch has been zeroed (R265) -/
  scratched : List Nat
deriving DecidableEq, Repr

end Sys2Proof.Machine
end

