-- ==== Sys2Proof/Machine/State.lean ====
section
/-!
DEFINITION. The machine's state, the reasons a step can stop, and the state right after reset.
-/

namespace Sys2Proof.Machine

/-- Reasons a step ends in a fault. The spec gives every command an effect, so no meaning raises one. -/
inductive Fault where
  /-- Raised by nothing: kept so that a later repair can name an access the spec says does not exist.
  Safe: the machine would stop where the hardware goes on. -/
  | absent
deriving DecidableEq, Repr

/-- Reasons a step is refused. -/
inductive Refusal where
  /-- Raised by an arm of the dispatch whose command has no meaning yet. Safe: the model stops. -/
  | notModelled (mnemonic : String)
deriving DecidableEq, Repr

/-- Everything the spec gives the module. -/
structure State where
  /-- commands waiting, first in, first out -/
  pending : List Instr
  phys : Phys
  bar : Bar
  host : Queues
  ev : Ev
  spin : Spin
  stores : Stores
  mem : Mem
  arr : Arr
  conv : Conv
  plans : Plans
  cal : Cal
  model : Model
  integ : Integ
  serve : Serve
  trust : Trust
  net : Net
  out : Out
  /-- the model's own counter for the values the spec leaves open -/
  free : Nat
deriving DecidableEq, Repr

/-- Power is good, PERST# is released, the mask ROM is busy (R495, R459). -/
def Phys.reset : Phys :=
  { powered := true, pwrGood := true, perst := false, trip := false, tripCause := 0, coldNext := false,
    state := 0, fatal := 0, pufFailed := false, bootAddr := 0, bootLength := 0, bootState := 0,
    bootError := 0, bootAttempts := 0, image := none, fw := none, trainings := 0, trainFailed := false,
    svnFuses := 0#32, link := true, rate := 32, width := 16, resetDue := false }

/-- BAR0 after reset (R459). -/
def Bar.reset : Bar :=
  { asqBase := 0, acqBase := 0, asqExp := 0, acqExp := 0, enable := false, active := false,
    error := false, cause := 0, hostFlags := 0#6, hostSets := [], syncFlags := 0#6, syncSets := [],
    latches := [] }

/-- No queue exists after reset. -/
def Queues.reset : Queues :=
  { sqs := [], cqs := [], evqs := [], outqs := [], bells := [], fetched := [], nextTag := 0,
    lastSq := 0, zeroNext := true, waitCpl := [], waitEv := [], waitOut := [], deleting := [], orphans := [], stackResets := [] }

/-- The black box after a cold reset (R419). -/
def Ev.reset : Ev :=
  { frozen := false, cause := 0, box := [], written := 0, dropped := 0, freezeCount := 0, seqs := [],
    turnMarks := [], snapSeq := 0, snapCount := 0, snapSources := [], snapQueues := [] }

/-- The spindle unit after reset: no source, Economy (R41, R32). -/
def Spin.reset : Spin :=
  { state := 0, source := 0, port := 0, outEnable := 0, count := 0, lastTurn := none,
    selfStart := none, badRun := 0, invalid := 0, stutters := 0, slips := 0, held := false,
    atTurn := false, tick := 0, everLocked := false, hops := 0, stopTick := 0,
    power := 2, pend := none }

/-- Stores hold zero and every word is empty (R339). -/
def Stores.reset : Stores := { mem := [], full := [], empties := [], writes := [] }

/-- Memories list nothing (log 5). -/
def Mem.reset : Mem := { package := [], module := [], scratch := [], order := [] }

/-- Deck 0 is active everywhere, buffers are off (R109, R114). -/
def Arr.reset : Arr := { active := [], noDeck := [], refs := [], refOn := [], cells := [], ordinal := [] }

/-- Converters are untrimmed and idle (R138, R154). -/
def Conv.reset : Conv :=
  { trims := [], spare := [], valid := [], calCount := [], runs := [], mons := [], holds := [], acts := [], marked := [] }

/-- No plan is loaded. -/
def Plans.reset : Plans :=
  { loaded := [], parts := [], flies := [], nextFly := 0, queues := [], nextReq := 0, scratched := [] }

/-- The policy's defaults (R238). -/
def Policy.reset : Policy :=
  { rate := 12, glide := false, window := 512, gainStep := 16, offsetStep := 16, seed := 0 }

/-- Factors are provisional, the epoch is 0 (R168, R232). -/
def Cal.reset : Cal :=
  { words := [], drifts := [], signs := [], epoch := 0, stamps := [], policy := .reset, staged := [],
    glides := [], cands := [], failing := [], windows := [], drift := [], leak := [], stats := [],
    swaps := [], stagedSwaps := [], refSel := [], stagedRefs := [], stagedMaps := [], dropped := [],
    repairs := [], restores := [], warmups := [], forward := [], released := [] }

/-- No deck is bound, no entry valid, no key or manifest held (R249, R252). -/
def Model.reset : Model :=
  { dir := [], decks := [], counters := [], chuck := [], bindKey := none, serial := 0, manifests := [],
    banks := [], switches := [], drains := [], installs := [], writes := [], loops := [], probes := [],
    pool := [], leaving := [], adapters := [], current := [], upcoming := [], retiring := [], adopt := [], broken := [] }

/-- The substitution table is the identity (R410); the policy of R422. -/
def Integ.reset : Integ :=
  { subst := [], sums := [], vars := [], cores := [], marks := [], intense := [], clearing := [], failedTest := [],
    hones := [], local_ := true, autoHone := false, partners := [], wait := 256, readReplays := [],
    noise := [], suspects := [], replaced := [] }

/-- No context or session (R273, R310). -/
def Serve.reset : Serve :=
  { ctxs := [], sessions := [], queue := [], jobs := [], quotas := [], moves := [], replays := [],
    nextReplay := 0, admits := [], refused := 0 }

/-- No tenant, binding or log entry; the running digest is 32 zero bytes (R436); the generator is seeded from entropy, and the
module-memory key is its first request (R431, R432). -/
def Trust.resetWith (e : BitVec 384) : Trust :=
  let r := (Drbg.seeded e).generate 64
  { tenants := [], binds := [], planKeys := [], log := [], digest := zeros 32, memKey := r.1, drbg := r.2
    spdm := [], ide := [] }

/-- Every port is Disabled and no map is held (R375). -/
def Net.reset : Net :=
  { conns := [], enables := [], frames := [], nextFrame := 0, used := [], queue := [], failed := [], errors := [], sends := [],
    incoming := [], arrivals := [], map := none, old := [], staged := none, applied := [], inbox := [] }

/-- Nothing has left the module. -/
def Out.reset : Out :=
  { host := [], frames := [], markers := [], spindle := [], reads := [], config := [], spdm := [] }

/-- The module right after the release of a cold reset. The first value of the entropy source has seeded the generator (R431). -/
def State.reset : State :=
  { pending := [], phys := .reset, bar := .reset, host := .reset, ev := .reset, spin := .reset,
    stores := .reset, mem := .reset, arr := .reset, conv := .reset, plans := .reset, cal := .reset, model := .reset,
    integ := .reset, serve := .reset, trust := .resetWith (Config.entropy 0), net := .reset,
    out := .reset, free := 1 }

end Sys2Proof.Machine
end

