-- ==== Sys2Proof/Machine/Flags.lean ====
section
/-!
DEFINITION. The two W1C flag registers of BAR0 and their set counters (R359).
-/

namespace Sys2Proof.Machine

/-- A counter after one more setting: it saturates at 255 (R359). -/
def bump (t : Tab Nat) (k : Nat) : Tab Nat := tmod 0 t k fun n => min 255 (n + 1)

/-- Hardware sets bit `k` of HOST_FLAGS (R359). -/
def setHostFlag (k : Nat) (s : State) : State :=
  { s with bar := { s.bar with
      hostFlags := s.bar.hostFlags ||| BitVec.ofNat 6 (2 ^ k), hostSets := bump s.bar.hostSets k } }

/-- Hardware sets bit `k` of SYNC_FLAGS (R359). -/
def setSyncFlag (k : Nat) (s : State) : State :=
  { s with bar := { s.bar with
      syncFlags := s.bar.syncFlags ||| BitVec.ofNat 6 (2 ^ k), syncSets := bump s.bar.syncSets k } }

/-- EVQ_OVERFLOW -/
def flagOverflow : Nat := 0
/-- EVENT_UNROUTED -/
def flagUnrouted : Nat := 1
/-- DOORBELL_INVALID -/
def flagInvalid : Nat := 2
/-- DOORBELL_STRAY -/
def flagStray : Nat := 3
/-- QUEUE_FAULT -/
def flagFault : Nat := 4
/-- LINK_CHANGE -/
def flagLink : Nat := 5

/-- The counters after a clear of the bits in `clear`: a cleared counter is 0 (R359). -/
def clearSets (t : Tab Nat) (clear : BitVec 6) : Tab Nat :=
  (List.range 6).foldl (fun t k => if clear.getLsbD k then tset 0 t k 0 else t) t

/-- A write of `value` to HOST_FLAGS; hardware sets the bits of `raced` in the same cycle, and the set
wins: the flag stays set and its counter is not cleared, and increments (R359). -/
def clearHostFlags (value : BitVec 32) (raced : BitVec 6) (s : State) : State :=
  let clear := value.setWidth 6 &&& ~~~raced
  let s := { s with bar := { s.bar with
    hostFlags := s.bar.hostFlags &&& ~~~clear, hostSets := clearSets s.bar.hostSets clear } }
  (List.range 6).foldl (fun s k => if raced.getLsbD k then setHostFlag k s else s) s

/-- A write of `value` to SYNC_FLAGS, as for HOST_FLAGS. -/
def clearSyncFlags (value : BitVec 32) (raced : BitVec 6) (s : State) : State :=
  let clear := value.setWidth 6 &&& ~~~raced
  let s := { s with bar := { s.bar with
    syncFlags := s.bar.syncFlags &&& ~~~clear, syncSets := clearSets s.bar.syncSets clear } }
  (List.range 6).foldl (fun s k => if raced.getLsbD k then setSyncFlag k s else s) s

end Sys2Proof.Machine
end

