-- ==== Sys2Proof/Machine/Ops.lean ====
section
/-!
DEFINITION. The named operations over the state: events and the black box (R416 to R419, R482 to
R490), host memory writes and completions (R455 to R481), and the words of stores (R22, R339 to R344).
-/

namespace Sys2Proof.Machine

/-! ### Free values -/

/-- A value the spec leaves open, and the state with the counter advanced (log 8). -/
def fresh (s : State) : BitVec 512 × State := (Config.fresh s.free, { s with free := s.free + 1 })

/-- `n` random bytes of the generator, which is reseeded every 2^20 requests (R431). -/
def randomBytes (n : Nat) (s : State) : Bytes × State :=
  let late := decide (2 ^ 20 ≤ s.trust.drbg.count)
  let d := if late then s.trust.drbg.reseed (Config.entropy s.free) else s.trust.drbg
  let r := d.generate n
  (r.1, { s with free := s.free + b2n late, trust := { s.trust with drbg := r.2 } })

/-- A number of `w` bits that the spec leaves open (log 8). -/
def freeBits (w : Nat) (s : State) : Nat × State :=
  let r := fresh s
  (r.1.toNat % 2 ^ w, r.2)

/-! ### Host memory -/

/-- Write bytes to host memory under a function's requester ID (R466); the write waits while the link is down
(R456). -/
def hostWrite (fn addr : Nat) (b : Bytes) (s : State) : State :=
  if s.phys.link then { s with out := { s.out with host := s.out.host ++ [⟨fn, addr, b⟩] } }
  else { s with host := { s.host with waitOut := s.host.waitOut ++ [⟨fn, addr, b⟩] } }

/-! ### Rings -/

/-- Entries of a ring of `2^exp` entries that are free: writing one must not make the tail equal the
head (R467). -/
def ringFree (exp head tail : Nat) : Nat := 2 ^ exp - 1 - (tail + 2 ^ exp - head) % 2 ^ exp

/-- The tail after one more entry. -/
def ringNext (exp tail : Nat) : Nat := (tail + 1) % 2 ^ exp

/-- An entry with its phase in bit 7 of byte 31 (R479, R482). -/
def withPhase (e : Bytes) (phase : Bool) : Bytes :=
  e.take 31 ++ [BitVec.ofNat 8 ((byteAt e 31).toNat % 128 + 128 * b2n phase)]

/-! ### Events -/

/-- The records of an event: one, or two when the payload exceeds 15 bytes (R482, R483). -/
def eventRecords (src code seq count sev : Nat) (pay : Bytes) : List Bytes :=
  let head := fun (q ctrl : Nat) => le 2 src ++ le 2 code ++ le 4 q ++ le 8 count ++ padTo 15 pay ++
    [BitVec.ofNat 8 ctrl]
  if pay.length ≤ 15 then [head seq sev] else
  [head seq (sev + 16),
   le 2 src ++ le 2 0xFFFF ++ le 4 (seq + 1) ++ padTo 8 (pay.drop 15) ++ padTo 15 (pay.drop 23) ++
     [BitVec.ofNat 8 sev]]

/-- The sequence number of a source's next record (R488). -/
def nextSeq (s : State) (src : Nat) : Nat :=
  match tget none s.ev.seqs src with
  | none => 0
  | some n => (n + 1) % 2 ^ 32

/-- Record in the black box, or count the drop while it is frozen (R416, R418). -/
def boxRecord (r : Bytes) (s : State) : State :=
  if s.ev.frozen then
    { s with ev := { s.ev with dropped := min (2 ^ 32 - 1) (s.ev.dropped + 1) } }
  else
    { s with ev := { s.ev with
        box := tset [] s.ev.box (s.ev.written % 65536) r, written := s.ev.written + 1 } }

/-- Write one entry at the tail of an event queue. -/
def evqPut (q : Nat) (r : Bytes) (s : State) : State :=
  match tget none s.host.evqs q with
  | none => s
  | some e =>
    let s := hostWrite 0 (e.base + 32 * e.tail) (withPhase r e.phase) s
    let t := ringNext e.exp e.tail
    let qs := tset none s.host.evqs q (some { e with tail := t, phase := if t = 0 then !e.phase else e.phase })
    { s with host := { s.host with evqs := qs } }

/-- Deliver a record or a pair to event queue `q`; one that finds too few free entries is not
delivered and sets EVQ_OVERFLOW (R490, R470). -/
def evqDeliver (q : Nat) (rs : List Bytes) (s : State) : State :=
  match tget none s.host.evqs q with
  | none => s
  | some e =>
    if e.faulted || decide (ringFree e.exp e.head e.tail < rs.length) then setHostFlag flagOverflow s
    else rs.foldl (fun s r => evqPut q r s) s

/-- The event queue that claims a source class (R489). -/
def evqOf (s : State) (cls : Nat) : Option Nat :=
  ((tvals s.host.evqs).find? fun (_, e) => e.mask.testBit cls).map (·.1)

/-- Route the records of one event: to the queue that claims the class, to wait for the link, or to
the black box only, where each record sets EVENT_UNROUTED (R456, R489). -/
def routeRecords (cls : Nat) (rs : List Bytes) (s : State) : State :=
  match evqOf s cls with
  | none => rs.foldl (fun s _ => setHostFlag flagUnrouted s) s
  | some q =>
    if s.phys.link then evqDeliver q rs s
    else { s with host := { s.host with waitEv := s.host.waitEv ++ [(q, rs)] } }

/-- Post an event: number its records, record them in the black box, then deliver them (R416, R417). -/
def postEvent (cls inst code sev : Nat) (pay : Bytes) (s : State) : State :=
  let src := cls * 1024 + inst
  let seq := nextSeq s src
  let rs := eventRecords src code seq s.spin.count sev pay
  let s := { s with ev := { s.ev with
    seqs := tset none s.ev.seqs src (some ((seq + rs.length - 1) % 2 ^ 32)) } }
  routeRecords cls rs (rs.foldl (fun s r => boxRecord r s) s)

/-- Post an event unless the turn already holds its mark. -/
def postOncePerTurn (cls inst code sev subject : Nat) (pay : Bytes) (s : State) : State :=
  if s.ev.turnMarks.contains (code, subject) then s else
  postEvent cls inst code sev pay
    { s with ev := { s.ev with turnMarks := s.ev.turnMarks ++ [(code, subject)] } }

/-! ### Completions -/

/-- A completion entry without its phase (R479). COUNT is 0 while no source has been Locked since
reset. -/
def cplEntry (s : State) (f : Fetched) (status sub result : Nat) : Bytes :=
  (f.raw.drop 4).take 4 ++ le 2 status ++ le 2 sub ++ le 8 result ++
    le 8 (if s.spin.everLocked then s.spin.count else 0) ++ le 2 f.head ++ le 1 f.sq ++ zeros 5

/-- Write a completion at the tail of its queue; one due to a faulted queue is discarded (R470). -/
def cqPut (q : Nat) (e : Bytes) (s : State) : State :=
  match tget none s.host.cqs q with
  | none => s
  | some c =>
    if c.faulted then s else
    let s := hostWrite c.owner (c.base + 32 * c.tail) (withPhase e c.phase) s
    let t := ringNext c.exp c.tail
    let qs := tset none s.host.cqs q (some { c with tail := t, phase := if t = 0 then !c.phase else c.phase })
    { s with host := { s.host with cqs := qs } }

/-- Complete a fetched command: its entry is written, or waits for the link (R456), and the command is
no longer held. -/
def completeOne (tag status sub result : Nat) (s : State) : State :=
  match tget none s.host.fetched tag with
  | none => s
  | some f =>
    let e := cplEntry s f status sub result
    let s := { s with host := { s.host with fetched := tdel s.host.fetched tag } }
    if f.lost then s
    else if s.phys.link then cqPut f.cq e s
    else { s with host := { s.host with waitCpl := s.host.waitCpl ++ [(f.cq, e)] } }

/-- Whether a fetched command of submission queue `q` has not completed. -/
def sqBusy (s : State) (q : Nat) : Bool := (tvals s.host.fetched).any fun (_, f) => f.sq == q && !f.lost

/-- QUEUE_DELETE of a submission queue completes after every fetched command of that queue (R471). -/
def finishDeletes (s : State) : State :=
  let ready := s.host.deleting.filter fun (_, q, _) => !sqBusy s q
  let s := { s with host := { s.host with deleting := s.host.deleting.filter fun (_, q, _) => sqBusy s q } }
  ready.foldl (fun s (tag, _, n) => completeOne tag 0 0 n s) s

/-- A disabled admin pair goes out of use after the last fetched admin command (R460). -/
def finishAdmin (s : State) : State :=
  if s.bar.active && !s.bar.enable && !sqBusy s 0 && s.host.waitCpl.all (fun (q, _) => q != 0) then
    { s with
      bar := { s.bar with active := false }
      host := { s.host with sqs := tdel s.host.sqs 0, cqs := tdel s.host.cqs 0 } }
  else s

/-- Complete a fetched command, and what its completion lets end. -/
def complete (tag status sub result : Nat) (s : State) : State :=
  finishAdmin (finishDeletes (completeOne tag status sub result s))

/-! ### Words of the stores -/

/-- The first word of a core's store, by physical core. -/
def coreBase (st core : Nat) : Nat := (st * 640 + core) * 32768

/-- The first word of a stack store. -/
def stackBase (st : Nat) : Nat := 335544320 + st * 6291456

/-- The stack that holds a word. -/
def wordStack (g : Nat) : Nat :=
  if g < 335544320 then g / 32768 / 640 else (g - 335544320) / 6291456

/-- The contents of a word. -/
def wordAt (s : State) (g : Nat) : Bytes := mread s.stores.mem (32 * g) 32

/-- The bytes of `n` words from word `g` on. -/
def wordsAt (s : State) (g n : Nat) : Bytes := mread s.stores.mem (32 * g) (32 * n)

/-- The full/empty bit of a word. -/
def fullAt (s : State) (g : Nat) : Bool := tget false s.stores.full g

/-- Bytes cut into words from word `g` on, the last padded with zeros. -/
def toWords (g : Nat) (b : Bytes) : List (Nat × Bytes) :=
  (List.range ((b.length + 31) / 32)).map fun k => (g + k, slice b (32 * k) 32)

/-- Write words at once, without full/empty effects. -/
def putWords (ws : List (Nat × Bytes)) (s : State) : State :=
  { s with stores := { s.stores with
      mem := ws.foldl (fun m (g, b) => mwrite m (32 * g) (padTo 32 b)) s.stores.mem } }

/-- Make words full at once. -/
def fillWords (gs : List Nat) (s : State) : State :=
  { s with stores := { s.stores with full := gs.foldl (fun t g => tset false t g true) s.stores.full } }

/-- Make words empty at once. -/
def emptyWords (gs : List Nat) (s : State) : State :=
  { s with stores := { s.stores with full := gs.foldl (fun t g => tset false t g false) s.stores.full } }

/-- Empty every bit in the stores of a stack; contents stay (R339). -/
def emptyStack (st : Nat) (s : State) : State :=
  { s with stores := { s.stores with full := s.stores.full.filter fun (g, _) => wordStack g != st } }

/-- A stack's stores return to zero contents and empty bits (R339, R502). -/
def clearStack (st : Nat) (s : State) : State :=
  let s := emptyStack st s
  { s with stores := { s.stores with mem := s.stores.mem.filter fun (a, _) => wordStack (a / 32) != st } }

/-- Words to be emptied at the end of the index (R340). -/
def drainWords (gs : List Nat) (s : State) : State :=
  { s with stores := { s.stores with empties := s.stores.empties ++ gs } }

/-! ### Package and module memory -/

/-- Bytes of one stack's package memory (R25). -/
def packageSize : Nat := 51539607552

/-- Bytes of module memory on the K9M-16S-C2X (R26). -/
def moduleSize : Nat := 2199023255552

/-- Read the package memory of a stack. -/
def packageRead (s : State) (st a n : Nat) : Bytes := mread s.mem.package (st * packageSize + a) n

/-- Write the package memory of a stack. -/
def packageWrite (st a : Nat) (b : Bytes) (s : State) : State :=
  { s with mem := { s.mem with package := mwrite s.mem.package (st * packageSize + a) b } }

/-- Read module memory. -/
def moduleRead (s : State) (a n : Nat) : Bytes := mread s.mem.module a n

/-- What the module-memory devices hold of a tile: its contents and their CRC-32C, encrypted under the module-memory key with the
tile's number as tweak (R399, R433). That the CRC is the tail of the data unit is the model's choice (DESIGN CHOICE, log 9). -/
def moduleStored (s : State) (tile : Nat) : Bytes :=
  let b := moduleRead s (4096 * tile) 4096
  xtsSeal s.trust.memKey tile (b ++ le 4 (crc32c b))

/-- Write module memory. -/
def moduleWrite (a : Nat) (b : Bytes) (s : State) : State :=
  { s with mem := { s.mem with module := mwrite s.mem.module a b } }

/-! ### Running plans -/

/-- The plan key of an ID and version. -/
def planKey (id version : Nat) : Nat := id * 65536 + version

/-- The partition key. -/
def partKey (plan part : Nat) : Nat := plan * 16 + part

/-- A loaded plan. -/
def planAt (s : State) (k : Nat) : Option Plan := tget none s.plans.loaded k

/-- A running partition. -/
def partAt (s : State) (k : Nat) : Option Part := tget none s.plans.parts k

/-- An operation in flight. -/
def flyAt (s : State) (id : Nat) : Option Fly := tget none s.plans.flies id

/-- Replace a loaded plan. -/
def setPlan (k : Nat) (p : Option Plan) (s : State) : State :=
  { s with plans := { s.plans with loaded := tset none s.plans.loaded k p } }

/-- Replace a running partition. -/
def setPart (k : Nat) (p : Option Part) (s : State) : State :=
  { s with plans := { s.plans with parts := tset none s.plans.parts k p } }

/-- Replace an operation in flight. -/
def setFly (id : Nat) (f : Option Fly) (s : State) : State :=
  { s with plans := { s.plans with flies := tset none s.plans.flies id f } }

/-- The running partitions with their keys. -/
def parts (s : State) : List (Nat × Part) := tvals s.plans.parts

/-- The loaded plans with their keys. -/
def plansOf (s : State) : List (Nat × Plan) := tvals s.plans.loaded

/-- The operations in flight of a partition. -/
def fliesOf (s : State) (pk : Nat) : List (Nat × Fly) := (tvals s.plans.flies).filter fun (_, f) => f.part == pk

/-- The running partition that holds a stack. -/
def partOfStack (s : State) (st : Nat) : Option (Nat × Part) :=
  (parts s).find? fun (_, p) => p.d.mask.testBit st

/-- The 13-byte pass reference of plan-driven events (R485). -/
def passRef (k : Nat) (start : Nat) : Bytes := le 4 (k / 16 / 65536) ++ le 1 (k % 16) ++ le 8 start

/-- Post a plan-driven event of a running partition (R485, R487). -/
def postPlan (pk code sev : Nat) (pay : Bytes) (s : State) : State :=
  let start := match partAt s pk with
    | some p => p.start
    | none => 0
  postEvent 3 (pk % 16) code sev (passRef pk start ++ pay) s

/-- Post a plan-driven event unless the pass already holds its mark. -/
def postOncePerPass (pk code sev subject : Nat) (pay : Bytes) (s : State) : State :=
  match partAt s pk with
  | none => s
  | some p =>
    if p.marks.contains (code, subject) then s else
    postPlan pk code sev pay (setPart pk (some { p with marks := p.marks ++ [(code, subject)] }) s)

end Sys2Proof.Machine
end

