-- ==== Sys2Proof/Machine/Operands.lean ====
section
/-!
DEFINITION. Operand forms: the command packet (R474 to R478), and the store addresses and fields of
cut-list words (R61 to R63).
-/

namespace Sys2Proof.Machine

/-! ### Command packets -/

/-- A command as its meaning sees it. -/
structure Cmd where
  tag : Nat
  f : Fetched
  /-- the out-of-line block as read -/
  param : Bytes
  /-- the data as read -/
  data : Bytes
  /-- bytes 48–63 of the packet hold a tag (R447) -/
  tagged : Bool
deriving DecidableEq, Repr

/-- OPCODE of a packet. -/
def opcodeOf (raw : Bytes) : Nat := fld raw 0 2

/-- A field of the packet. -/
def Cmd.at (c : Cmd) (off len : Nat) : Nat := fld c.f.raw off len

/-- CMD_ID. -/
def Cmd.id (c : Cmd) : Nat := c.at 4 4
/-- TENANT. -/
def Cmd.tenant (c : Cmd) : Nat := c.at 8 2
/-- PARAM_LENGTH. -/
def Cmd.paramLen (c : Cmd) : Nat := c.at 12 4
/-- DATA_PTR. -/
def Cmd.dataPtr (c : Cmd) : Nat := c.at 24 8
/-- DATA_LENGTH. -/
def Cmd.dataLen (c : Cmd) : Nat := c.at 32 8

/-- The status with which a command fails: status, sub-status, result. -/
structure Fail where
  status : Nat
  sub : Nat
  result : Nat
deriving DecidableEq, Repr

/-- The sub-status of R481 for a byte offset in an area: 0 packet, 1 parameter block, 2 data. -/
def areaSub (area off : Nat) : Nat := area * 16384 + (if off ≤ 16382 then off else 0x3FFF)

/-- A check: whether it fails, and with what. -/
abbrev Check := Bool × Fail

/-- The first check that fails (R475). -/
def firstFail : List Check → Option Fail
  | [] => none
  | (bad, f) :: l => if bad then some f else firstFail l

/-- INVALID_FIELD at a byte of the packet. -/
def badField (off : Nat) (bad : Bool) : Check := (bad, ⟨4, areaSub 0 off, 0⟩)

/-- INVALID_FIELD at a byte of the parameter block. -/
def badParam (off : Nat) (bad : Bool) : Check := (bad, ⟨4, areaSub 1 off, 0⟩)

/-- INVALID_FIELD at a byte of the data. -/
def badData (off : Nat) (bad : Bool) : Check := (bad, ⟨4, areaSub 2 off, 0⟩)

/-- INVALID_FIELD at a byte of a plan image, whose full offset the result holds (R522). -/
def badImage (off : Nat) (bad : Bool) : Check := (bad, ⟨4, areaSub 2 off, off⟩)

/-- LENGTH_EXCEEDS_BUFFER at a length field of the data. -/
def badDataLength (off : Nat) (bad : Bool) : Check := (bad, ⟨5, areaSub 2 off, 0⟩)

/-- LENGTH_EXCEEDS_BUFFER at a length field of the packet. -/
def badLength (off : Nat) (bad : Bool) : Check := (bad, ⟨5, areaSub 0 off, 0⟩)

/-- BUSY -/
def busy (bad : Bool) : Check := (bad, ⟨2, 0, 0⟩)
/-- NOT_AUTHORISED with a sub-status of R452 or R481. -/
def unauthorised (sub : Nat) (bad : Bool) : Check := (bad, ⟨6, sub, 0⟩)
/-- INTEGRITY_FAIL -/
def integrity (sub : Nat) (bad : Bool) : Check := (bad, ⟨7, sub % 65536, sub⟩)
/-- RESOURCE_EXHAUSTED -/
def exhausted (bad : Bool) : Check := (bad, ⟨9, 0, 0⟩)
/-- NOT_CALIBRATED -/
def uncalibrated (bad : Bool) : Check := (bad, ⟨0xB, 0, 0⟩)
/-- VERSION_IN_USE -/
def inUse (bad : Bool) : Check := (bad, ⟨0xC, 0, 0⟩)
/-- STATE_CONFLICT -/
def conflict (bad : Bool) : Check := (bad, ⟨0xD, 0, 0⟩)

/-- The command is permitted on the physical function only (step 5 of R475). -/
def pfOnly (c : Cmd) : Check := unauthorised 6 (c.f.fn != 0)

/-- What a command's out-of-line block or data buffer must be. -/
inductive Buf where
  /-- none: length and pointer 0 -/
  | none
  /-- a length that is not 0, checked further by the command -/
  | some
  /-- a length the command itself checks, 0 included -/
  | any
deriving DecidableEq, Repr

/-- Whether a length of 0, or one that is not 0, breaks the rule (R476). -/
def Buf.bad (b : Buf) (len : Nat) : Bool :=
  match b with
  | .none => len != 0
  | .some => len == 0
  | .any => false

/-- FLAGS, a TENANT of 0xFFFF, which never names a tenant, reserved header bytes, lengths of 0 and pointers (R18, R474,
R476). -/
def headChecks (c : Cmd) (param data : Buf) (align : Nat) : List Check :=
  [ badField 2 (c.at 2 1 / 2 != 0),
    badField 8 (c.tenant == 0xFFFF),
    badField 10 (c.at 10 2 != 0),
    badField 12 (param.bad c.paramLen),
    badField 16 (c.at 16 8 % 8 != 0 || (c.paramLen == 0 && c.at 16 8 != 0)),
    badField 24 (c.dataPtr % align != 0 || (c.dataLen == 0 && c.dataPtr != 0)),
    badField 32 (data.bad c.dataLen) ]

/-- Reserved inline bytes; bytes 48 to 63 of a tagged command hold its tag. -/
def inlineZero (c : Cmd) (off len : Nat) : Check :=
  let len := if c.tagged then min len (48 - off) else len
  badField off (!zeroAt c.f.raw off len)

/-- Write a command's data buffer: to the issuing function's memory at DATA_PTR. -/
def writeData (c : Cmd) (b : Bytes) (s : State) : State := hostWrite c.f.fn c.dataPtr b s

/-! ### Cut-list words -/

/-- Bits `[hi:lo]` of an operation's operands. -/
def opBits (op : PlanOp) (hi lo : Nat) : Nat := bits op.opnd.toNat hi lo

/-- A cut-list word read from its 16 bytes (R61). -/
def planOp (b : Bytes) (pos : Nat) : PlanOp :=
  let w := fld b 0 16
  { offset := bits w 127 108, kind := bits w 107 104, unit := bits w 103 92, code := bits w 91 84,
    guard := bit w 83, fill := bit w 82, drain := bit w 81, opnd := BitVec.ofNat 80 w, pos := pos }

/-- The position of a unit of a stack: stack, kind and number in ascending order (R344). -/
def unitPos (st : Nat) (op : PlanOp) : Nat := (st * 16 + op.kind) * 4096 + op.unit

/-- The core a core or engine unit names. -/
def opCore (op : PlanOp) : Nat := op.unit / 4

/-- Where a WADDR points (R62), before any substitution of cores: a space and word, or nothing where
the address breaks the rule. `own` is the issuing unit's core, none for units without one. -/
def waddr (own : Option Nat) (a : Nat) : Option (Nat × Nat × Nat) :=
  let space := bits a 31 30
  if space = 0 then
    match own with
    | none => none
    | some c => if bits a 29 15 = 0 then some (1, c, bits a 14 0) else none
  else if space = 1 then
    let c := bits a 24 15
    if bits a 29 25 = 0 ∧ c < 640 then some (1, c, bits a 14 0) else none
  else if space = 2 then
    let w := bits a 22 0
    if bits a 29 23 = 0 ∧ w < 6291456 then some (2, 0, w) else none
  else none

/-- The core whose own store space 0 names: that of a core or an engine. -/
def opOwn (op : PlanOp) : Option Nat := if op.kind ≤ 1 then some (opCore op) else none

end Sys2Proof.Machine
end

