-- ==== Sys2Proof/Machine/Loader.lean ====
section
/-!
DEFINITION. The plan loader: what PLAN_LOAD reads from a plan image and every refusal it can make from
the image alone (R58 to R68, R86, R107, R109, R162, R166, R167, R181, R201, R204, R209, R219, R266, R288,
R318, R346, R349, R350, R364, R365, R382, R520 to R522).
-/

namespace Sys2Proof.Machine

/-! ### Header and section table -/

/-- An entry of the section table, with its own place in the image. -/
structure Section where
  entry : Nat
  type : Nat
  part : Nat
  st : Nat
  off : Nat
  len : Nat
deriving DecidableEq, Repr

/-- IMAGE_LENGTH. -/
def imageLength (b : Bytes) : Nat := fld b 16 8
/-- SIGNATURE_OFFSET. -/
def sigOffset (b : Bytes) : Nat := fld b 40 4
/-- The byte after the section table. -/
def tableEnd (b : Bytes) : Nat := fld b 36 4 + 16 * fld b 34 2
/-- PARTITION_COUNT. -/
def partCount (b : Bytes) : Nat := (fld b 31 1)

/-- The section table. -/
def sections (b : Bytes) : List Section :=
  (List.range (fld b 34 2)).map fun k =>
    let e := fld b 36 4 + 16 * k
    ⟨e, fld b e 1, fld b (e + 1) 1, fld b (e + 2) 1, fld b (e + 8) 8, 16 * fld b (e + 4) 4⟩

/-- Checks of the header (R58, signature block). `id` is the command's PLAN_ID. -/
def headerChecks (b : Bytes) (id : Nat) : List Check :=
  let sig := sigOffset b
  [ badImage 0 (fld b 0 4 != 0x5054394B),
    badImage 4 (fld b 4 2 != 1),
    badImage 6 (fld b 6 2 != 256),
    badImage 8 (fld b 8 4 != id),
    badImage 14 (fld b 14 2 != 0),
    badImage 16 (imageLength b % 16 != 0 || imageLength b != sig + 16 + 432 * fld b sig 1),
    badImage 30 (decide (2 < fld b 30 1)),
    badImage 31 (partCount b == 0 || decide (16 < partCount b)),
    badImage 32 (decide (1 < fld b 32 2)),
    badImage 34 (fld b 34 2 == 0 || decide (4096 < fld b 34 2)),
    badImage 36 (fld b 36 4 % 16 != 0 || decide (fld b 36 4 < 256)),
    badImage 40 (sig % 16 != 0 || decide (sig < tableEnd b)),
    badImage 44 (fld b 44 4 != 0),
    badImage 80 (!zeroAt b 80 176),
    badImage sig (fld b sig 1 == 0 || decide (2 < fld b sig 1)),
    badImage (sig + 1) (!zeroAt b (sig + 1) 15) ] ++
  (List.range (fld b sig 1)).flatMap fun k =>
    let e := sig + 16 + 432 * k
    [badImage e (decide (1 < fld b e 1)), badImage (e + 1) (!zeroAt b (e + 1) 15)]

/-- Whether two sections overlap. -/
def overlap (x y : Section) : Bool := decide (x.off < y.off + y.len) && decide (y.off < x.off + x.len)

/-- Section kinds of which a partition has exactly one, or one for each stack. -/
def sameSection (x y : Section) : Bool := x.type == y.type && x.part == y.part && x.st == y.st && x.type != 6

/-- Checks of one section table entry against those before it (R58, R59). -/
def entryChecks (b : Bytes) (before : List Section) (x : Section) : List Check :=
  let perStack := x.type == 2 || x.type == 6
  [ badImage x.entry (x.type == 0 || decide (6 < x.type) || before.any (sameSection x)),
    badImage (x.entry + 1) (decide (partCount b ≤ x.part)),
    badImage (x.entry + 2) (if perStack then decide (15 < x.st) else x.st != 0xFF),
    badImage (x.entry + 3) (fld b (x.entry + 3) 1 != 0),
    badImage (x.entry + 4) (x.len == 0),
    badImage (x.entry + 8) (x.off % 16 != 0 || decide (x.off < tableEnd b) ||
      (decide (sigOffset b < x.off + x.len) && decide (x.off + x.len ≤ imageLength b)) ||
      before.any (overlap x)) ]

/-- Checks of all entries, each against those before it. -/
def tableChecks (b : Bytes) : List Section → List Section → List Check
  | _, [] => []
  | before, x :: l => entryChecks b before x ++ tableChecks b (x :: before) l

/-- The section of a kind of a partition. -/
def sectionOf (secs : List Section) (type part : Nat) : Option Section :=
  secs.find? fun x => x.type == type && x.part == part

/-- Where a section of a kind of a partition begins; 0 where there is none. -/
def offOf (secs : List Section) (type part : Nat) : Nat :=
  match sectionOf secs type part with
  | some x => x.off
  | none => 0

/-- The stacks of a partition section. -/
def maskOf (b : Bytes) (secs : List Section) (p : Nat) : Nat := fld b (offOf secs 1 p + 2) 2

/-- Missing sections, and stacks outside their partition's STACK_MASK (R59). -/
def presentChecks (b : Bytes) (secs : List Section) : List Check :=
  (List.range (partCount b)).flatMap (fun p =>
    [ badImage 34 ([1, 3, 4, 5].any fun t => (sectionOf secs t p).isNone),
      badImage 34 ((List.range 16).any fun st => (maskOf b secs p).testBit st &&
        !secs.any fun x => x.type == 2 && x.part == p && x.st == st) ]) ++
  secs.map fun x => badImage (x.entry + 2) ((x.type == 2 || x.type == 6) && !(maskOf b secs x.part).testBit x.st)

/-! ### Addresses known at load -/

/-- The words a WADDR names in the stores of a stack by logical core: its first word and the words from
there to the end of its store. -/
def place (st : Nat) (own : Option Nat) (a : Nat) : Option (Nat × Nat) :=
  match waddr own a with
  | none => none
  | some (1, c, w) => some (coreBase st c + w, 32768 - w)
  | some (_, _, w) => some (stackBase st + w, 6291456 - w)

/-- Whether `n` words from a WADDR lie wholly within the named store (R520). -/
def fits (st : Nat) (own : Option Nat) (a n : Nat) : Bool :=
  match place st own a with
  | none => false
  | some (_, room) => decide (n ≤ room)

/-- Whether a WADDR names a word of the stack store with room for `n` words. -/
def fitsStack (st a n : Nat) : Bool := bits a 31 30 == 2 && fits st none a n

/-- The first word a WADDR names, 0 where it names none. -/
def word0 (st : Nat) (own : Option Nat) (a : Nat) : Nat :=
  match place st own a with
  | none => 0
  | some (g, _) => g

/-! ### Partitions, slots, links, barriers, preloads -/

/-- The number of stacks of a mask. -/
def popcount (n : Nat) : Nat := ((List.range 16).filter n.testBit).length

/-- Words of a slot's input record: 8 for a decode slot, 515 otherwise (R318). -/
def slotWords (kind : Nat) : Nat := if kind = 0 then 8 else 515

/-- Checks of a partition section (R60, R62, R181). -/
def partChecks (b : Bytes) (secs : List Section) (p : Nat) : List Check :=
  let o := offOf secs 1 p
  let turns := fld b (o + 1) 1
  let mask := fld b (o + 2) 2
  let slack := fld b (o + 4) 4
  let e := ((sectionOf secs 1 p).map (·.entry)).getD 0
  [ badImage (e + 4) (((sectionOf secs 1 p).map (·.len)).getD 64 != 64),
    badImage o (fld b o 1 != p),
    badImage (o + 1) (turns == 0 || decide (64 < turns)),
    badImage (o + 2) (mask == 0 || (List.range p).any fun q => (maskOf b secs q &&& mask) != 0),
    badImage (o + 4) (decide (turns * 8192 ≤ slack)),
    badImage (o + 8) (decide (4 * popcount mask * (turns * 8192 - slack) < fld b (o + 8) 4)),
    badImage (o + 12) (decide (16384 < fld b (o + 12) 2)),
    badImage (o + 14) (fld b (o + 14) 2 != 0),
    badImage (o + 16) (decide (524288 < fld b (o + 16) 4)),
    badImage (o + 20) (!fitsStack 0 (fld b (o + 20) 4) 1),
    badImage (o + 24) (!fitsStack 0 (fld b (o + 24) 4) 1),
    badImage (o + 28) (!zeroAt b (o + 28) 36) ]

/-- A slot table entry at a byte of the image. -/
def slotAt (b : Bytes) (o : Nat) : SlotDef :=
  ⟨fld b o 2, fld b (o + 2) 1, fld b (o + 3) 1, fld b (o + 4) 4, fld b (o + 8) 1⟩

/-- The bytes at which a partition's slot entries stand. -/
def slotOffs (b : Bytes) (secs : List Section) (p : Nat) : List Nat :=
  (List.range (fld b (offOf secs 1 p + 12) 2)).map fun k => offOf secs 3 p + 16 * k

/-- Checks of a slot entry (R66, R318, R520). -/
def slotChecks (b : Bytes) (secs : List Section) (p o : Nat) : List Check :=
  let d := slotAt b o
  [ badImage o (decide (16383 < d.slot)),
    badImage (o + 2) (decide (2 < d.kind)),
    badImage (o + 3) (if d.kind = 0 then d.maxCommit == 0 || decide (9 < d.maxCommit) else d.maxCommit != 0),
    badImage (o + 4) (!fitsStack 0 d.state (slotWords d.kind)),
    badImage (o + 8) (!(maskOf b secs p).testBit d.home || decide (15 < d.home)),
    badImage (o + 9) (!zeroAt b (o + 9) 7) ]

/-- Checks that no number of a list was met before: each element with the byte it is refused at. -/
def uniqueChecks : List Nat → List (Nat × Nat) → List Check
  | _, [] => []
  | seen, (k, o) :: l => badImage o (seen.contains k) :: uniqueChecks (k :: seen) l

/-- The bytes of a partition's 8-byte entries in a section, its padding left out (R60). -/
def entryOffs (b : Bytes) (secs : List Section) (type p : Nat) : List Nat :=
  match sectionOf secs type p with
  | none => []
  | some x =>
    let n := x.len / 8
    let zero := fun k => zeroAt b (x.off + 8 * k) 8
    let n := if n = 2 ∧ zero 0 ∧ zero 1 then 0 else if zero (n - 1) then n - 1 else n
    (List.range n).map fun k => x.off + 8 * k

/-- A link reservation entry. -/
def linkAt (b : Bytes) (o : Nat) : LinkRes := ⟨fld b o 2, fld b (o + 2) 2, fld b (o + 4) 1⟩

/-- Whether a LINK field names a link (link reservation entry). -/
def linkOk (l : Nat) : Bool :=
  let n := l % 4096
  if l / 4096 = 0 then decide (n < 64) else if l / 4096 = 1 ∨ l / 4096 = 2 then decide (n < 16)
  else if l / 4096 = 3 then decide (n < 15) else if l / 4096 = 4 then decide (n < 8) else false

/-- Checks of a link reservation entry, and of its slots against the entries before it (R60, R67). -/
def linkChecks (b : Bytes) : List LinkRes → List Nat → List Check
  | _, [] => []
  | before, o :: l =>
    let x := linkAt b o
    [ badImage o (!linkOk x.link),
      badImage (o + 2) (x.mask == 0 || before.any fun y => y.link == x.link && (y.mask &&& x.mask) != 0),
      badImage (o + 4) (decide (1 < x.vc)),
      badImage (o + 5) (!zeroAt b (o + 5) 3) ] ++ linkChecks b (x :: before) l

/-- A barrier definition entry. -/
def barrAt (b : Bytes) (o : Nat) : BarrDef := ⟨fld b o 2, fld b (o + 2) 2, fld b (o + 4) 1⟩

/-- Checks of a barrier definition entry (R60, R349). -/
def barrChecks (b : Bytes) (o : Nat) : List Check :=
  let x := barrAt b o
  [ badImage o (decide (4095 < x.id)),
    badImage (o + 2) (decide (x.need < 2) || decide (4096 < x.need)),
    badImage (o + 4) (decide (3 < x.scope)),
    badImage (o + 5) (!zeroAt b (o + 5) 3) ]

/-- Checks of a preload section: its prefix, and the end of the 512 MiB window (R68). -/
def preloadChecks (b : Bytes) (x : Section) : List Check :=
  [ badImage x.off (decide (536870912 < 32 * fld b x.off 8 + (x.len - 16))),
    badImage (x.off + 8) (!zeroAt b (x.off + 8) 8) ]

/-! ### Operation words -/

/-- Indices for which an operation occupies its unit (R63). -/
def busyOf (op : PlanOp) : Nat :=
  if op.code = 0x03 then 2
  else if op.code = 0x10 then (if bit op.opnd.toNat 13 then 2 else 1) * 2 ^ opBits op 12 11
  else if op.code = 0x11 then 4
  else 1

/-- Whether an operation may issue to a unit kind (R63). -/
def kindOk (code kind : Nat) : Bool :=
  if code = 0x00 then true
  else if code = 0x01 ∨ code = 0x02 ∨ code = 0x21 then kind == 1
  else if code = 0x03 ∨ code = 0x10 ∨ code = 0x11 then kind == 0
  else if code = 0x20 ∨ code = 0x23 ∨ code = 0x24 ∨ code = 0x52 ∨ code = 0x53 then kind == 1 || kind == 2
  else if code = 0x22 ∨ (0x40 ≤ code ∧ code ≤ 0x44) then kind == 2
  else if 0x30 ≤ code ∧ code ≤ 0x33 then kind == 4
  else if code = 0x50 ∨ code = 0x51 then kind == 1 || kind == 2 || kind == 3
  else if code = 0x60 then kind == 3
  else false

/-- Whether a unit number is one of its kind (R61). -/
def unitOk (kind unit : Nat) : Bool :=
  if kind = 0 then decide (unit / 4 < 640)
  else if kind = 1 then unit % 4 == 0 && decide (unit / 4 < 640)
  else if kind = 3 then decide (unit < 8)
  else decide (unit < 16)

/-- The codes of R63. -/
def codes : List Nat :=
  [0x00, 0x01, 0x02, 0x03, 0x10, 0x11, 0x20, 0x21, 0x22, 0x23, 0x24, 0x30, 0x31, 0x32, 0x33, 0x40, 0x41,
   0x42, 0x43, 0x44, 0x50, 0x51, 0x52, 0x53, 0x60]

/-- The stack and place a DRITAR_SEND destination names, as a WADDR of that stack (R382). -/
def dritarDest (a : Nat) : Nat × Nat := (bits a 29 26, a - bits a 29 26 * 2 ^ 26)

/-- Words of a read's input block: A4 or A8, both halves of a Split stroke, a reverse read (R94, R102,
R128). -/
def inputWords (op : PlanOp) : Nat :=
  if op.code = 0x11 then 8
  else (if bit op.opnd.toNat 13 then 32 else 16) * (if opBits op 15 14 = 1 then 2 else 1)

/-- Words of a read's record or records (R107). -/
def recordWords (op : PlanOp) : Nat := if op.code = 0x11 then 137 else if opBits op 15 14 = 1 then 72 else 71

/-- What must be 0 and what must lie in range among an operation's operands: the lowest byte of each
field, and whether it breaks R62, R63, R382, R364 or R520. `gain` and `desc` are the table bases of the
partition. -/
def operandBad (st gain desc : Nat) (op : PlanOp) : List (Nat × Bool) :=
  let own := opOwn op
  let src := opBits op 79 48
  let dst := opBits op 47 16
  let low := opBits op 15 0
  let c := op.code
  let descBad := !fits st none desc (2 * low + 2)
  if c = 0x00 ∨ c = 0x01 ∨ c = 0x02 then [(0, op.opnd != 0#80)]
  else if c = 0x03 then [(0, opBits op 79 5 != 0)]
  else if c = 0x10 then
    [(0, !fits st none gain (opBits op 10 0 / 8 + 1)), (1, decide (1 < opBits op 15 14) || opBits op 12 11 == 3),
     (2, !fits st own dst (recordWords op)), (6, !fits st own src (inputWords op))]
  else if c = 0x11 then
    [(0, low != 0), (2, !fits st own dst 137), (6, !fits st own src 8)]
  else if c = 0x20 then [(0, low == 0), (2, !fits st own dst low), (6, !fits st own src low)]
  else if c = 0x21 then [(0, opBits op 43 0 != 0), (5, opBits op 47 44 == 0), (6, (place st own src).isNone)]
  else if c = 0x22 then
    [(1, opBits op 15 11 == 0 || decide (16 < opBits op 15 11)), (2, (place st own dst).isNone),
     (6, !fits st own src 3)]
  else if c = 0x23 ∨ c = 0x24 ∨ c = 0x40 ∨ c = 0x41 then
    [(0, descBad), (2, (place st own dst).isNone), (6, (place st own src).isNone)]
  else if c = 0x30 then
    [(0, opBits op 11 0 == 0), (1, opBits op 15 12 == st), (2, !fits (opBits op 15 12) none dst (opBits op 11 0)),
     (6, !fits st own src (opBits op 11 0))]
  else if c = 0x31 then
    let (t, a) := dritarDest dst
    [(0, opBits op 5 0 == 0),
     (2, bit dst 25 || !fits t none a (32 * opBits op 5 0) || bits dst 31 30 == 0),
     (6, !fits st own src (32 * opBits op 5 0))]
  else if c = 0x32 ∨ c = 0x33 then
    [(0, opBits op 9 0 == 0), (1, !fits st own (opBits op 41 10) (opBits op 9 0)),
     (9, opBits op 79 78 == 3 || (c == 0x33 && opBits op 79 78 == 2))]
  else if c = 0x42 then
    [(0, descBad), (2, opBits op 33 16 != 0), (6, (place st own src).isNone)]
  else if c = 0x43 ∨ c = 0x44 then
    [(1, opBits op 15 14 != 0), (2, !fits st own dst 7), (6, (place st own src).isNone)]
  else if c = 0x50 ∨ c = 0x51 then [(1, opBits op 79 12 != 0)]
  else if c = 0x52 then [(0, opBits op 47 0 != 0), (6, !fits st own src 1)]
  else if c = 0x53 then
    [(0, opBits op 31 0 != 0), (4, opBits op 47 32 == 0), (6, !fits st own src (opBits op 47 32))]
  else [(0, descBad), (2, dst != 0), (6, bits src 31 30 == 0 || bits src 31 30 == 3 || (place st own src).isNone)]

/-- Whether a Digital Reference plan may not hold an operation (R86). -/
def digrefBad (digref : Bool) (c : Nat) : Bool := digref && [0x01, 0x02, 0x03, 0x10, 0x11].contains c

/-- Checks of one operation word at byte `o` of the image (R61 to R63, R86, R520). -/
def wordChecks (b : Bytes) (st gain desc : Nat) (digref : Bool) (o : Nat) (op : PlanOp) : List Check :=
  [ badImage (o + 10) (bit (fld b o 16) 80 || !codes.contains op.code || digrefBad digref op.code),
    badImage (o + 11) (!unitOk op.kind op.unit),
    badImage (o + 13) (decide (4 < op.kind) || !kindOk op.code op.kind) ] ++
  (operandBad st gain desc op).map fun (k, bad) => badImage (o + k) bad

/-! ### Relations between operations of a partition -/

/-- An operation word of a partition with its stack and its place in the image. -/
structure Placed where
  st : Nat
  op : PlanOp
  o : Nat
deriving DecidableEq, Repr

/-- Whether `x` stands before `y`: a lower offset, or earlier in one cut list. -/
def earlier (x y : Placed) : Bool :=
  decide (x.op.offset < y.op.offset) || (x.op.offset == y.op.offset && x.st == y.st && decide (x.op.pos < y.op.pos))

/-- Whether `x` is the earlier of two operation words: the lower offset, at equal offsets the one earlier in the image (R522). -/
def wordBefore (x y : Placed) : Bool :=
  decide (x.op.offset < y.op.offset) || (x.op.offset == y.op.offset && decide (x.o < y.o))

/-- Same unit of the same stack. -/
def sameUnit (x y : Placed) : Bool := x.st == y.st && x.op.kind == y.op.kind && x.op.unit == y.op.unit

/-- A STROKE or REVERSE_READ. -/
def isRead (op : PlanOp) : Bool := op.code == 0x10 || op.code == 0x11

/-- The records a read writes: first word, REC_KIND. -/
def recordsOf (x : Placed) : List (Nat × Nat) :=
  let g := word0 x.st (opOwn x.op) (opBits x.op 47 16)
  if x.op.code = 0x11 then [(g, 3)]
  else if x.op.code = 0x10 then (if opBits x.op 15 14 = 1 then [(g, 1), (g + 36, 2)] else [(g, 0)])
  else []

/-- Words of a truing output by the kind of its record (truing output layouts). -/
def trueWords (kind : Nat) : Nat := if kind = 0 then 65 else if kind = 3 then 129 else 33

/-- Words of a record by its kind. -/
def kindWords (kind : Nat) : Nat := if kind = 0 then 71 else if kind = 3 then 137 else 36

/-- The latest read before `x` in its cut list that writes a record at word `g`, with its kind. -/
def readOf (ops : List Placed) (x : Placed) (g : Nat) : Option (Placed × Nat) :=
  (ops.filterMap fun y =>
    if y.st == x.st && isRead y.op && earlier y x then
      ((recordsOf y).find? fun r => r.1 == g).map fun r => (y, r.2)
    else none).getLast?

/-- The source word of a TRUE, and the read its record comes from. -/
def trueRead (ops : List Placed) (x : Placed) : Option (Placed × Nat) :=
  readOf ops x (word0 x.st (opOwn x.op) (opBits x.op 79 48))

/-- The latest TRUE on a core whose record came from engine `e` of it, before `x` (R201). -/
def trueOfEngine (ops : List Placed) (x : Placed) (e : Nat) : Option (Placed × Nat) :=
  (ops.filterMap fun y =>
    if y.op.code == 0x24 && y.op.kind == 1 && sameUnit y x && decide (y.op.offset < x.op.offset) then
      match trueRead ops y with
      | some (r, k) => if r.op.unit == opCore x.op * 4 + e then some (y, k) else none
      | none => none
    else none).getLast?

/-- The sources of a CORE_REDUCE: engine, output word and values (R201). -/
def reduceSources (ops : List Placed) (x : Placed) : List (Nat × Option (Nat × Nat)) :=
  ((List.range 4).filter fun e => (opBits x.op 47 44).testBit e).map fun e =>
    (e, (trueOfEngine ops x e).map fun (y, k) =>
      (word0 y.st (opOwn y.op) (opBits y.op 47 16), if k = 0 then 512 else if k = 3 then 1024 else 256))

/-- Static reads of an operation: first word, words, under GUARD_SRC or not (R521). -/
def staticReads (ops : List Placed) (gain desc : Nat) (x : Placed) : List (Nat × Nat × Bool) :=
  let op := x.op
  let own := opOwn op
  let src := word0 x.st own (opBits op 79 48)
  let c := op.code
  let d := (word0 x.st none desc + 2 * opBits op 15 0, 2, false)
  if c = 0x10 then
    [(src, inputWords op, op.guard), (word0 x.st none gain + opBits op 10 0 / 8, 1, false)]
  else if c = 0x11 then [(src, 8, op.guard)]
  else if c = 0x20 then [(src, opBits op 15 0, op.guard)]
  else if c = 0x21 then
    (reduceSources ops x).filterMap fun s => s.2.map fun (g, n) => (g, 1 + n / 8, op.guard)
  else if c = 0x22 then [(src, 3, op.guard)]
  else if c = 0x24 then
    [(src, match trueRead ops x with
      | some (_, k) => kindWords k
      | none => 1, op.guard), d]
  else if c = 0x23 ∨ c = 0x40 ∨ c = 0x41 ∨ c = 0x42 then [(src, 1, op.guard), d]
  else if c = 0x43 ∨ c = 0x44 then [(src, 1, op.guard)]
  else if c = 0x30 then [(src, opBits op 11 0, op.guard)]
  else if c = 0x31 then [(src, 32 * opBits op 5 0, op.guard)]
  else if c = 0x33 then [(word0 x.st own (opBits op 41 10), opBits op 9 0, op.guard)]
  else if c = 0x60 then [(src, 1, op.guard), d]
  else []

/-- Words whose unguarded read is refused: those a TRUE, MEM_READ, CLUSTER_MATMUL or ATTEND writes as
far as operands fix them (R521). -/
def watched (ops : List Placed) (x : Placed) : Option (Nat × Nat) :=
  let dst := word0 x.st (opOwn x.op) (opBits x.op 47 16)
  if x.op.code = 0x24 then (trueRead ops x).map fun (_, k) => (dst, trueWords k)
  else if x.op.code = 0x32 then some (word0 x.st (opOwn x.op) (opBits x.op 41 10), opBits x.op 9 0)
  else if x.op.code = 0x40 ∨ x.op.code = 0x41 then some (dst, 1)
  else none

/-- Whether an FE_WAIT on word `g` stands after `x` and at a lower offset than `y` (R162). -/
def waitedFor (ops : List Placed) (x y : Placed) (g : Nat) : Bool :=
  ops.any fun f => f.op.code == 0x52 && word0 f.st (opOwn f.op) (opBits f.op 79 48) == g &&
    earlier x f && decide (f.op.offset < y.op.offset)

/-- Whether `y` reads, unguarded, a word that an operation of a lower offset writes late (R162, R266,
R288, R521). -/
def unguarded (ops : List Placed) (gain desc : Nat) (y : Placed) : Bool :=
  (staticReads ops gain desc y).any fun (g, n, guard) => !guard && ops.any fun x =>
    decide (x.op.offset < y.op.offset) &&
    match watched ops x with
    | none => false
    | some (h, m) => (span (max g h) (min (g + n) (h + m) - max g h)).any fun w => !waitedFor ops x y w

/-- Indices after issue in which an operation with a fixed latency writes, and how many may be in flight
on its unit (R166, R167, R204, R209, R219). -/
def latency (c : Nat) : Option (Nat × Nat) :=
  if c = 0x24 then some (8, 32) else if c = 0x21 then some (3, 8)
  else if c = 0x22 ∨ c = 0x23 then some (6, 8) else none

/-- Whether an operation would be one too many in flight on its unit, or would write too late. -/
def lateOrCrowded (ops : List Placed) (work : Nat) (x : Placed) : Bool :=
  match latency x.op.code with
  | none => false
  | some (d, most) => decide (work ≤ x.op.offset + d) ||
      decide (most ≤ (ops.filter fun y => y.op.code == x.op.code && sameUnit y x && earlier y x &&
        decide (x.op.offset ≤ y.op.offset + d)).length)

/-- The offset of the first guarded reader of an ATTEND's output, if any (R288). -/
def attendEnd (ops : List Placed) (gain desc : Nat) (x : Placed) : Option Nat :=
  let dst := word0 x.st (opOwn x.op) (opBits x.op 47 16)
  (ops.filterMap fun y =>
    if earlier x y && (staticReads ops gain desc y).any (fun (g, n, guard) => guard && decide (g ≤ dst) &&
      decide (dst < g + n)) then some y.op.offset else none).min?

/-- Whether an ATTEND would be the ninth on its cluster (R288). -/
def attendCrowded (ops : List Placed) (gain desc : Nat) (x : Placed) : Bool :=
  x.op.code == 0x41 && decide (8 ≤ (ops.filter fun y => y.op.code == 0x41 && sameUnit y x && earlier y x &&
    match attendEnd ops gain desc y with
    | none => true
    | some e => decide (x.op.offset < e)).length)

/-- The strokes of a stack that a power mode's cap allows in one index (R64). -/
def strokeCap (mode : Nat) : Nat := if mode = 0 then 2560 else if mode = 1 then 1920 else 960

/-- Hops along one axis of the torus from coordinate `a` to `b`: the direction's link number 0 or 1 of the
axis, and how many (R364). -/
def hops (a b : Nat) : Nat × Nat :=
  let up := (b + 4 - a) % 4
  if up ≤ 2 then (0, up) else (1, 4 - up)

/-- The coordinate after `n` hops. -/
def hopTo (a dir n : Nat) : Nat := if dir = 0 then (a + n) % 4 else (a + 4 - n % 4) % 4

/-- The torus links of a GRAIN_SEND's route (R364). -/
def route (s t : Nat) : List Nat :=
  let (dx, nx) := hops (s % 4) (t % 4)
  let (dy, ny) := hops (s / 4) (t / 4)
  (List.range nx).map (fun k => (hopTo (s % 4) dx k + 4 * (s / 4)) * 4 + dx) ++
  (List.range ny).map (fun k => (t % 4 + 4 * hopTo (s / 4) dy k) * 4 + 2 + dy)

/-- Relations of one operation to the others of its cut list and its partition, each refused at the later word: of words out
of order, that of the higher offset (R522). Every read counts against the stroke cap, a reverse read as one stroke (R111,
R130). -/
def relationBad (d : PartDef) (mode : Nat) (ops : List Placed) (x : Placed) : Bool :=
  let op := x.op
  let mine := ops.filter fun y => y.st == x.st && earlier y x
  -- order, busy units, the end of the work
  ops.any (fun y => y.st == x.st && decide (op.pos < y.op.pos) && decide (y.op.offset < op.offset)) ||
  mine.any (fun y => sameUnit y x && decide (op.offset < y.op.offset + busyOf y.op)) ||
  decide (d.work < op.offset + busyOf op) ||
  -- the stroke cap
  (isRead op && decide (strokeCap mode ≤ (mine.filter fun y => isRead y.op &&
    decide (op.offset < y.op.offset + busyOf y.op)).length)) ||
  -- a deck must have been selected
  (isRead op && !mine.any fun y => y.op.code == 0x03 && y.op.unit == op.unit) ||
  -- TRUE and its record
  (op.code == 0x24 && (!op.fill || match trueRead ops x with
    | none => true
    | some (r, k) =>
      decide (op.offset < r.op.offset + (if r.op.code = 0x11 then 7 else busyOf r.op + 3)) ||
      !fits x.st (opOwn op) (opBits op 47 16) (trueWords k) ||
      ops.any fun y => y.op.code == 0x24 && earlier y x && y.st == x.st &&
        word0 y.st (opOwn y.op) (opBits y.op 79 48) == word0 x.st (opOwn op) (opBits op 79 48) &&
        earlier r y)) ||
  -- CORE_REDUCE and its sources
  (op.code == 0x21 && (!op.guard ||
    match (reduceSources ops x).map (·.2) with
    | some (_, n) :: l => l.any (fun s => s.map (·.2) != some n) ||
        !fits x.st (opOwn op) (opBits op 79 48) (1 + n / 8)
    | _ => true)) ||
  lateOrCrowded ops d.work x || attendCrowded ops d.gainBase d.descBase x ||
  unguarded ops d.gainBase d.descBase x ||
  -- grain routes need a slot on every torus link
  (op.code == 0x30 && (route x.st (opBits op 15 12)).any fun l =>
    !d.links.any fun r => r.link == l && r.vc == 1)

/-- A record that is the source of no TRUE is refused at the word of its read (R162, R522). -/
def orphanRead (ops : List Placed) (x : Placed) : Bool :=
  isRead x.op && (recordsOf x).any fun r =>
    !ops.any fun y => y.op.code == 0x24 && y.st == x.st &&
      word0 y.st (opOwn y.op) (opBits y.op 79 48) == r.1 && (trueRead ops y).map (·.1) == some x

/-- Barrier rules over the whole plan (R349, R350): `defs` gives each barrier with its partition, `all`
every operation with its partition. -/
def barrierBad (defs : List (Nat × BarrDef)) (all : List (Nat × Placed)) (p : Nat) (x : Placed) : Bool :=
  let id := opBits x.op 11 0
  if x.op.code ≠ 0x50 ∧ x.op.code ≠ 0x51 then false else
  match defs.find? fun b => b.2.id == id with
  | none => true
  | some (q, b) =>
    (x.op.code == 0x50 && ((b.scope == 1 && q != p) ||
      (b.scope == 0 && all.any fun (_, y) => y.op.code == 0x50 && opBits y.op 11 0 == id && y.st != x.st && wordBefore y x))) ||
    (x.op.code == 0x51 && !all.any fun (r, y) => r == p && y.op.code == 0x50 && opBits y.op 11 0 == id &&
      sameUnit y x && decide (y.op.offset < x.op.offset))

/-! ### The parsed image -/

/-- A partition of the image. -/
def partAtImage (b : Bytes) (secs : List Section) (p : Nat) : PartDef :=
  let o := offOf secs 1 p
  { part := p, turns := fld b (o + 1) 1, mask := fld b (o + 2) 2, slack := fld b (o + 4) 4,
    budget := fld b (o + 8) 4, stall := fld b (o + 16) 4, gainBase := fld b (o + 20) 4,
    descBase := fld b (o + 24) 4, slots := (slotOffs b secs p).map (slotAt b),
    links := (entryOffs b secs 4 p).map (linkAt b), barriers := (entryOffs b secs 5 p).map (barrAt b),
    cuts := (secs.filter fun x => x.type == 2 && x.part == p).map fun x =>
      (x.st, (List.range (x.len / 16)).map fun k => planOp ((b.drop (x.off + 16 * k)).take 16) k) }

/-- The operations of a partition with their places. -/
def placedOps (b : Bytes) (secs : List Section) (p : Nat) : List Placed :=
  (secs.filter fun x => x.type == 2 && x.part == p).flatMap fun x =>
    (List.range (x.len / 16)).map fun k =>
      ⟨x.st, planOp ((b.drop (x.off + 16 * k)).take 16) k, x.off + 16 * k⟩

/-- The plan an image holds. -/
def parsePlan (b : Bytes) : PlanDef :=
  let secs := sections b
  let sig := sigOffset b
  { id := fld b 8 4, version := fld b 12 2, length := imageLength b, model := fld b 24 4,
    modelVersion := fld b 28 2, mode := fld b 30 1, digref := bit (fld b 32 2) 0,
    reduction := slice b 48 32, parts := (List.range (partCount b)).map (partAtImage b secs),
    preloads := (secs.filter fun x => x.type == 6).map fun x =>
      (x.st, fld b x.off 8, (b.drop (x.off + 16)).take (x.len - 16)),
    sigs := (List.range (fld b sig 1)).map fun k =>
      let e := sig + 16 + 432 * k
      ⟨fld b e 1, slice b (e + 16) 32, slice b (e + 48) 384⟩,
    signed := b.take sig }

/-- Every check of an image that passes the checks of its lengths, in the order in which they are made. Weight reads, which
need a `MODEL_IMAGE_ID` (R58), are STROKE, REVERSE_READ and every CLUSTER_MATMUL (DESIGN CHOICE, log 66). -/
def contentChecks (b : Bytes) : List Check :=
  let secs := sections b
  let ps := List.range (partCount b)
  let digref := bit (fld b 32 2) 0
  let defs := ps.map (partAtImage b secs)
  let all := ps.flatMap fun p => (placedOps b secs p).map fun x => (p, x)
  let barrs := ps.flatMap fun p => (entryOffs b secs 5 p).map fun o => (p, barrAt b o)
  ps.flatMap (partChecks b secs) ++
  ps.flatMap (fun p =>
    [badImage ((((sectionOf secs 3 p).map (·.entry)).getD 0) + 4)
      (((sectionOf secs 3 p).map (·.len)).getD 0 != 16 * max 1 (fld b (offOf secs 1 p + 12) 2))]) ++
  ps.flatMap (fun p => (slotOffs b secs p).flatMap (slotChecks b secs p)) ++
  uniqueChecks [] (ps.flatMap fun p => (slotOffs b secs p).map fun o => (fld b o 2, o)) ++
  [badImage 31 (decide (16384 < (ps.flatMap fun p => slotOffs b secs p).length))] ++
  linkChecks b [] (ps.flatMap fun p => entryOffs b secs 4 p) ++
  (ps.flatMap fun p => entryOffs b secs 5 p).flatMap (barrChecks b) ++
  uniqueChecks [] (ps.flatMap fun p => (entryOffs b secs 5 p).map fun o => (fld b o 2, o)) ++
  (secs.filter fun x => x.type == 6).flatMap (preloadChecks b) ++
  (secs.filter fun x => x.type == 2).map (fun x => badImage (x.entry + 4) (decide (268435456 < x.len))) ++
  all.flatMap (fun (p, x) =>
    let d := defs.getD p ⟨0, 0, 0, 0, 0, 0, 0, 0, [], [], [], []⟩
    wordChecks b x.st d.gainBase d.descBase digref x.o x.op) ++
  [badImage 24 (fld b 24 4 == 0 && all.any fun (_, x) => isRead x.op || x.op.code == 0x40)] ++
  all.map (fun (p, x) =>
    let d := defs.getD p ⟨0, 0, 0, 0, 0, 0, 0, 0, [], [], [], []⟩
    badImage x.o (relationBad d (fld b 30 1) ((all.filter fun y => y.1 == p).map (·.2)) x)) ++
  all.map (fun (p, x) => badImage x.o (orphanRead ((all.filter fun y => y.1 == p).map (·.2)) x)) ++
  all.map fun (p, x) => badImage x.o (barrierBad barrs all p x)

/-- Every check of a plan image, INVALID_FIELD of the header and section table first, then lengths, then
contents (R475, R522). `len` is the data length, `id` the command's PLAN_ID. -/
def imageChecks (b : Bytes) (len id : Nat) : List Check :=
  let secs := sections b
  headerChecks b id ++ tableChecks b [] secs ++ presentChecks b secs ++
  [badDataLength 16 (imageLength b != len)] ++
  secs.map (fun x => badDataLength (x.entry + 4) (decide (imageLength b < x.off + x.len))) ++
  contentChecks b

end Sys2Proof.Machine
end

