-- ==== Sys2Proof/Machine/Flight.lean ====
section
/-!
DEFINITION. How plan operations issue, wait, read and write: the index in progress, full/empty words
(R339 to R346), and the addresses of operands through the core substitution table (R62, R410).
-/

namespace Sys2Proof.Machine

/-! ### Addresses at issue -/

/-- The physical core that serves a logical core (R410). -/
def physCore (s : State) (st c : Nat) : Nat := (tget none s.integ.subst (st * 640 + c)).getD c

/-- The words a WADDR names: its first word and the words from there to the end of its store. -/
def placeOf (s : State) (st : Nat) (own : Option Nat) (a : Nat) : Option (Nat × Nat) :=
  match waddr own a with
  | none => none
  | some (1, c, w) => some (coreBase st (physCore s st c) + w, 32768 - w)
  | some (_, _, w) => some (stackBase st + w, 6291456 - w)

/-- The first word of `n` words that a WADDR names, when they all lie within the store. -/
def rangeOf (s : State) (st : Nat) (own : Option Nat) (a n : Nat) : Option Nat :=
  match placeOf s st own a with
  | none => none
  | some (g, room) => if n ≤ room then some g else none

/-- The first word a WADDR names, 0 where it names none (the loader has refused such operands). -/
def wordOf (s : State) (st : Nat) (own : Option Nat) (a : Nat) : Nat := ((placeOf s st own a).map (·.1)).getD 0

/-- The words of an operation's source operand [79:48]. -/
def srcWord (s : State) (f : Fly) : Nat := wordOf s f.st (opOwn f.op) (opBits f.op 79 48)

/-- The first word of an operation's destination operand [47:16]. -/
def dstWord (s : State) (f : Fly) : Nat := wordOf s f.st (opOwn f.op) (opBits f.op 47 16)

/-- A word as a WADDR in canonical form with the logical core number (R361). -/
def canonical (s : State) (g : Nat) : Nat :=
  if g < 335544320 then
    let st := g / 32768 / 640
    let c := g / 32768 % 640
    let l := ((tvals s.integ.subst).find? fun (k, v) => k / 640 == st && v == c).map (·.1 % 640)
    2 ^ 30 + (l.getD c) * 32768 + g % 32768
  else 2 ^ 31 + (g - 335544320) % 6291456

/-- The global engine address of a physical engine of a stack. -/
def gea (st core e : Nat) : Nat := st * 4096 + core * 4 + e

/-- The physical engine that serves a logical one, both as global engine addresses (R410). -/
def physEngine (s : State) (e : Nat) : Nat := gea (e / 4096) (physCore s (e / 4096) (e / 4 % 1024)) (e % 4)

/-- The key of an engine's core: stack × 640 + core. -/
def coreOf (e : Nat) : Nat := e / 4096 * 640 + e / 4 % 1024

/-! ### Holds and suspect-marks (R152, R153) -/

/-- Whether a monitor covers a partition: hub monitors cover every one. -/
def monOnPart (mon : Nat) (d : PartDef) : Bool := decide (32 ≤ mon) || d.mask.testBit (mon / 2)

/-- Whether a raised hold freezes a partition (R35, R153). -/
def heldPart (s : State) (d : PartDef) : Bool := s.conv.holds.any fun h => monOnPart h.mon d

/-- Whether a suspect-mark of the boundary that began the index in progress covers a partition (R152). -/
def markedPart (s : State) (d : PartDef) : Bool := s.conv.marked.any fun m => monOnPart m d

/-! ### Issue -/

/-- Issue a due operation of code `code`: it leaves its partition's due list and becomes an operation in
flight, and `start` does what it does in its issue index (R78). An operation that is not due changes
nothing (log 3). -/
def issue (code st : Nat) (op : PlanOp) (start : Nat → Fly → State → State) (s : State) : State :=
  match partOfStack s st with
  | none => s
  | some (pk, p) =>
    if op.code != code || !p.due.contains (st, op) then s else
    let id := s.plans.nextFly
    let f : Fly := { st := st, part := pk, op := op, issue := s.spin.tick, due := s.spin.tick, wait := .none,
                     stall := 0, count := s.spin.count, gain := 0, settle := none, on := false, rate := 0, seed := 0, body := .fresh }
    let s := { s with plans := { s.plans with nextFly := id + 1 } }
    start id f (setPart pk (some { p with due := p.due.erase (st, op) }) s)

/-- An operation that has made its last write, or never writes, is no longer in flight (R81). -/
def endFly (id : Nat) (s : State) : State := setFly id none s

/-- Read the source words: at once when they are full or not guarded, otherwise the operation waits
(R342, R343). Read words are drained at the end of the index under DRAIN_SRC. -/
def withSource (id : Nat) (f : Fly) (words : List Nat) (k : State → State) (s : State) : State :=
  if f.op.guard && !words.all (fullAt s) then setFly id (some { f with wait := .guard words }) s
  else k (if f.op.drain then drainWords words s else s)

/-- Write words: refused while a destination word is full under FILL_DST, and then the operation waits;
otherwise they take effect at the end of the index (R341, R342). -/
def tryWrite (id : Nat) (f : Fly) (ws : List (Nat × Bytes)) (s : State) : State :=
  if f.op.fill && ws.any (fun (g, _) => fullAt s g) then
    setFly id (some { f with wait := .fill (ws.map (·.1)), body := .out ws }) s
  else
    let w : PendWrite := ⟨id, unitPos f.st f.op, f.issue, f.op.pos, f.op.fill, ws⟩
    setFly id (some { f with wait := .none, body := .writing ws })
      { s with stores := { s.stores with writes := s.stores.writes ++ [w] } }

/-- Hold results until index `due` of the own clock. -/
def hold (id : Nat) (f : Fly) (due : Nat) (ws : List (Nat × Bytes)) (s : State) : State :=
  setFly id (some { f with due := due, wait := .none, body := .out ws }) s

/-- A stage that writes held results of an operation of code `code` once its index has come. -/
def writeHeld (code id : Nat) (s : State) : State :=
  match flyAt s id with
  | none => s
  | some f =>
    match f.body with
    | .out ws => if f.op.code = code ∧ f.wait = .none ∧ f.due ≤ s.spin.tick then tryWrite id f ws s else s
    | _ => s

/-- Set a flag of the synchronisation registers and post an event once in the pass. -/
def syncEvent (pk flag code sev subject : Nat) (pay : Bytes) (s : State) : State :=
  postOncePerPass pk code sev subject pay (setSyncFlag flag s)

/-! ### Simple operations -/

/-- NOP: it ends in its issue index. -/
def execNop (st : Nat) (op : PlanOp) (s : State) : Host.Outcome State Fault Refusal :=
  .next (issue 0x00 st op (fun _ _ s => s) s)

/-- MOVE reads its words and writes them in the same index (R63, R340). -/
def startMove (id : Nat) (f : Fly) (s : State) : State :=
  let n := opBits f.op 15 0
  let g := srcWord s f
  withSource id f (span g n) (fun s => tryWrite id f (toWords (dstWord s f) (wordsAt s g n)) s) s

/-- MOVE. -/
def execMove (st : Nat) (op : PlanOp) (s : State) : Host.Outcome State Fault Refusal :=
  .next (issue 0x20 st op startMove s)

/-- FE_WAIT completes in the first index at whose start its word is full; it reads nothing (R346). -/
def startFeWait (id : Nat) (f : Fly) (s : State) : State :=
  let g := srcWord s f
  if fullAt s g then endFly id (if f.op.drain then drainWords [g] s else s)
  else setFly id (some { f with wait := .guard [g] }) s

/-- FE_WAIT. -/
def execFeWait (st : Nat) (op : PlanOp) (s : State) : Host.Outcome State Fault Refusal :=
  .next (issue 0x52 st op startFeWait s)

/-- FE_EMPTY empties its words at the end of its issue index (R346). -/
def startFeEmpty (_ : Nat) (f : Fly) (s : State) : State :=
  drainWords (span (srcWord s f) (opBits f.op 47 32)) s

/-- FE_EMPTY. -/
def execFeEmpty (st : Nat) (op : PlanOp) (s : State) : Host.Outcome State Fault Refusal :=
  .next (issue 0x53 st op startFeEmpty s)

/-! ### Barriers -/

/-- The plan of an operation in flight. -/
def planOfFly (s : State) (f : Fly) : Option (Nat × Plan) := (planAt s (f.part / 16)).map fun p => (f.part / 16, p)

/-- The distance of generation `a` from the base generation (R352). -/
def genDist (a g : Nat) : Nat := (a + 65536 - g % 65536) % 65536

/-- The key of a unit's arrival number for a barrier (R350). -/
def arrivalKey (f : Fly) (b : Nat) : Nat := unitPos f.st f.op * 4096 + b

/-- The definition of a barrier in a plan. -/
def barrierDef (p : Plan) (b : Nat) : Option BarrDef := (p.d.parts.flatMap (·.barriers)).find? fun d => d.id == b

/-- A barrier's copy; initial where nothing has arrived. -/
def barrierAt (p : Plan) (b : Nat) : Barrier := (tget none p.barriers b).getD ⟨0, 0, 0, 0, []⟩

/-- Replace a barrier's copy. -/
def setBarrier (pk : Nat) (p : Plan) (b : Nat) (c : Barrier) (s : State) : State :=
  setPlan pk (some { p with barriers := tset none p.barriers b (some c) }) s

/-- Count an arrival at distance 0 or 1 (R351). -/
def countArrival (c : Barrier) (d : Nat) : Barrier :=
  if d = 0 then { c with c0 := c.c0 + 1 } else { c with c1 := c.c1 + 1 }

/-- One arrival for generation `a` of a barrier of a plan: counted, refused or discarded (R352). It
answers whether it was refused. -/
def arrive (key : Nat) (p : Plan) (b a : Nat) (s : State) : State × Bool :=
  let c := barrierAt p b
  let d := genDist a c.g
  if d ≤ 1 then (setBarrier key p b (countArrival c d) s, false)
  else if d ≤ 32767 then (s, true)
  else (setSyncFlag 1 s, false)

/-- The source module of a local arrival in BARRIER_EXCESS: SELF of the applied fabric map, 0x3FF
without one (R361). The map lies with the fabric; this default stands for its absence. -/
def noModule : Nat := 0x3FF

end Sys2Proof.Machine
end

