-- ==== Sys2Proof/Machine/Num.lean ====
section
/-!
DEFINITION. The number formats of spec/06 (R190 to R199), their roundings, the keyed generator
kmix (R200), and the functions exp2, sigma, SiLU and GELU (R217). Exact values are `Dyad`s.
-/

namespace Sys2Proof.Machine

/-! ### Exact binary values -/

/-- The value 0. -/
def dzero : Dyad := ⟨0, 0⟩

/-- An integer. -/
def dint (z : Int) : Dyad := ⟨z, 0⟩

/-- The mantissa of a value at exponent `e`, which must not exceed the value's own. -/
def dat (a : Dyad) (e : Int) : Int := a.m * (2 : Int) ^ (a.e - e).toNat

/-- The exact sum. -/
def dadd (a b : Dyad) : Dyad := let e := min a.e b.e; ⟨dat a e + dat b e, e⟩

/-- The exact product. -/
def dmul (a b : Dyad) : Dyad := ⟨a.m * b.m, a.e + b.e⟩

/-- The negative. -/
def dneg (a : Dyad) : Dyad := ⟨-a.m, a.e⟩

/-- The exact difference. -/
def dsub (a b : Dyad) : Dyad := dadd a (dneg b)

/-- The magnitude. -/
def dabs (a : Dyad) : Dyad := ⟨a.m.natAbs, a.e⟩

/-- The value times `2^k`. -/
def dshl (a : Dyad) (k : Int) : Dyad := ⟨a.m, a.e + k⟩

/-- The exact sum of a list. -/
def dsum (l : List Dyad) : Dyad := l.foldl dadd dzero

/-- `a < b`, exactly. -/
def dlt (a b : Dyad) : Bool := let e := min a.e b.e; decide (dat a e < dat b e)

/-- `a ≤ b`, exactly. -/
def dle (a b : Dyad) : Bool := !dlt b a

/-- Equality of the values. -/
def deq (a b : Dyad) : Bool := dle a b && dle b a

/-- The larger value, the first on a tie. -/
def dmax (a b : Dyad) : Dyad := if dlt a b then b else a

/-- The largest integer not above the value. -/
def dfloor (a : Dyad) : Int := if 0 ≤ a.e then a.m * (2 : Int) ^ a.e.toNat else a.m / (2 : Int) ^ (-a.e).toNat

/-! ### Rounding integers -/

/-- `a ÷ b` rounded to the nearest integer, half to even, for naturals. -/
def divEvenN (a b : Nat) : Nat :=
  let q := a / b
  let r := a % b
  if 2 * r < b then q else if b < 2 * r then q + 1 else if q % 2 = 0 then q else q + 1

/-- `a ÷ b` rounded to nearest, half to even (R198). -/
def divEven (a : Int) (b : Nat) : Int :=
  if 0 ≤ a then (divEvenN a.natAbs b : Int) else -(divEvenN a.natAbs b : Int)

/-- `a ÷ b` rounded to nearest, half away from zero (R93, R96, R99, R133, R146). -/
def divAway (a : Int) (b : Nat) : Int :=
  let q : Int := ((2 * a.natAbs + b) / (2 * b) : Nat)
  if 0 ≤ a then q else -q

/-- A value rounded to the nearest integer, half to even. -/
def dround (a : Dyad) : Int :=
  if 0 ≤ a.e then a.m * (2 : Int) ^ a.e.toNat else divEven a.m (2 ^ (-a.e).toNat)

/-- The value kept inside `lo` to `hi`. -/
def clampI (lo hi z : Int) : Int := max lo (min hi z)

/-! ### Rounding to a floating format -/

/-- A rounded value and whether the rounding saturated under R519. -/
structure Rnd where
  v : Dyad
  sat : Bool
deriving DecidableEq, Repr

/-- A binary floating format: bits of precision, exponent of the least significant bit of its
smallest values, and largest finite value. -/
structure Flt where
  prec : Nat
  low : Int
  top : Dyad
deriving DecidableEq, Repr

/-- FP32 (R194). -/
def fmt32 : Flt := ⟨24, -149, ⟨2 ^ 24 - 1, 104⟩⟩
/-- PS24 (R192). -/
def fmtPs : Flt := ⟨16, -141, ⟨2 ^ 16 - 1, 112⟩⟩
/-- BF16 (R194). -/
def fmtBf : Flt := ⟨8, -133, ⟨2 ^ 8 - 1, 120⟩⟩
/-- FP8 E4M3 (R195). -/
def fmtE4 : Flt := ⟨4, -9, ⟨448, 0⟩⟩
/-- FP8 E5M2 (R195). -/
def fmtE5 : Flt := ⟨3, -16, ⟨57344, 0⟩⟩
/-- FP64, used by the regression of R226. -/
def fmt64 : Flt := ⟨53, -1074, ⟨2 ^ 53 - 1, 971⟩⟩

/-- The exponent of the leading bit of `n ÷ d × 2^e`, for `n` and `d` positive. -/
def leadExp (n d : Nat) (e : Int) : Int :=
  let k : Int := (Nat.log2 n : Int) - (Nat.log2 d : Int)
  -- the quotient lies in (2^(k-1), 2^(k+1)); decide which half
  let below := if 0 ≤ k then decide (n < d * 2 ^ k.toNat) else decide (n * 2 ^ (-k).toNat < d)
  if below then k - 1 + e else k + e

/-- The magnitude `n ÷ d × 2^e` rounded once to nearest, ties to even, with unbounded range above
and the format's spacing below (step 1 of R519). -/
def roundMag (f : Flt) (n d : Nat) (e : Int) : Dyad :=
  if n = 0 then dzero else
  let q := max (leadExp n d e - (f.prec - 1 : Nat)) f.low
  let s := e - q
  let m := if 0 ≤ s then divEvenN (n * 2 ^ s.toNat) d else divEvenN n (d * 2 ^ (-s).toNat)
  ⟨m, q⟩

/-- `num ÷ den × 2^e` rounded once to the format, saturating on the rounded value (R194, R519). -/
def roundQ (f : Flt) (num : Int) (den : Nat) (e : Int) : Rnd :=
  let r := roundMag f num.natAbs den e
  let sat := dlt f.top r
  let r := if sat then f.top else r
  ⟨if r.m = 0 then dzero else if num < 0 then dneg r else r, sat⟩

/-- A value rounded to a format. -/
def roundF (f : Flt) (a : Dyad) : Rnd := roundQ f a.m 1 a.e

/-- RN32 of R194. -/
def rn (a : Dyad) : Dyad := (roundF fmt32 a).v

/-- The correctly rounded FP32 quotient; the divisor is not 0. -/
def rnDiv (a b : Dyad) : Dyad :=
  (roundQ fmt32 (if b.m < 0 then -a.m else a.m) b.m.natAbs (a.e - b.e)).v

/-- PS24, to nearest. -/
def ps (a : Dyad) : Dyad := (roundF fmtPs a).v

/-- Stochastic rounding to PS24 with a 16-bit random number (R199). Saturation is judged on the
exact value (R519). -/
def psStoch (y : Dyad) (r : Nat) : Rnd :=
  if y.m = 0 then ⟨dzero, false⟩ else
  let a := y.m.natAbs
  if dlt fmtPs.top (dabs y) then ⟨if y.m < 0 then dneg fmtPs.top else fmtPs.top, true⟩ else
  let q := max (leadExp a 1 y.e - 15) fmtPs.low
  let lo : Int := if 0 ≤ y.e - q then y.m * (2 : Int) ^ (y.e - q).toNat
    else y.m / (2 : Int) ^ (q - y.e).toNat
  let t : Nat := if 0 ≤ y.e - q then 0 else
    ((y.m - lo * (2 : Int) ^ (q - y.e).toNat) * 65536 / (2 : Int) ^ (q - y.e).toNat).toNat
  let m := if r < t then lo + 1 else lo
  ⟨if m = 0 then dzero else ⟨m, q⟩, false⟩

/-! ### Encodings -/

/-- The code of a value of a format with `eb` exponent bits and `mb` mantissa bits. Zero is +0. -/
def encFlt (eb mb : Nat) (a : Dyad) : Nat :=
  if a.m = 0 then 0 else
  let bias : Int := (2 ^ (eb - 1) - 1 : Nat)
  let n := a.m.natAbs
  let x : Int := (Nat.log2 n : Int) + a.e
  let sgn := if a.m < 0 then 2 ^ (eb + mb) else 0
  if 1 - bias ≤ x then
    let sh := (mb : Int) - (Nat.log2 n : Int)
    let m := if 0 ≤ sh then n * 2 ^ sh.toNat else n / 2 ^ (-sh).toNat
    sgn + (x + bias).toNat * 2 ^ mb + (m - 2 ^ mb)
  else
    let sh := a.e - (1 - bias - (mb : Int))
    sgn + (if 0 ≤ sh then n * 2 ^ sh.toNat else n / 2 ^ (-sh).toNat)

/-- The value of a code with `eb` exponent and `mb` mantissa bits, all exponents finite. -/
def decFlt (eb mb c : Nat) : Dyad :=
  let bias : Int := (2 ^ (eb - 1) - 1 : Nat)
  let e := bits c (eb + mb - 1) mb
  let m := c % 2 ^ mb
  let v : Dyad := if e = 0 then ⟨m, 1 - bias - (mb : Int)⟩ else ⟨m + 2 ^ mb, (e : Int) - bias - (mb : Int)⟩
  if c.testBit (eb + mb) then dneg v else v

/-- A read number and whether an infinity or a NaN was read (FORMAT_NAN_READ, R194, R195). -/
structure Rd where
  v : Dyad
  odd : Bool
deriving DecidableEq, Repr

/-- Read a binary code whose all-ones exponent means infinity or NaN: an infinity reads as the
largest finite value of its sign, a NaN as 0 (R194, R195). -/
def readIeee (eb mb : Nat) (top : Dyad) (c : Nat) : Rd :=
  if bits c (eb + mb - 1) mb = 2 ^ eb - 1 then
    if c % 2 ^ mb = 0 then ⟨if c.testBit (eb + mb) then dneg top else top, true⟩ else ⟨dzero, true⟩
  else ⟨decFlt eb mb c, false⟩

/-- Read FP32. -/
def read32 (c : Nat) : Rd := readIeee 8 23 fmt32.top c
/-- Read BF16. -/
def readBf (c : Nat) : Rd := readIeee 8 7 fmtBf.top c
/-- Read FP8 E5M2. -/
def readE5 (c : Nat) : Rd := readIeee 5 2 fmtE5.top c
/-- Read FP8 E4M3: the only special code is S.1111.111, a NaN (R195). -/
def readE4 (c : Nat) : Rd := if c % 128 = 127 then ⟨dzero, true⟩ else ⟨decFlt 4 3 c, false⟩

/-- Whether an FP32 code is an infinity or a NaN. -/
def notFinite32 (c : Nat) : Bool := decide (bits c 30 23 = 255)

/-- Whether an FP32 code is positive and finite. -/
def posFinite32 (c : Nat) : Bool := !notFinite32 c && !c.testBit 31 && decide (c % 2 ^ 31 ≠ 0)

/-- The code of an FP32 value. -/
def enc32 (a : Dyad) : Nat := encFlt 8 23 a
/-- The code of a BF16 value. -/
def encBf (a : Dyad) : Nat := encFlt 8 7 a
/-- The code of a PS24 value (R192). -/
def encPs (a : Dyad) : Nat := encFlt 8 15 a

/-- The value of a PS24 code; an exponent of 255 reads as the largest finite value (R192). -/
def readPs (c : Nat) : Dyad :=
  if bits c 22 15 = 255 then (if c.testBit 23 then dneg fmtPs.top else fmtPs.top) else decFlt 8 15 (c % 2 ^ 24)

/-- The value of an SC8 code (R191). -/
def sc8 (c : Nat) : Dyad :=
  let e := bits c 7 3
  if e = 0 then dzero else ⟨(8 + c % 8 : Nat), (e : Int) - 19⟩

/-! ### Digital blocks (R196) -/

/-- Element kinds of a digital block. -/
inductive ElemKind where
  | bf16 | e4m3 | e5m2 | int4
deriving DecidableEq, Repr

/-- The kind named by the codes of R267 and R276. -/
def elemKind (c : Nat) : ElemKind :=
  if c = 0 then .bf16 else if c = 1 then .e4m3 else if c = 2 then .e5m2 else .int4

/-- Largest finite element, Fmax of R196. -/
def elemTop : ElemKind → Dyad
  | .bf16 => fmtBf.top
  | .e4m3 => dint 448
  | .e5m2 => dint 57344
  | .int4 => dint 7

/-- Round a quotient `a ÷ s` once to an element kind. -/
def elemRound (k : ElemKind) (a s : Dyad) : Rnd :=
  match k with
  | .bf16 => roundQ fmtBf a.m s.m.natAbs (a.e - s.e)
  | .e4m3 => roundQ fmtE4 a.m s.m.natAbs (a.e - s.e)
  | .e5m2 => roundQ fmtE5 a.m s.m.natAbs (a.e - s.e)
  | .int4 =>
    let e := a.e - s.e
    let z := if 0 ≤ e then divEven (a.m * (2 : Int) ^ e.toNat) s.m.natAbs
      else divEven a.m (s.m.natAbs * 2 ^ (-e).toNat)
    ⟨dint (clampI (-7) 7 z), decide (7 < z.natAbs)⟩

/-- The code of an element. -/
def elemCode (k : ElemKind) (v : Dyad) : Nat :=
  match k with
  | .bf16 => encBf v
  | .e4m3 => encFlt 4 3 v
  | .e5m2 => encFlt 5 2 v
  | .int4 => (dround v % 16).toNat

/-- Read an element's code. -/
def elemRead (k : ElemKind) (c : Nat) : Rd :=
  match k with
  | .bf16 => readBf c
  | .e4m3 => readE4 c
  | .e5m2 => readE5 c
  | .int4 => ⟨dint (signed 4 (c % 16)), false⟩

/-- The scale code of R196 for a block whose largest magnitude is `a`. -/
def blockScale (k : ElemKind) (a : Dyad) : Nat :=
  if a.m = 0 then 0 else
  match (List.range 256).find? fun c => decide (8 ≤ c) && dle a (dmul (sc8 c) (elemTop k)) with
  | some c => c
  | none => 255

/-- A written block: its scale code, element codes, and the indices of saturated elements. -/
structure Block where
  scale : Nat
  codes : List Nat
  sats : List Bool
deriving DecidableEq, Repr

/-- Write values as a block under R196. A BF16 block has scale 0x80. -/
def writeBlock (k : ElemKind) (zs : List Dyad) : Block :=
  let c := if k = .bf16 then 0x80 else blockScale k (zs.foldl (fun a z => dmax a (dabs z)) dzero)
  let s := sc8 c
  if s.m = 0 then ⟨0, zs.map fun _ => 0, zs.map fun _ => false⟩ else
  let rs := zs.map fun z => elemRound k z s
  ⟨c, rs.map fun r => elemCode k r.v, rs.map (·.sat)⟩

/-- The bytes of element codes: two bytes each for BF16, one for FP8, a nibble for INT4 in the
order of R94. -/
def elemBytes (k : ElemKind) (codes : List Nat) : Bytes :=
  match k with
  | .bf16 => codes.flatMap (le 2)
  | .int4 => (List.range ((codes.length + 1) / 2)).map fun j =>
      BitVec.ofNat 8 (codes.getD (2 * j) 0 % 16 + 16 * (codes.getD (2 * j + 1) 0 % 16))
  | _ => codes.map (BitVec.ofNat 8)

/-- Element `j` of a byte string in the same layout. -/
def elemAt (k : ElemKind) (b : Bytes) (j : Nat) : Nat :=
  match k with
  | .bf16 => fld b (2 * j) 2
  | .int4 => let v := (byteAt b (j / 2)).toNat; if j % 2 = 0 then v % 16 else v / 16
  | _ => (byteAt b j).toNat

/-- Bits of an element. -/
def elemBits : ElemKind → Nat
  | .bf16 => 16
  | .int4 => 4
  | _ => 8

/-! ### The keyed generator (R200) -/

/-- kmix of R200, modulo 2^64. -/
def kmix (k c : BitVec 64) : BitVec 64 :=
  let z := c + k
  let z := z ^^^ (z >>> 29)
  let z := z * 0xC7A35D1B82E96F4D#64
  let z := z ^^^ (z >>> 32)
  let z := z * 0x9E5B3C71D2A84F17#64
  z ^^^ (z >>> 29)

/-- kmix on numbers taken modulo 2^64. -/
def kmixN (k c : Nat) : Nat := (kmix (BitVec.ofNat 64 k) (BitVec.ofNat 64 c)).toNat

/-- k0 of R200 and R327: seed xor (session ID << 32). -/
def keyOf (seed session : Nat) : Nat := (seed % 2 ^ 64) ^^^ (session * 2 ^ 32 % 2 ^ 64)

/-- The 16-bit random number of rounding step `j` of element `e` (R200). -/
def roundDraw (seed session p layer tensor e j : Nat) : Nat :=
  let k1 := kmixN (keyOf seed session) ((p * 2 ^ 16) ||| (layer * 2 ^ 6) ||| tensor)
  let w := kmixN k1 ((e * 2 ^ 8) ||| 16 ||| ((j - 2) / 4))
  bits w (16 * ((j - 2) % 4) + 15) (16 * ((j - 2) % 4))

/-- draw(p, i) of R327 as an exact value. -/
def samplerDraw (seed session p i : Nat) : Dyad :=
  ⟨(kmixN (keyOf seed session) ((p * 2 ^ 24) ||| (i * 2 ^ 8) ||| 80) / 2 ^ 11 : Nat), -53⟩

/-! ### exp2, sigma, SiLU, GELU (R217) -/

/-- C1 = RN32(ln 2). -/
def cLn2 : Dyad := ⟨11629080, -24⟩
/-- C2 = RN32((ln 2)² ÷ 2). -/
def cLn2Sq : Dyad := ⟨16121328, -26⟩
/-- L = RN32(log₂ e). -/
def cLog2e : Dyad := ⟨12102203, -23⟩
/-- G = RN32(2√(2 ÷ π)). -/
def cGelu : Dyad := ⟨13386282, -23⟩
/-- H = RN32(0.044715). -/
def cGeluCube : Dyad := ⟨12003091, -28⟩

/-- The largest `m < 2^24` with `m^256 ≤ 2^t`, by binary search from `lo`. -/
def root256 (t : Nat) : Nat → Nat → Nat
  | 0, lo => lo
  | n + 1, lo => if (lo + 2 ^ n) ^ 256 ≤ 2 ^ t then root256 t n (lo + 2 ^ n) else root256 t n lo

/-- T[k] = RN32(2^(k ÷ 256)): the 256th root of `2^k`, rounded to 23 fraction bits. -/
def expTable (k : Nat) : Dyad :=
  let m := root256 (k + 23 * 256) 23 (2 ^ 23)
  ⟨if (2 * m + 1) ^ 256 < 2 ^ (k + 24 * 256) then (m + 1 : Nat) else m, -23⟩

/-- One RN32 step of a chain: its value, and whether it or an earlier step saturated. -/
def stepRn (a : Rnd) (g : Dyad → Dyad) : Rnd :=
  let r := roundF fmt32 (g a.v)
  ⟨r.v, a.sat || r.sat⟩

/-- exp2 of R217; only its last step can saturate. -/
def exp2R (u : Dyad) : Rnd :=
  let n := dfloor u
  if n ≤ -151 then ⟨dzero, false⟩ else
  let f := dsub u (dint n)
  let k := (dfloor (dshl f 8)).toNat
  let d := dsub f ⟨k, -8⟩
  let t := rn (dadd cLn2 (rn (dmul d cLn2Sq)))
  let t := rn (dadd (dint 1) (rn (dmul d t)))
  roundF fmt32 (dshl (rn (dmul (expTable k) t)) n)

/-- The value of exp2. -/
def exp2 (u : Dyad) : Dyad := (exp2R u).v

/-- sigma of R217, with the saturation of its argument and of the product w × L. -/
def sigma (w : Rnd) : Rnd :=
  let x := stepRn w fun w => dmul (dneg (dabs w)) cLog2e
  let e := exp2 x.v
  ⟨rnDiv (if 0 ≤ w.v.m then dint 1 else e) (rn (dadd (dint 1) e)), x.sat⟩

/-- SiLU of R217. -/
def silu (z : Dyad) : Rnd := stepRn (sigma ⟨z, false⟩) fun g => dmul z g

/-- GELU of R217. -/
def gelu (z : Dyad) : Rnd :=
  let c := stepRn (stepRn ⟨z, false⟩ fun z => dmul z z) fun q => dmul z q
  let w := stepRn (stepRn (stepRn c fun c => dmul cGeluCube c) fun c => dadd z c) fun t => dmul cGelu t
  stepRn (sigma w) fun g => dmul z g

/-! ### FP64 of the regression (R226) -/

/-- A value rounded to FP64. -/
def f64 (a : Dyad) : Dyad := (roundF fmt64 a).v

/-- The FP64 quotient; the divisor is not 0. -/
def f64Div (a b : Dyad) : Dyad :=
  (roundQ fmt64 (if b.m < 0 then -a.m else a.m) b.m.natAbs (a.e - b.e)).v

end Sys2Proof.Machine
end

