-- ==== Sys2Proof/Machine/Cells.lean ====
section
/-!
DEFINITION. The cells of a deck and the conversion of a column: stored values by row and column (R90 to R93, R250),
driven digits (R96), the exact sums of a stroke (R98, R128), and the code that a column ADC forms of one (R99, R133).
-/

namespace Sys2Proof.Machine

/-! ### Chuck entries -/

/-- The key of a chuck entry. -/
def chuckKey (bank engine deck : Nat) : Nat := (bank * 65536 + engine) * 32 + deck

/-- Whether a chuck entry is valid (R256). -/
def chuckValid (e : Bytes) : Bool := bit (byteAt e 6).toNat 7

/-- The valid chuck entry of a plan deck of a logical engine in a bank (R257). -/
def chuckEntry (s : State) (bank engine deck : Nat) : Option Bytes :=
  match tget none s.model.chuck (chuckKey bank engine deck) with
  | some e => if chuckValid e then some e else none
  | none => none

/-- The physical deck a chuck entry names. -/
def chuckPhys (e : Bytes) : Nat := (byteAt e 6).toNat % 32

/-- The decks of a physical engine that a valid chuck entry references, with their entries (R257, R410). -/
def boundDecks (s : State) (e : Nat) : List (Nat × Bytes) :=
  (tvals s.model.chuck).filterMap fun (k, b) =>
    if chuckValid b && physEngine s (k / 32 % 65536) == e then some (chuckPhys b, b) else none

/-- The logical column a physical column of an engine serves: a mapped spare's, or its own. -/
def logicalColumn (s : State) (e c : Nat) : Nat :=
  if c < 520 ∨ 536 ≤ c then c else
  ((boundDecks s e).findSome? fun (_, b) =>
    let m := fld b (64 + 2 * (c - 520)) 2
    if m.testBit 15 then some (m % 1024) else none).getD c

/-! ### Permutation and signs (R250) -/

/-- h of R250 for an engine, deck and write counter. -/
def deckHash (s : State) (e d counter : Nat) : Bytes :=
  hmac (s.model.bindKey.getD (zeros 32)) (ascii "K9DECK" ++ le 2 e ++ le 1 d ++ le 4 counter)

/-- Swap two places of a list. -/
def swapAt (l : List Nat) (i j : Nat) : List Nat :=
  (l.set i (l.getD j 0)).set j (l.getD i 0)

/-- The row permutation of R250: step `n` down to 1. -/
def permSteps (seed : Nat) : Nat → List Nat → List Nat
  | 0, l => l
  | n + 1, l => permSteps seed n (swapAt l (n + 1) (kmixN seed (n + 1) % (n + 2)))

/-- perm of R250 from h. -/
def rowPerm (h : Bytes) : List Nat := permSteps (fld h 0 8) 1023 (List.range 1024)

/-- The sign byte of R250 from h: bit k for group k. -/
def signByte (h : Bytes) : Nat := (byteAt h 8).toNat

/-- The physical column of a logical column under an entry's COLUMN_MAP (R168, chuck entry). -/
def mapColumn (entry : Bytes) (c : Nat) : Nat :=
  match (List.range 16).find? fun k => let m := fld entry (64 + 2 * k) 2; m.testBit 15 && m % 1024 == c with
  | some k => 520 + k
  | none => c

/-- The sign of a group of a deck: −1 where its bit is set (R250). -/
def groupSign (s : State) (e deck g : Nat) : Int :=
  if ((tget none s.cal.signs (e * 32 + deck)).getD 0).testBit g then -1 else 1

/-! ### Stored values -/

/-- The pair (G+, G−) of a stored value (R90). -/
def cellPair (v : Int) : Bytes := [BitVec.ofNat 8 v.toNat, BitVec.ofNat 8 (-v).toNat]

/-- The stored value of a reference column (R93). -/
def refStored (c : Nat) : Int := if c = 536 then 7 else if c = 537 then 3 else if c = 538 then -5 else 0

/-- The write counter with which a deck was written (R250, R251). -/
def deckCounter (s : State) (k : Nat) : Nat := ((tget none s.model.dir k).map (·.counter)).getD 0

/-- The logical row that a physical row of a deck holds (R250). -/
def logicalRow (s : State) (k row : Nat) : Nat :=
  ((rowPerm (deckHash s (k / 32) (k % 32) (deckCounter s k))).idxOf? row).getD row

/-- The value stored at a physical row and column of a deck. The reference columns hold their patterns on every deck, in
all rows (R93). -/
def cellAt (s : State) (k row c : Nat) : Int :=
  if 536 ≤ c then refStored c else
  let b := tget [] s.arr.cells (k * 1024 + row)
  (byteAt b (2 * c)).toNat - (byteAt b (2 * c + 1)).toNat

/-! ### Digits and strokes -/

/-- The high digit of an A8 value (R96). -/
def highDigit (a : Int) : Int := divAway a 15

/-- The low digit of an A8 value. -/
def lowDigit (a : Int) : Int := a - 15 * highDigit a

/-- What a stroke with coefficient `coef` drives of a read's values: themselves, or their high or low digits (R103). -/
def strokeDrive (a8 : Bool) (coef : Nat) (xs : List Int) : List Int :=
  if a8 then xs.map (if coef = 15 then highDigit else lowDigit) else xs

/-- The row-group gain of row `r` under a gain word (R97). -/
def rowGain (gain r : Nat) : Int := 2 ^ (bits gain (2 * (r / 64) + 1) (2 * (r / 64)))

/-- D of R98 for one stroke of a physical column, in physical polarity: the driven values by logical row. -/
def strokeSum (s : State) (k gain col : Nat) (xs : List Int) : Int :=
  (xs.zipIdx.map fun (x, r) =>
    if x = 0 then 0 else cellAt s k ((rowPerm (deckHash s (k / 32) (k % 32) (deckCounter s k))).getD r r) col * rowGain gain r * x).sum

/-- E of R128 for a logical row: the driven values by logical data column, on the columns that a chuck entry maps. -/
def reverseSum (s : State) (entry : Bytes) (k row : Nat) (ys : List Int) : Int :=
  let p := (rowPerm (deckHash s (k / 32) (k % 32) (deckCounter s k))).getD row row
  (ys.zipIdx.map fun (y, c) => groupSign s (k / 32) (k % 32) (c / 64) * cellAt s k p (mapColumn entry c) * y).sum

/-! ### Factor words (R168, R221) -/

/-- The key of an element of an engine. -/
def elemKey (e n : Nat) : Nat := e * 4096 + n

/-- The active word of an element: a drift word for elements from 3000 on, else a factor word. -/
def activeWord (s : State) (k : Nat) : Nat :=
  if 3000 ≤ k % 4096 then tget 0x4000 s.cal.drifts k else tget 0x8000 s.cal.words k

/-- Replace an element's active word. -/
def setActive (k w : Nat) (s : State) : State :=
  if 3000 ≤ k % 4096 then { s with cal := { s.cal with drifts := tset 0x4000 s.cal.drifts k w } }
  else { s with cal := { s.cal with words := tset 0x8000 s.cal.words k w } }

/-- The valid bit of a word of an element: bit 15 of a drift word, bit 31 of a factor word. -/
def validIn (k w : Nat) : Bool := w.testBit (if 3000 ≤ k % 4096 then 15 else 31)

/-- Whether an element is Valid (R221). -/
def elemValid (s : State) (k : Nat) : Bool := validIn k (activeWord s k)

/-- A word without its valid bit. -/
def bareWord (k w : Nat) : Nat := if 3000 ≤ k % 4096 then w % 2 ^ 15 else w % 2 ^ 31

/-- A word with its valid bit. -/
def fullWord (k w : Nat) : Nat := bareWord k w + (if 3000 ≤ k % 4096 then 2 ^ 15 else 2 ^ 31)

/-- COL_GAIN of a factor word. -/
def gainOf (w : Nat) : Nat := w % 65536
/-- COL_OFFSET of a factor word, in 1/256 LSB. -/
def offsetOf (w : Nat) : Int := signed 15 (bits w 30 16)
/-- DRIFT of a drift word. -/
def driftIn (w : Nat) : Nat := w % 2 ^ 15

/-- The drift word of a deck of an engine. -/
def driftWord (s : State) (e deck : Nat) : Nat := activeWord s (elemKey e (3000 + deck))

/-! ### Conversions -/

/-- Trim word of an ADC of a physical engine. -/
def trimOf (s : State) (e adc : Nat) : Nat := tget 0 s.conv.trims (e * 132 + adc)

/-- FAILED of a trim word. -/
def adcFailed (s : State) (e adc : Nat) : Bool := bit (trimOf s e adc) 30

/-- The ADC that an engine's spare replaces: the assignment of CAL_SELF, or else the in-service swap (R136,
R234). -/
def spareOf (s : State) (e : Nat) : Option Nat :=
  match tget none s.conv.spare e with
  | some a => some a
  | none => tget none s.cal.swaps e

/-- Whether an ADC is uncovered (R137). -/
def uncovered (s : State) (e adc : Nat) : Bool := adcFailed s e adc && spareOf s e != some adc

/-- The ADC that makes the conversions of an ADC: the spare where it replaces it (R136). -/
def adcUsed (s : State) (e adc : Nat) : Nat := if spareOf s e = some adc then 131 else adc

/-- The trim word under which the conversions of an ADC are made. -/
def trimUsed (s : State) (e adc : Nat) : Nat := trimOf s e (adcUsed s e adc)

/-- The code an ADC forms from its raw value under a trim word; none for the clip code (R133). -/
def adcCode (trim : Nat) (u : Int) : Option Int :=
  let off := signed 9 (trim % 512)
  let gain := signed 12 (bits trim 27 16)
  let c := divAway ((16 * u - off) * (16384 + gain)) (16 * 16384)
  if c < -127 ∨ 127 < c ∨ u.natAbs = 143 then none else some c

/-- The bound of R184 on the noise of one conversion, in 1/256 LSB, by read kind: its 105 °C row. -/
def noiseBound (kind : Nat) : Nat := if kind = 0 then 486 else if kind = 3 then 678 else 550

/-- The noise of conversion `k` of a read, in 1/256 LSB (R5). -/
def readNoise (kind base k : Nat) : Int :=
  ((Config.readNoise base k).toNat % (2 * noiseBound kind + 1) : Nat) - noiseBound kind

/-- The path of a column or row from cells to code (R99): the gain, offset and drift that correct it, as a factor word and
a drift word give them, and the offset and gain that correct its converter, as a trim word gives them. -/
structure ColPath where
  gain : Nat
  offset : Int
  drift : Nat
  adcOffset : Int
  adcGain : Int

/-- The path that a factor word, DRIFT and a trim word correct without a rest (R133, R169). -/
def ColPath.ofWords (word drift trim : Nat) : ColPath :=
  ⟨gainOf word, offsetOf word, drift, signed 9 (trim % 512), signed 12 (bits trim 27 16)⟩

/-- The own path of an element of an engine, its deck and its converter: constants within the ranges that factors and
trims can correct (DEDUCED, log 59). -/
def ColPath.own (elem deck adc : Nat) : ColPath :=
  let w := (Config.columnPath elem).toNat
  ⟨0x6000 + w % 0x4001, (w / 65536 % 32768 : Nat) - 16384, 0x3000 + (Config.deckPath deck).toNat % 0x2001,
    signed 9 ((Config.adcPath adc).toNat % 512), signed 12 ((Config.adcPath adc).toNat / 65536 % 4096)⟩

/-- The path of element `n` of an engine under one of its ADCs: with COL_VALID and DRIFT_VALID set the factors correct it
but for the noise (R184), else it is the own path. -/
def colPath (s : State) (e n deck adc : Nat) : ColPath :=
  let key := elemKey e n
  let d := elemKey e (3000 + deck)
  if elemValid s key && elemValid s d then .ofWords (activeWord s key) (driftIn (activeWord s d)) (trimUsed s e adc)
  else .own key (e * 32 + deck) (e * 132 + adcUsed s e adc)

/-- What reaches the ADC for a sum `d`, in 1/256 LSB: D ÷ 32 by the nominal transfer, on the column's path, and the read
noise (R99). -/
def columnLevel (kind base k : Nat) (p : ColPath) (d : Int) : Int :=
  divAway (d * 2 ^ 32) (p.gain * p.drift) + p.offset + readNoise kind base k

/-- The raw value u of conversion `k` of a read (R132): the level as the converter's own offset and gain error show it,
within −143 to +143; open for a conversion that the envelope does not bound, as R184 excepts what lies outside the rated
conditions of R4 and beyond its probability (log 59). -/
def rawValue (kind base k elem : Nat) (p : ColPath) (d : Int) : Int :=
  if Config.uncoveredRead base elem then ((Config.rawCode base k).toNat % 287 : Nat) - 143 else
  let gain := 16384 + p.adcGain
  clampI (-143) 143 (divAway (columnLevel kind base k p d * 262144 + p.adcOffset * 256 * gain) (4096 * gain).toNat)

/-- Which ADC converts a column or row of a read kind (R134). -/
def adcOf (kind c : Nat) : Nat :=
  if kind = 3 then c / 16
  else if c < 512 then
    if kind = 0 then c / 4
    else if kind = 1 then (if c % 4 < 2 then c / 4 else c / 4 + 64)
    else (if c % 4 < 2 then c / 4 else c / 4 - 64)
  else if c < 520 then
    if kind = 0 then 128 + (c - 512) / 4
    else if kind = 1 then 128 + (c - 512) / 2
    else 129 - (c - 516) / 2
  else 130

/-- The ADCs that convert a column: of Wide reads, and of its half of Split reads (R134). -/
def adcsOf (c : Nat) : List Nat :=
  [adcOf 0 c, adcOf (if c < 256 ∨ (512 ≤ c ∧ c < 516) then 1 else 2) c].eraseDups

end Sys2Proof.Machine
end

