-- ==== Sys2Proof/Machine/Arrays.lean ====
section
/-!
DEFINITION. Analogue arrays: reference buffers, deck selection, strokes and reverse reads, conversions,
range-split re-reads and result records (R89 to R137).
-/

namespace Sys2Proof.Machine

/-! ### Reference buffers and decks -/

/-- The core key of an operation's physical core. -/
def flyCore (s : State) (f : Fly) : Nat := f.st * 640 + physCore s f.st (opCore f.op)

/-- REF_ON: the buffer is on and its settle distance counts from this offset (R114, R115). -/
def startRefOn (_ : Nat) (f : Fly) (s : State) : State :=
  { s with arr := { s.arr with
    refs := tset none s.arr.refs (flyCore s f) (some (-(f.op.offset : Int)))
    refOn := tset false s.arr.refOn (flyCore s f) true } }

/-- REF_ON. -/
def execRefOn (st : Nat) (op : PlanOp) (s : State) : Host.Outcome State Fault Refusal :=
  .next (issue 0x01 st op startRefOn s)

/-- REF_OFF: reads issued before it have taken the buffer's state at their issue (R114). -/
def startRefOff (_ : Nat) (f : Fly) (s : State) : State :=
  { s with arr := { s.arr with refOn := tset false s.arr.refOn (flyCore s f) false } }

/-- REF_OFF. -/
def execRefOff (st : Nat) (op : PlanOp) (s : State) : Host.Outcome State Fault Refusal :=
  .next (issue 0x02 st op startRefOff s)

/-- The entry, in a bank, whose physical deck is the deck read (R257). -/
def chuckOf (s : State) (bank engine phys : Nat) : Option Bytes :=
  (List.range 32).findSome? fun d =>
    match chuckEntry s bank engine d with
    | some e => if chuckPhys e = phys then some e else none
    | none => none

/-- The bank in force for a partition (R260). -/
def bankOf (s : State) (pk : Nat) : Nat :=
  match partAt s pk with
  | some p => p.bank
  | none => 0

/-- DECK_SEL: the physical deck that the bank in force gives; a plan deck without a valid entry leaves the
active deck and makes every later read unbound (R108, R257). -/
def startDeckSel (_ : Nat) (f : Fly) (s : State) : State :=
  let l := gea f.st (opCore f.op) (f.op.unit % 4)
  let e := physEngine s l
  match chuckEntry s (bankOf s f.part) l (opBits f.op 4 0) with
  | some c => { s with arr := { s.arr with
      active := tset 0 s.arr.active e (chuckPhys c), noDeck := tset false s.arr.noDeck e false } }
  | none => { s with arr := { s.arr with noDeck := tset false s.arr.noDeck e true } }

/-- DECK_SEL. -/
def execDeckSel (st : Nat) (op : PlanOp) (s : State) : Host.Outcome State Fault Refusal :=
  .next (issue 0x03 st op startDeckSel s)

/-- The model-image tag of a physical deck: non-zero only when it is Bound (R91, R252). -/
def deckTag (s : State) (engine deck : Nat) : Nat :=
  if tget 0 s.model.decks (engine * 32 + deck) = 2 then
    ((tget none s.model.dir (engine * 32 + deck)).map (·.image)).getD 0
  else 0

/-! ### Driven values -/

/-- The A4 code of element `r` of a block: a nibble (R94). -/
def a4Code (b : Bytes) (r : Nat) : Int := signed 4 (elemAt .int4 b r)

/-- The driven values of an A4 block and whether one was clamped (R95). -/
def driveA4 (b : Bytes) (n : Nat) : List Int × Bool :=
  let xs := (List.range n).map (a4Code b)
  (xs.map (max (-7)), xs.contains (-8))

/-- The driven values of an A8 block and whether one was clamped (R96). -/
def driveA8 (b : Bytes) (n : Nat) : List Int × Bool :=
  let xs := (List.range n).map fun r => signed 8 (byteAt b r).toNat
  (xs.map (clampI (-112) 112), xs.any fun x => decide (x < -112) || decide (112 < x))

/-- The A4 strokes of one repetition: coefficient, and whether its drive is all zero (R103, R118). -/
def strokesOf (a8 : Bool) (xs : List Int) : List (Nat × Bool) :=
  if a8 then [(15, xs.all fun x => highDigit x == 0), (1, xs.all fun x => lowDigit x == 0)]
  else [(1, xs.all (· == 0))]

/-! ### Conversions -/

/-- The data columns, or rows, of a read kind. -/
def dataCols (kind : Nat) : List Nat :=
  if kind = 0 then List.range 512 else if kind = 1 then List.range 256
  else if kind = 2 then span 256 256 else List.range 1024

/-- The check columns of a read kind. -/
def checkCols (kind : Nat) : List Nat :=
  if kind = 0 then span 512 8 else if kind = 1 then span 512 4 else if kind = 2 then span 516 4 else []

/-- The reference columns of a read kind. -/
def refCols (kind : Nat) : List Nat :=
  if kind = 0 then span 536 4 else if kind = 1 then span 536 2 else if kind = 2 then span 538 2 else []

/-- The accumulator of one column over its converted strokes, and whether any of them clipped; a clipped column holds 0
(R105, R121). `raws` gives the coefficient and the raw value u of each converted stroke. -/
def accumulate (trim : Nat) (raws : List (Nat × Int)) : Int × Bool :=
  let r := raws.foldl (fun (acc : Int × Bool) (coef, u) =>
    match adcCode trim u with
    | some c => (acc.1 + coef * c, acc.2)
    | none => (acc.1, true)) (0, false)
  if r.2 then (0, true) else r

/-- The array that a read drives: physical engine, deck, the chuck entry in force, gain word, read kind, activation
format, driven values, and the state's counter at the read. -/
structure Drive where
  e : Nat
  deck : Nat
  entry : Bytes
  gain : Nat
  kind : Nat
  a8 : Bool
  xs : List Int
  base : Nat

/-- The conversion in a read of a stroke of a column or row: read kinds of one stroke number apart. -/
def Drive.lane (v : Drive) (j c : Nat) : Nat := j * 4096 + (if v.kind = 2 then 2048 else 0) + c

/-- The raw value of one converted stroke, by number and coefficient, of a logical column or row (R98, R99, R128). -/
def strokeRaw (s : State) (v : Drive) (c : Nat) (x : Nat × Nat) : Int :=
  let k := v.e * 32 + v.deck
  let xs := strokeDrive v.a8 x.2 v.xs
  let n := if v.kind = 3 then 1024 + c else mapColumn v.entry c
  let sum := if v.kind = 3 then reverseSum s v.entry k c xs else strokeSum s k v.gain n xs
  rawValue v.kind v.base (v.lane x.1 c) (elemKey v.e n) (colPath s v.e n v.deck (adcOf v.kind c)) sum

/-- The accumulator of a column or row: 0 and no clip for an uncovered ADC (R137). `strokes` gives each converted stroke's
number and coefficient. -/
def readCol (s : State) (v : Drive) (strokes : List (Nat × Nat)) (c : Nat) : Int × Bool :=
  if uncovered s v.e (adcOf v.kind c) then (0, false)
  else accumulate (trimUsed s v.e (adcOf v.kind c)) (strokes.map fun x => (x.2, strokeRaw s v c x))

/-- The converted strokes of a read: numbered over its repetitions, skipped ones left out (R104, R118). -/
def converted (per : List (Nat × Bool)) (reps : Nat) : List (Nat × Nat) :=
  (List.range (reps * per.length)).filterMap fun j =>
    match per[j % per.length]? with
    | some (coef, false) => some (j, coef)
    | _ => none

/-- Convert one read, Split half or reverse read on an engine, with the recomputations that follow from
clips, uncovered ADCs and an unsettled buffer (R116, R121, R122, R130, R137). A half of a Split read is judged ZERO by
its own strokes (DESIGN CHOICE, log 60: R119 speaks of the strokes of a read). -/
def convertHalf (s : State) (v : Drive) (dest reps : Nat) (unsettled clamp : Bool) : HalfRead :=
  let e := v.e
  let kind := v.kind
  let xs := v.xs
  let strokes := converted (strokesOf v.a8 xs) reps
  let zero := strokes.isEmpty
  let col := readCol s v strokes
  let data := (dataCols kind).map col
  let chk := (checkCols kind).map col
  let ref := (refCols kind).map col
  let bare := fun c => !zero && uncovered s e (adcOf kind c)
  let clips := (data.filter (·.2)).length + (chk.filter (·.2)).length
  let all := unsettled && !zero
  let small := kind == 3 || decide (clips ≤ 32)
  { kind := kind, dest := dest, accs := data.map (·.1), checks := chk.map (·.1), refs := ref.map (·.1),
    clip := data.map (·.2), clipCheck := chk.map (·.2), clipRef := ref.map (·.2),
    redo := ((dataCols kind).zip data).map fun (c, r) => all || bare c || (r.2 && small),
    redoCheck := ((checkCols kind).zip chk).map fun (c, r) => all || bare c || (r.2 && small),
    zero := zero, split := false, clamp := clamp, weight := (strokes.map (·.2)).sum, xs := xs, clips := clips }

/-- Whether a half undergoes a range-split re-read (R116, R123). -/
def needsReread (j : ReadJob) (h : HalfRead) : Bool := !j.unsettled && h.kind != 3 && decide (32 < h.clips)

/-- One half after its re-read: the sum of the four sub-reads replaces every column that clipped at first
and in no sub-read; one that clipped again is recomputed (R123). A reference column that clipped stays 0 (DESIGN CHOICE,
log 60). Sub-read q drives the rows 256q to 256q + 255. -/
def rereadHalf (s : State) (v : Drive) (reps : Nat) (h : HalfRead) : HalfRead :=
  let strokes := converted (strokesOf v.a8 h.xs) reps
  let quarter := fun (q : Nat) => h.xs.zipIdx.map fun (x, r) => if r / 256 = q then x else 0
  let sub := fun c => (List.range 4).map fun q => readCol s { v with xs := quarter q, base := v.base + 1 + q } strokes c
  let again := fun c => (sub c).any (·.2)
  let sum := fun c => ((sub c).map (·.1)).sum
  let fix := fun (cols : List Nat) (accs : List Int) (clip : List Bool) =>
    ((cols.zip accs).zip clip).map fun ((c, a), k) => if k && !again c then sum c else a
  let more := fun (cols : List Nat) (redo clip : List Bool) =>
    ((cols.zip redo).zip clip).map fun ((c, r), k) => r || (k && again c)
  { h with
    accs := fix (dataCols h.kind) h.accs h.clip, checks := fix (checkCols h.kind) h.checks h.clipCheck,
    redo := more (dataCols h.kind) h.redo h.clip, redoCheck := more (checkCols h.kind) h.redoCheck h.clipCheck,
    split := true }

/-! ### Records -/

/-- Bits packed into bytes, bit k of byte j from element 8j + k. -/
def packBits (l : List Bool) : Bytes :=
  (List.range ((l.length + 7) / 8)).map fun j =>
    BitVec.ofNat 8 (((List.range 8).map fun k => if l.getD (8 * j + k) false then 2 ^ k else 0).sum)

/-- Flags of a list as a number, bit k for element k. -/
def packNat (l : List Bool) : Nat := ((List.range l.length).map fun k => if l.getD k false then 2 ^ k else 0).sum

/-- The header of a record (result record header). CLIPPED tells of the clip bits that R121 counts: a reference column that
clipped alone leaves it clear (DESIGN CHOICE, log 60). -/
def recordHeader (j : ReadJob) (h : HalfRead) (reps : Nat) : Bytes :=
  let some8 := h.clip.any id || h.clipCheck.any id
  let flags := b2n (h.zero || j.notBound) + 2 * b2n some8 + 4 * b2n h.split + 8 * b2n (j.unsettled && !h.zero) +
    16 * b2n h.clamp + 32 * b2n j.a8 + 64 * b2n j.notBound + 128 * j.burnish
  let shift := if h.kind = 2 then 4 else 0
  let shiftR := if h.kind = 2 then 2 else 0
  let driven := if j.a8 then ((strokesOf true h.xs).filter fun x => !x.2).length * reps
    else ((strokesOf false h.xs).filter fun x => !x.2).length * reps
  le 2 flags ++ le 1 h.kind ++ le 1 j.deck ++ le 2 h.clips ++
  le 2 ((h.redo.filter id).length + (h.redoCheck.filter id).length) ++ le 2 h.weight ++
  le 2 (if j.notBound then 0 else driven) ++ le 4 (if h.kind = 3 then 0 else j.gain) ++ le 8 j.count ++
  le 2 j.engine ++ le 1 (packNat h.clipCheck * 2 ^ shift) ++ le 1 (packNat h.clipRef * 2 ^ shiftR) ++
  le 1 (packNat h.redoCheck * 2 ^ shift) ++ zeros 3

/-- The words of a record (R107). -/
def recordWordsOf (j : ReadJob) (h : HalfRead) (reps : Nat) : List (Nat × Bytes) :=
  let ints := fun (l : List Int) => l.flatMap (leInt 4)
  toWords h.dest (recordHeader j h reps ++ packBits h.clip ++ packBits h.redo ++ ints h.accs ++
    (if h.kind = 3 then [] else if h.kind = 0 then ints h.checks ++ padTo 32 (ints h.refs)
      else padTo 32 (ints h.checks ++ ints h.refs)))

/-- Repetitions of a burnish code. -/
def repsOf (j : ReadJob) : Nat := 2 ^ j.burnish

/-! ### STROKE and REVERSE_READ -/

/-- A half that drove nothing: every accumulator 0 (R111, R119). Nothing was driven, so nothing was clamped: INPUT_CLAMP
stays clear and INPUT_CLAMPED is not posted (DESIGN CHOICE, log 60: R111 does not say). -/
def zeroHalf (kind dest : Nat) : HalfRead :=
  let z := fun (l : List Nat) => l.map fun _ => (0 : Int)
  let n := fun (l : List Nat) => l.map fun _ => false
  { kind := kind, dest := dest, accs := z (dataCols kind), checks := z (checkCols kind), refs := z (refCols kind),
    clip := n (dataCols kind), clipCheck := n (checkCols kind), clipRef := n (refCols kind),
    redo := n (dataCols kind), redoCheck := n (checkCols kind), zero := true, split := false, clamp := false,
    weight := 0, xs := z (if kind = 3 then List.range 512 else List.range 1024), clips := 0 }

/-- The settle distance of a read; none where its core has had no REF_ON since reset (R115). -/
def settleOf (s : State) (f : Fly) : Option Int :=
  (tget none s.arr.refs (flyCore s f)).map fun d => d + f.op.offset

/-- A read is settled when its core's buffer is on and its settle distance is at least 256 (R115). -/
def unsettledAt (on : Bool) (settle : Option Int) : Bool := !on || !settle.any fun d => decide (256 ≤ d)

/-- The halves of a read whose deck is bound: kind, destination, driven values, clamp. -/
def readInputs (s : State) (f : Fly) : List (Nat × Nat × List Int × Bool) :=
  let g := srcWord s f
  let d := dstWord s f
  if f.op.code = 0x11 then
    let r := driveA4 (wordsAt s g 8) 512
    [(3, d, r.1, r.2)]
  else
    let a8 := bit f.op.opnd.toNat 13
    let n := if a8 then 32 else 16
    let drive := fun k => if a8 then driveA8 (wordsAt s (g + n * k) n) 1024 else driveA4 (wordsAt s (g + n * k) n) 1024
    if opBits f.op 15 14 = 1 then [(1, d, (drive 0).1, (drive 0).2), (2, d + 36, (drive 1).1, (drive 1).2)]
    else [(0, d, (drive 0).1, (drive 0).2)]

/-- The events of a read's issue: DECK_NOT_BOUND, INPUT_CLAMPED, REF_UNSETTLED, each once in the pass
(R111, R116, R131). A read on a core that never had a REF_ON reports a settle distance of 0 (DESIGN CHOICE, log 60: R115
gives none). -/
def readEvents (f : Fly) (j : ReadJob) (s : State) : State :=
  let s := if j.notBound then
      postOncePerPass f.part 0x0383 3 j.phys (le 2 j.phys ++ le 1 j.deck ++ le 4 (deckTag s j.phys j.deck)) s
    else s
  let s := if j.halves.any (·.clamp) then
      postOncePerPass f.part 0x0382 2 j.phys (le 2 j.phys ++ le 4 f.op.offset) s
    else s
  if j.unsettled && !j.halves.all (·.zero) then
    postOncePerPass f.part 0x0380 2 (coreOf j.phys)
      (le 1 f.st ++ le 2 (coreOf j.phys % 640) ++ le 4 f.op.offset ++ leInt 4 (f.settle.getD 0)) s
  else s

/-- Read the input block and run the strokes of a read. Conversions are made with free raw values; their
results are known, and written, in the indices of R100 and R129. -/
def runRead (id : Nat) (f : Fly) (s : State) : State :=
  let l := gea f.st (opCore f.op) (f.op.unit % 4)
  let e := physEngine s l
  let deck := tget 0 s.arr.active e
  let model := ((planAt s (f.part / 16)).map (·.d.model)).getD 0
  let notBound := tget false s.arr.noDeck e || deckTag s e deck != model
  let reverse := f.op.code == 0x11
  let a8 := !reverse && bit f.op.opnd.toNat 13
  let burn := if reverse then 0 else opBits f.op 12 11
  let unsettled := unsettledAt f.on f.settle
  let ins := readInputs s f
  let entry := (chuckOf s (bankOf s f.part) l deck).getD []
  let halves := ins.map fun (k, d, xs, clamp) =>
    if notBound then zeroHalf k d
    else convertHalf s ⟨e, deck, entry, f.gain, k, a8, xs, s.free⟩ d (2 ^ burn) unsettled clamp
  let j : ReadJob := {
    engine := l, phys := e, deck := deck, reverse := reverse,
    a8 := a8, burnish := burn, gain := f.gain, unsettled := unsettled && !notBound, notBound := notBound,
    strokes := busyOf f.op, count := f.count, offset := f.op.offset,
    rate := f.rate, seed := f.seed, halves := halves, ready := none,
    done := false, drive := none }
  let s := { s with free := s.free + 5 }
  readEvents f j (setFly id (some { f with
    due := s.spin.tick + (if reverse then 6 else busyOf f.op + 2), wait := .none, body := .read j }) s)

/-- A read reads its input block in its issue index, or when its guard wait ends (R100, R101). -/
def startRead (id : Nat) (f : Fly) (s : State) : State :=
  withSource id f (span (srcWord s f) (inputWords f.op)) (runRead id f) s

/-- The gain word of a stroke: entry e lies in word e div 8 of the row-gain table (R97). -/
def gainWord (s : State) (f : Fly) : Nat :=
  match partAt s f.part with
  | none => 0
  | some p =>
    let e := opBits f.op 10 0
    fld (wordAt s (wordOf s f.st none p.d.gainBase + e / 8)) (4 * (e % 8)) 4

/-- The issue of a read: its gain word, its settle distance and the sampling policy are taken in the issue index. -/
def issueRead (id : Nat) (f : Fly) (s : State) : State :=
  startRead id { f with
    gain := if f.op.code = 0x10 then gainWord s f else 0, settle := settleOf s f, on := tget false s.arr.refOn (flyCore s f)
    rate := s.cal.policy.rate, seed := s.cal.policy.seed } s

/-- STROKE. -/
def execStroke (st : Nat) (op : PlanOp) (s : State) : Host.Outcome State Fault Refusal :=
  .next (issue 0x10 st op issueRead s)

/-- REVERSE_READ. -/
def execReverseRead (st : Nat) (op : PlanOp) (s : State) : Host.Outcome State Fault Refusal :=
  .next (issue 0x11 st op issueRead s)

/-- The words of a read's record are kept with the job, so that what follows the write finds it. -/
def tryRecord (id : Nat) (f : Fly) (j : ReadJob) (s : State) : State :=
  let ws := j.halves.flatMap fun h => recordWordsOf j h (repsOf j)
  if f.op.fill && ws.any (fun (g, _) => fullAt s g) then
    setFly id (some { f with wait := .fill (ws.map (·.1)), body := .read j }) s
  else
    let w : PendWrite := ⟨id, unitPos f.st f.op, f.issue, f.op.pos, f.op.fill, ws⟩
    setFly id (some { f with wait := .none, body := .read { j with done := true } })
      { s with stores := { s.stores with writes := s.stores.writes ++ [w] } }

/-- The index in which a read without re-read writes its record has come: the record is written; a read
that needs a re-read keeps it back (R100, R123). -/
def recordStage (code id : Nat) (s : State) : State :=
  match flyAt s id with
  | none => s
  | some f =>
    match f.body with
    | .read j =>
      if f.op.code == code && f.wait == .none && decide (f.due ≤ s.spin.tick) && !j.done &&
          !j.halves.any (needsReread j) then
        tryRecord id f j s
      else s
    | _ => s

/-- STROKE_RECORD_WRITE. -/
def execStrokeRecordWrite (id : Nat) (s : State) : Host.Outcome State Fault Refusal := .next (recordStage 0x10 id s)

/-- REVERSE_READ_RECORD_WRITE. -/
def execReverseReadRecordWrite (id : Nat) (s : State) : Host.Outcome State Fault Refusal :=
  .next (recordStage 0x11 id s)

/-- Own clock at which the final record of a re-read is written (R124). -/
def rereadWrite (j : ReadJob) : Option Nat := j.drive.map fun d => d + 4 * j.strokes + 1

/-- The sub-reads are complete: columns are replaced in the halves that clipped above 32, and the final record is written
(R123, R124). RANGE_SPLIT counts every recompute bit of such a half as a column left (DESIGN CHOICE, log 60). -/
def rereadStage (id : Nat) (s : State) : State :=
  match flyAt s id with
  | none => s
  | some f =>
    match f.body, (match f.body with
      | .read j => rereadWrite j
      | _ => none) with
    | .read j, some w =>
      if f.wait == .none && decide (w ≤ s.spin.tick) && !j.done then
        let entry := (chuckOf s (bankOf s f.part) j.engine j.deck).getD []
        let again := fun h => if needsReread j h then
            rereadHalf s ⟨j.phys, j.deck, entry, j.gain, h.kind, j.a8, h.xs, s.free⟩ (repsOf j) h
          else h
        let j := { j with halves := j.halves.map again }
        let left := ((j.halves.filter (·.split)).map fun h =>
          (h.redo.filter fun b => b).length + (h.redoCheck.filter fun b => b).length).sum
        let s := { s with free := s.free + 5 }
        let s := match partAt s f.part with
          | none => s
          | some p => setPart f.part (some { p with rereads := p.rereads + 1, rereadLeft := p.rereadLeft + left }) s
        tryRecord id f j s
      else s
    | _, _ => s

/-- RANGE_SPLIT_REREAD. -/
def execRangeSplitReread (id : Nat) (s : State) : Host.Outcome State Fault Refusal := .next (rereadStage id s)

end Sys2Proof.Machine
end

