-- ==== Sys2Proof/Machine/Factors.lean ====
section
/-!
DEFINITION. Factors: looking them up, staging them, bringing them into force, and what a sample or a
reference observation does to them (R168, R221 to R237, R400, R401).
-/

namespace Sys2Proof.Machine

/-! ### Formats -/

/-- q of a weight format (R92). -/
def formatShift (entry : Bytes) : Nat := (byteAt entry 7).toNat % 4

/-! ### The read envelope (R184, R185) -/

/-- B² of a member at 105 °C in units of 1/40,000 LSB²: kind, burnish count, A8, range-split. -/
def bound2 (kind n : Nat) (a8 split : Bool) : Nat :=
  (if kind = 0 then 36100 else if kind = 3 then 70225 else 46225) * 4 / n *
    (if a8 then 226 else 1) * (if split then 4 else 1)

/-- Whether a difference in units of T exceeds a bound whose square is `b2` (R187). -/
def beyond (d : Int) (q b2 : Nat) : Bool := decide (1024 * b2 < d.natAbs ^ 2 * 40000 * 4 ^ q)

/-- T_a of R169: accumulator, weight, factor word, drift, p and q. -/
def partT (a w : Int) (word drift p q : Nat) : Int :=
  divEven ((256 * a - w * offsetOf word) * (gainOf word : Int) * (drift : Int)) (2 ^ (32 + p + q))

/-! ### Candidates that end -/

/-- Report CAL_RESTORE_DONE once every Candidate of a stack's restore has ended (R239). -/
def restoreStep (st : Nat) (promoted : Bool) (s : State) : State :=
  match tget none s.cal.restores st with
  | none => s
  | some (o, p, d) =>
    let p := if promoted then p + 1 else p
    let d := if promoted then d else d + 1
    if 1 < o then { s with cal := { s.cal with restores := tset none s.cal.restores st (some (o - 1, p, d)) } }
    else postEvent 4 st 0x0756 1 (le 1 st ++ le 4 p ++ le 4 d)
      { s with cal := { s.cal with restores := tset none s.cal.restores st none } }

/-- A Candidate of an element is dropped; a restored one counts as discarded (R237, R239). -/
def dropCand (k : Nat) (s : State) : State :=
  match tget none s.cal.cands k with
  | none => s
  | some c =>
    let s := { s with cal := { s.cal with cands := tset none s.cal.cands k none } }
    if c.restored then restoreStep (k / 4096 / 4096) false s else s

/-! ### Staging and application -/

/-- The stack of an engine. -/
def engineStack (e : Nat) : Nat := e / 4096

/-- Whether a stack belongs to no running plan (R230). -/
def idleStack (s : State) (st : Nat) : Bool := (partOfStack s st).isNone

/-- A number `k` sixteenths of the way from `c` to `v`, rounded toward zero (R231). -/
def glideNum (c v : Int) (k : Nat) : Int :=
  let z := c * 16 + (v - c) * k
  if 0 ≤ z then z / 16 else -(-z / 16)

/-- The word of step `k` of a glide; gain and offset move each on its own (DEDUCED, log 30). -/
def glideWord (key c v k : Nat) : Nat :=
  if k = 16 then v
  else if 3000 ≤ key % 4096 then fullWord key (glideNum (driftIn c) (driftIn v) k).toNat
  else
    let g := (glideNum (gainOf c) (gainOf v) k).toNat
    let o := (glideNum (offsetOf c) (offsetOf v) k % 32768).toNat
    fullWord key (g + o * 65536)

/-- What an application of staged changes has done. -/
structure Applied where
  s : State
  engines : List Nat
  steps : Nat
  /-- something was applied, whether or not it changed an active word -/
  any : Bool

/-- Note an engine whose active state has changed. -/
def Applied.touch (a : Applied) (e : Nat) : Applied :=
  if a.engines.contains e then a else { a with engines := a.engines ++ [e] }

/-- Give an element its active word: its engine is noted where that changes it (R232). -/
def Applied.write (a : Applied) (k w : Nat) : Applied :=
  let b : Applied := { a with s := setActive k w a.s, any := true }
  if activeWord a.s k = w then b else b.touch (k / 4096)

/-- Bring one staged value into force, or begin its glide (R231). -/
def applyStage (a : Applied) (k : Nat) (g : Stage) : Applied :=
  let s := { a.s with cal := { a.s.cal with staged := tset none a.s.cal.staged k none } }
  if g.glide then
    { a with s := { s with cal := { s.cal with
        glides := tset none s.cal.glides k (some ⟨activeWord s k, g.word, 0⟩) } } }
  else
    let s := { s with cal := { s.cal with glides := tset none s.cal.glides k none } }
    ({ a with s := s } : Applied).write k g.word

/-- One step of a glide in progress. -/
def stepGlide (a : Applied) (k : Nat) (g : Glide) : Applied :=
  let n := g.step + 1
  let s := { a.s with cal := { a.s.cal with
    glides := tset none a.s.cal.glides k (if n = 16 then none else some { g with step := n }) } }
  ({ a with s := s, steps := a.steps + 1 } : Applied).write k (glideWord k g.start g.goal n)

/-- An element becomes Provisional and keeps its value; its window starts afresh (R234, R236). -/
def provisional (s : State) (k : Nat) : State :=
  let s := dropCand k (setActive k (bareWord k (activeWord s k)) s)
  { s with cal := { s.cal with
      windows := tset none s.cal.windows k none, glides := tset none s.cal.glides k none,
      failing := tset false s.cal.failing k false } }

/-- The physical columns of an engine that an ADC converts in Wide and Split reads, mapped spares among them (R134,
R135). -/
def adcColumns (s : State) (e adc : Nat) : List Nat :=
  (List.range 540).filter fun c =>
    let l := logicalColumn s e c
    (decide (c < 520) || decide (536 ≤ c) || l != c) && (adcsOf l).contains adc

/-- Post CAL_SPARE: engine, element replaced, spare. -/
def postSpare (e what spare : Nat) (s : State) : State :=
  postEvent 4 (engineStack e) 0x0752 1 (le 2 e ++ le 4 what ++ le 4 spare) s

/-- A Valid column factor becomes a Candidate with its old value when its core's reference cell changes
(R236). -/
def toCandidate (s : State) (k : Nat) : State :=
  if elemValid s k then
    let w := bareWord k (activeWord s k)
    let s := provisional s k
    { s with cal := { s.cal with cands := tset none s.cal.cands k (some ⟨w, 0, 0, 0, dzero, 0, false⟩) } }
  else s

/-- A staged spare-ADC swap comes into force: the columns of the ADC become Provisional (R234), or Candidates when a
factor blob restores the swap (R239). -/
def applySwap (a : Applied) (e code : Nat) : Applied :=
  let adc := code % 256
  let s := { a.s with cal := { a.s.cal with
    swaps := tset none a.s.cal.swaps e (some adc), stagedSwaps := tset 0 a.s.cal.stagedSwaps e 0 } }
  let s := (adcColumns s e adc).foldl (fun s c =>
    if 256 ≤ code then toCandidate s (elemKey e c) else provisional s (elemKey e c)) s
  ({ a with s := postSpare e adc 131 s, any := true } : Applied).touch e

/-- A staged read reference select comes into force (R236). -/
def applyRef (a : Applied) (core sel : Nat) : Applied :=
  let s := { a.s with cal := { a.s.cal with
    refSel := tset 0 a.s.cal.refSel core sel, stagedRefs := tset 0 a.s.cal.stagedRefs core 0 } }
  let es := (List.range 4).map fun j => gea (core / 640) (core % 640) j
  let s := es.foldl (fun s e => (List.range 540).foldl (fun s c => toCandidate s (elemKey e c)) s) s
  es.foldl (fun a e => Applied.touch a e) { a with s := s, any := true }

/-- An entry with a spare mapped to a logical column in place of the spare that was (R235). -/
def mapEntry (entry : Bytes) (spare col : Nat) : Bytes :=
  entry.take 64 ++ ((List.range 16).flatMap fun k =>
    let m := fld entry (64 + 2 * k) 2
    if 520 + k = spare then le 2 (2 ^ 15 + col) else if m.testBit 15 && m % 1024 == col then zeros 2 else le 2 m) ++
  entry.drop 96

/-- The physical columns of an engine that serve a logical column: it is the column itself, or mapped spares. -/
def serving (s : State) (e col : Nat) : List Nat :=
  col :: (span 520 16).filter fun k => logicalColumn s e k == col

/-- A staged column-map change comes into force in every bank that references the engine's decks (R235, R258). The column
that the spare replaces is Failing no longer (R221). -/
def applyMap (a : Applied) (m : Nat × Nat × Nat) : Applied :=
  let s := (serving a.s m.1 m.2.2).foldl (fun s c => if c = m.2.1 then s else
    { s with cal := { s.cal with failing := tset false s.cal.failing (elemKey m.1 c) false } }) a.s
  let chuck := (tvals s.model.chuck).foldl (fun t (k, b) =>
    if physEngine s (k / 32 % 65536) = m.1 then tset none t k (some (mapEntry b m.2.1 m.2.2)) else t) s.model.chuck
  let s := { s with
    model := { s.model with chuck := chuck }
    cal := { s.cal with stagedMaps := s.cal.stagedMaps.erase m } }
  ({ a with s := postSpare m.1 m.2.2 m.2.1 s, any := true } : Applied).touch m.1

/-- Apply the staged changes of the stacks in `sts`: an application raises the epoch and stamps the engines changed, and
one that changes a factor word posts CAL_APPLIED (R230 to R232, R241). -/
def applyStaged (sts : List Nat) (s : State) : State :=
  let before := s.cal
  let here := fun k => sts.contains (k / 4096 / 4096)
  let glides := (tvals s.cal.glides).filter fun (k, _) => here k && (tget none s.cal.staged k).isNone
  let staged := (tvals s.cal.staged).filter fun (k, _) => here k
  let began := staged.filter fun (_, g) => g.glide
  let a : Applied := ⟨s, [], 0, !staged.isEmpty⟩
  let a := staged.foldl (fun a (k, g) => applyStage a k g) a
  let a := (glides ++ began.filterMap fun (k, _) => (tget none a.s.cal.glides k).map fun g => (k, g)).foldl
    (fun a (k, g) => stepGlide a k g) a
  let a := (s.cal.stagedSwaps.filter fun (e, _) => sts.contains (e / 4096)).foldl (fun a (e, v) => applySwap a e (v - 1)) a
  let a := (s.cal.stagedRefs.filter fun (c, _) => sts.contains (c / 640)).foldl (fun a (c, v) => applyRef a c (v - 1)) a
  let a := (s.cal.stagedMaps.filter fun m => sts.contains (m.1 / 4096)).foldl applyMap a
  if !a.any then a.s else
  let ep := (s.cal.epoch + 1) % 2 ^ 32
  let s := { a.s with cal := { a.s.cal with
    epoch := ep, stamps := a.engines.foldl (fun t e => tset 0 t e ep) a.s.cal.stamps } }
  if before.words = s.cal.words ∧ before.drifts = s.cal.drifts then s
  else postEvent 4 (sts.headD 0) 0x0750 1 (le 4 ep ++ le 4 a.engines.length ++ le 4 a.steps) s

/-- Staged changes of a stack that belongs to no running plan come into force at once (R230); those of a stack that a
successor may take at the boundary of the index in progress wait for its start, or the end of the index. -/
def settle (st : Nat) (s : State) : State :=
  if idleStack s st && !s.cal.released.contains st then applyStaged [st] s else s

/-- The end of an index: stacks that no successor took have their staged changes applied (R230). -/
def settleReleased (s : State) : State :=
  s.cal.released.foldl (fun s st => settle st s) { s with cal := { s.cal with released := [] } }

/-- Stage a value of an element (R230). -/
def stage (k w : Nat) (glide : Bool) (s : State) : State :=
  settle (k / 4096 / 4096) { s with cal := { s.cal with staged := tset none s.cal.staged k (some ⟨w, glide⟩) } }

/-! ### Windows -/

/-- A fresh regression window (R226, R238). -/
def newWindow (s : State) : Window := ⟨s.cal.policy.window, 0, 0, dzero, dzero, dzero, dzero, dzero⟩

/-- The window of an element. -/
def windowOf (s : State) (k : Nat) : Window := (tget none s.cal.windows k).getD (newWindow s)

/-- Replace an element's window. -/
def setWindow (k : Nat) (w : Option Window) (s : State) : State :=
  { s with cal := { s.cal with windows := tset none s.cal.windows k w } }

/-- One pair added to the sums, in FP64 (R226). -/
def Window.add (w : Window) (o a : Int) (z : Dyad) : Window :=
  let acc := fun (t x : Dyad) => f64 (dadd t (f64 x))
  { w with
    count := w.count + 1, ww := acc w.ww (dint (o * o)), wz := acc w.wz (dmul (dint o) z),
    zz := acc w.zz (dmul z z), wa := acc w.wa (dint (o * a)), za := acc w.za (dmul z (dint a)) }

/-- The derived factor word of a full window, without its valid bit; none when it is out of range (R226,
R227). -/
def Window.solve (w : Window) : Option Nat :=
  let mul := fun (x y : Dyad) => f64 (dmul x y)
  let det := f64 (dsub (mul w.ww w.zz) (mul w.wz w.wz))
  if det.m ≤ 0 then none else
  let o := f64Div (f64 (dsub (mul w.wa w.zz) (mul w.za w.wz))) det
  let b := f64Div (f64 (dsub (mul w.za w.ww) (mul w.wa w.wz))) det
  if b.m ≤ 0 then none else
  let g := dround (dmul (dint 32768) (f64Div (dint 1) b))
  let f := dround (dmul (dint 256) o)
  if g < 0x6000 ∨ 0xA000 < g ∨ f < -16384 ∨ 16383 < f then none
  else some (g.toNat + 65536 * (f % 32768).toNat)

/-- Whether a Valid element's derived word differs enough to be staged (R227). -/
def differs (s : State) (old new : Nat) : Bool :=
  decide (s.cal.policy.gainStep ≤ ((gainOf old : Int) - gainOf new).natAbs) ||
  decide (s.cal.policy.offsetStep ≤ (offsetOf old - offsetOf new).natAbs)

/-- A value in range is taken by a Provisional element, and staged by a Valid one that it differs from
(R227). -/
def takeValue (k w : Nat) (s : State) : State :=
  if elemValid s k then (if differs s (activeWord s k) w then stage k (fullWord k w) s.cal.policy.glide s else s)
  else stage k (fullWord k w) false s

/-! ### Reference columns -/

/-- The undrifted corrected value of a reference column in LSB (R228). -/
def refCorrected (s : State) (e c : Nat) (a w : Int) : Dyad :=
  let f := activeWord s (elemKey e c)
  ⟨(256 * a - w * offsetOf f) * gainOf f, -23⟩

/-- An empty window of reference observations. -/
def RefWindow.empty : RefWindow := ⟨0, 0, dzero, dzero, 0⟩

/-- The derived DRIFT of a window, rounded to nearest with ties to even; 0 where it is undefined (R228). -/
def RefWindow.derived (w : RefWindow) : Int :=
  if w.cc.m ≤ 0 then 0 else
  let e := min w.ac.e w.cc.e
  divEven (dat w.ac e * 16384) (dat w.cc e).natAbs

/-- The derived DRIFT of a window; none when it is undefined or out of range (R229). -/
def RefWindow.drift (w : RefWindow) : Option Nat :=
  if w.derived < 0x3000 ∨ 0x5000 < w.derived then none else some w.derived.toNat

/-- Whether the derived drift differs from the active one by more than the envelope (R401). -/
def RefWindow.strays (w : RefWindow) (active : Nat) : Bool :=
  let e := min w.ac.e w.cc.e
  let a := dat w.ac e * 16384
  let c := dat w.cc e
  decide (19 * (active : Int) * c < 1270 * (a - active * c).natAbs)

/-- Whether the magnitude of a sum exceeds the root of the sum of squared bounds. -/
def rootExceeds (sum : Dyad) (b2 : Nat) : Bool :=
  dlt ⟨b2, 0⟩ (dmul (dint 40000) (dmul sum sum))

end Sys2Proof.Machine
end

