-- ==== Sys2Proof/Machine/Decks.lean ====
section
/-!
DEFINITION. Physical decks and their states (R250 to R257), the repair of Failing elements (R234, R235), and
cores: suspect marks, intensified checking, and the preparation of a spare core (R410 to R415).
-/

namespace Sys2Proof.Machine

/-! ### Decks -/

/-- The state of a deck (R252). -/
def deckState (s : State) (k : Nat) : Nat := tget 0 s.model.decks k

/-- Put a deck in a state. -/
def setDeck (k v : Nat) (s : State) : State :=
  { s with model := { s.model with decks := tset 0 s.model.decks k v } }

/-- Write a deck's directory entry. -/
def setDir (k : Nat) (d : Option DirEntry) (s : State) : State :=
  { s with model := { s.model with dir := tset none s.model.dir k d } }

/-- The element's Candidate, window and staged value are dropped and its word has its reset value. -/
def resetElem (k : Nat) (s : State) : State :=
  let s := dropCand k (setActive k (if 3000 ≤ k % 4096 then 0x4000 else 0x8000) s)
  { s with cal := { s.cal with
      staged := tset none s.cal.staged k none, glides := tset none s.cal.glides k none,
      windows := tset none s.cal.windows k none,
      failing := tset false s.cal.failing k false, stats := tset none s.cal.stats k none } }

/-- The drift word of a deck that returns to the free pool or is rewritten is Provisional (R229). -/
def resetDrift (k : Nat) (s : State) : State :=
  let s := resetElem (elemKey (k / 32) (3000 + k % 32)) s
  { s with cal := { s.cal with drift := tset none s.cal.drift k none, leak := tset none s.cal.leak k none } }

/-- A deck returns to Free: tag, directory entry, sign mask, side data and drift word go (R252, R256). -/
def freeDeck (k : Nat) (s : State) : State :=
  let s := resetDrift k (setDir k none (setDeck k 0 s))
  { s with
    model := { s.model with pool := s.model.pool.filter fun (_, _, _, d) => d != k }
    cal := { s.cal with signs := tset none s.cal.signs k none } }

/-- First byte of a stack's side-data pool in its package memory: after the 20 MiB of entries of its chuck
area, which the model places at the bottom of package memory (DESIGN CHOICE, log 31). -/
def poolBase : Nat := 20971520
/-- First byte after the chuck area. -/
def chuckEnd : Nat := 4315938816

/-- The lowest address in `lo` to `hi` at which `len` bytes overlap none of `used`, given as address and
length (DESIGN CHOICE, log 31: the spec gives no allocation order). -/
def firstFit (lo hi len : Nat) (used : List (Nat × Nat)) : Option Nat :=
  let fits := fun a => decide (a + len ≤ hi) && used.all fun (b, n) => decide (a + len ≤ b) || decide (b + n ≤ a)
  ((lo :: used.map fun (b, n) => b + n).filter fits).min?

/-- Allocate side data of a deck, in 32-byte units (R256). -/
def allocSide (st k len : Nat) (s : State) : Option (Nat × State) :=
  let n := ceilDiv len 32 * 32
  let used := (s.model.pool.filter fun (t, _, _, _) => t == st).map fun (_, a, m, _) => (a, m)
  (firstFit poolBase chuckEnd n used).map fun a =>
    (a, { s with model := { s.model with pool := s.model.pool ++ [(st, a, n, k)] } })

/-- Advance a deck's write counter: the permutation and signs of the new write follow it (R250). -/
def nextCounter (k : Nat) (s : State) : Nat × State :=
  let c := tget 0 s.model.counters k + 1
  (c, { s with model := { s.model with counters := tset 0 s.model.counters k c } })

/-- The entry of a physical deck: of a bank that references it, or of the deck while it is written or verified. -/
def deckEntryOf (s : State) (e d : Nat) : Option Bytes :=
  match (boundDecks s e).find? fun x => x.1 == d with
  | some x => some x.2
  | none =>
    (s.model.writes.find? fun w => w.engine == e && w.deck == d && !w.entry.isEmpty).map (·.entry)

/-- Whether probes of a stack are sampled under R240: during CAL_WARMUP, and while decks of it are verified. -/
def probing (s : State) (st : Nat) : Bool :=
  s.cal.warmups.any (fun w => w.mask.testBit st) ||
  s.model.writes.any fun w => engineStack w.engine == st && w.row == 1024 && !w.entry.isEmpty

/-- One entry per physical deck. -/
def distinctDecks (l : List (Nat × Bytes)) : List (Nat × Bytes) :=
  l.foldl (fun acc x => if acc.any (fun y => y.1 == x.1) then acc else acc ++ [x]) []

/-- The logical core that a physical core serves, if any (R410). -/
def servedCore (s : State) (st core : Nat) : Option Nat :=
  (List.range 640).find? fun l => physCore s st l == core

/-- The logical engine that a physical engine serves; the engine itself where it serves none. -/
def logicalEngine (s : State) (e : Nat) : Nat :=
  gea (e / 4096) ((servedCore s (e / 4096) (e / 4 % 1024)).getD (e / 4 % 1024)) (e % 4)

/-! ### Cores -/

/-- The honing state of a core. -/
def coreState (s : State) (c : Nat) : Nat := tget 0 s.integ.cores c

/-- Put a core in a honing state. -/
def setCore (c v : Nat) (s : State) : State :=
  { s with integ := { s.integ with cores := tset 0 s.integ.cores c v } }

/-- Post HONE_DONE: severity 1 when the core becomes Spare, else 3 (R423). -/
def postHoneDone (st core cause sev : Nat) (s : State) : State :=
  postEvent 4 st 0x080A sev (le 1 st ++ le 2 core ++ le 1 cause) s

/-- The stack and logical core that a store address of a stack names in space 1 (R62). -/
def addrCore (st a : Nat) : List (Nat × Nat) := if bits a 31 30 = 1 then [(st, bits a 24 15)] else []

/-- The stacks and logical cores that an operation of a stack names, by its unit or by an operand that is a store address (R63).
A GRAIN_SEND's destination lies on its target stack, a DRITAR_SEND's on another module. -/
def opCores (st : Nat) (op : PlanOp) : List (Nat × Nat) :=
  let c := op.code
  let high := addrCore st (opBits op 79 48)
  let low := addrCore st (opBits op 47 16)
  (if op.kind ≤ 1 then [(st, opCore op)] else []) ++
  if c = 0x32 ∨ c = 0x33 then addrCore st (opBits op 41 10)
  else if c = 0x30 then high ++ addrCore (opBits op 15 12) (opBits op 47 16)
  else if c = 0x21 ∨ c = 0x31 ∨ c = 0x42 ∨ c = 0x52 ∨ c = 0x53 ∨ c = 0x60 then high
  else if c = 0x10 ∨ c = 0x11 ∨ c = 0x20 ∨ (0x22 ≤ c ∧ c ≤ 0x24) ∨ (0x40 ≤ c ∧ c ≤ 0x44) then high ++ low
  else []

/-- Whether an armed, running or halted plan names a logical core of a stack: in an operation, or as the place of a gain or
descriptor table (R412, R415). -/
def namedByPlan (s : State) (st l : Nat) : Bool :=
  (plansOf s).any fun (_, p) => p.state != 0 && p.d.parts.any fun d => d.cuts.any fun (t, ops) =>
    (addrCore t d.gainBase ++ addrCore t d.descBase).contains (st, l) || ops.any fun op => (opCores t op).contains (st, l)

/-- Whether a physical core may replace another (R412). One that is already prepared for another core is not taken twice (DESIGN
CHOICE, log 67). -/
def eligible (s : State) (st core spare : Nat) : Bool :=
  spare != core && decide (spare < 640) && coreState s (st * 640 + spare) != 5 &&
    !(s.integ.hones.any fun h => h.st == st && h.spare == spare) &&
    ((List.range 640).all fun l => physCore s st l != spare || !namedByPlan s st l) &&
    ((List.range 4).all fun j => (boundDecks s (gea st core j)).all fun (d, _) =>
      deckState s (gea st spare j * 32 + d) == 0)

/-- An entry with another SIDE_ADDR. -/
def withSide (a : Nat) (entry : Bytes) : Bytes := entry.take 24 ++ le 8 a ++ entry.drop 32

/-- Side data of the deck `k` that takes the place of the deck `old`: room of its own in the pool, with a copy of the bytes
(R256); without room the two decks share the old one's (DESIGN CHOICE, log 31). -/
def copySide (st old k : Nat) (entry : Bytes) (s : State) : Bytes × State :=
  match s.model.pool.find? fun x => x.1 == st && x.2.2.2 == old with
  | none => (entry, s)
  | some (_, a, n, _) =>
    match allocSide st k n s with
    | some (b, s) => (withSide b entry, packageWrite st b (packageRead s st a n) s)
    | none => (entry, { s with model := { s.model with pool := s.model.pool ++ [(st, a, n, k)] } })

/-- Begin to program one bound deck of a suspect engine on the spare engine, with side data of its own (R256, R413). -/
def honeDeck (core e d : Nat) (entry : Bytes) (s : State) : State :=
  let k := e * 32 + d
  let (c, s) := nextCounter k s
  let (entry, s) := copySide (engineStack e) (gea (engineStack e) (core % 640) (e % 4) * 32 + d) k entry s
  let dir : DirEntry := ⟨fld entry 0 4, fld entry 4 2, false, fld entry 20 4, c⟩
  let s := setDeck k 1 (setDir k (some dir) s)
  let w : DeckWrite :=
    { engine := e, deck := d, image := dir.image, version := dir.version, index := dir.index, bank := 0,
      planDeck := 0, install := none, hone := some core, entry := entry, writing := true, row := 0,
      again := false, prints := 0, failed := false, phi := [] }
  { s with
    model := { s.model with writes := s.model.writes ++ [w] }
    cal := { s.cal with signs := tset none s.cal.signs k (some (signByte (deckHash s e d c))) } }

/-- The cell that R236 chooses from the codes of the eight: nearest 2,400, the lower on a tie, within 2,352 to
2,448. -/
def pickRef (codes : List Nat) : Option Nat :=
  let far := fun k => ((codes.getD k 0 : Int) - 2400).natAbs
  let best := (List.range 8).foldl (fun b k => if far k < far b then k else b) 0
  let c := codes.getD best 0
  if 2352 ≤ c ∧ c ≤ 2448 then some best else none

/-- The eight reference cells of a core are measured, the best one staged, and CAL_REF_TRIM posted (R236). What the
cells measure is open (log 8). -/
def trimRef (core : Nat) (s : State) : State :=
  let codes := (List.range 8).map fun k => (Config.openWord s.free k).toNat % 4096
  let s := { s with free := s.free + 1 }
  let old := tget 0 s.cal.refSel core
  let pick := pickRef codes
  let new := pick.getD old
  let s := { s with cal := { s.cal with stagedRefs := tset 0 s.cal.stagedRefs core (if new = old then 0 else new + 1) } }
  let pay := le 1 (core / 640) ++ le 2 (core % 640) ++ le 4 old ++ le 4 new ++ le 2 (codes.getD new 0)
  settle (core / 640) (postEvent 4 (core / 640) 0x0754 (if pick.isSome then 2 else 3) pay s)

/-- Decks that a honing programs in all: those that banks reference on the core's engines. -/
def honeDecks (s : State) (h : Hone) : Nat :=
  ((List.range 4).map fun j => (distinctDecks (boundDecks s (gea h.st h.core j))).length).sum

/-- Replace a honing. -/
def setHone (old new : Hone) (s : State) : State :=
  { s with integ := { s.integ with hones := s.integ.hones.map fun y => if y = old then new else y } }

/-- A spare whose decks are all verified gets its read reference buffer, with the cell that measures nearest (R413). -/
def spareReady (h : Hone) (s : State) : State :=
  let key := h.st * 640 + h.spare
  let s := trimRef key s
  setHone h { h with bufferOn := some s.spin.tick } { s with arr := { s.arr with
    refs := tset none s.arr.refs key (some 0), refOn := tset false s.arr.refOn key true } }

/-- Begin the preparation of a spare for a core; where no bank references a deck of the core, nothing is programmed, and the
spare's buffer comes on at once (R413). -/
def prepare (h : Hone) (s : State) : State :=
  let s := setCore (h.st * 640 + h.core) 2 { s with integ := { s.integ with hones := s.integ.hones ++ [h] } }
  if honeDecks s h = 0 then spareReady h s else
  (List.range 4).foldl (fun s j =>
    (distinctDecks (boundDecks s (gea h.st h.core j))).foldl
      (fun s (d, b) => honeDeck (h.st * 640 + h.core) (gea h.st h.spare j) d b s) s) s

/-- The spare a request gets: the named one, or the lowest-numbered eligible one (R412). -/
def chooseSpare (s : State) (st core : Nat) (named : Option Nat) (tried : List Nat) : Option Nat :=
  match named with
  | some p => if eligible s st core p then some p else none
  | none => (List.range 640).find? fun p => !tried.contains p && eligible s st core p

/-- What a request to hone or retire a core leads to. -/
inductive HoneStart where
  | noSpare
  /-- the spare being prepared -/
  | preparing (s : State) (spare : Nat)
  /-- the core is named by no plan: it is Honing or Retired at once -/
  | reached (s : State)

/-- Set the reason of a core's intensified checking. -/
def setMark (c v : Nat) (s : State) : State :=
  { s with integ := { s.integ with marks := tset 0 s.integ.marks c v } }

/-- A core's mark is cleared, and its intensified checking ends (R411). -/
def unmark (c : Nat) (s : State) : State :=
  { s with integ := { s.integ with marks := tset 0 s.integ.marks c 0, intense := tset false s.integ.intense c false } }

/-- HONE_REQUEST actions 0 and 1 on the core that serves a logical core (core honing states). -/
def startHone (tag : Option Nat) (st l : Nat) (retire : Bool) (named : Option Nat) (s : State) : HoneStart :=
  let core := physCore s st l
  if namedByPlan s st l then
    match chooseSpare s st core named [] with
    | none => .noSpare
    | some p => .preparing (prepare ⟨tag, st, l, core, p, retire, [], 0, none, false⟩ s) p
  else .reached (setCore (st * 640 + core) (if retire then 5 else 3) (unmark (st * 640 + core) s))

/-- A core is marked suspect: CORE_SUSPECT, intensified checking from the next pass boundary on, and with
AUTO_HONE a request to hone it (R411, R415). Causes: read replay, accumulated check, statistics, step
replay. A core that is being replaced is marked and stays so; one that is tested, spare or retired serves nothing. -/
def markSuspect (c cause : Nat) (s : State) : State :=
  if 2 < coreState s c ∨ tget 0 s.integ.marks c = 2 then s else
  let st := c / 640
  let ready := coreState s c
  let s := setCore c (max 1 ready) (setMark c 2 s)
  let s := postEvent 4 st 0x0808 2 (le 1 st ++ le 2 (c % 640) ++ le 1 cause) s
  if !s.integ.autoHone || ready == 2 then s else
  match servedCore s st (c % 640) with
  | none => s
  | some l =>
    match startHone none st l false none s with
    | .noSpare => s
    | .preparing s _ => s
    | .reached s => s

/-- Whether a physical engine is under intensified checking (R411). -/
def intensified (s : State) (e : Nat) : Bool := tget false s.integ.intense (coreOf e)

/-! ### Failing elements -/

/-- Spares mapped on some deck of an engine, in use by a repair, or staged. -/
def spareUsed (s : State) (e k : Nat) : Bool :=
  (boundDecks s e).any (fun (_, b) => (fld b (64 + 2 * (k - 520)) 2).testBit 15) ||
    s.cal.repairs.any (fun r => r.engine == e && r.spare == k) ||
    s.cal.stagedMaps.any (fun m => m.1 == e && m.2.1 == k) ||
    tget false s.cal.failing (elemKey e k)

/-- The ADC whose spare would repair a column: one of those that convert it, in Wide reads or else in Split reads (DESIGN CHOICE,
log 20), with two or more Failing columns, while the engine's spare is free and passed (order 1 of R234). -/
def swapFor (s : State) (e c : Nat) : Option Nat :=
  if spareOf s e = none ∧ tget 0 s.cal.stagedSwaps e = 0 ∧ (trimOf s e 131).testBit 31 ∧ !adcFailed s e 131 then
    (adcsOf (logicalColumn s e c)).find? fun adc =>
      decide (2 ≤ ((adcColumns s e adc).filter fun x => tget false s.cal.failing (elemKey e x)).length)
  else none

/-- Start the repair of a Failing column by a spare column, or report that none is free (orders 2 and 3 of
R234, R235). -/
def repairColumn (e c : Nat) (s : State) : State :=
  let l := logicalColumn s e c
  if 520 ≤ l then s else
  match (span 520 16).find? fun k => !spareUsed s e k with
  | none => postEvent 4 (engineStack e) 0x0753 3 (le 2 e ++ le 2 l) s
  | some k =>
    let decks := (List.range 32).filter fun d => deckTag s e d != 0
    let left := decks.flatMap fun d => (List.range 1024).map fun r => (d, r)
    { s with cal := { s.cal with repairs := s.cal.repairs ++ [⟨e, l, k, left, 512, false⟩] } }

/-- An element becomes Failing: its valid bit goes clear by staging, so that no factor changes during a pass, CAL_FAILING is
posted, and a column is repaired; a Failing column requests intensified checking of its engine's core, which is no mark of R411
and posts no CORE_SUSPECT (R221, R227, R233, R234; DESIGN CHOICE, log 67). Cause 0 range, 1 rejections. -/
def failElement (k cause : Nat) (s : State) : State :=
  if tget false s.cal.failing k then s else
  let e := k / 4096
  let n := k % 4096
  let s := dropCand k { s with cal := { s.cal with
    failing := tset false s.cal.failing k true, windows := tset none s.cal.windows k none,
    glides := tset none s.cal.glides k none, staged := tset none s.cal.staged k none } }
  let s := if elemValid s k then stage k (bareWord k (activeWord s k)) false s else s
  let s := postEvent 4 (engineStack e) 0x0751 2 (le 2 e ++ le 2 (if 1024 ≤ n then n - 1024 else n) ++ le 1 cause) s
  if 1024 ≤ n then s else
  let s := if coreState s (coreOf e) = 0 then setCore (coreOf e) 1 (setMark (coreOf e) 1 s) else s
  match swapFor s e n with
  | some adc => settle (engineStack e) { s with cal := { s.cal with
      stagedSwaps := tset 0 s.cal.stagedSwaps e (adc + 1) } }
  | none => repairColumn e n s

/-! ### Suspect steps -/

/-- Make the steps of a partition's pass suspect for a cause of R404. -/
def suspectPass (pk cause : Nat) (s : State) : State :=
  match partAt s pk with
  | none => s
  | some p => setPart pk (some { p with suspect := p.suspect ||| 2 ^ cause }) s

/-- A core is blamed in the pass of the partition that holds its stack (R407). -/
def blame (c : Nat) (s : State) : State :=
  match partOfStack s (c / 640) with
  | none => s
  | some (pk, p) => if p.blamed.contains c then s else setPart pk (some { p with blamed := p.blamed ++ [c] }) s

/-- A statistics outlier: the pass is suspect, the core is marked, STAT_OUTLIER is posted (R402), by the stack itself where no pass
runs on it. Kinds: sample, column 539, drift. -/
def outlier (e what kind : Nat) (s : State) : State :=
  let pay := le 2 e ++ le 2 what ++ le 1 kind
  let s := match partOfStack s (engineStack e) with
    | none => postEvent 4 (engineStack e) 0x0803 2 pay s
    | some (pk, _) => postPlan pk 0x0803 2 pay (suspectPass pk 1 s)
  markSuspect (coreOf e) 2 (blame (coreOf e) s)

/-- Whether no data or check column of a stack is Provisional or Candidate. -/
def stackSettled (s : State) (st : Nat) : Bool :=
  (List.range 2560).all fun j => (List.range 520).all fun c =>
    let k := elemKey (st * 4096 + j) c
    elemValid s k || tget false s.cal.failing k

/-- Warm-ups whose stacks are settled complete with the turns they took (R240). -/
def endWarmups (s : State) : State :=
  let done := s.cal.warmups.filter fun w => (List.range 16).all fun st => !w.mask.testBit st || stackSettled s st
  done.foldl (fun s w => complete w.tag 0 0 ((s.spin.tick - w.start) / 8192) s)
    { s with cal := { s.cal with warmups := s.cal.warmups.filter fun w => !done.contains w } }

/-- A Candidate's check has ended: promoted by staging with its valid bit, or discarded (R237). -/
def endCandidate (k : Nat) (c : Cand) (good : Bool) (s : State) : State :=
  let s := { s with cal := { s.cal with
    cands := tset none s.cal.cands k none, windows := tset none s.cal.windows k none } }
  let s := if c.restored then restoreStep (k / 4096 / 4096) good s else s
  if good then stage k (fullWord k c.value) false s else s

end Sys2Proof.Machine
end

