-- ==== Sys2Proof/Machine/Truing.lean ====
section
/-!
DEFINITION. The truing path (R161 to R187) with the check comparisons of R393 to R398: what a TRUE reads,
the values it forms, the requests it makes and the words it writes.
-/

namespace Sys2Proof.Machine

/-! ### Side data and shadow -/

/-- SIDE_ADDR of a chuck entry. -/
def sideAddr (entry : Bytes) : Nat := fld entry 24 8
/-- SHADOW_ADDR of a chuck entry. -/
def shadowAddr (entry : Bytes) : Nat := fld entry 32 8
/-- CHANNEL_COUNT of a chuck entry. -/
def channelCount (entry : Bytes) : Nat := (byteAt entry 10).toNat

/-- The format value of a weight in the shadow: column c, row r (R245, R264). -/
def shadowWeight (s : State) (entry : Bytes) (c r : Nat) : Int :=
  signed 4 (elemAt .int4 (moduleRead s (shadowAddr entry + 512 * c + r / 2) 1) (r % 2))

/-- Row r's residual of check column k in the side data, in logical polarity (R245, R256). -/
def sideResidual (s : State) (st : Nat) (entry : Bytes) (k r : Nat) : Int :=
  sfld (packageRead s st (sideAddr entry + 512 + 1024 * k + r) 1) 0 1

/-- The designated rows of a deck in channel order (R245). -/
def channelRows (s : State) (st : Nat) (entry : Bytes) : List Nat :=
  (List.range (channelCount entry)).map fun k => fld (packageRead s st (sideAddr entry + 8704 + 2 * k) 2) 0 2

/-- The digital weight of channel k for column c (R176). -/
def channelWeight (s : State) (st : Nat) (entry : Bytes) (k c : Nat) : Int :=
  signed 4 (elemAt .int4 (packageRead s st (sideAddr entry + 8832 + 256 * k + c / 2) 1) (c % 2))

/-- Where the outlier list of a deck begins (R173, R256). -/
def outlierBase (entry : Bytes) : Nat := sideAddr entry + 8832 + 256 * channelCount entry

/-- The outlier entries of a column: row and value, in list order (R173). -/
def outliersOf (s : State) (st : Nat) (entry : Bytes) (c : Nat) : List (Nat × Int) :=
  let d := fld (packageRead s st (outlierBase entry + 4 * c) 4) 0 4
  (List.range (bits d 30 20)).map fun i =>
    let e := packageRead s st (outlierBase entry + 2048 + 4 * (bits d 19 0 + i)) 4
    (bits (fld e 0 4) 9 0, sfld e 2 2)

/-! ### Exact values (R98, R128, R177) -/

/-- g(r) × x(r) of a forward read. -/
def driven (inp : ReadInputs) (r : Nat) : Int := rowGain inp.gain r * inp.xs.getD r 0

/-- The exact value of a data column, D_c ÷ 2^q in logical polarity. -/
def exactColumn (s : State) (entry : Bytes) (inp : ReadInputs) (c : Nat) : Int :=
  ((List.range 1024).map fun r => shadowWeight s entry c r * driven inp r).sum

/-- The exact value of a reverse row, E_r ÷ 2^q. -/
def exactRow (s : State) (entry : Bytes) (inp : ReadInputs) (r : Nat) : Int :=
  ((List.range 512).map fun c => shadowWeight s entry c r * inp.xs.getD c 0).sum

/-- Q_k of R394 before the group's sign: the residuals of a check column over 2^q. -/
def residualSum (s : State) (st : Nat) (entry : Bytes) (inp : ReadInputs) (k : Nat) : Int :=
  ((List.range 1024).map fun r => sideResidual s st entry k r * driven inp r).sum / (2 : Int) ^ formatShift entry

/-- 64 times the exact value P of a check column, in physical polarity (R394). -/
def exactCheck (s : State) (entry : Bytes) (inp : ReadInputs) (phys k : Nat) : Int :=
  groupSign s phys inp.deck k *
    (((span (64 * k) 64).map (exactColumn s entry inp)).sum - residualSum s (engineStack phys) entry inp k)

/-- The exact value of an element of a read: a column, a row, or 3000 + k for a check column; 0 where no
chuck entry names the deck. -/
def exactOf (s : State) (entry : Option Bytes) (inp : ReadInputs) (phys el : Nat) : Int :=
  match entry with
  | none => 0
  | some b =>
    if 3000 ≤ el then exactCheck s b inp phys (el - 3000)
    else if inp.kind = 3 then exactRow s b inp el else exactColumn s b inp el

/-! ### Requests to the recompute service (R178) -/

/-- The service queue of a stack. -/
def serviceOf (s : State) (st : Nat) : List Request := tget [] s.plans.queues st

/-- Replace a stack's queue. -/
def setService (st : Nat) (q : List Request) (s : State) : State :=
  { s with plans := { s.plans with queues := tset [] s.plans.queues st q } }

/-- Queue one request at the end of its stack's queue. -/
def pushRequest (r : Request) (s : State) : State :=
  let st := engineStack r.engine
  let s := { s with plans := { s.plans with nextReq := s.plans.nextReq + 1 } }
  setService st (serviceOf s st ++ [{ r with id := s.plans.nextReq - 1, queued := s.spin.tick }]) s

/-- What a read drove, by its record's word. -/
def inputsAt (s : State) (pk g : Nat) : Option ReadInputs :=
  match partAt s pk with
  | none => none
  | some p => tget none p.reads g

/-- Note elements as requested. -/
def ReadInputs.ask (i : ReadInputs) (els : List Nat) : ReadInputs :=
  { i with asked := i.asked ++ els.filter fun c => !i.asked.contains c }

/-- Note elements of a record as requested: with the record while it stands at its words, and with every TRUE that has read it.
A later record at the same words is another one. -/
def noteAsked (pk g written : Nat) (els : List Nat) (s : State) : State :=
  let s := match partAt s pk, inputsAt s pk g with
    | some p, some i =>
      if i.written = written then setPart pk (some { p with reads := tset none p.reads g (some (i.ask els)) }) s else s
    | _, _ => s
  { s with plans := { s.plans with flies := s.plans.flies.map fun x =>
    (x.1, x.2.map fun f => match f.body with
      | .true t => if f.part == pk && t.record == g && t.written == written then
          { f with body := .true { t with inputs := t.inputs.ask els } } else f
      | _ => f) } }

/-- Queue the elements of a record that have not been asked for yet, in ascending order (R178). -/
def requestElems (pk g engine phys deck : Nat) (inp : ReadInputs) (group : Option Nat) (els : List Nat) (s : State) : State :=
  let els := els.filter fun c => !inp.asked.contains c
  els.foldl (fun s c => pushRequest
    { id := 0, part := pk, record := g, engine := engine, phys := phys, deck := deck, col := c, extra := false,
      paired := false, group := group, inputs := inp, acc := 0, weight := 0, queued := 0, counted := false,
      started := none } s) (noteAsked pk g inp.written els s)

/-! ### Reading a record -/

/-- Bytes of each of a record's two bitmaps. -/
def bitmapLen (kind : Nat) : Nat := (dataCols kind).length / 8

/-- A bit of a bitmap that begins at byte `off`. -/
def mapBit (b : Bytes) (off i : Nat) : Bool := (byteAt b (off + i / 8)).toNat.testBit (i % 8)

/-- A record as a TRUE reads it. -/
structure Rec where
  kind : Nat
  flags : Nat
  deck : Nat
  weight : Int
  gain : Nat
  engine : Nat
  clip : List Bool
  redo : List Bool
  accs : List Int
  checks : List Int
  /-- bits by check column number of the deck, and by reference column − 536 -/
  checkClip : Nat
  refClip : Nat
  checkRedo : Nat
  refs : List Int

/-- Read a record's words (result record layouts). -/
def readRec (b : Bytes) (kind : Nat) : Rec :=
  let n := (dataCols kind).length
  let m := bitmapLen kind
  let a := 32 + 2 * m
  let c := a + 4 * n
  let nc := (checkCols kind).length
  let ints := fun (off len : Nat) => (List.range len).map fun i => sfld b (off + 4 * i) 4
  { kind := kind, flags := fld b 0 2, deck := (byteAt b 3).toNat % 32, weight := fld b 8 2, gain := fld b 12 4,
    engine := fld b 24 2, clip := (List.range n).map (mapBit b 32), redo := (List.range n).map (mapBit b (32 + m)),
    accs := ints a n, checks := ints c nc, checkClip := (byteAt b 26).toNat, refClip := (byteAt b 27).toNat,
    checkRedo := (byteAt b 28).toNat, refs := ints (c + (if kind = 0 then 32 else 4 * nc)) (refCols kind).length }

/-- A flag of REC_FLAGS. -/
def Rec.flag (r : Rec) (k : Nat) : Bool := r.flags.testBit k

/-- p of a record: its burnish count is 2^p. -/
def Rec.p (r : Rec) : Nat := bits r.flags 8 7

/-! ### Outliers (R173 to R175) -/

/-- The columns of the directory that a record's kind takes. -/
def listCols (kind : Nat) : List Nat := if kind = 3 then List.range 512 else dataCols kind

/-- How a TRUE splits its outlier list at the cap: entries added, and the first column that does not fit. -/
def capSplit (cap : Nat) : List (Nat × Nat) → Nat → Nat × Option Nat
  | [], done => (done, none)
  | (c, n) :: l, done => if cap < done + n then (done, some c) else capSplit cap l (done + n)

/-- The outlier and channel terms of a forward column (R172): `xs` are the channel values. -/
def columnAdds (s : State) (st : Nat) (entry : Bytes) (inp : ReadInputs) (rows : List Nat) (xs : List Int) (c : Nat) : Int :=
  let chan := ((rows.zip xs).zipIdx).map fun ((_, x), k) => channelWeight s st entry k c * x
  let outs := (outliersOf s st entry c).map fun (r, o) =>
    match ((rows.zip xs).find? fun p => p.1 == r) with
    | some (_, x) => o * x
    | none => o * driven inp r
  chan.sum + outs.sum

/-- The outlier terms of a reverse row. -/
def rowAdds (inp : ReadInputs) (lists : List (Nat × List (Nat × Int))) (r : Nat) : Int :=
  (lists.map fun (c, l) => ((l.filter fun e => e.1 == r).map fun e => e.2 * inp.xs.getD c 0).sum).sum

/-! ### Taking a record in -/

/-- The operations of a partition as the loader's relations take them. -/
def placedOf (d : PartDef) : List Placed := d.cuts.flatMap fun (st, ops) => ops.map fun op => ⟨st, op, 0⟩

/-- The record kind that a TRUE's plan gives it; the record's own where the plan gives none. -/
def kindOf (s : State) (f : Fly) : Nat :=
  match partAt s f.part with
  | none => 0
  | some p =>
    match trueRead (placedOf p.d) ⟨f.st, f.op, 0⟩ with
    | some (_, k) => k
    | none => (byteAt (wordAt s (srcWord s f)) 2).toNat % 4

/-- The first of a descriptor's words of an operation (DESC). -/
def descWord (s : State) (f : Fly) : Nat :=
  match partAt s f.part with
  | none => 0
  | some p => wordOf s f.st none p.d.descBase + 2 * opBits f.op 15 0

/-- The unit of a plan-driven event: number, with the kind in bits [15:12] (R484). -/
def unitField (op : PlanOp) : Nat := op.kind * 4096 + op.unit

/-- Post the invalid event of an operation's kind at most once per unit per pass, and end it. -/
def invalidOp (code : Nat) (id : Nat) (f : Fly) (s : State) : State :=
  endFly id (postOncePerPass f.part code 3 (unitPos f.st f.op)
    (le 1 f.st ++ le 2 (unitField f.op) ++ le 4 f.op.offset ++ le 2 (opBits f.op 15 0)) s)

/-- What a read drove when the model knows of none: nothing. -/
def noInputs (kind : Nat) (r : Rec) : ReadInputs :=
  { engine := r.engine, deck := r.deck, kind := kind, a8 := r.flag 5, burnish := r.p, gain := r.gain, xs := [],
    written := 0, asked := [], exact := [] }

/-- Form the job of a TRUE from its record and descriptor (R163 to R177). -/
def formTrue (s : State) (f : Fly) (d : Bytes) (kind : Nat) : TrueJob :=
  let g := srcWord s f
  let r := readRec (wordsAt s g (kindWords kind)) kind
  let inp := (inputsAt s f.part g).getD (noInputs kind r)
  let phys := physEngine s r.engine
  let st := engineStack r.engine
  let off := r.flag 6
  let entry := if off then none else chuckOf s (bankOf s f.part) r.engine r.deck
  let b := entry.getD (zeros 128)
  let q := formatShift b
  let cols := dataCols kind
  let rev := kind == 3
  let key := fun c => elemKey phys (if rev then 1024 + c else mapColumn b c)
  let drift := driftIn (driftWord s phys r.deck)
  let split := fun (i : Nat) => r.flag 2 && r.clip.getD i false && !r.redo.getD i false
  let lists := if entry.isNone then [] else (listCols kind).map fun c => (c, outliersOf s st b c)
  let cap := fld d 2 2
  let (added, cut) := capSplit cap (lists.map fun (c, l) => (c, l.length)) 0
  let past : List (Nat × List (Nat × Int)) := match cut with
    | none => []
    | some c => lists.filter fun x => decide (c ≤ x.1)
  let far := if rev then (past.flatMap fun x => x.2.map (·.1)) else (past.filter fun x => !x.2.isEmpty).map (·.1)
  let rows := if entry.isNone then [] else channelRows s st b
  let act := wordsAt s (wordOf s f.st (opOwn f.op) (fld d 4 4)) 4
  let xs := (List.range (byteAt d 1).toNat).map fun k => sfld act (2 * k) 2
  let intense := intensified s phys && !r.flag 0 && !off
  let exact := (cols.zipIdx).filterMap fun (c, i) =>
    if r.redo.getD i false || far.contains c || (intense && !elemValid s (key c)) then some c else none
  let checkKey := fun k => elemKey phys (mapColumn b (512 + k))
  let ks := (checkCols kind).map (· - 512)
  let exactChecks := ks.filter fun k => r.checkRedo.testBit k || (intense && !elemValid s (checkKey k))
  let valid := fun k => elemValid s k && elemValid s (elemKey phys (3000 + r.deck))
  let judged := fun k => (exactChecks.contains k || valid (checkKey k)) &&
    (span (64 * k) 64).all fun c => exact.contains c || valid (key c)
  let wt := fun (sp : Bool) => if sp then 4 * r.weight else r.weight
  { record := g, written := inp.written, kind := kind, flags := r.flags, engine := r.engine, phys := phys,
    deck := r.deck, burnish := r.p, q := q,
    parts := (cols.zipIdx).map fun (c, i) =>
      if r.flag 0 || off then 0 else partT (r.accs.getD i 0) (wt (split i)) (activeWord s (key c)) drift r.p q
    signs := cols.map fun c => if rev then 1 else groupSign s phys r.deck (c / 64)
    adds := cols.map fun c =>
      if entry.isNone then 0 else if rev then rowAdds inp lists c else columnAdds s st b inp rows xs c
    exact := exact
    split := (cols.zipIdx).filterMap fun (c, i) => if split i then some c else none
    checks := (ks.zipIdx).map fun (k, i) =>
      partT (r.checks.getD i 0) (wt (r.flag 2 && r.checkClip.testBit k && !r.checkRedo.testBit k))
        (activeWord s (checkKey k)) drift r.p q
    exactChecks := exactChecks
    splitChecks := ks.filter fun k => r.flag 2 && r.checkClip.testBit k && !r.checkRedo.testBit k
    residuals := ks.map fun k =>
      match entry with
      | none => 0
      | some b => groupSign s phys r.deck k * residualSum s st b inp k
    compare := if r.flag 0 || off then [] else ks.filter judged
    replay := [], chosen := [], got := inp.exact, overCap := cut.isSome, added := added
    refs := ((refCols kind).zipIdx).map fun (c, i) =>
      if r.refClip.testBit (c - 536) || uncovered s phys (adcOf kind c) then none else some (r.refs.getD i 0)
    weight := r.weight.toNat, inputs := inp, left := List.range (trueWords kind), opened := false }

/-- A TRUE reads its record in its issue index, or when its guard wait ends: the channel count is compared,
and what must be computed exactly is queued (R164, R175, R178). -/
def takeRecord (id : Nat) (f : Fly) (d : Bytes) (kind : Nat) (s : State) : State :=
  let t := formTrue s f d kind
  let off := t.flags.testBit 6
  let entry := if off then none else chuckOf s (bankOf s f.part) t.engine t.deck
  let want := if off || kind == 3 then 0 else ((entry.map channelCount).getD 0)
  if want != (byteAt d 1).toNat then invalidOp 0x0731 id f s else
  let els := t.exact ++ t.exactChecks.map (· + 3000)
  let s := requestElems f.part t.record t.engine t.phys t.deck t.inputs none els s
  let t := { t with inputs := t.inputs.ask els }
  let due := s.spin.tick + 8 + ceilDiv (fld d 2 2 + 16 * (byteAt d 1).toNat) 256
  setFly id (some { f with wait := .none, due := due, body := .true t }) s

/-- The words a TRUE's guard covers: its record and its outlier activation block (R163). -/
def trueSources (s : State) (f : Fly) (d : Bytes) (kind : Nat) : List Nat :=
  span (srcWord s f) (kindWords kind) ++
    (if byteAt d 1 = 0#8 then [] else span (wordOf s f.st (opOwn f.op) (fld d 4 4)) (ceilDiv (byteAt d 1).toNat 16))

/-- Whether a TRUE's descriptor, or a range it fixes, is invalid at issue (R164, R520). -/
def trueBad (s : State) (f : Fly) (d : Bytes) (kind : Nat) : Bool :=
  let cnt := (byteAt d 1).toNat
  byteAt d 0 != 0x24#8 || decide (64 < cnt) || decide (4096 < fld d 2 2) || !zeroAt d 8 56 ||
    (cnt == 0 && fld d 4 4 != 0) ||
    (cnt != 0 && (rangeOf s f.st (opOwn f.op) (fld d 4 4) (ceilDiv cnt 16)).isNone) ||
    (rangeOf s f.st (opOwn f.op) (opBits f.op 79 48) (kindWords kind)).isNone ||
    (rangeOf s f.st (opOwn f.op) (opBits f.op 47 16) (trueWords kind)).isNone

/-- A TRUE whose descriptor has been read looks at its source words. -/
def trueSource (id : Nat) (f : Fly) (d : Bytes) (kind : Nat) (s : State) : State :=
  let f := { f with body := .desc d kind }
  withSource id f (trueSources s f d kind) (takeRecord id f d kind) s

/-- TRUE at issue. -/
def startTrue (id : Nat) (f : Fly) (s : State) : State :=
  let d := wordsAt s (descWord s f) 2
  let kind := kindOf s f
  if trueBad s f d kind then invalidOp 0x0731 id f s else trueSource id f d kind s

/-- TRUE. -/
def execTrueOp (st : Nat) (op : PlanOp) (s : State) : Host.Outcome State Fault Refusal :=
  .next (issue 0x24 st op startTrue s)

/-! ### Values and output words -/

/-- An exact value that has arrived. -/
def TrueJob.exactAt (t : TrueJob) (el : Nat) : Option Int := (t.got.find? fun x => x.1 == el).map (·.2)

/-- The check column number of the group that a position of the record belongs to. -/
def TrueJob.groupAt (t : TrueJob) (i : Nat) : Nat := i / 64 + (if t.kind = 2 then 4 else 0)

/-- Whether the value at a position is final. -/
def TrueJob.final (t : TrueJob) (i : Nat) : Bool :=
  let c := (dataCols t.kind).getD i 0
  let k := t.groupAt i
  (t.kind == 3 || (!t.compare.contains k && !t.replay.any fun x => x.1 == k)) &&
    (!t.exact.contains c || (t.exactAt c).isSome)

/-- The value at a position before saturation (R172). -/
def TrueJob.value (t : TrueJob) (i : Nat) : Int :=
  let c := (dataCols t.kind).getD i 0
  if t.flags.testBit 6 then 0 else
  let v := if t.exact.contains c || t.chosen.contains (t.groupAt i) then (t.exactAt c).getD 0
    else t.signs.getD i 1 * t.parts.getD i 0
  (if t.flags.testBit 0 then 0 else v) + t.adds.getD i 0

/-- The largest magnitude of an output value. -/
def outTop : Int := 2147483647

/-- Whether a value saturates. -/
def outSat (v : Int) : Bool := decide (2147483647 < v.natAbs)

/-- T_FLAGS bit 5 tells of the values the TRUE knows or will know: those computed exactly are fixed by the
read (R3), so the model takes them now (DEDUCED, log 33). -/
def TrueJob.saturates (s : State) (f : Fly) (t : TrueJob) : Bool :=
  let entry := if t.flags.testBit 6 then none else chuckOf s (bankOf s f.part) t.engine t.deck
  let t := { t with got := t.got ++ (t.exact.map fun c => (c, exactOf s entry t.inputs t.phys c)) }
  (List.range (dataCols t.kind).length).any fun i => outSat (t.value i)

/-- The header word (truing output header). -/
def trueHeader (s : State) (f : Fly) (t : TrueJob) : Bytes :=
  let low := b2n (t.flags.testBit 0) + 2 * b2n (t.flags.testBit 2) + 4 * b2n (t.flags.testBit 3) +
    8 * b2n (t.flags.testBit 4) + 16 * b2n (t.flags.testBit 6)
  le 2 (low + 32 * b2n (t.saturates s f) + 64 * b2n t.overCap) ++ le 1 t.kind ++ le 1 t.deck ++
  le 2 t.exact.length ++ le 2 t.added ++ le 2 t.engine ++ zeros 2 ++
  le 4 (tget 0 s.cal.stamps t.phys) ++ zeros 16

/-- Word `w` of the output. -/
def trueWord (s : State) (f : Fly) (t : TrueJob) (w : Nat) : Bytes :=
  if w = 0 then trueHeader s f t
  else (List.range 8).flatMap fun j => leInt 4 (clampI (-outTop) outTop (t.value (8 * (w - 1) + j)))

/-- Whether word `w` is ready to be written: every value in it is final (R165, R179). -/
def TrueJob.ready (t : TrueJob) (w : Nat) : Bool :=
  w == 0 || (List.range 8).all fun j => t.final (8 * (w - 1) + j)

/-- Words of an operation that already wait for the end of the index. -/
def queuedWords (s : State) (id : Nat) : List Nat :=
  (s.stores.writes.filter fun w => w.fly == id).flatMap fun w => w.words.map (·.1)

/-- TRUE_SATURATED at the first saturated value of an engine in a pass. -/
def noteSaturated (f : Fly) (t : TrueJob) (w : Nat) (s : State) : State :=
  if w = 0 then s else
  match (List.range 8).find? fun j => outSat (t.value (8 * (w - 1) + j)) with
  | none => s
  | some j =>
    let c := (dataCols t.kind).getD (8 * (w - 1) + j) 0
    postOncePerPass f.part 0x0732 2 t.phys (le 2 t.phys ++ le 1 t.deck ++ le 2 c) s

/-- Whether an earlier TRUE of the same unit has not made its output write yet: its output index has not come, or its
header word waits on a full destination (R167). -/
def earlierTrue (s : State) (f : Fly) : Bool :=
  (tvals s.plans.flies).any fun (_, g) =>
    decide (g.issue < f.issue) && g.st == f.st && g.op.kind == f.op.kind && g.op.unit == f.op.unit && g.op.code == 0x24 &&
      (match g.body with
        | .true t => !t.opened || (t.left.contains 0 && g.wait != .none)
        | .desc _ _ => true
        | _ => false)

/-- Write every output word that is ready; a full destination word makes the write wait (R101, R179), and the first write waits
for that of an earlier TRUE of the unit (R167). -/
def flushTrue (id : Nat) (f : Fly) (t : TrueJob) (s : State) : State :=
  let g := dstWord s f
  let done := queuedWords s id
  let ws := if t.opened && !(t.left.contains 0 && earlierTrue s f) then t.left.filter fun w => t.ready w && !done.contains (g + w) else []
  let out := ws.map fun w => (g + w, trueWord s f t w)
  if out.isEmpty then setFly id (some { f with body := .true t }) s
  else if f.op.fill && out.any (fun (w, _) => fullAt s w) then
    setFly id (some { f with wait := .fill (out.map (·.1)), body := .true t }) s
  else
    let s := ws.foldl (fun s w => noteSaturated f t w s) s
    let w : PendWrite := ⟨id, unitPos f.st f.op, f.issue, f.op.pos, f.op.fill, out⟩
    setFly id (some { f with wait := .none, body := .true t })
      { s with stores := { s.stores with writes := s.stores.writes ++ [w] } }

/-! ### Check comparisons (R393 to R397) -/

/-- The local number of a check column in its record. -/
def TrueJob.slot (t : TrueJob) (k : Nat) : Nat := if t.kind = 2 then k - 4 else k

/-- The positions of a group's columns. -/
def TrueJob.members (t : TrueJob) (k : Nat) : List Nat := span (64 * t.slot k) 64

/-- P of a member, in physical polarity (R394). -/
def TrueJob.physAt (t : TrueJob) (i : Nat) : Int :=
  let c := (dataCols t.kind).getD i 0
  if t.exact.contains c then t.signs.getD i 1 * (t.exactAt c).getD 0 else t.parts.getD i 0

/-- 64 times P of a check column. -/
def TrueJob.checkAt (t : TrueJob) (k : Nat) : Int :=
  if t.exactChecks.contains k then (t.exactAt (3000 + k)).getD 0 else 64 * t.checks.getD (t.slot k) 0

/-- B² of a data member, 0 when it is computed exactly (R395). -/
def TrueJob.memberBound (t : TrueJob) (i : Nat) : Nat :=
  let c := (dataCols t.kind).getD i 0
  if t.exact.contains c then 0
  else bound2 t.kind (2 ^ t.burnish) (t.flags.testBit 5) (t.split.contains c)

/-- B² of a check column. -/
def TrueJob.checkBound (t : TrueJob) (k : Nat) : Nat :=
  if t.exactChecks.contains k then 0
  else bound2 t.kind (2 ^ t.burnish) (t.flags.testBit 5) (t.splitChecks.contains k)

/-- Whether a comparison can be made: its exact members have arrived (R396). -/
def TrueJob.comparable (t : TrueJob) (k : Nat) : Bool :=
  (t.members k).all (fun i =>
    let c := (dataCols t.kind).getD i 0
    !t.exact.contains c || (t.exactAt c).isSome) &&
  (!t.exactChecks.contains k || (t.exactAt (3000 + k)).isSome)

/-- Δ_k of R394. -/
def TrueJob.delta (t : TrueJob) (k : Nat) : Int :=
  ((t.members k).map t.physAt).sum - t.checkAt k - t.residuals.getD (t.slot k) 0

/-- The squared bound of a comparison, in 1/40,000 LSB²; τ² is 1,024 ÷ 4^q times it (R395). -/
def TrueJob.deltaBound (t : TrueJob) (k : Nat) : Nat :=
  ((t.members k).map t.memberBound).sum + 4096 * t.checkBound k

/-- Make one comparison: a pass adds to the sums of R398, a failure starts a read replay (R395, R396). -/
def compareOne (id : Nat) (f : Fly) (t : TrueJob) (k : Nat) (s : State) : TrueJob × State :=
  let t' := { t with compare := t.compare.filter (· != k) }
  let d := t.delta k
  let key := (t.phys * 32 + t.deck) * 8 + k
  if !beyond d t.q (t.deltaBound k) then
    (t', { s with integ := { s.integ with
      sums := tset 0 s.integ.sums key (tget 0 s.integ.sums key + d),
      vars := tset 0 s.integ.vars key (tget 0 s.integ.vars key + 16384 / 4 ^ t.q * t.deltaBound k) } })
  else
    let els := (t.members k).map (fun i => (dataCols t.kind).getD i 0) ++ [3000 + k]
    let s := requestElems f.part t.record t.engine t.phys t.deck t.inputs (some k) els s
    let t' := { t' with inputs := t.inputs.ask els }
    let st := engineStack t.phys
    ({ t' with replay := t.replay ++ [(k, d)] }, setFly id (some { f with body := .true t })
      { s with integ := { s.integ with readReplays := tset 0 s.integ.readReplays st (tget 0 s.integ.readReplays st + 1) } })

/-- Make every comparison whose members are final, once the output index has come. -/
def compareAll (id : Nat) (f : Fly) (t : TrueJob) (s : State) : TrueJob × State :=
  if !t.opened then (t, s) else
  (t.compare.filter t.comparable).foldl (fun (x : TrueJob × State) k => compareOne id f x.1 k x.2) (t, s)

/-- Compare, then write what is ready. -/
def advanceTrue (id : Nat) (f : Fly) (t : TrueJob) (s : State) : State :=
  let (t, s) := compareAll id f t s
  flushTrue id f t s

/-! ### Drift observations (R228, R229, R401) -/

/-- Close a drift window: R401 compares the derived factor with the active one, and R229 takes it. -/
def closeDrift (e deck : Nat) (w : RefWindow) (s : State) : State :=
  let k := elemKey e (3000 + deck)
  let s := if elemValid s k && w.strays (driftIn (activeWord s k)) then outlier e deck 2 s else s
  match w.drift with
  | none =>
    postEvent 4 (engineStack e) 0x0755 2 (le 2 e ++ le 1 deck ++ leInt 4 w.derived) s
  | some d =>
    if !elemValid s k then stage k (fullWord k d) false s
    else if 4 ≤ ((driftIn (activeWord s k) : Int) - d).natAbs then stage k (fullWord k d) s.cal.policy.glide s
    else s

/-- One observation added to a window. -/
def RefWindow.see (w : RefWindow) (a c : Dyad) (b2 : Nat) : RefWindow :=
  { w with count := w.count + 1, ac := dadd w.ac (dmul a c), cc := dadd w.cc (dmul c c), bound := w.bound + b2 }

/-- The observations of one record for columns 536 to 538: nominal and corrected values (R228). -/
def observations (s : State) (t : TrueJob) (inp : ReadInputs) : List (Nat × Dyad × Dyad) :=
  let gx := ((List.range 1024).map (driven inp)).sum
  ((refCols t.kind).zip t.refs).filterMap fun (c, r) => r.map fun a =>
    (c, ⟨2 ^ t.burnish * refStored c * gx, -5⟩, refCorrected s t.phys c a t.weight)

/-- Feed a drift Candidate (R237): its mean is judged after 64 reads. -/
def driftCandidate (e deck : Nat) (obs : List (Nat × Dyad × Dyad)) (b2 : Nat) (last : Bool) (s : State) : State :=
  let k := elemKey e (3000 + deck)
  match tget none s.cal.cands k with
  | none => s
  | some c =>
    let c := obs.foldl (fun (c : Cand) (_, a, x) =>
      { c with count := c.count + 1, total := dadd c.total (dsub (dmul x ⟨driftIn c.value, -14⟩) a),
               bound := c.bound + b2 }) c
    let c := { c with seen := c.seen + b2n last }
    if c.seen < 64 then { s with cal := { s.cal with cands := tset none s.cal.cands k (some c) } }
    else endCandidate k c (!rootExceeds c.total c.bound) s

/-- Take the reference observations of a record into the windows of its deck (R228, R229, R401). A Split
read counts as one read with its half 0 record (DEDUCED, log 34). -/
def observe (t : TrueJob) (inp : ReadInputs) (s : State) : State :=
  if t.flags.testBit 0 || t.flags.testBit 3 || t.flags.testBit 6 || t.kind == 3 then s else
  let e := t.phys
  let dk := e * 32 + t.deck
  let n := 2 ^ t.burnish
  let b2 := bound2 t.kind n (t.flags.testBit 5) false * n * n
  let obs := observations s t inp
  let drift := obs.filter fun o => o.1 != 539
  let last := t.kind != 2
  let k := elemKey e (3000 + t.deck)
  let s :=
    if (tget none s.cal.cands k).isSome then driftCandidate e t.deck drift b2 last s else
    let w := drift.foldl (fun (w : RefWindow) (_, a, c) => w.see a c 0) ((tget none s.cal.drift dk).getD .empty)
    let w := { w with reads := w.reads + b2n last }
    if (if elemValid s k then 1024 else 64) ≤ w.reads then
      closeDrift e t.deck w { s with cal := { s.cal with drift := tset none s.cal.drift dk none } }
    else { s with cal := { s.cal with drift := tset none s.cal.drift dk (some w) } }
  match obs.find? fun o => o.1 == 539 with
  | none => s
  | some (_, _, c) =>
    let w := (tget none s.cal.leak dk).getD .empty
    let w := { w with reads := w.reads + 1, ac := dadd w.ac c, bound := w.bound + b2 }
    if w.reads < 64 then { s with cal := { s.cal with leak := tset none s.cal.leak dk (some w) } }
    else
      let s := { s with cal := { s.cal with leak := tset none s.cal.leak dk none } }
      if rootExceeds w.ac w.bound then outlier e 539 1 s else s

/-! ### The output index -/

/-- Whether the output index of a TRUE has come (R165, R167). -/
def trueDue (s : State) (f : Fly) : Bool :=
  match f.body with
  | .true t => !t.opened && decide (f.due ≤ s.spin.tick) && !earlierTrue s f
  | _ => false

/-- The output index of a TRUE: reference observations, comparisons, and the words that are final. -/
def openTrue (id : Nat) (s : State) : State :=
  match flyAt s id with
  | none => s
  | some f =>
    match f.body with
    | .true t =>
      if !trueDue s f then s else
      advanceTrue id f { t with opened := true } (observe t t.inputs s)
    | _ => s

/-- TRUE_OUTPUT_WRITE. -/
def execTrueOutputWrite (id : Nat) (s : State) : Host.Outcome State Fault Refusal := .next (openTrue id s)

/-! ### Exact values arrive (R177 to R179) -/

/-- Give an exact value to the read it belongs to and to the TRUE that waits for it. -/
def deliverExact (r : Request) (v : Int) (s : State) : State :=
  let s := match partAt s r.part with
    | none => s
    | some p =>
      match tget none p.reads r.record with
      | some i =>
        if i.written = r.inputs.written then
          let i := { i with exact := i.exact ++ [(r.col, v)] }
          setPart r.part (some { p with reads := tset none p.reads r.record (some i) }) s
        else s
      | none => s
  (tvals s.plans.flies).foldl (fun s (id, f) =>
    match f.body with
    | .true t =>
      if f.part == r.part && t.record == r.record && t.written == r.inputs.written then
        advanceTrue id f { t with got := t.got ++ [(r.col, v)] } s
      else s
    | _ => s) s

/-! ### Read replays (R397) -/

/-- Whether every member of a replayed group has its exact value. -/
def replayReady (t : TrueJob) (k : Nat) : Bool :=
  (t.members k).all (fun i => (t.exactAt ((dataCols t.kind).getD i 0)).isSome) && (t.exactAt (3000 + k)).isSome

/-- Data columns of a group that disagree with their exact values (R397). -/
def TrueJob.disagree (t : TrueJob) (k : Nat) : List Nat :=
  (t.members k).filterMap fun i =>
    let c := (dataCols t.kind).getD i 0
    let x := t.signs.getD i 1 * (t.exactAt c).getD 0
    if beyond (t.physAt i - x) t.q (t.memberBound i) then some c else none

/-- Whether the check column disagrees. -/
def TrueJob.checkDisagrees (t : TrueJob) (k : Nat) : Bool :=
  beyond (t.checkAt k - (t.exactAt (3000 + k)).getD 0) t.q (4096 * t.checkBound k)

/-- The physical column of a logical column of the deck a record was read from. -/
def TrueJob.column (s : State) (f : Fly) (t : TrueJob) (c : Nat) : Nat :=
  mapColumn ((chuckOf s (bankOf s f.part) t.engine t.deck).getD (zeros 128)) c

/-- Resolve a read replay: outcomes are none, check column, data columns. Every member that disagrees becomes Failing; the
core is marked suspect where a data column does (R397). -/
def resolveReplay (id k : Nat) (s : State) : State :=
  match flyAt s id with
  | none => s
  | some f =>
    match f.body with
    | .true t =>
      match t.replay.find? fun x => x.1 == k with
      | none => s
      | some (_, d) =>
        if !replayReady t k then s else
        let bad := t.disagree k
        let chk := t.checkDisagrees k
        let out := if !bad.isEmpty then 2 else if chk then 1 else 0
        let s := postOncePerPass f.part 0x0801 2 t.phys
          (le 2 t.phys ++ le 1 t.deck ++ le 1 k ++ leInt 4 d ++ le 1 out) s
        let st := engineStack t.phys
        let s := if out = 0 then
            { s with integ := { s.integ with noise := tset 0 s.integ.noise st (tget 0 s.integ.noise st + 1) } }
          else s
        let s := if out = 2 then markSuspect (coreOf t.phys) 0 (blame (coreOf t.phys) s) else s
        let s := (bad ++ if chk then [512 + k] else []).foldl
          (fun s c => failElement (elemKey t.phys (t.column s f c)) 0 s) s
        advanceTrue id f { t with
          replay := t.replay.filter fun x => x.1 != k
          chosen := if out = 2 then t.chosen ++ [k] else t.chosen } s
    | _ => s

/-- READ_REPLAY_RESOLVE. -/
def execReadReplayResolve (id group : Nat) (s : State) : Host.Outcome State Fault Refusal :=
  .next (resolveReplay id group s)

end Sys2Proof.Machine
end

