-- ==== Sys2Proof/Machine/Reduce.lean ====
section
/-!
DEFINITION. Accumulation and the fused output (R197 to R220): CORE_REDUCE, STACK_REDUCE and FUSE.
-/

namespace Sys2Proof.Machine

/-! ### Blocks (R203) -/

/-- Values of a block by its B_LENGTH code. -/
def blockLen (code : Nat) : Nat := 256 * 2 ^ code

/-- B_LENGTH of a number of values. -/
def lenCode (n : Nat) : Nat := if n = 256 then 0 else if n = 512 then 1 else 2

/-- Whether a block's header says that its values are FX64. -/
def isFx (h : Bytes) : Bool := (fld h 0 2).testBit 2

/-- Words of a block by its header. -/
def blockWords (h : Bytes) : Nat := 1 + blockLen (byteAt h 2).toNat / (if isFx h then 4 else 8)

/-- Value k of a block given as its bytes. -/
def blockValue (b : Bytes) (k : Nat) : Dyad :=
  if isFx b then ⟨sfld b (32 + 8 * k) 8, -((byteAt b 3).toNat : Int)⟩ else readPs (fld b (32 + 4 * k) 4)

/-- All values of a block; 0 where ZERO is set (R219). -/
def blockValues (b : Bytes) : List Dyad :=
  (List.range (blockLen (byteAt b 2).toNat)).map fun k =>
    if (fld b 0 2).testBit 0 then dzero else blockValue b k

/-- Header fields of a block to be written. -/
structure Head where
  zero : Bool
  sat : Bool
  unbounded : Bool
  mixed : Bool
  arrays : Nat
  epoch : Nat

/-- The bytes of a PS24 block. -/
def psBlock (h : Head) (vs : List Dyad) : Bytes :=
  le 2 (b2n h.zero + 2 * b2n h.sat + 8 * b2n h.unbounded + 16 * b2n h.mixed) ++ le 1 (lenCode vs.length) ++
  le 1 0 ++ le 2 (min 65535 h.arrays) ++ zeros 6 ++ le 4 h.epoch ++ zeros 16 ++ vs.flatMap fun v => le 4 (encPs v)

/-- The bytes of an FX64 block with binary point `f`. -/
def fxBlock (h : Head) (f : Nat) (ns : List Int) : Bytes :=
  le 2 (b2n h.zero + 2 * b2n h.sat + 4 + 8 * b2n h.unbounded + 16 * b2n h.mixed) ++ le 1 (lenCode ns.length) ++
  le 1 f ++ le 2 (min 65535 h.arrays) ++ zeros 6 ++ le 4 h.epoch ++ zeros 16 ++ ns.flatMap (leInt 8)

/-- The first index at which a list of flags is set. -/
def firstTrue (l : List Bool) : Option Nat := (l.zipIdx.find? fun x => x.1).map (·.2)

/-- Post an event of an operation at most once per unit in a pass: stack, unit, offset, then `pay`. -/
def postUnit (f : Fly) (code sev : Nat) (pay : Bytes) (s : State) : State :=
  postOncePerPass f.part code sev (unitPos f.st f.op)
    (le 1 f.st ++ le 2 (unitField f.op) ++ le 4 f.op.offset ++ pay) s

/-- REDUCE_SATURATED and REDUCE_UNBOUNDED for a block about to be written (R211, R220). -/
def noteReduce (f : Fly) (sat : Option Nat) (arrays : Nat) (s : State) : State :=
  let s := match sat with
    | none => s
    | some k => postUnit f 0x0742 2 (le 4 k) s
  if arrays ≤ 128 then s else
  postOncePerPass f.part 0x0744 2 0 (le 1 f.st ++ le 2 (unitField f.op) ++ le 4 f.op.offset ++ le 4 arrays) s

/-! ### CORE_REDUCE -/

/-- The sources of a CORE_REDUCE: engine field, first word, record kind (R201). -/
def coreSources (s : State) (f : Fly) : List (Nat × Nat × Nat) :=
  match partAt s f.part with
  | none => []
  | some p =>
    ((List.range 4).filter fun e => (opBits f.op 47 44).testBit e).filterMap fun e =>
      (trueOfEngine (placedOf p.d) ⟨f.st, f.op, 0⟩ e).map fun (y, k) =>
        (e, wordOf s f.st (opOwn y.op) (opBits y.op 47 16), k)

/-- The block scale of logical column c of a deck of an engine; 0 where no entry names the deck (R202). -/
def columnScale (s : State) (f : Fly) (e deck c : Nat) : Dyad :=
  match chuckOf s (bankOf s f.part) e deck with
  | none => dzero
  | some b => sc8 (fld (packageRead s (engineStack e) (sideAddr b + c) 1) 0 1)

/-- The products T × s of one source. -/
def sourceTerms (s : State) (f : Fly) (x : Nat × Nat × Nat) : List Dyad :=
  let (e, g, kind) := x
  let b := wordsAt s g (trueWords kind)
  let en := gea f.st (opCore f.op) e
  (dataCols kind).zipIdx.map fun (c, i) =>
    let t := dint (sfld b (32 + 4 * i) 4)
    if kind = 3 then t else dmul t (columnScale s f en ((byteAt b 3).toNat % 32) c)

/-- Sums of several lists of values, position by position. -/
def sumLists (ls : List (List Dyad)) : List Dyad :=
  match ls with
  | [] => []
  | l :: rest => rest.foldl (fun a b => a.zipWith dadd b) l

/-- The block of a CORE_REDUCE (R202, R203). -/
def coreReduceBlock (s : State) (f : Fly) (srcs : List (Nat × Nat × Nat)) : Bytes × Option Nat × Nat :=
  let heads := srcs.map fun x => wordAt s x.2.1
  let rs := (sumLists (srcs.map (sourceTerms s f))).map (roundF fmtPs)
  let own := firstTrue (rs.map (·.sat))
  let epochs := heads.map fun h => fld h 12 4
  let h : Head := ⟨heads.all (fun h => (fld h 0 2).testBit 0) && rs.all fun r => r.v.m == 0,
    own.isSome || heads.any fun h => (fld h 0 2).testBit 5, false, epochs.any (· != epochs.headD 0), srcs.length,
    epochs.foldl max 0⟩
  (psBlock h (rs.map (·.v)), own, srcs.length)

/-- Sum the sources, once they are full. -/
def startCoreReduce (id : Nat) (f : Fly) (s : State) : State :=
  let srcs := coreSources s f
  withSource id f (srcs.flatMap fun x => span x.2.1 (trueWords x.2.2)) (fun s =>
    let (b, sat, n) := coreReduceBlock s f srcs
    let g := wordOf s f.st (opOwn f.op) (opBits f.op 79 48)
    hold id f (s.spin.tick + 3) (toWords g b) (noteReduce f sat n s)) s

/-- CORE_REDUCE. -/
def execCoreReduce (st : Nat) (op : PlanOp) (s : State) : Host.Outcome State Fault Refusal :=
  .next (issue 0x21 st op startCoreReduce s)

/-- CORE_REDUCE_WRITE. -/
def execCoreReduceWrite (id : Nat) (s : State) : Host.Outcome State Fault Refusal := .next (writeHeld 0x21 id s)

/-! ### STACK_REDUCE -/

/-- Whether a slot stands in the partition's slot table. -/
def slotKnown (s : State) (pk slot : Nat) : Bool :=
  match partAt s pk with
  | none => false
  | some p => p.d.slots.any fun d => d.slot == slot

/-- The partition of the plan in whose slot table a slot stands, by the partition that names it; slot numbers are unique
within a plan (slot table entry). -/
def slotPart (s : State) (pk slot : Nat) : Nat :=
  if slotKnown s pk slot then pk else
  match planAt s (pk / 16) with
  | none => pk
  | some p => ((p.d.parts.find? fun d => d.slots.any fun x => x.slot == slot).map fun d => partKey (pk / 16) d.part).getD pk

/-- The step of a slot of the plan in the pass of its partition. -/
def stepOf (s : State) (pk slot : Nat) : Option Step :=
  match partAt s (slotPart s pk slot) with
  | none => none
  | some p => p.steps.find? fun x => x.slot == slot

/-- Count of a STACK_REDUCE. -/
def listCount (op : PlanOp) : Nat := opBits op 15 11
/-- Mode 1 of a STACK_REDUCE (R207). -/
def chunked (op : PlanOp) : Bool := op.opnd.toNat.testBit 10

/-- The first words of the contributions; none where an entry is no address of space 1 or 2 (R205, R208). -/
def contributions (s : State) (f : Fly) (l : Bytes) : Option (List Nat) :=
  (List.range (listCount f.op)).foldr (fun i acc =>
    match acc, placeOf s f.st none (fld l (32 + 4 * i) 4) with
    | some gs, some (g, _) => some (g :: gs)
    | _, _ => none) (some [])

/-- Whether a list breaks R208 by itself. -/
def listBad (s : State) (f : Fly) (l : Bytes) : Bool :=
  !zeroAt l 6 2 || !zeroAt l 12 20 || (byteAt l 4).toNat / 64 != 0 ||
    (fld l 0 2 != 0xFFFF && !slotKnown s f.part (fld l 0 2)) ||
    !zeroAt l (32 + 4 * listCount f.op) (64 - 4 * listCount f.op) ||
    (if chunked f.op then decide (63 < (byteAt l 5).toNat) else byteAt l 5 != 0#8) ||
    (contributions s f l).isNone

/-- Whether the contributions' headers break R208. -/
def headsBad (f : Fly) (l : Bytes) (hs : List Bytes) : Bool :=
  hs.any fun h => decide (2 < (byteAt h 2).toNat) || byteAt h 2 != byteAt (hs.headD []) 2 ||
    (isFx h && (!chunked f.op || byteAt h 3 != byteAt l 5))

/-- The seed, session ID and C of a list's slot (R200, R205). -/
def drawKeys (s : State) (f : Fly) (slot : Nat) : Nat × Nat × Nat :=
  match stepOf s f.part slot with
  | some x => (x.seed, x.sid, x.cpos)
  | none => (0, 0, 0)

/-- Mode 0: stochastic rounding in list order (R206). -/
def stochSum (draw : Nat → Nat) (xs : List Dyad) : Rnd :=
  match xs with
  | [] => ⟨dzero, false⟩
  | x :: rest =>
    rest.zipIdx.foldl (fun (a : Rnd) (y, i) =>
      let r := psStoch (dadd a.v y) (draw (i + 2))
      ⟨r.v, a.sat || r.sat⟩) ⟨x, false⟩

/-- The run of mode 1: PS24 to nearest in list order (R207). -/
def runSum (xs : List Dyad) : Rnd :=
  match xs with
  | [] => ⟨dzero, false⟩
  | x :: rest =>
    rest.foldl (fun (a : Rnd) y =>
      let r := roundF fmtPs (dadd a.v y)
      ⟨r.v, a.sat || r.sat⟩) ⟨x, false⟩

/-- A signed 64-bit value and whether it saturates. -/
def clamp64 (z : Int) : Int × Bool :=
  let c := clampI (-(2 ^ 63 : Int)) (2 ^ 63 - 1) z
  (c, c != z)

/-- Mode 1 for one index: the run converted with F, and the exact FX64 values (R207). -/
def chunkSum (f : Nat) (ps fx : List Dyad) : Int × Bool :=
  let r := runSum ps
  let t := clamp64 (dround (dshl r.v f) + (fx.map fun v => dat v (-(f : Int))).sum)
  (t.1, t.2 || r.sat)

/-- The block of a STACK_REDUCE (R203, R206, R207). -/
def stackReduceBlock (s : State) (f : Fly) (l : Bytes) (bs : List Bytes) : Bytes × Option Nat × Nat :=
  let n := blockLen (byteAt (bs.headD []) 2).toNat
  let (seed, sid, c) := drawKeys s f (fld l 0 2)
  let p := c + fld l 2 2
  let layer := opBits f.op 9 0
  let tensor := (byteAt l 4).toNat % 64
  let flag := fun k => bs.any fun b => (fld b 0 2).testBit k
  let epochs := bs.map fun b => fld b 12 4
  let arrays := (bs.map fun b => fld b 4 2).foldl (fun a x => min 65535 (a + x)) 0
  let head := fun zero sat => (⟨bs.all (fun b => (fld b 0 2).testBit 0) && zero, sat || flag 1,
    flag 3 || decide (128 < arrays), flag 4 || epochs.any (· != epochs.headD 0), arrays, epochs.foldl max 0⟩ : Head)
  if chunked f.op then
    let fp := (byteAt l 5).toNat
    let ps := bs.filter fun b => !isFx b
    let fx := bs.filter isFx
    let rs := (List.range n).map fun k => chunkSum fp (ps.map fun b => blockValue b k) (fx.map fun b => blockValue b k)
    let own := firstTrue (rs.map (·.2))
    (fxBlock (head (rs.all fun r => r.1 == 0) own.isSome) fp (rs.map (·.1)), own, arrays)
  else
    let rs := (List.range n).map fun k =>
      stochSum (roundDraw seed sid p layer tensor ((fld l 8 4 + k) % 2 ^ 32)) (bs.map fun b => blockValue b k)
    let own := firstTrue (rs.map (·.sat))
    (psBlock (head (rs.all fun r => r.v.m == 0) own.isSome) (rs.map (·.v)), own, arrays)

/-- An invalid contribution list (R208). -/
def listInvalid (id : Nat) (f : Fly) (s : State) : State :=
  endFly id (postOncePerPass f.part 0x0740 3 (unitPos f.st f.op)
    (le 1 f.st ++ le 4 f.op.unit ++ le 4 f.op.offset ++ le 4 (opBits f.op 79 48)) s)

/-- Whether words must be waited for. -/
def mustWait (f : Fly) (s : State) (ws : List Nat) : Bool := f.op.guard && !ws.all (fullAt s)

/-- Wait for words to be full. -/
def waitFor (id : Nat) (f : Fly) (ws : List Nat) (s : State) : State := setFly id (some { f with wait := .guard ws }) s

/-- Whether the contributions of a STACK_REDUCE, by their headers `hs`, or its block break a rule: their types, or an end
beyond the store (R205, R208, R520). -/
def blocksBad (s : State) (f : Fly) (l : Bytes) (hs : List Bytes) : Bool :=
  let n := blockLen (byteAt (hs.headD []) 2).toNat
  headsBad f l hs ||
    !((List.range (listCount f.op)).all fun i =>
      (rangeOf s f.st none (fld l (32 + 4 * i) 4) (blockWords (hs.getD i []))).isSome) ||
    (rangeOf s f.st (opOwn f.op) (opBits f.op 47 16) (1 + n / (if chunked f.op then 4 else 8))).isNone

/-- A STACK_REDUCE reads its list, then its contributions' headers, then every word (R205, R208, R209). -/
def startStackReduce (id : Nat) (f : Fly) (s : State) : State :=
  let g := srcWord s f
  let lw := span g 3
  if mustWait f s lw then waitFor id f lw s else
  let l := wordsAt s g 3
  if listBad s f l then listInvalid id f s else
  let gs := (contributions s f l).getD []
  if mustWait f s (lw ++ gs) then waitFor id f (lw ++ gs) s else
  let hs := gs.map (wordAt s)
  if blocksBad s f l hs then listInvalid id f s else
  withSource id f (lw ++ (gs.zip hs).flatMap fun (w, h) => span w (blockWords h)) (fun s =>
    let (b, sat, a) := stackReduceBlock s f l ((gs.zip hs).map fun (w, h) => wordsAt s w (blockWords h))
    hold id f (s.spin.tick + 6) (toWords (dstWord s f) b) (noteReduce f sat a s)) s

/-- STACK_REDUCE. -/
def execStackReduce (st : Nat) (op : PlanOp) (s : State) : Host.Outcome State Fault Refusal :=
  .next (issue 0x22 st op startStackReduce s)

/-- STACK_REDUCE_WRITE. -/
def execStackReduceWrite (id : Nat) (s : State) : Host.Outcome State Fault Refusal := .next (writeHeld 0x22 id s)

/-! ### FUSE -/

/-- Whether a FUSE descriptor uses a gate block. -/
def fuseGated (d : Bytes) : Bool := (byteAt d 1).toNat == 4 || (byteAt d 1).toNat == 5

/-- BIAS of a FUSE descriptor. -/
def fuseBias (d : Bytes) : Bool := (byteAt d 3).toNat.testBit 0
/-- GATE_BIAS of a FUSE descriptor. -/
def fuseGateBias (d : Bytes) : Bool := (byteAt d 3).toNat.testBit 1

/-- Whether a gain-table entry lies within the stack store (R97, R520). -/
def gainFits (s : State) (f : Fly) (entry : Nat) : Bool :=
  match partAt s f.part with
  | none => false
  | some p => (placeOf s f.st none p.d.gainBase).any fun x => decide (entry / 8 < x.2)

/-- Whether a FUSE descriptor breaks R215 at issue. -/
def fuseBad (s : State) (f : Fly) (d : Bytes) : Bool :=
  let own := opOwn f.op
  let act := (byteAt d 1).toNat
  let out := (byteAt d 2).toNat
  let gate := fuseGated d
  byteAt d 0 != 0x23#8 || decide (5 < act) || decide (6 < out) || decide (3 < (byteAt d 3).toNat) ||
    (if out < 2 then fld d 4 2 % 64 != 0 || decide (1024 < fld d 4 2 + 256) else fld d 4 2 != 0) ||
    (if out < 2 then decide (2047 < fld d 6 2) || !gainFits s f (fld d 6 2) else fld d 6 2 != 0) ||
    notFinite32 (fld d 8 4) || notFinite32 (fld d 12 4) || !posFinite32 (fld d 16 4) ||
    (if fuseBias d then (placeOf s f.st own (fld d 20 4)).isNone else fld d 20 4 != 0) ||
    (if gate then (placeOf s f.st own (fld d 24 4)).isNone || notFinite32 (fld d 28 4)
      else fld d 24 4 != 0 || fld d 28 4 != 0 || fuseGateBias d) ||
    (if fuseGateBias d then (placeOf s f.st own (fld d 32 4)).isNone else fld d 32 4 != 0) ||
    !zeroAt d 36 28 || (placeOf s f.st own (opBits f.op 79 48)).isNone

/-- Bytes from a WADDR on, at most `n`, as far as its store reaches. -/
def bytesFrom (s : State) (f : Fly) (a n : Nat) : Bytes :=
  match placeOf s f.st (opOwn f.op) a with
  | none => []
  | some (g, room) => mread s.stores.mem (32 * g) (min n (32 * room))

/-- What a FUSE reads in its issue index: descriptor, gain word, bias and gate bias (R215). -/
def fuseIssue (s : State) (f : Fly) : List Bytes :=
  let d := wordsAt s (descWord s f) 2
  let gain := match partAt s f.part with
    | none => []
    | some p =>
      let g := wordOf s f.st none p.d.gainBase
      slice (wordAt s (g + fld d 6 2 / 8)) (4 * (fld d 6 2 % 8)) 4
  [d, gain, if fuseBias d then bytesFrom s f (fld d 20 4) 2048 else [],
   if fuseGateBias d then bytesFrom s f (fld d 32 4) 2048 else []]

/-- z of R216, steps 1 to 3. -/
def fuseZ (scale : Rnd) (bias : Option Dyad) (v : Dyad) : Rnd :=
  let y := stepRn ⟨v, scale.sat⟩ fun v => dmul v scale.v
  match bias with
  | none => y
  | some b => stepRn y fun y => dadd y b

/-- f of R216 for the codes 0 to 3, and of the gate for 4 and 5. -/
def activate (act : Nat) (z : Rnd) : Rnd :=
  let r : Rnd :=
    if act = 1 then ⟨if 0 < z.v.m then z.v else dzero, false⟩
    else if act = 2 ∨ act = 5 then gelu z.v
    else if act = 3 ∨ act = 4 then silu z.v
    else ⟨z.v, false⟩
  ⟨r.v, z.sat || r.sat⟩

/-- The bias of value k. -/
def biasAt (on : Bool) (b : Bytes) (k : Nat) : Option Dyad := if on then some (readBf (fld b (2 * k) 2)).v else none

/-- z′ of R216 for value k. -/
def fuseValue (d bias gbias : Bytes) (vs gs : List Dyad) (k : Nat) : Rnd :=
  let fp := fun o => (read32 (fld d o 4)).v
  let z := fuseZ (roundF fmt32 (dmul (fp 8) (fp 12))) (biasAt (fuseBias d) bias k) (vs.getD k dzero)
  let act := (byteAt d 1).toNat
  let u :=
    if fuseGated d then
      let zg := fuseZ (roundF fmt32 (dmul (fp 28) (fp 12))) (biasAt (fuseGateBias d) gbias k) (gs.getD k dzero)
      let a := activate act zg
      stepRn ⟨a.v, z.sat || a.sat⟩ fun a => dmul a z.v
    else activate act z
  stepRn u fun u => dmul u (fp 16)

/-- Narrow to A4 or A8 (R218): divide by the row group's gain, to nearest, limited to `top`. -/
def narrowInt (top : Nat) (gain row : Nat) (z : Dyad) : Int × Bool :=
  let q := roundQuot z (2 ^ bits gain (2 * (row / 64) + 1) (2 * (row / 64)))
  (clampI (-(top : Int)) top q, decide (top < q.natAbs))
where
  /-- `z ÷ g` rounded to the nearest integer, half to even -/
  roundQuot (z : Dyad) (g : Nat) : Int :=
    if 0 ≤ z.e then divEven (z.m * (2 : Int) ^ z.e.toNat) g else divEven z.m (g * 2 ^ (-z.e).toNat)

/-- Values cut into groups of 32. -/
def in32 (zs : List Dyad) : List (List Dyad) :=
  (List.range (zs.length / 32)).map fun b => (zs.drop (32 * b)).take 32

/-- The narrowed output: word offset from the destination, bytes, and saturated values (R218). -/
def fuseOutput (d : Bytes) (gain : Nat) (zs : List Dyad) : Nat × Bytes × List Bool :=
  let out := (byteAt d 2).toNat
  let base := fld d 4 2
  if out < 2 then
    let rs := zs.zipIdx.map fun (z, k) => narrowInt (if out = 0 then 7 else 112) gain (base + k) z
    if out = 0 then (base / 64, elemBytes .int4 (rs.map fun r => (r.1 % 16).toNat), rs.map (·.2))
    else (base / 32, rs.flatMap fun r => leInt 1 r.1, rs.map (·.2))
  else if out = 2 then
    let rs := zs.map (roundF fmtBf)
    (0, rs.flatMap fun r => le 2 (encBf r.v), rs.map (·.sat))
  else if out = 3 then (0, zs.flatMap fun z => le 4 (enc32 z), zs.map fun _ => false)
  else
    let kind := if out = 4 then ElemKind.e4m3 else if out = 5 then .e5m2 else .int4
    let bs := (in32 zs).map (writeBlock kind)
    (0, padTo 32 (bs.flatMap fun b => le 1 b.scale) ++ bs.flatMap fun b => elemBytes kind b.codes,
      bs.flatMap (·.sats))

/-- FORMAT_NAN_READ at the first infinity or NaN that a unit reads in a pass (R194, R195, R220). -/
def noteOdd (f : Fly) (odd : Bool) (s : State) : State := if odd then postUnit f 0x0745 2 [] s else s

/-- Compute a FUSE from its source and gate blocks. -/
def runFuse (id : Nat) (f : Fly) (hs : List Bytes) (src gate : Bytes) (s : State) : State :=
  let d := hs.getD 0 []
  let n := blockLen (byteAt src 2).toNat
  let vs := blockValues src
  let gs := if fuseGated d then blockValues gate else []
  let bias := hs.getD 2 []
  let gbias := hs.getD 3 []
  let zs := (List.range n).map (fuseValue d bias gbias vs gs)
  let (off, b, sats) := fuseOutput d (fld (hs.getD 1 []) 0 4) (zs.map (·.v))
  let odd := fun on (b : Bytes) => on && (List.range n).any fun k => (readBf (fld b (2 * k) 2)).odd
  let s := noteOdd f (odd (fuseBias d) bias || odd (fuseGateBias d) gbias) s
  let s := match firstTrue ((zs.map (·.sat)).zipWith (· || ·) sats) with
    | none => s
    | some k => postUnit f 0x0743 2 (le 4 k) s
  hold id f (s.spin.tick + 6) (toWords (dstWord s f + off) b) s

/-- Words a FUSE writes from its destination on. -/
def fuseWords (d : Bytes) (n : Nat) : Nat :=
  let out := (byteAt d 2).toNat
  if out = 0 then (fld d 4 2 + n) / 64
  else if out = 1 then (fld d 4 2 + n) / 32
  else if out = 2 then n / 16
  else if out = 3 then n / 8
  else if out = 6 then 1 + n / 64
  else 1 + n / 32

/-- Whether the source of a FUSE, by its header `h` and its gate's `hg`, breaks a rule: types, the place of the output in its
vector, or an end beyond the store (R219, R520). -/
def fuseUnfit (s : State) (f : Fly) (d h hg : Bytes) : Bool :=
  let own := opOwn f.op
  let n := blockLen (byteAt h 2).toNat
  let need := fun on a => on && (rangeOf s f.st own a (n / 16)).isNone
  decide (2 < (byteAt h 2).toNat) || (fuseGated d && byteAt hg 2 != byteAt h 2) ||
    (decide ((byteAt d 2).toNat < 2) && decide (1024 < fld d 4 2 + n)) ||
    (rangeOf s f.st own (opBits f.op 79 48) (blockWords h)).isNone ||
    (fuseGated d && (rangeOf s f.st own (fld d 24 4) (blockWords hg)).isNone) ||
    (rangeOf s f.st own (opBits f.op 47 16) (fuseWords d n)).isNone ||
    need (fuseBias d) (fld d 20 4) || need (fuseGateBias d) (fld d 32 4)

/-- A FUSE whose descriptor has been read: headers of source and gate, then every word (R215, R219). -/
def fuseSource (id : Nat) (f : Fly) (hs : List Bytes) (s : State) : State :=
  let d := hs.getD 0 []
  let own := opOwn f.op
  let f := { f with body := .held hs }
  let g := srcWord s f
  let gg := wordOf s f.st own (fld d 24 4)
  let gates := if fuseGated d then [gg] else []
  if mustWait f s (g :: gates) then waitFor id f (g :: gates) s else
  let h := wordAt s g
  let hg := wordAt s gg
  if fuseUnfit s f d h hg then invalidOp 0x0741 id f s else
  let gw := if fuseGated d then span gg (blockWords hg) else []
  withSource id f (span g (blockWords h) ++ gw)
    (fun s => runFuse id f hs (wordsAt s g (blockWords h)) (wordsAt s gg (blockWords hg)) s) s

/-- FUSE at issue. -/
def startFuse (id : Nat) (f : Fly) (s : State) : State :=
  let hs := fuseIssue s f
  if fuseBad s f (hs.getD 0 []) then invalidOp 0x0741 id f s else fuseSource id f hs s

/-- FUSE. -/
def execFuse (st : Nat) (op : PlanOp) (s : State) : Host.Outcome State Fault Refusal :=
  .next (issue 0x23 st op startFuse s)

/-- FUSE_WRITE. -/
def execFuseWrite (id : Nat) (s : State) : Host.Outcome State Fault Refusal := .next (writeHeld 0x23 id s)

end Sys2Proof.Machine
end

