-- ==== Sys2Proof/Machine/Kv.lean ====
section
/-!
DEFINITION. Memory contexts and KV pages as plan operations meet them: KV_APPEND and ATTEND (R273 to R292,
R305).
-/

namespace Sys2Proof.Machine

/-! ### Contexts, groups, records -/

/-- A context by tenant × 2^32 + ID. -/
def ctxAt (s : State) (k : Nat) : Option Ctx := tget none s.serve.ctxs k

/-- Replace a context. -/
def setCtx (k : Nat) (c : Option Ctx) (s : State) : State :=
  { s with serve := { s.serve with ctxs := tset none s.serve.ctxs k c } }

/-- The layer group of a layer (R276). -/
def Ctx.group (c : Ctx) (layer : Nat) : Option KvGroup :=
  c.groups.find? fun g => decide (g.first ≤ layer) && decide (layer < g.first + g.layers)

/-- E: elements of a key, or of a value, of all heads (R276). -/
def KvGroup.len (g : KvGroup) : Nat := g.heads * g.dim

/-- The element kind of a group. -/
def KvGroup.elem (g : KvGroup) : ElemKind := elemKind g.kind

/-- Words of the K elements of a record (R277). -/
def KvGroup.elemWords (g : KvGroup) : Nat := ceilDiv (g.len * elemBits g.elem) 256

/-- R: words of a position record (R277). -/
def KvGroup.recWords (g : KvGroup) : Nat := 2 * g.elemWords + ceilDiv g.len 512

/-- Tiles of 4 KiB of a page (R277). -/
def KvGroup.tiles (g : KvGroup) : Nat := ceilDiv (2 ^ g.pageExp * g.recWords * 32) 4096

/-- The page of a layer that holds a position. -/
def KvGroup.pageOf (g : KvGroup) (t : Nat) : Nat := t / 2 ^ g.pageExp

/-- The byte of its page at which a position's record begins. -/
def KvGroup.recAt (g : KvGroup) (t : Nat) : Nat := t % 2 ^ g.pageExp * g.recWords * 32

/-- The key of a page of a context. -/
def pageKey (layer n : Nat) : Nat := layer * 2 ^ 20 + n

/-- The key of a tail entry of a slot at a layer. -/
def tailKey (slot layer e : Nat) : Nat := slot * 2 ^ 22 + layer * 4096 + e

/-- Narrow the K or V values of an entry: element bytes and scale bytes (R279). -/
def narrowKv (kind : ElemKind) (scale : Dyad) (vs : List Dyad) : Bytes × Bytes :=
  let bs := (in32 (vs.map fun v => rnDiv v scale)).map (writeBlock kind)
  (bs.flatMap fun b => elemBytes kind b.codes, bs.flatMap fun b => le 1 b.scale)

/-- The record of an entry from its K and V values (R277, R279). -/
def KvGroup.record (g : KvGroup) (ks vs : List Dyad) : Bytes :=
  let k := narrowKv g.elem (read32 g.kScale).v ks
  let v := narrowKv g.elem (read32 g.vScale).v vs
  padTo (32 * g.elemWords) k.1 ++ padTo (32 * g.elemWords) v.1 ++ padTo (32 * ceilDiv g.len 512) (k.2 ++ v.2)

/-- Elements of a record for one head, each times its SC8 scale: the keys, or the values (R283). -/
def KvGroup.vector (g : KvGroup) (b : Bytes) (value : Bool) (head : Nat) : List Dyad :=
  let part := slice b (if value then 32 * g.elemWords else 0) (32 * g.elemWords)
  let scales := 64 * g.elemWords + (if value then g.len / 32 else 0)
  (span (head * g.dim) g.dim).map fun i =>
    dmul (elemRead g.elem (elemAt g.elem part i)).v (sc8 (byteAt b (scales + i / 32)).toNat)

/-! ### Slots -/

/-- A slot of the plan's slot tables. -/
def slotDefOf (s : State) (pk slot : Nat) : Option SlotDef :=
  let here := (((partAt s pk).map (·.d.slots)).getD []).find? fun d => d.slot == slot
  match here, planAt s (pk / 16) with
  | some d, _ => some d
  | none, some p => (p.d.parts.flatMap (·.slots)).find? fun d => d.slot == slot
  | none, none => none

/-- The tail capacity of a slot kind (R278). -/
def tailCap (kind : Nat) : Nat := if kind = 0 then 33 else 4096

/-- The context of a step. -/
def stepCtx (s : State) (x : Step) : Option Ctx :=
  match x.ctx with
  | none => none
  | some k => ctxAt s k

/-- The context whose profile gives an empty slot without a context its shape: the lowest one of the plan's
model image (DESIGN CHOICE, log 35). -/
def shapeCtx (s : State) (pk : Nat) : Option Ctx :=
  let image := ((planAt s (pk / 16)).map (·.d.model)).getD 0
  ((tvals s.serve.ctxs).find? fun x => x.2.image == image).map (·.2)

/-- The layer group under which an operation of a slot works. -/
def groupFor (s : State) (pk slot layer : Nat) : Option KvGroup :=
  match (stepOf s pk slot).bind (stepCtx s) with
  | some c => c.group layer
  | none => (shapeCtx s pk).bind fun c => c.group layer

/-- Whether a slot computes as an empty slot (R280); a slot without a recorded step does. -/
def slotEmpty (s : State) (pk slot : Nat) : Bool := ((stepOf s pk slot).map (·.empty)).getD true

/-- The event of an invalid operation of a cluster or a management core, at most once per unit in a pass:
stack, unit, offset, then `pay`; the operation ends. -/
def invalidUnit (code id : Nat) (f : Fly) (pay : Bytes) (s : State) : State :=
  endFly id (postOncePerPass f.part code 3 (unitPos f.st f.op)
    (le 1 f.st ++ le 4 f.op.unit ++ le 4 f.op.offset ++ pay) s)

/-- The same with the descriptor index. -/
def invalidDesc (code id : Nat) (f : Fly) (s : State) : State :=
  invalidUnit code id f (le 2 (opBits f.op 15 0)) s

/-! ### KV_APPEND -/

/-- The slot of a KV_APPEND. -/
def kvSlot (op : PlanOp) : Nat := opBits op 47 34

/-- Whether a descriptor and header break the tables of KV_APPEND. -/
def kvBad (d h : Bytes) : Bool :=
  byteAt d 0 != 0x42#8 || byteAt d 1 != 0#8 || !zeroAt d 4 60 || decide (4095 < fld h 0 2) || fld h 2 2 == 0 ||
    decide (4096 < fld h 0 2 + fld h 2 2) || !zeroAt h 4 28

/-- Whether an entry of a slot has been written at a layer in the pass, or is about to be (R278). -/
def entryTaken (s : State) (pk slot layer e : Nat) : Bool :=
  (match partAt s (slotPart s pk slot) with
    | some p => tget [] p.tails (tailKey slot layer e) != []
    | none => false) ||
  (tvals s.plans.flies).any fun (_, f) =>
    match f.body with
    | .kv _ l recs => f.part / 16 == pk / 16 && kvSlot f.op == slot && l == layer && recs.any fun r => r.1 == e
    | _ => false

/-- The entries of a KV_APPEND: entry number and record (R279). -/
def kvEntries (g : KvGroup) (base count : Nat) (b : Bytes) : List (Nat × Bytes) :=
  (List.range count).map fun n =>
    let vals := fun o => (List.range g.len).map fun k => (readBf (fld b (32 + 4 * g.len * n + 2 * (o + k)) 2)).v
    (base + n, g.record (vals 0) (vals g.len))

/-- The values of a source that read as an infinity or a NaN (R194). -/
def oddBf (b : Bytes) (off n : Nat) : Bool := (List.range n).any fun k => (readBf (fld b (off + 2 * k) 2)).odd

/-- Words of the source of a KV_APPEND, its header `h` with them, for a group of heads; none is a slot that has no profile. -/
def kvWords (h : Bytes) (grp : Option KvGroup) : Nat := 1 + fld h 2 2 * ((grp.map (·.len)).getD 0) / 8

/-- Whether a KV_APPEND breaks a rule by its descriptor and header: slot, tail capacity, layer, an end beyond the store, an
entry written before (R278 to R280). -/
def kvUnfit (s : State) (f : Fly) (d h : Bytes) : Bool :=
  let slot := kvSlot f.op
  let cap := tailCap (((slotDefOf s f.part slot).map (·.kind)).getD 0)
  let grp := groupFor s f.part slot (fld d 2 2)
  let empty := slotEmpty s f.part slot
  let bare := ((stepOf s f.part slot).bind (stepCtx s)).isNone
  kvBad d h || (slotDefOf s f.part slot).isNone || decide (cap < fld h 0 2 + fld h 2 2) || (grp.isNone && !(empty && bare)) ||
    (rangeOf s f.st (opOwn f.op) (opBits f.op 79 48) (kvWords h grp)).isNone ||
    (!empty && (span (fld h 0 2) (fld h 2 2)).any (entryTaken s f.part slot (fld d 2 2)))

/-- A KV_APPEND whose descriptor has been read: header, checks, values (R278 to R280). Only a slot without a context has no
profile that its layer could break. -/
def kvSource (id : Nat) (f : Fly) (d : Bytes) (s : State) : State :=
  let f := { f with body := .held [d] }
  let g := srcWord s f
  if mustWait f s [g] then waitFor id f [g] s else
  let h := wordAt s g
  let slot := kvSlot f.op
  let layer := fld d 2 2
  let grp := groupFor s f.part slot layer
  let empty := slotEmpty s f.part slot
  let n := kvWords h grp
  if kvUnfit s f d h then invalidDesc 0x0607 id f s else
  withSource id f (span g n) (fun s =>
    if empty then endFly id s else
    let b := wordsAt s g n
    match grp, stepOf s f.part slot with
    | some k, some x =>
      let s := noteOdd f (oddBf b 32 (2 * fld h 2 2 * k.len)) s
      setFly id (some { f with
        due := f.issue + 4, wait := .none
        body := .kv (x.ctx.getD 0) layer (kvEntries k (fld h 0 2) (fld h 2 2) b) }) s
    | _, _ => endFly id s) s

/-- KV_APPEND at issue. -/
def startKv (id : Nat) (f : Fly) (s : State) : State := kvSource id f (wordsAt s (descWord s f) 2) s

/-- KV_APPEND. -/
def execKvAppend (st : Nat) (op : PlanOp) (s : State) : Host.Outcome State Fault Refusal :=
  .next (issue 0x42 st op startKv s)

/-- The turn at which a partition's pass began. -/
def passTurn (s : State) (pk : Nat) : Nat := ((partAt s pk).map fun p => p.start / 8192).getD 0

/-- Allocate the page of a slot number unless it exists (R279, R296). -/
def allocPage (k layer st turn : Nat) (g : KvGroup) (t : Nat) (c : Ctx) : Ctx :=
  let n := pageKey layer (g.pageOf t)
  if k = 0 ∧ (tget none c.pages n).isNone then
    { c with pages := tset none c.pages n (some ⟨0, st, [], turn, 0, 0, []⟩) }
  else c

/-- The entries of a KV_APPEND are written (R279, R280). A consolidation job's tail is private and allocates
nothing (R306). -/
def writeKv (id : Nat) (s : State) : State :=
  match flyAt s id with
  | none => s
  | some f =>
    match f.body with
    | .kv k layer recs =>
      if f.op.code ≠ 0x42 ∨ s.spin.tick < f.due then s else
      let home := slotPart s f.part (kvSlot f.op)
      match partAt s home, ctxAt s k, stepOf s f.part (kvSlot f.op) with
      | some p, some c, some x =>
        let tails := recs.foldl (fun t (e, b) => tset [] t (tailKey (kvSlot f.op) layer e) b) p.tails
        let s := setPart home (some { p with tails := tails }) s
        let c := match c.group layer with
          | none => c
          | some g =>
            let own := if x.job = 2 ∨ x.replay.isSome then 1 else 0
            recs.foldl (fun c (e, _) => allocPage own layer f.st (p.start / 8192) g (x.base + e) c) c
        endFly id (setCtx k (some c) s)
      | _, _, _ => endFly id s
    | _ => s

/-- KV_APPEND_WRITE. -/
def execKvAppendWrite (id : Nat) (s : State) : Host.Outcome State Fault Refusal := .next (writeKv id s)

/-! ### Chained roundings -/

/-- One value with whether a step so far has saturated. -/
def rounded (sat : Bool) (d : Dyad) : Rnd :=
  let r := roundF fmt32 d
  ⟨r.v, sat || r.sat⟩

/-- RN32 of a product. -/
def mulR (a b : Rnd) : Rnd := rounded (a.sat || b.sat) (dmul a.v b.v)
/-- RN32 of a sum. -/
def addR (a b : Rnd) : Rnd := rounded (a.sat || b.sat) (dadd a.v b.v)
/-- RN32 of a difference. -/
def subR (a b : Rnd) : Rnd := rounded (a.sat || b.sat) (dsub a.v b.v)
/-- A value no step has saturated. -/
def plain (d : Dyad) : Rnd := ⟨d, false⟩

/-- The dot product of two vectors, exactly. -/
def dotD (a b : List Dyad) : Dyad := dsum (a.zipWith dmul b)

/-! ### ATTEND -/

/-- An attended key: position, and key and value vectors of one head. -/
abbrev Attended := Nat × List Dyad × List Dyad

/-- Attended keys by block of 64 positions, in ascending order (R282). -/
def blocksOf (ks : List Attended) : List (List Attended) :=
  ((ks.map fun k => k.1 / 64).eraseDups).map fun b => ks.filter fun k => k.1 / 64 == b

/-- The running state of R283. -/
structure Soft where
  m : Dyad
  l : Rnd
  o : List Rnd

/-- z of a key (step 2 of R283). -/
def scoreOf (c : Rnd) (x : List Dyad) (k : List Dyad) : Rnd := mulR (rounded false (dotD x k)) c

/-- Add one block (steps 3 and 4 of R283). -/
def addBlock (c : Rnd) (x : List Dyad) (st : Option Soft) (ks : List Attended) : Option Soft :=
  let zs := ks.map fun k => scoreOf c x k.2.1
  let sat := zs.any (·.sat)
  let top := zs.foldl (fun a z => match a with
    | none => some z.v
    | some a => some (dmax a z.v)) (none : Option Dyad)
  match top with
  | none => st
  | some top =>
    let m := match st with
      | none => top
      | some q => dmax q.m top
    let ds := zs.map fun z => rounded z.sat (dsub z.v m)
    let ps := ds.map fun d => exp2 d.v
    let sat := sat || ds.any (·.sat)
    let l := rounded sat (dsum ps)
    let o := (List.range x.length).map fun i =>
      rounded sat (dsum (ps.zipWith (fun p (k : Attended) => dmul p (k.2.2.getD i dzero)) ks))
    match st with
    | none => some ⟨m, l, o⟩
    | some q =>
      let d := rounded false (dsub q.m m)
      let a : Rnd := ⟨exp2 d.v, d.sat⟩
      some ⟨m, addR (mulR q.l a) l, q.o.zipWith (fun u w => addR (mulR u a) w) o⟩

/-- The online softmax over all blocks. -/
def softOver (c : Rnd) (x : List Dyad) (ks : List Attended) : Option Soft := (blocksOf ks).foldl (addBlock c x) none

/-- out of step 5 of R283, in PS24. -/
def softOut (vscale : Dyad) (q : Soft) : List Rnd :=
  q.o.map fun o =>
    let r := mulR (rounded (o.sat || q.l.sat) (rnDiv o.v q.l.v)) (plain vscale)
    let p := roundF fmtPs r.v
    ⟨p.v, r.sat || p.sat⟩

/-- What an ATTEND's descriptor and header ask for. -/
structure Ask where
  back : Bool
  layer : Nat
  hbase : Nat
  q : Nat
  per : Nat
  save : Bool
  tree : Bool
  qk : Nat
  window : Nat
  treeAt : Nat
  slot : Nat
  base : Nat
  count : Nat
  stats : Nat
  grads : Nat
  dkv : Nat

/-- Read descriptor and query header. -/
def askOf (d h : Bytes) : Ask :=
  let fl := (byteAt d 9).toNat
  { back := byteAt d 1 == 1#8, layer := fld d 2 2, hbase := fld d 4 2, q := fld d 6 2, per := (byteAt d 8).toNat,
    save := fl.testBit 0, tree := fl.testBit 1, qk := fld d 12 4, window := fld d 16 4, treeAt := fld d 20 4,
    slot := fld h 0 2, base := fld h 2 2, count := fld h 4 2, stats := fld h 8 4, grads := fld h 12 4,
    dkv := fld h 16 4 }

/-- Whether descriptor and header break their tables by themselves (R289, R305). -/
def askBad (d h : Bytes) : Bool :=
  let a := askOf d h
  byteAt d 0 != 0x41#8 || decide (1 < (byteAt d 1).toNat) || decide (3 < (byteAt d 9).toNat) || !zeroAt d 10 2 ||
    !zeroAt d 24 40 || a.per == 0 || decide (16 < a.per) || !posFinite32 a.qk || decide (4194304 < a.window) ||
    (!a.tree && a.treeAt != 0) || a.count == 0 || !zeroAt h 6 2 || !zeroAt h 20 12 ||
    (!a.back && !a.save && a.stats != 0) || (!a.back && (a.grads != 0 || a.dkv != 0)) ||
    (a.back && (a.tree || a.save || a.hbase != 0))

/-- Whether the request breaks a rule with its layer group and slot kind. -/
def askShapeBad (s : State) (f : Fly) (a : Ask) (g : KvGroup) (kind : Nat) : Bool :=
  let own := opOwn f.op
  let n := a.count * a.q * g.dim / 16
  let out := fun on w len => on && (rangeOf s f.st own w len).isNone
  a.q * g.dim % 256 != 0 || decide (16384 < a.q * g.dim) || decide (g.heads * a.per < a.hbase + a.q) ||
    decide (tailCap kind < a.base + a.count) || (a.tree && decide (33 < a.base + a.count)) ||
    (a.back && (a.q != g.heads * a.per || g.len % 256 != 0)) ||
    out true (opBits f.op 79 48) (1 + n) || out true (opBits f.op 47 16) (a.count * (a.q * g.dim / 256) * 33) ||
    out a.tree a.treeAt 2 || out (a.save || a.back) a.stats (ceilDiv (8 * a.count * a.q) 32) ||
    out a.back a.grads n || out a.back a.dkv ((a.base + a.count) * (g.len / 128) * 33)

/-- The chain from an entry to entry 0 under a tree record; none where a parent is not below its child. -/
def chain (tree : Bytes) : Nat → Nat → Option (List Nat)
  | 0, e => if e = 0 then some [0] else none
  | n + 1, e =>
    if e = 0 then some [0] else
    let p := (byteAt tree e).toNat
    if p < e then (chain tree n p).map fun l => e :: l else none

/-- Whether a tree record breaks its layout: every parent is below its child, and byte 0 and the bytes beyond the tree, or
beyond entry 32, are 0xFF (R281, tree record). -/
def treeBad (tree : Bytes) : Bool :=
  byteAt tree 0 != 0xFF#8 || (span 1 63).any fun e =>
    byteAt tree e != 0xFF#8 &&
      (decide (32 < e) || decide (e ≤ (byteAt tree e).toNat) || (decide (1 < e) && byteAt tree (e - 1) == 0xFF#8))

/-- The tail entry at each depth for a query of entry e, depth 0 first (R281). -/
def pathOf (a : Ask) (tree : Bytes) (e : Nat) : Option (List Nat) :=
  if a.tree then (chain tree 33 e).map (·.reverse) else some (List.range (e + 1))

/-- The attended positions of a query at position p. -/
def attendedAt (window p : Nat) : List Nat :=
  let lo := if window = 0 then 0 else p + 1 - window
  span lo (p + 1 - lo)

/-- What a query attends, by position: a committed one, or a tail entry (R281). -/
def attends (a : Ask) (base : Nat) (path : List Nat) : List (Nat × Option Nat) :=
  (attendedAt a.window (base + path.length - 1)).map fun q =>
    (q, if q < base then none else some (path.getD (q - base) 0))

/-- The entries of a request. -/
def Ask.entries (a : Ask) : List Nat := span a.base a.count

/-- Every attended position or tail entry of a request. -/
def allAttended (a : Ask) (base : Nat) (tree : Bytes) : List (Nat × Option Nat) :=
  (a.entries.flatMap fun e => attends a base ((pathOf a tree e).getD [])).eraseDups

/-- The layer group of an ATTEND; for an empty slot with no context of the image, whose head dimension the
spec leaves open, one that fits the request (log 35). -/
def attendGroup (s : State) (f : Fly) (a : Ask) : Option KvGroup :=
  match groupFor s f.part a.slot a.layer with
  | some g => some g
  | none =>
    if !slotEmpty s f.part a.slot || (shapeCtx s f.part).isSome then none else
    let ok := (span 1 16).filter fun k => a.q * 32 * k % 256 == 0 && decide (a.q * 32 * k ≤ 16384)
    let k := ok[(Config.openWord s.free 0).toNat % ok.length]?
    k.map fun k => ⟨a.layer, 1, max 1 (ceilDiv a.q a.per), 32 * k, 1, 4, 0, 0⟩

/-- An ATTEND whose descriptor has been read: header, checks, queries and gradients (R281, R289, R305). The
words a guard covers are the header and the queries, and for a backward one its statistics and output
gradients (DEDUCED, log 36). -/
def attendSource (id : Nat) (f : Fly) (d : Bytes) (s : State) : State :=
  let f := { f with body := .held [d] }
  let qk := srcWord s f
  if mustWait f s [qk] then waitFor id f [qk] s else
  let h := wordAt s qk
  let a := askOf d h
  let bad := invalidDesc 0x0608 id f
  if askBad d h then bad s else
  match slotDefOf s f.part a.slot, attendGroup s f a with
  | some sd, some g =>
    if askShapeBad s f a g sd.kind then bad s else
    let own := opOwn f.op
    let tree := if a.tree then wordsAt s (wordOf s f.st own a.treeAt) 2 else []
    if (a.tree && treeBad tree) ||
        (!slotEmpty s f.part a.slot && a.entries.any fun e => (pathOf a tree e).isNone) then bad s else
    let n := a.count * a.q * g.dim / 16
    let sw := wordOf s f.st own a.stats
    let sn := ceilDiv (8 * a.count * a.q) 32
    let gw := wordOf s f.st own a.grads
    withSource id f (span qk (1 + n) ++ if a.back then span sw sn ++ span gw n else []) (fun s =>
      setFly id (some { f with
        due := f.issue + 8, wait := .none
        body := .held [d, h, wordsAt s (qk + 1) n, tree, if a.back then wordsAt s sw sn else [],
          if a.back then wordsAt s gw n else [], le 2 g.dim] })
        { s with free := s.free + 1 }) s
  | _, _ => bad s

/-- ATTEND at issue. -/
def startAttend (id : Nat) (f : Fly) (s : State) : State := attendSource id f (wordsAt s (descWord s f) 2) s

/-- ATTEND. -/
def execAttend (st : Nat) (op : PlanOp) (s : State) : Host.Outcome State Fault Refusal :=
  .next (issue 0x41 st op startAttend s)

/-- The record of an attended position or tail entry; none for a tail entry not written yet. A page that is gone shows zeros:
only a step that is to be discarded reads one (log 36). -/
def keyRecord (s : State) (pk : Nat) (a : Ask) (c : Ctx) (g : KvGroup) (x : Nat × Option Nat) : Option Bytes :=
  match x.2 with
  | some e =>
    match partAt s (slotPart s pk a.slot) with
    | none => none
    | some p => match tget [] p.tails (tailKey a.slot a.layer e) with
      | [] => none
      | b => some b
  | none =>
    let data := ((tget none c.pages (pageKey a.layer (g.pageOf x.1))).map (·.data)).getD []
    some (mread data (g.recAt x.1) (32 * g.recWords))

/-- The keys of one head for a list of attended positions. -/
def headKeys (s : State) (pk : Nat) (a : Ask) (c : Ctx) (g : KvGroup) (head : Nat) (xs : List (Nat × Option Nat)) :
    List Attended :=
  xs.filterMap fun x => (keyRecord s pk a c g x).map fun b => (x.1, g.vector b false head, g.vector b true head)

/-- The BF16 vector of `n` elements from byte `off`. -/
def bfVec (b : Bytes) (off n : Nat) : List Dyad := (List.range n).map fun i => (readBf (fld b (off + 2 * i) 2)).v

/-- A PS24 block of 256 values with SATURATED taken from them (R287). -/
def attendBlock (zero : Bool) (vs : List Rnd) : Bytes :=
  psBlock ⟨zero, vs.any (·.sat), false, false, 0, 0⟩ (vs.map (·.v))

/-- Values cut into PS24 blocks of 256. -/
def attendBlocks (zero : Bool) (vs : List Rnd) : Bytes :=
  (List.range (vs.length / 256)).flatMap fun k => attendBlock zero ((vs.drop (256 * k)).take 256)

/-- `n` zero values. -/
def zeroVals (n : Nat) : List Rnd := List.replicate n (plain dzero)

/-- c of R283. -/
def scaleOf (a : Ask) (g : KvGroup) : Rnd :=
  mulR (mulR (plain (read32 a.qk).v) (plain (read32 g.kScale).v)) (plain cLog2e)

/-- The forward outputs of one entry and head: values, m and l. -/
def forwardHead (s : State) (pk : Nat) (a : Ask) (c : Ctx) (g : KvGroup) (xs : List (Nat × Option Nat))
    (x : List Dyad) (h : Nat) : List Rnd × Dyad × Dyad :=
  match softOver (scaleOf a g) x (headKeys s pk a c g (h / a.per) xs) with
  | none => (zeroVals g.dim, dzero, dzero)
  | some q => (softOut (read32 g.vScale).v q, q.m, q.l.v)

/-- The forward output and its statistics (R283, R286, R287). -/
def forwardOut (s : State) (pk : Nat) (a : Ask) (c : Ctx) (g : KvGroup) (base : Nat) (qs tree : Bytes) : Bytes × Bytes :=
  let rs := (a.entries.zipIdx).map fun (e, n) =>
    let xs := attends a base ((pathOf a tree e).getD [])
    (List.range a.q).map fun h =>
      forwardHead s pk a c g xs (bfVec qs (2 * (n * a.q + h) * g.dim) g.dim) (a.hbase + h)
  (rs.flatMap fun hs => attendBlocks false (hs.flatMap (·.1)),
   rs.flatMap fun hs => hs.flatMap fun r => le 4 (enc32 r.2.1) ++ le 4 (enc32 r.2.2))

/-- Sums formed exactly within each block, rounded once, and added in block order (ΣB of R305). -/
def blockSum (blocks : List (List Rnd)) : Rnd :=
  match blocks.map (fun b => rounded (b.any (·.sat)) (dsum (b.map (·.v)))) with
  | [] => plain dzero
  | r :: rest => rest.foldl addR r

/-- RN32 of a quotient, with what saturated before it or in it; where its divisor is 0 the spec gives no value (log 8). -/
def openDiv (ctr k : Nat) (a : Rnd) (b : Dyad) : Rnd :=
  if b.m = 0 then ⟨(read32 (Config.openWord ctr k).toNat).v, a.sat⟩ else
  let r := roundQ fmt32 (if b.m < 0 then -a.v.m else a.v.m) b.m.natAbs (a.v.e - b.e)
  ⟨r.v, a.sat || r.sat⟩

/-- The backward quantities of one entry and head: for each attended key its position, p and dS; and dQ. -/
def backwardHead (ctr : Nat) (c qks vscale : Rnd) (x gr : List Dyad) (m l : Dyad) (ks : List Attended) :
    List (Nat × Rnd × Rnd) × List Rnd :=
  let bs := (blocksOf ks).map fun b => b.map fun k =>
    let z := scoreOf c x k.2.1
    let d := rounded z.sat (dsub z.v m)
    let e := exp2R d.v
    let p := openDiv ctr k.1 ⟨e.v, d.sat || e.sat⟩ l
    (k, p, mulR (rounded false (dotD gr k.2.2)) vscale)
  let dsumB := blockSum (bs.map fun b => b.map fun (_, p, dp) => ⟨dmul p.v dp.v, p.sat || dp.sat⟩)
  let bs := bs.map fun b => b.map fun (k, p, dp) => (k, p, mulR p (subR dp dsumB))
  let dq := (List.range x.length).map fun i =>
    let t := mulR (blockSum (bs.map fun b => b.map fun (k, _, dS) => ⟨dmul dS.v (k.2.1.getD i dzero), dS.sat⟩)) qks
    let p := roundF fmtPs t.v
    ⟨p.v, t.sat || p.sat⟩
  (bs.flatten.map fun (k, p, dS) => (k.1, p, dS), dq)

/-- The backward output: dQ blocks, then dK and dV blocks of the tail entries (R305). -/
def backwardOut (s : State) (pk : Nat) (a : Ask) (c : Ctx) (g : KvGroup) (base : Nat) (qs stats gs : Bytes) : Bytes × Bytes :=
  let sc := scaleOf a g
  let qk := (read32 a.qk).v
  let qks := mulR (plain qk) (plain (read32 g.kScale).v)
  let runs := (a.entries.zipIdx).map fun (e, n) =>
    let xs := attends a base (List.range (e + 1))
    (List.range a.q).map fun h =>
      let x := bfVec qs (2 * (n * a.q + h) * g.dim) g.dim
      let gr := bfVec gs (2 * (n * a.q + h) * g.dim) g.dim
      let at8 := 8 * (n * a.q + h)
      let r := backwardHead s.free sc qks (plain (read32 g.vScale).v) x gr (read32 (fld stats at8 4)).v
        (read32 (fld stats (at8 + 4) 4)).v (headKeys s pk a c g (h / a.per) xs)
      (h, x, gr, r)
  let all := runs.flatten
  let into := fun (j kv i : Nat) (value : Bool) =>
    let t := all.foldl (fun (acc : Option Rnd) (h, x, gr, ks, _) =>
      if h / a.per ≠ kv then acc else
      match ks.find? fun k => k.1 == base + j with
      | none => acc
      | some (_, p, dS) =>
        let t := if value then mulR p (plain (gr.getD i dzero))
          else rounded dS.sat (dmul (dmul dS.v (x.getD i dzero)) qk)
        match acc with
        | none => some t
        | some r => some (addR r t)) none
    let t := t.getD (plain dzero)
    let p := roundF fmtPs t.v
    (⟨p.v, t.sat || p.sat⟩ : Rnd)
  let elems := fun j value => (List.range g.len).map fun e => into j (e / g.dim) (e % g.dim) value
  (runs.flatMap fun hs => attendBlocks false (hs.flatMap fun r => r.2.2.2.2),
   (List.range (a.base + a.count)).flatMap fun j => attendBlocks false (elems j false) ++ attendBlocks false (elems j true))

/-- Whether the step of a slot of the pass is to be discarded (R399). -/
def discarded (s : State) (pk slot : Nat) : Bool := (partAt s (slotPart s pk slot)).any fun p => p.discards.contains slot

/-- Whether everything an ATTEND attends can be read: its tail entries are written at the layer, and its pages are Hot or
Warm (R288, R296). A step that is to be discarded waits for no page (DESIGN CHOICE, log 36). -/
def attendReady (s : State) (pk : Nat) (a : Ask) (c : Ctx) (g : KvGroup) (base : Nat) (tree : Bytes) : Bool :=
  (allAttended a base tree).all fun x =>
    match x.2 with
    | some _ => (keyRecord s pk a c g x).isSome
    | none => discarded s pk a.slot ||
      (tget none c.pages (pageKey a.layer (g.pageOf x.1))).any fun pg => decide (pg.tier < 2)

/-- The session of a context. -/
def ctxSession (s : State) (k : Nat) : Option (Nat × Session) :=
  (tvals s.serve.sessions).find? fun x => x.2.ctx == k

/-- The version that an adapter's name gives at present. -/
def currentAdapter (s : State) (a : Option Nat) : Option Nat :=
  a.bind fun a => (tget none s.model.current a).map (a * 256 + ·)

/-- The definition of a partition's plan. -/
def planDefOf (s : State) (pk : Nat) : Option PlanDef := (planAt s (pk / 16)).map (·.d)

/-- Tiles of a tenant's Hot pages on a stack, and of those on their way to it. -/
def hotTiles (s : State) (tenant st : Nat) : Nat :=
  (((tvals s.serve.ctxs).filter fun x => x.2.tenant == tenant).map fun (c, x) =>
    (((tvals x.pages).filter fun (k, p) => (p.tier == 0 && p.stack == st) ||
        s.serve.moves.any fun m => m.ctx == c && m.page == k && m.tier == 0 && m.stack == st).map fun (k, _) =>
      ((x.group (k / 2 ^ 20)).map (·.tiles)).getD 0).sum).sum

/-- A tenant's quota. -/
def quotaOf (s : State) (t : Nat) : Quota := (tget none s.serve.quotas t).getD ⟨0, 0, 0, 0, none, [], 0⟩

/-- Begin a page's copy to a stack, unless one is in progress (R296). -/
def beginMove (k page tier st : Nat) (s : State) : State :=
  if s.serve.moves.any fun m => m.ctx == k && m.page == page then s else
  { s with serve := { s.serve with moves := s.serve.moves ++ [⟨k, page, tier, st, false⟩] } }

/-- An attended page: its stamp, and the move that R296 gives it. -/
def touchPage (k : Nat) (f : Fly) (turn : Nat) (s : State) (page : Nat) : State :=
  match ctxAt s k with
  | none => s
  | some c =>
    match tget none c.pages page with
    | none => s
    | some pg =>
      let s := setCtx k (some { c with pages := tset none c.pages page (some { pg with stamp := turn }) }) s
      let tiles := ((c.group (page / 2 ^ 20)).map (·.tiles)).getD 0
      if pg.tier = 0 ∧ pg.stack ≠ f.st then beginMove k page 0 f.st s
      else if pg.tier = 1 ∧ hotTiles s c.tenant f.st + tiles ≤ (quotaOf s c.tenant).hot then beginMove k page 0 f.st s
      else s

/-- The output of an ATTEND whose keys can be read: its words, and the pages it read. -/
def attendOut (s : State) (f : Fly) (hs : List Bytes) : Option (List (Nat × Bytes) × Option (Nat × List Nat)) :=
  let b := fun k => hs.getD k []
  let a := askOf (b 0) (b 1)
  let own := opOwn f.op
  let dim := leNat (b 6)
  let words := fun (o x : Bytes) =>
    toWords (dstWord s f) o ++
      (if x.isEmpty then [] else toWords (wordOf s f.st own (if a.back then a.dkv else a.stats)) x)
  if slotEmpty s f.part a.slot then
    let len := ((groupFor s f.part a.slot a.layer).map (·.len)).getD 0
    let more := if a.back then (List.range (2 * (a.base + a.count))).flatMap fun _ => attendBlocks true (zeroVals len)
      else if a.save then zeros (8 * a.count * a.q) else []
    some (words ((List.range a.count).flatMap fun _ => attendBlocks true (zeroVals (a.q * dim))) more, none)
  else
    match stepOf s f.part a.slot with
    | none => none
    | some x =>
      match x.ctx, stepCtx s x with
      | some k, some c =>
        match c.group a.layer with
        | none => none
        | some g =>
          if !attendReady s f.part a c g x.base (b 3) then none else
          let (o, e) := if a.back then backwardOut s f.part a c g x.base (b 2) (b 4) (b 5)
            else forwardOut s f.part a c g x.base (b 2) (b 3)
          let pages := ((allAttended a x.base (b 3)).filter fun y => y.2.isNone).map fun y => pageKey a.layer (g.pageOf y.1)
          some (words o (if a.back || a.save then e else []), some (k, pages.eraseDups))
      | _, _ => none

/-- An ATTEND writes all its words together, once what it attends can be read (R288). -/
def writeAttend (id : Nat) (s : State) : State :=
  match flyAt s id with
  | none => s
  | some f =>
    match f.body with
    | .held hs =>
      if f.op.code ≠ 0x41 ∨ f.wait ≠ .none ∨ hs.length ≠ 7 ∨ s.spin.tick < f.due then s else
      match attendOut s f hs with
      | none => s
      | some (ws, pages) =>
        let s := match pages with
          | none => s
          | some (k, ps) => ps.foldl (touchPage k f (passTurn s f.part)) s
        let n := fld (hs.getD 1 []) 4 2 * fld (hs.getD 0 []) 6 2 * leNat (hs.getD 6 [])
        let stats := hs.getD 4 []
        let odd := oddBf (hs.getD 2 []) 0 n || oddBf (hs.getD 5 []) 0 ((hs.getD 5 []).length / 2) ||
          (List.range (2 * (n / max 1 (leNat (hs.getD 6 []))))).any fun i =>
            !stats.isEmpty && (read32 (fld stats (4 * i) 4)).odd
        tryWrite id f ws { noteOdd f odd s with free := s.free + 1 }
    | _ => s

/-- ATTEND_WRITE. -/
def execAttendWrite (id : Nat) (s : State) : Host.Outcome State Fault Refusal := .next (writeAttend id s)

end Sys2Proof.Machine
end

