-- ==== Sys2Proof/Machine/Sampler.lean ====
section
/-!
DEFINITION. The sampler and the operations that decide a step: FINISH and SAMPLE (R320 to R329).
-/

namespace Sys2Proof.Machine

/-! ### Ordering -/

/-- Insert into a list ordered by `before`. -/
def insertBy {α : Type} (before : α → α → Bool) (x : α) : List α → List α
  | [] => [x]
  | y :: l => if before x y then x :: y :: l else y :: insertBy before x l

/-- A list ordered by `before`. -/
def sortBy {α : Type} (before : α → α → Bool) : List α → List α
  | [] => []
  | x :: l => insertBy before x (sortBy before l)

/-- Larger value first, the lower number on a tie. -/
def higher (a b : Nat × Dyad) : Bool := dlt b.2 a.2 || (deq a.2 b.2 && decide (a.1 < b.1))

/-- Values with their numbers. -/
def numbered (zs : List Dyad) : List (Nat × Dyad) := (zs.zipIdx).map fun (z, t) => (t, z)

/-! ### Weights (R325) -/

/-- The last `n` elements. -/
def lastOf {α : Type} (n : Nat) (l : List α) : List α := l.drop (l.length - n)

/-- Step 1 of R325. -/
def penalise (p : Session) (hist : List Nat) (t : Nat) (z : Dyad) : Dyad :=
  if (lastOf p.window hist).contains t then
    let r := (read32 p.repPen).v
    rn (dsub (if 0 < z.m then rnDiv z r else rn (dmul z r)) (read32 p.presPen).v)
  else z

/-- Steps 2 and 3 of R325: the kept tokens with their values. -/
def keepTop (p : Session) (zs : List (Nat × Dyad)) : List (Nat × Dyad) :=
  let t := (read32 p.temp).v
  let zs := zs.map fun (k, z) => (k, rnDiv z t)
  if p.topK = 0 then zs else (sortBy higher zs).take p.topK

/-- Step 4 of R325. -/
def expWeights (zs : List (Nat × Dyad)) : List (Nat × Dyad) :=
  match zs with
  | [] => []
  | (_, z0) :: rest =>
    let m := rest.foldl (fun a x => dmax a x.2) z0
    zs.map fun (k, z) => (k, exp2 (rn (dmul (dsub z m) cLog2e)))

/-- The shortest prefix whose sum reaches a bound. -/
def prefixTo (bound : Dyad) : Dyad → List (Nat × Dyad) → List (Nat × Dyad)
  | _, [] => []
  | acc, (k, w) :: l =>
    let acc := dadd acc w
    if dle bound acc then [(k, w)] else (k, w) :: prefixTo bound acc l

/-- The weights of a node: kept tokens with their weights (R325). -/
def weights (p : Session) (zs : List Dyad) (hist : List Nat) : List (Nat × Dyad) :=
  let zs := (numbered zs).map fun (t, z) => (t, penalise p hist t z)
  if (read32 p.temp).v.m = 0 then ((sortBy higher zs).take 1).map fun (t, _) => (t, dint 1) else
  let ws := expWeights (keepTop p zs)
  let ws := ws.filter fun x => !dlt x.2 (rn (read32 p.minP).v)
  let ws := sortBy higher ws
  prefixTo (dmul (read32 p.topP).v (dsum (ws.map (·.2)))) dzero ws

/-- The weight of a token. -/
def weightOf (ws : List (Nat × Dyad)) (t : Nat) : Dyad := ((ws.find? fun x => x.1 == t).map (·.2)).getD dzero

/-- The first token in ascending ID whose cumulative weight exceeds a target (R323). -/
def pickToken (target : Dyad) (ws : List (Nat × Dyad)) : Nat :=
  let ws := sortBy (fun a b => decide (a.1 < b.1)) ws
  let r := ws.foldl (fun (acc : Dyad × Option Nat) x =>
    match acc.2 with
    | some _ => acc
    | none =>
      let t := dadd acc.1 x.2
      (t, if dlt target t then some x.1 else none)) (dzero, none)
  r.2.getD ((ws.getLast?.map (·.1)).getD 0)

/-! ### Steps and their sessions -/

/-- A replay. -/
def replayAt (s : State) (r : Nat) : Option Replay := tget none s.serve.replays r

/-- A session. -/
def sessionAt (s : State) (k : Nat) : Option Session := tget none s.serve.sessions k

/-- Replace a session. -/
def setSession (k : Nat) (x : Option Session) (s : State) : State :=
  { s with serve := { s.serve with sessions := tset none s.serve.sessions k x } }

/-- The session parameters of a step: the session's own, or those captured with a replay (R404, R405). -/
def stepSession (s : State) (x : Step) : Option Session :=
  match x.replay with
  | some r => (replayAt s r).map (·.sess)
  | none => x.sess.bind (sessionAt s)

/-- The committed tokens that a step sees: the log up to C of its slot at its start; for a prefill step or a
job, up to B, its entries following (R318, R323). -/
def stepHistory (s : State) (x : Step) : List Nat :=
  let log := ((stepCtx s x).map (·.log)).getD []
  (log.take (if x.kind = 0 then x.base + 1 else x.base)).map (· % 2 ^ 20)

/-! ### Stops and the decision record (R324) -/

/-- A decision before it is written. -/
structure Decision where
  entries : Nat
  stopToken : Bool
  maxNew : Bool
  accept : List Nat
  tokens : List Nat
  drafts : List (Option Nat)

/-- j of R324 for tokens t_1 onwards, with whether a stop token and MAX_NEW chose it. -/
def stopAt (p : Session) (run : Nat) (ts : List Nat) : Nat × Bool × Bool :=
  let stop := fun t => p.stops.contains t
  let full := fun j => p.maxNew != 0 && decide (p.maxNew ≤ run + j)
  match (ts.zipIdx.map fun (t, i) => (i + 1, stop t, full (i + 1))).find? fun x => x.2.1 || x.2.2 with
  | some x => x
  | none => (ts.length, false, false)

/-- The seven words of a decision record. -/
def decisionBytes (slot : Nat) (empty : Bool) (d : Decision) : Bytes :=
  le 2 slot ++ le 2 d.entries ++ le 1 (b2n empty + 2 * b2n d.stopToken + 4 * b2n d.maxNew) ++ le 1 d.tokens.length ++
  zeros 2 ++ padTo 8 (d.accept.flatMap (le 1)) ++ zeros 16 ++ padTo 64 (d.tokens.flatMap (le 4)) ++
  (List.range 32).flatMap fun k => le 4 ((d.drafts.getD k none).getD 0xFFFFFFFF)

/-- An empty slot's record (R322). -/
def emptyDecision : Decision := ⟨0, false, false, [], [], []⟩

/-! ### Drafts (R320) -/

/-- The token after the latest occurrence of a pattern in the committed tokens that ends within the window. -/
def logDraft (log pat : List Nat) : Option Nat :=
  let c := log.length
  let g := pat.length
  (((List.range (c - 1)).reverse).find? fun j =>
    decide (c ≤ j + 65536) && decide (g ≤ j + 1) && (log.drop (j + 1 - g)).take g == pat).bind fun j => log[j + 1]?

/-- The drafts of a step: for each node in ascending order its token, built with the drafts on the path to it. -/
def formDrafts (p : Session) (head : Nat → List Dyad) (log : List Nat) : List (Option Nat) :=
  let r := p.tree.foldl (fun (acc : List (Option Nat × List Nat)) (parent, src, rank) =>
    let up : Option (List Nat) := if parent = 0 then some [] else
      match acc[parent - 1]? with
      | some (some _, l) => some l
      | _ => none
    match up with
    | none => acc ++ [(none, [])]
    | some l =>
      let t := if src ≤ 4 then ((sortBy higher (numbered (head src)))[rank - 1]?).map (·.1)
        else if log.length + l.length < rank then none else logDraft log (lastOf rank (log ++ l))
      match t with
      | none => acc ++ [(none, [])]
      | some t => acc ++ [(some t, l ++ [t])]) []
  r.map (·.1)

/-! ### FINISH -/

/-- Depth of a tree node. -/
def depthOf (tree : List (Nat × Nat × Nat)) : Nat → Nat → Nat
  | 0, _ => 0
  | n + 1, e => if e = 0 then 0 else
    match tree[e - 1]? with
    | some (parent, _, _) => depthOf tree n parent + 1
    | none => 0

/-- The children of a node with tokens that are not void, in ascending entry order. -/
def childrenOf (x : Step) (node : Nat) : List (Nat × Nat) :=
  (x.tree.zipIdx).filterMap fun ((parent, _, _), i) =>
    if parent = node then (x.tokens.getD (i + 1) none).map fun t => (i + 1, t) else none

/-- Try the children of a node in turn: the accepted one, or the number of draws made and the weights left. -/
def tryChildren (draw : Nat → Dyad) : List (Nat × Nat) → Nat → List (Nat × Dyad) →
    Option (Nat × Nat) × Nat × List (Nat × Dyad)
  | [], i, ws => (none, i, ws)
  | (e, t) :: l, i, ws =>
    if dlt (dmul (draw i) (dsum (ws.map (·.2)))) (weightOf ws t) then (some (e, t), i + 1, ws)
    else tryChildren draw l (i + 1) (ws.filter fun x => x.1 != t)

/-- The loop of R323: path below the root as entries and tokens, and the bonus token. -/
def walkTree (p : Session) (x : Step) (logits : Nat → List Dyad) (hist : List Nat) :
    Nat → Nat → List (Nat × Nat) → List (Nat × Nat) × Nat
  | 0, _, path => (path, 0)
  | n + 1, node, path =>
    let pos := x.base + path.length + 1
    let ws := weights p (logits node) (hist ++ path.map (·.2))
    let draw := samplerDraw x.seed x.sid pos
    match tryChildren draw (childrenOf x node) 0 ws with
    | (some (e, t), _, _) => walkTree p x logits hist n e (path ++ [(e, t)])
    | (none, i, ws) => (path, pickToken (dmul (draw i) (dsum (ws.map (·.2)))) ws)

/-- The decision of a FINISH (R323, R324); `logits e j` is the vector of head j at entry e. -/
def finishDecision (s : State) (p : Session) (x : Step) (logits : Nat → Nat → List Dyad) : Decision :=
  let hist := stepHistory s x
  let (path, bonus) := walkTree p x (fun e => logits e 0) hist 33 0 []
  let ts := path.map (·.2) ++ [bonus]
  let (j, st, mx) := stopAt p x.run ts
  let last := (path.getLast?.map (·.1)).getD 0
  { entries := j, stopToken := st, maxNew := mx
    accept := (path.map (·.1)).take (j - 1), tokens := ts.take j
    drafts := if st || mx then [] else formDrafts p (logits last) (hist ++ ts.take j) }

/-- Note that an operation names a slot (R321). -/
def nameSlot (f : Fly) (slot : Nat) (s : State) : State :=
  let home := slotPart s f.part slot
  match partAt s home with
  | none => s
  | some p => setPart home (some { p with named := p.named ++ [slot] }) s

/-- Whether the slot has been named in the pass. -/
def slotNamed (s : State) (pk slot : Nat) : Bool :=
  ((partAt s (slotPart s pk slot)).map fun p => p.named.contains slot).getD false

/-- Note where a slot's decision record, or its first gradient block, will be. -/
def noteDecided (f : Fly) (slot g : Nat) (s : State) : State :=
  let home := slotPart s f.part slot
  match partAt s home with
  | none => s
  | some p => setPart home (some { p with decided := p.decided ++ [(slot, g)] }) s

/-- The slot of a FINISH or SAMPLE. -/
def decideSlot (op : PlanOp) : Nat := opBits op 13 0

/-- The invalid event of FINISH and SAMPLE. -/
def finishInvalid (id : Nat) (f : Fly) (s : State) : State := invalidUnit 0x0504 id f (le 2 (decideSlot f.op)) s

/-- The kind of a slot of the plan's slot tables. -/
def slotKind (s : State) (pk slot : Nat) : Option Nat := (slotDefOf s pk slot).map (·.kind)

/-- An FP32 vector of `v` values from its bytes. -/
def vec32 (b : Bytes) (v : Nat) : List Dyad := (List.range v).map fun k => (read32 (fld b (4 * k) 4)).v

/-- Whether a vector holds an infinity or a NaN. -/
def odd32 (b : Bytes) (v : Nat) : Bool := (List.range v).any fun k => (read32 (fld b (4 * k) 4)).odd

/-- The pointers of a directory: index 5e + j. -/
def dirPtr (d : Bytes) (k : Nat) : Nat := fld d (32 + 4 * k) 4

/-- The roughing heads that a tree uses. -/
def headsUsed (tree : List (Nat × Nat × Nat)) : List Nat := (span 1 4).filter fun j => tree.any fun n => n.2.1 == j

/-- Whether a directory breaks R321 for a tree of N nodes. -/
def dirBad (s : State) (f : Fly) (d : Bytes) (tree : List (Nat × Nat × Nat)) : Bool :=
  let v := fld d 0 4
  let own := opOwn f.op
  v == 0 || decide (1048576 < v) || !zeroAt d 4 28 ||
    ((List.range (tree.length + 1)).any fun e =>
      dirPtr d (5 * e) == 0 || (headsUsed tree).any fun j => dirPtr d (5 * e + j) == 0) ||
    ((List.range 165).any fun k => dirPtr d k != 0 && (rangeOf s f.st own (dirPtr d k) (ceilDiv v 8)).isNone)

/-- Write a decision record no earlier than `wait` indices after issue (R322, R329). -/
def putDecision (id : Nat) (f : Fly) (wait : Nat) (b : Bytes) (s : State) : State :=
  hold id f (f.issue + wait) (toWords (dstWord s f) b) (noteDecided f (decideSlot f.op) (dstWord s f) s)

/-- The session whose step a slot computes; none where it computes as an empty slot. -/
def stepRun (s : State) (pk slot : Nat) : Option (Step × Session) :=
  match stepOf s pk slot with
  | none => none
  | some x => if x.empty then none else (stepSession s x).map fun p => (x, p)

/-- A FINISH reads its directory and every vector it names, and decides (R321 to R324). In an empty slot its flags take the
directory and the vectors as in any other, and it reads no logits. -/
def finishSource (id : Nat) (f : Fly) (s : State) : State :=
  let slot := decideSlot f.op
  let own := opOwn f.op
  match rangeOf s f.st own (opBits f.op 79 48) 22 with
  | some g =>
    if mustWait f s (span g 22) then waitFor id f (span g 22) s else
    let d := wordsAt s g 22
    if dirBad s f d (((stepOf s f.part slot).map (·.tree)).getD []) then finishInvalid id f s else
    let v := fld d 0 4
    let n := ceilDiv v 8
    let at_ := fun k => wordOf s f.st own (dirPtr d k)
    let used := (List.range 165).filter fun k => dirPtr d k != 0
    withSource id f ((span g 22 ++ used.flatMap fun k => span (at_ k) n).eraseDups) (fun s =>
      match stepRun s f.part slot with
      | none => putDecision id f 32 (decisionBytes slot true emptyDecision) s
      | some (x, p) =>
        let logits := fun e j => vec32 (wordsAt s (at_ (5 * e + j)) n) v
        let s := noteOdd f (used.any fun k => odd32 (wordsAt s (at_ k) n) v) s
        putDecision id f 32 (decisionBytes slot false (finishDecision s p x logits)) s) s
  | none => finishInvalid id f s

/-- FINISH at issue. -/
def startFinish (id : Nat) (f : Fly) (s : State) : State :=
  let slot := decideSlot f.op
  let bad := slotKind s f.part slot != some 0 || slotNamed s f.part slot
  let s := nameSlot f slot s
  if bad then finishInvalid id f s else finishSource id f s

/-- FINISH. -/
def execFinish (st : Nat) (op : PlanOp) (s : State) : Host.Outcome State Fault Refusal :=
  .next (issue 0x44 st op startFinish s)

/-- FINISH_DECISION_WRITE. -/
def execFinishDecisionWrite (id : Nat) (s : State) : Host.Outcome State Fault Refusal := .next (writeHeld 0x44 id s)

/-! ### SAMPLE -/

/-- The decision of a SAMPLE in a prefill slot (R328). -/
def sampleDecision (s : State) (p : Option Session) (x : Step) (count : Nat) (zs : List Dyad) : Decision :=
  let n := min count x.avail
  let none' : Decision := ⟨n, false, false, [], [], []⟩
  match p with
  | none => none'
  | some p =>
    if !x.final || decide (count < x.avail) then none' else
    let hist := stepHistory s x ++ (x.tokens.take n).filterMap fun t => t
    let ws := weights p zs hist
    let t := pickToken (dmul (samplerDraw x.seed x.sid (x.base + n) 0) (dsum (ws.map (·.2)))) ws
    let (_, st, mx) := stopAt p x.run [t]
    ⟨n, st, mx, [], [t], []⟩

/-- Whether entry e of a consolidation step has a target below END_POS and C (R329). -/
def hasTarget (c : Ctx) (j : Job) (x : Step) (e : Nat) : Bool :=
  decide (x.base + e + 1 < j.last) && decide (x.base + e + 1 < c.log.length)

/-- The gradient blocks of one entry (R329). -/
def gradBlocks (c : Ctx) (j : Job) (x : Step) (k e : Nat) (zs : List Dyad) : Bytes :=
  let blocks := ceilDiv zs.length 256
  let on := hasTarget c j x e
  let ws := (expWeights (numbered zs)).map (·.2)
  let total := rn (dsum ws)
  let target := (c.log.getD (x.base + e + 1) 0) % 2 ^ 20
  let gs : List Dyad := if on then (ws.zipIdx).map fun (w, t) =>
      ps (rnDiv (rn (dsub (rnDiv w total) (if t = target then dint 1 else dzero))) (dint k))
    else []
  (List.range blocks).flatMap fun b =>
    psBlock ⟨!on, false, false, false, 0, 0⟩ ((List.range 256).map fun i => gs.getD (256 * b + i) dzero)

/-- The gradient blocks of a consolidation SAMPLE; in an empty slot no entry has a target (R322, R329). -/
def sampleGradient (s : State) (x : Option Step) (v count : Nat) (b : Bytes) : Bytes :=
  match x, (x.bind (stepCtx s)).bind (fun c => c.job.map fun j => (c, j)) with
  | some x, some (c, j) =>
      let k := ((List.range count).filter (hasTarget c j x)).length
      (List.range count).flatMap fun e => gradBlocks c j x k e (vec32 (slice b (32 * (e * ceilDiv v 8)) (4 * v)) v)
  | _, _ => (List.range (count * ceilDiv v 256)).flatMap fun _ =>
      psBlock ⟨true, false, false, false, 0, 0⟩ (List.replicate 256 dzero)

/-- Whether a SAMPLE breaks a rule by its header: sizes, reserved bytes, an end beyond the store (R322, R329). -/
def sampleUnfit (s : State) (f : Fly) (h : Bytes) : Bool :=
  let v := fld h 0 4
  let cnt := fld h 4 2
  let cons := slotKind s f.part (decideSlot f.op) == some 2
  let n := 1 + (if cons then cnt else 1) * ceilDiv v 8
  v == 0 || decide (1048576 < v) || cnt == 0 || decide (4096 < cnt) || !zeroAt h 6 26 ||
    (rangeOf s f.st (opOwn f.op) (opBits f.op 79 48) n).isNone ||
    (rangeOf s f.st (opOwn f.op) (opBits f.op 47 16) (if cons then cnt * ceilDiv v 256 * 33 else 7)).isNone

/-- A SAMPLE reads its header and vectors and decides, or forms gradients (R328, R329). In an empty slot its flags take the
words as in any other, and it reads no logits (R322). -/
def sampleSource (id : Nat) (f : Fly) (s : State) : State :=
  let slot := decideSlot f.op
  let x := (stepOf s f.part slot).filter fun x => !x.empty
  let cons := slotKind s f.part slot == some 2
  let g := srcWord s f
  if mustWait f s [g] then waitFor id f [g] s else
  let h := wordAt s g
  let v := fld h 0 4
  let cnt := fld h 4 2
  let vecs := if cons then cnt else 1
  let n := 1 + vecs * ceilDiv v 8
  if sampleUnfit s f h then finishInvalid id f s else
  withSource id f (span g n) (fun s =>
    let b := wordsAt s (g + 1) (n - 1)
    let odd := (List.range vecs).any fun e => odd32 (slice b (32 * (e * ceilDiv v 8)) (4 * v)) v
    let s := noteOdd f (x.isSome && odd) s
    if cons then putDecision id f 16 (sampleGradient s x v cnt b) s else
    match x with
    | none => putDecision id f 16 (decisionBytes slot true emptyDecision) s
    | some x =>
      putDecision id f 16 (decisionBytes slot false (sampleDecision s (stepSession s x) x cnt (vec32 b v))) s) s

/-- SAMPLE at issue. -/
def startSample (id : Nat) (f : Fly) (s : State) : State :=
  let slot := decideSlot f.op
  let k := slotKind s f.part slot
  let bad := (k != some 1 && k != some 2) || slotNamed s f.part slot
  let s := nameSlot f slot s
  if bad then finishInvalid id f s else sampleSource id f s

/-- SAMPLE. -/
def execSample (st : Nat) (op : PlanOp) (s : State) : Host.Outcome State Fault Refusal :=
  .next (issue 0x43 st op startSample s)

/-- SAMPLE_WRITE. -/
def execSampleWrite (id : Nat) (s : State) : Host.Outcome State Fault Refusal := .next (writeHeld 0x43 id s)

end Sys2Proof.Machine
end

