-- ==== Sys2Proof/Machine/Halt.lean ====
section
/-!
DEFINITION. The abandonment of passes (R53, R82, R292, R339, R356) and tile failures (R399).
-/

namespace Sys2Proof.Machine

/-- Discard a context's tentative tail: pages that hold only positions at or above M are freed, in any state (R291, R292, R296).
The Dropped pages of an imported context stay, which its recompute job has still to compute up to C − 1 (R302). -/
def freeTail (c : Ctx) : Ctx :=
  { c with pages := c.pages.filter fun (k, o) =>
      match o, c.group (k / 2 ^ 20) with
      | some p, some g => (p.tier == 3 && c.imported) || decide (k % 2 ^ 20 * 2 ^ g.pageExp < c.mark)
      | _, _ => true }

/-- Whether the tail of a context is kept for a withheld step (R293); a consolidation job's tail is private (R306). -/
def tailKept (s : State) (k : Nat) : Bool :=
  (tvals s.serve.replays).any fun (_, r) => r.step.ctx == some k && r.step.job != 2

/-- Discard the tail of a step of a partition (R292), and with a consolidation job's step the updates it staged (R308). -/
def discardTail (x : Step) (s : State) : State :=
  match x.ctx with
  | none => s
  | some k =>
    if x.empty || x.replay.isSome then s else
    match ctxAt s k with
    | none => s
    | some c =>
      if x.job = 2 then setCtx k (some { c with job := c.job.map fun j => { j with staged := [] } }) s
      else if tailKept s k then s
      else setCtx k (some (freeTail c)) s

/-- Replays hosted by a partition are to be placed again (R408 and the table of R409). -/
def unhost (pk : Nat) (s : State) : State :=
  { s with serve := { s.serve with
      replays := s.serve.replays.map fun (k, o) =>
        (k, o.map fun r => if r.state = 1 ∧ r.host.map (·.1) = some pk then { r with state := 0, host := none } else r) } }

/-- A partition holds no pass any more: its operations, requests, waiting writes and unsent frames go; frames
already sent are delivered (spec/12, coinciding happenings). -/
def clearPass (pk : Nat) (s : State) : State :=
  let mine := (fliesOf s pk).map (·.1)
  let s := { s with
    plans := { s.plans with
      flies := s.plans.flies.filter fun (k, _) => !mine.contains k
      queues := (s.plans.queues.map fun (st, q) => (st, q.filter fun r => r.part != pk)).filter fun x => !x.2.isEmpty }
    stores := { s.stores with writes := s.stores.writes.filter fun w => !mine.contains w.fly }
    net := { s.net with
      frames := s.net.frames.filter fun g => g.part != pk || g.landed || g.at_ != g.chan / 16
      sends := s.net.sends.filter fun g => g.part != pk }
    mem := { s.mem with
      order := (s.mem.order.map fun (k, l) => (k, l.filter fun i => !mine.contains i)).filter fun x => !x.2.isEmpty } }
  setPart pk none s

/-- Words to be emptied no longer: those of the stacks of a partition. -/
def dropEmpties (d : PartDef) (s : State) : State :=
  { s with stores := { s.stores with empties := s.stores.empties.filter fun g => !d.mask.testBit (wordStack g) } }

/-- The sums of the accumulated checks of a partition's stacks restart (R398). -/
def dropSums (d : PartDef) (s : State) : State :=
  let mine := fun (k : Nat) => d.mask.testBit (k / 8 / 32 / 4096)
  { s with integ := { s.integ with
    sums := s.integ.sums.filter fun x => !mine x.1, vars := s.integ.vars.filter fun x => !mine x.1 } }

/-- Reference buffers of a partition's stacks go off but for those of the stacks kept (R114). -/
def dropRefs (d : PartDef) (kept : Nat → Bool) (s : State) : State :=
  { s with arr := { s.arr with
    refOn := s.arr.refOn.filter fun x => !d.mask.testBit (x.1 / 640) || kept (x.1 / 640) } }

/-- The stacks of a partition no longer belong to a running plan: what was staged for them comes into force
(R230). -/
def settleStacks (d : PartDef) (s : State) : State := d.stacks.foldl (fun s st => settle st s) s

/-- What is reported at the end of a pass, abandoned or not: RANGE_SPLIT of a pass with re-reads and
TRUING_OVERFLOW of one with overflow charges (R127, R189). -/
def passReports (pk : Nat) (s : State) : State :=
  match partAt s pk with
  | none => s
  | some p =>
    let s := if p.rereads = 0 then s
      else postPlan pk 0x0381 1 (le 4 p.rereads ++ le 4 p.rereadFrozen ++ le 4 p.rereadLeft) s
    if p.overflow = 0 then s
    else postPlan pk 0x0730 2 (le 4 p.charges ++ le 4 p.overflow ++ le 4 p.overFrozen) s

/-- Abandon one partition's pass without commit: tails are rewound, every bit of its stores is emptied, and its accumulated
checks go (R82, R292, R339, R398). -/
def abandonPart (pk : Nat) (s : State) : State :=
  match partAt s pk with
  | none => s
  | some p =>
    let s := p.steps.foldl (fun s x => discardTail x s) (passReports pk s)
    let s := unhost pk (clearPass pk (dropEmpties p.d s))
    settleStacks p.d (p.d.stacks.foldl (fun s st => emptyStack st s) (dropSums p.d s))

/-- Post PASS_ABANDONED: causes slip, stall limit in this partition, stall limit in another. -/
def postAbandoned (pk start cause : Nat) (s : State) : State :=
  postEvent 3 (pk % 16) 0x0213 3 (passRef pk start ++ le 1 cause) s

/-- A barrier's copy at its initial value, but for its refused arrivals, which count since arming (R356, R360). -/
def Barrier.restart (b : Barrier) : Barrier := ⟨0, 0, 0, b.refused, []⟩

/-- A plan becomes Halted; barrier state returns to its initial values, and a PLAN_STOP that waits takes effect at once
(R82, R356). `gone` are its partitions that had stopped before: they hold no stack (R75). -/
def haltPlan (k : Nat) (gone : List Nat) (s : State) : State :=
  match planAt s k with
  | none => s
  | some p =>
    let p : Plan := { p with
      state := 3, haltCount := s.spin.count, waiting := [], released := gone, arrivals := []
      barriers := p.barriers.map fun (x : Nat × Option Barrier) => (x.1, x.2.map Barrier.restart) }
    match p.stop with
    | none => setPlan k (some p) s
    | some (tag, _) =>
      let s := (p.d.parts.filter fun (d : PartDef) => !gone.contains d.part).foldl (fun s d => dropRefs d (fun _ => false) s) s
      complete tag 0 0 s.spin.count (setPlan k (some { p with state := 0, stop := none, barriers := [] }) s)

/-- Abandon every running pass of a plan and halt it; `cause` gives the cause for each partition. Every partition of the plan
is reported, one that is in no pass with a pass start of 0 (R53, R82; for one that had stopped, DESIGN CHOICE, log 60). -/
def abandonPlan (k : Nat) (cause : Nat → Nat) (s : State) : State :=
  match planAt s k with
  | none => s
  | some p =>
    let all := p.d.parts.map fun d => partKey k d.part
    let running := all.filter fun pk => (partAt s pk).isSome
    let starts := all.map fun pk => (pk, ((partAt s pk).map (·.start)).getD 0)
    let gone := (p.d.parts.map (·.part)).filter fun n => !p.waiting.contains n && !running.contains (partKey k n)
    let s := running.foldl (fun s pk => abandonPart pk s) s
    let s := starts.foldl (fun s x => postAbandoned x.1 x.2 (cause x.1) s) s
    haltPlan k gone s

/-- Post TILE_CRC_FAULT: the region by its place in the table of R399, stack or channel, tile address. -/
def postTile (region place addr : Nat) (s : State) : State :=
  postEvent 8 0 0x0804 3 (le 4 region ++ le 1 place ++ le 8 (addr / 4096 * 4096)) s

/-- A plan one of whose partitions read a failed tile is abandoned, and is not re-armed before it, or its model, is loaded again;
the cause is 1 for the partitions that read the tile and 2 for the others (R82, R399). -/
def planFailed (region : Nat) (readers : List Nat) (s : State) (k : Nat) : State :=
  let s := match planAt s k with
    | none => s
    | some p =>
      if region = 5 then setPlan k (some { p with tileFail := true }) s
      else { s with model := { s.model with broken := (s.model.broken ++ [p.d.model * 65536 + p.d.modelVersion]).eraseDups } }
  abandonPlan k (fun pk => if readers.contains pk then 1 else 2) s

/-- A tile of a plan area, chuck area, model area, side data or module-memory region failed: the passes of every running
partition that read it are abandoned with their plans (R399). -/
def planTile (readers : List Nat) (region place addr : Nat) (s : State) : State :=
  let readers := readers.filter fun pk => (partAt s pk).isSome
  (readers.map (· / 16)).eraseDups.foldl (planFailed region readers) (postTile region place addr s)

/-- A tile of a store failed: the data stands, and every non-empty slot of the partition is suspect (R399,
R404). -/
def storeTile (pk region place addr : Nat) (s : State) : State := suspectPass pk 3 (postTile region place addr s)

end Sys2Proof.Machine
end

