-- ==== Sys2Proof/Machine/Cluster.lean ====
section
/-!
DEFINITION. Memory transfers, CLUSTER_MATMUL, and the tasks of management cores (R264 to R270, R307, R319).
-/

namespace Sys2Proof.Machine

/-! ### Memory windows (R265) -/

/-- A held manifest. -/
def manifestOf (s : State) (image version : Nat) : Option Manifest :=
  s.model.manifests.find? fun m => m.id == image && m.version == version

/-- The plan definition of an operation in flight. -/
def flyPlan (s : State) (f : Fly) : Option PlanDef := (planAt s (f.part / 16)).map (·.d)

/-- The manifest of the plan's image version. -/
def flyManifest (s : State) (f : Fly) : Option Manifest :=
  (flyPlan s f).bind fun d => manifestOf s d.model d.modelVersion

/-- The lowest stack of an operation's partition, whose module-memory scratch it uses. -/
def lowestStack (s : State) (f : Fly) : Nat := ((partAt s f.part).bind fun p => p.d.stacks.head?).getD f.st

/-- A window: region (0 model area, 1 module-memory region, 2 preload window, 3 scratch), first byte, bytes. -/
abbrev Window_ := Nat × Nat × Nat

/-- The window that bit 35 of a memory address and a space select (R265). -/
def windowFor (s : State) (f : Fly) (space : Nat) (high : Bool) : Option Window_ :=
  if space = 2 then (if high then none else some (2, 0, 2 ^ 29))
  else if high then
    some (if space = 0 then (3, f.st * 2 ^ 28, 2 ^ 28) else (3, 2 ^ 32 + lowestStack s f * 2 ^ 32, 2 ^ 32))
  else match flyManifest s f with
    | none => none
    | some m =>
      if space = 0 then (if tget 0 m.areas f.st = 0 then none else some (0, tget 0 m.areas f.st, 4096 * fld m.raw (128 + 4 * f.st) 4))
      else m.region.map fun r => (1, r, fld m.raw 80 8)

/-- Where `n` bytes at a 36-bit word address lie; none when they pass the end of the window. -/
def memPlace (s : State) (f : Fly) (space a n : Nat) : Option (Nat × Nat) :=
  match windowFor s f space (a.testBit 35) with
  | none => none
  | some (region, base, len) =>
    let o := 32 * (a % 2 ^ 35)
    if o + n ≤ len then some (region, base + o) else none

/-- Bytes of a preload window: what the plan preloaded there, else 0 (R68). -/
def preloadRead (d : PlanDef) (st a n : Nat) : Bytes :=
  (span a n).map fun x =>
    ((d.preloads.reverse).findSome? fun (t, w, b) =>
      if t = st ∧ 32 * w ≤ x ∧ x < 32 * w + b.length then b[x - 32 * w]? else none).getD 0#8

/-- Read a region. -/
def regionRead (s : State) (f : Fly) (region a n : Nat) : Bytes :=
  if region = 0 then packageRead s f.st a n
  else if region = 1 then moduleRead s a n
  else if region = 2 then ((flyPlan s f).map fun d => preloadRead d f.st a n).getD (zeros n)
  else mread s.mem.scratch a n

/-- The event of a transfer that passes its window, once per channel in a pass (R265). -/
def windowFault (f : Fly) (a : Nat) (s : State) : State :=
  postOncePerPass f.part 0x0306 3 (unitPos f.st f.op)
    (le 1 f.st ++ le 2 f.op.unit ++ le 4 f.op.offset ++ le 8 a) s

/-- The key of a transfer channel's order. -/
def channelKey (f : Fly) : Nat := f.st * 16 + f.op.unit

/-- A transfer takes its place in its channel's order (R266). -/
def enqueue (id : Nat) (f : Fly) (s : State) : State :=
  { s with mem := { s.mem with
      order := tset [] s.mem.order (channelKey f) (tget [] s.mem.order (channelKey f) ++ [id]) } }

/-- A transfer has reached memory. -/
def dequeue (id : Nat) (f : Fly) (s : State) : State :=
  { s with mem := { s.mem with
      order := tset [] s.mem.order (channelKey f) ((tget [] s.mem.order (channelKey f)).filter (· != id)) } }

/-- Whether every earlier transfer of the channel has reached memory. -/
def isNext (s : State) (id : Nat) (f : Fly) : Bool := (tget [] s.mem.order (channelKey f)).head? == some id

/-- The space and memory address of MEM_READ and MEM_WRITE. -/
def memSpace (op : PlanOp) : Nat := opBits op 79 78
/-- The 36-bit memory address, in words. -/
def memAddr (op : PlanOp) : Nat := opBits op 77 42

/-- The earliest index of a transfer's data, counted from issue (R266). -/
def memDelay (op : PlanOp) : Nat := if memSpace op = 1 then 16 else 4

/-! ### MEM_READ and MEM_WRITE -/

/-- MEM_READ at issue. -/
def startMemRead (id : Nat) (f : Fly) (s : State) : State :=
  let n := opBits f.op 9 0
  match memPlace s f (memSpace f.op) (memAddr f.op) (32 * n) with
  | none => endFly id (windowFault f (memAddr f.op) s)
  | some (region, a) =>
    enqueue id f (setFly id (some { f with
      due := f.issue + memDelay f.op
      body := .memRead region a (32 * n) (wordOf s f.st (opOwn f.op) (opBits f.op 41 10)) }) s)

/-- MEM_READ. -/
def execMemRead (st : Nat) (op : PlanOp) (s : State) : Host.Outcome State Fault Refusal :=
  .next (issue 0x32 st op startMemRead s)

/-- A tile of what a MEM_READ read failed (R399): a model area or region halts the plan, scratch is handled as
a store (DESIGN CHOICE, log 37). -/
def readTile (f : Fly) (region a : Nat) (s : State) : State :=
  if region = 0 then planTile [f.part] 7 f.st a s
  else if region = 1 then planTile [f.part] 9 (a / 4096 % 32) a s
  else if region = 2 then planTile [f.part] 5 f.st a s
  else storeTile f.part 10 f.st a s

/-- The data of a MEM_READ has arrived: its destination words are written together (log 38). -/
def memArrival (id : Nat) (tileOk : Bool) (s : State) : State :=
  match flyAt s id with
  | none => s
  | some f =>
    match f.body with
    | .memRead region a n dest =>
      if s.spin.tick < f.due ∨ !isNext s id f then s else
      let s := tryWrite id f (toWords dest (regionRead s f region a n)) (dequeue id f s)
      if tileOk then s else readTile f region a s
    | _ => s

/-- A MEM_WRITE reads its source; a write that passes its window, or into a read-only one, ends there (R265,
R266). -/
def startMemWrite (id : Nat) (f : Fly) (s : State) : State :=
  let n := opBits f.op 9 0
  let g := wordOf s f.st (opOwn f.op) (opBits f.op 41 10)
  withSource id f (span g n) (fun s =>
    match memPlace s f (memSpace f.op) (memAddr f.op) (32 * n) with
    | some (3, a) =>
      enqueue id f (setFly id (some { f with
        due := f.issue + memDelay f.op, wait := .none, body := .memWrite 3 a (wordsAt s g n) }) s)
    | _ => endFly id (windowFault f (memAddr f.op) s)) s

/-- MEM_WRITE. -/
def execMemWrite (st : Nat) (op : PlanOp) (s : State) : Host.Outcome State Fault Refusal :=
  .next (issue 0x33 st op startMemWrite s)

/-- The last byte of a MEM_WRITE reaches memory. -/
def memDone (id : Nat) (s : State) : State :=
  match flyAt s id with
  | none => s
  | some f =>
    match f.body with
    | .memWrite _ a b =>
      if s.spin.tick < f.due ∨ !isNext s id f then s else
      let s := dequeue id f s
      endFly id { s with mem := { s.mem with scratch := mwrite s.mem.scratch a b } }
    | _ => s

/-- MEM_WRITE_DONE. -/
def execMemWriteDone (id : Nat) (s : State) : Host.Outcome State Fault Refusal := .next (memDone id s)

/-! ### Products of digital blocks (R213, R267) -/

/-- A digital block as read: its scale and 32 elements. -/
structure DBlock where
  scale : Dyad
  elems : List Dyad
  odd : Bool

/-- The product of two blocks in PS24 (R213). -/
def blockProduct (a b : DBlock) : Rnd :=
  roundF fmtPs (dmul (dmul a.scale b.scale) (dotD a.elems b.elems))

/-- 32 elements of a kind from a byte string. -/
def elems32 (k : ElemKind) (b : Bytes) : List Rd := (List.range 32).map fun j => elemRead k (elemAt k b j)

/-- A block from its elements and scale. -/
def dblock (k : ElemKind) (b : Bytes) (scale : Dyad) : DBlock :=
  let rs := elems32 k b
  ⟨scale, rs.map (·.v), rs.any (·.odd)⟩

/-- Bytes of a block's elements. -/
def blockBytes (k : ElemKind) : Nat := 4 * elemBits k

/-- Words of a digital vector of `n` blocks in the layout of R218. -/
def vecWords (k : ElemKind) (n : Nat) : Nat :=
  if k = .bf16 then 2 * n else 1 + ceilDiv (n * blockBytes k) 32

/-- Block b of a vector in the layout of R218. -/
def vecBlock (k : ElemKind) (v : Bytes) (b : Nat) : DBlock :=
  if k = .bf16 then dblock k (slice v (64 * b) 64) (dint 1)
  else dblock k (slice v (32 + blockBytes k * b) (blockBytes k)) (sc8 (byteAt v b).toNat)

/-- Bytes of a row of `n` blocks in the row form of R267: scales in whole words, then elements in whole words.
Beyond 32 blocks the scales take ⌈n ÷ 32⌉ words (DEDUCED, log 39). -/
def rowBytes (k : ElemKind) (n : Nat) : Nat := 32 * (ceilDiv n 32 + ceilDiv (n * blockBytes k) 32)

/-- Block b of a row of `n` blocks. -/
def rowBlock (k : ElemKind) (row : Bytes) (n b : Nat) : DBlock :=
  dblock k (slice row (32 * ceilDiv n 32 + blockBytes k * b) (blockBytes k)) (sc8 (byteAt row b).toNat)

/-- Products cut into runs of at most 16, each converted and added to the total (R207, R213). -/
def chunkRuns (f : Nat) (fuel : Nat) (ps : List Rnd) (acc : Int × Bool) : Int × Bool :=
  match fuel with
  | 0 => acc
  | n + 1 =>
    if ps.isEmpty then acc else
    let r := chunkSum f ((ps.take 16).map (·.v)) [⟨acc.1, -(f : Int)⟩]
    chunkRuns f n (ps.drop 16) (r.1, r.2 || acc.2 || (ps.take 16).any (·.sat))

/-- The chunked sum of the products of two lists of blocks. -/
def chunkedDot (f : Nat) (xs ys : List DBlock) : Int × Bool :=
  chunkRuns f (xs.length + 1) (xs.zipWith blockProduct ys) (0, false)

/-! ### Adapters as read by clusters (R269) -/

/-- A site entry of an adapter image. -/
structure Site where
  inBlocks : Nat
  outLen : Nat
  off : Nat
deriving DecidableEq, Repr

/-- SITE_COUNT of an adapter image. -/
def siteCount (raw : Bytes) : Nat := fld raw 18 2
/-- RANK. -/
def rankOf (raw : Bytes) : Nat := fld raw 14 2
/-- The element kind of an adapter image. -/
def adapterKind (raw : Bytes) : ElemKind := elemKind (byteAt raw 16).toNat

/-- A site of an adapter image; a length of 65,536 is coded 0 in its 2 bytes (DEDUCED, log 39). -/
def siteAt (raw : Bytes) (i : Nat) : Option Site :=
  if i < siteCount raw then
    let e := slice raw (64 + 16 * i) 16
    let len := fun o => if fld e o 2 = 0 then 65536 else fld e o 2
    some ⟨len 4 / 32, len 6, fld e 8 8⟩
  else none

/-- The byte at which row j of a site's A matrix begins. -/
def rowA (raw : Bytes) (x : Site) (j : Nat) : Nat := x.off + j * rowBytes (adapterKind raw) x.inBlocks

/-- Blocks of a row of B. -/
def rankBlocks (raw : Bytes) : Nat := ceilDiv (rankOf raw) 32

/-- The byte at which row j of a site's B matrix begins. -/
def rowB (raw : Bytes) (x : Site) (j : Nat) : Nat :=
  rowA raw x (rankOf raw) + j * rowBytes (adapterKind raw) (rankBlocks raw)

/-- The adapter version of a recompute job on a context: the one that the waiting session will be pinned to (R302;
DEDUCED, log 68). -/
def recomputeAdapter (s : State) (k : Nat) : Option Nat := (ctxSession s k).bind fun x => currentAdapter s x.2.adapter

/-- The adapter image that a slot's operations read: the working copy of its consolidation job, or the
version its session is pinned to; a recompute job whose version was freed in its pass reads the one that is current now (R267,
R302, R306). -/
def slotAdapter (s : State) (pk slot : Nat) : Option Bytes :=
  match stepOf s pk slot with
  | none => none
  | some x =>
    if x.empty then none
    else if x.job = 2 then ((stepCtx s x).bind (·.job)).map (·.form)
    else
      let own := x.adapter.bind fun v => tget none s.model.adapters v
      let now := if x.job = 1 then (x.ctx.bind (recomputeAdapter s)).bind fun v => tget none s.model.adapters v else none
      (own.orElse fun _ => now).map (·.raw)

/-! ### CLUSTER_MATMUL -/

/-- MM_KIND. -/
def mmKind (d : Bytes) : Nat := (byteAt d 1).toNat

/-- Number of output values. -/
def mmLen (d : Bytes) : Nat := if mmKind d = 2 then 256 else blockLen (byteAt d 5).toNat

/-- The input element kind of kinds 0 and 2. -/
def mmInput (d : Bytes) : ElemKind := elemKind (byteAt d 3).toNat

/-- Whether a byte range of a descriptor is 0 unless the kind uses it. -/
def unused (d : Bytes) (used : Bool) (off len : Nat) : Bool := !used && !zeroAt d off len

/-- Whether a CLUSTER_MATMUL descriptor breaks its table. -/
def mmBad (s : State) (f : Fly) (d : Bytes) : Bool :=
  let k := mmKind d
  let b := fun i => (byteAt d i).toNat
  let ab := k == 2 || k == 3
  byteAt d 0 != 0x40#8 || decide (3 < k) || decide (3 < b 2) || unused d (k == 0) 2 1 ||
    (if k = 1 then decide (1 < b 3) else if k = 3 then b 3 != 0 else decide (3 < b 3)) ||
    (if k = 0 ∨ k = 2 then b 4 == 0 || decide (32 < b 4) else b 4 != 0) ||
    decide (2 < b 5) || unused d (k != 2) 5 1 || decide (63 < b 6) || unused d (k != 1) 6 1 || b 7 != 0 ||
    unused d (k == 0) 8 4 || unused d (k == 1) 12 16 || unused d ab 28 6 || !zeroAt d 22 2 || !zeroAt d 34 30 ||
    (k == 1 && (fld d 12 2 % 4 != 0 || decide (640 ≤ fld d 12 2 / 4 % 1024) || b 14 == 0 || decide (15 < b 14) ||
      decide (2 < b 15) || decide (2 ^ 20 ≤ fld d 16 4) || decide (2047 < fld d 20 2) ||
      !gainFits s f (fld d 20 2) ||
      b 5 != (if b 15 = 0 then 1 else 0) ||
      (fld d 24 4 != 0 && (rangeOf s f.st (opOwn f.op) (fld d 24 4) 4).isNone))) ||
    (ab && (slotDefOf s f.part (fld d 28 2)).isNone)

/-- Words of the weight tile of kind 0. -/
def tileWords (d : Bytes) : Nat :=
  mmLen d * (rowBytes (elemKind (byteAt d 2).toNat) (byteAt d 4).toNat / 32)

/-- Words of an operation's source, its header known. -/
def mmSource (d h : Bytes) : Nat :=
  let k := mmKind d
  if k = 1 then (if (byteAt d 3).toNat = 1 then 32 else 16) * (if (byteAt d 15).toNat = 2 then 2 else 1)
  else if k = 3 then blockWords h
  else vecWords (mmInput d) (byteAt d 4).toNat

/-- Words of the output. -/
def mmOut (d : Bytes) : Nat := 1 + mmLen d / (if mmKind d = 1 then 8 else 4)

/-- Kind 0: a tier product. -/
def mmTier (d src tile : Bytes) : List (Int × Bool) × Bool :=
  let wk := elemKind (byteAt d 2).toNat
  let n := (byteAt d 4).toNat
  let row := rowBytes wk n
  let xs := (List.range n).map (vecBlock (mmInput d) src)
  let rows := (List.range (mmLen d)).map fun o =>
    let r := slice tile (row * o) row
    (List.range n).map (rowBlock wk r n)
  (rows.map fun r => chunkedDot (byteAt d 6).toNat r xs, xs.any (·.odd) || rows.any fun r => r.any (·.odd))

/-- Kind 1: the read that an engine of the mask would make, with its entry. -/
def mmEngine (s : State) (f : Fly) (d src : Bytes) (e : Nat) : Option (Bytes × ReadInputs) :=
  let l := fld d 12 2 + e
  let half := (byteAt d 15).toNat
  let a8 := (byteAt d 3).toNat = 1
  let n := if a8 then 1024 else 512
  let b := slice src (if half = 2 then n else 0) n
  let g := match partAt s f.part with
    | none => 0
    | some p => fld (wordAt s (wordOf s f.st none p.d.gainBase + fld d 20 2 / 8)) (4 * (fld d 20 2 % 8)) 4
  (chuckEntry s (bankOf s f.part) l (fld d 16 4 / 2 ^ (5 * e) % 32)).map fun c =>
    (c, { engine := l, deck := chuckPhys c, kind := half, a8 := a8, burnish := 0, gain := g
          xs := if a8 then (driveA8 b 1024).1 else (driveA4 b 1024).1
          written := 0, asked := [], exact := [] })

/-- Kind 1: exact values times column scales of one engine, and whether a value of its TRUE output would saturate (R172,
R177, R202). -/
def mmExact (s : State) (f : Fly) (d src acts : Bytes) (e : Nat) : List Dyad × Bool :=
  let half := (byteAt d 15).toNat
  match mmEngine s f d src e with
  | none => ((dataCols half).map fun _ => dzero, false)
  | some (c, inp) =>
    let st := engineStack inp.engine
    let rows := channelRows s st c
    let xs := (List.range rows.length).map fun k => sfld acts (2 * k) 2
    let vs := (dataCols half).map fun col => (col, exactColumn s c inp col + columnAdds s st c inp rows xs col)
    (vs.map fun (col, v) =>
      dmul (dint (clampI (-outTop) outTop v)) (sc8 (fld (packageRead s st (sideAddr c + col) 1) 0 1)),
     vs.any fun x => outSat x.2)

/-- Kind 1: the block of the CORE_REDUCE, whose flags follow from the TRUE outputs it would take (R203). -/
def mmReference (s : State) (f : Fly) (d src acts : Bytes) : Bytes :=
  let es := (List.range 4).filter fun e => (byteAt d 14).toNat.testBit e
  let outs := es.map (mmExact s f d src acts)
  let rs := (sumLists (outs.map (·.1))).map (roundF fmtPs)
  let zero := (es.all fun e =>
    match mmEngine s f d src e with
    | none => true
    | some (_, inp) => inp.xs.all (· == 0)) && rs.all fun r => r.v.m == 0
  let eps := es.map fun e => tget 0 s.cal.stamps (physEngine s (fld d 12 2 + e))
  psBlock ⟨zero, rs.any (·.sat) || outs.any (·.2), false, eps.any (· != eps.headD 0), es.length, eps.foldl max 0⟩ (rs.map (·.v))

/-- Kind 2: the products with the rows of A (R267). -/
def mmDown (d src raw : Bytes) (x : Site) : List (Int × Bool) × Bool :=
  let k := adapterKind raw
  let n := (byteAt d 4).toNat
  let seg := fld d 32 2
  let bs := (List.range n).filter fun b => decide (32 * seg + b < x.inBlocks)
  let xs := bs.map (vecBlock (mmInput d) src)
  let row := fun j =>
    let r := slice raw (rowA raw x j) (rowBytes k x.inBlocks)
    bs.map fun b => rowBlock k r x.inBlocks (32 * seg + b)
  ((List.range 256).map fun j => if rankOf raw ≤ j then (0, false) else chunkedDot (byteAt d 6).toNat (row j) xs,
   xs.any (·.odd) || (List.range (rankOf raw)).any fun j => (row j).any (·.odd))

/-- A sum times 2^e: a right shift rounds to nearest, ties to even, and the result saturates (R267). -/
def shiftFx (e : Int) (r : Int × Bool) : Int × Bool :=
  let z := if 0 ≤ e then r.1 * (2 : Int) ^ e.toNat else divEven r.1 (2 ^ (-e).toNat)
  let c := clamp64 z
  (c.1, c.2 || r.2)

/-- Kind 3: the products with the rows of B (R267), and whether an infinity or a NaN was read. A value that saturates as
the rank values are narrowed bears on every product (R203, R519). -/
def mmUp (d src raw : Bytes) (x : Site) : List (Int × Bool) × Bool :=
  let k := adapterKind raw
  let vs := ((blockValues src).take (rankOf raw)).map rn
  let vs := vs ++ List.replicate (32 * rankBlocks raw - vs.length) dzero
  let bs := (in32 vs).map (writeBlock k)
  let sat := bs.any fun b => b.sats.any (·)
  let xs := bs.map fun b => (⟨sc8 b.scale, b.codes.map fun c => (elemRead k c).v, false⟩ : DBlock)
  let row := fun j =>
    let r := slice raw (rowB raw x j) (rowBytes k (rankBlocks raw))
    (List.range (rankBlocks raw)).map (rowBlock k r (rankBlocks raw))
  let js := span (mmLen d * fld d 32 2) (mmLen d)
  (js.map fun j =>
    if x.outLen ≤ j then (0, false)
    else
      let r := shiftFx (signed 8 (byteAt raw 17).toNat) (chunkedDot (byteAt d 6).toNat (row j) xs)
      (r.1, r.2 || sat),
   js.any fun j => decide (j < x.outLen) && (row j).any (·.odd))

/-- An FX64 block of results. -/
def fxOut (d : Bytes) (zero : Bool) (rs : List (Int × Bool)) : Bytes :=
  fxBlock ⟨zero, rs.any (·.2), false, false, 1, 0⟩ (byteAt d 6).toNat (rs.map (·.1))

/-- The results of kind 3 with what the header of the source block passes on: its flags and its epoch (R203, DEDUCED, log
39). -/
def upOut (d src : Bytes) (rs : List (Int × Bool)) : Bytes :=
  let has := (fld src 0 2).testBit
  fxBlock ⟨has 0 && rs.all fun r => r.1 == 0, has 1 || rs.any (·.2), has 3, has 4, 1, fld src 12 4⟩ (byteAt d 6).toNat
    (rs.map (·.1))

/-- The output block, and whether an infinity or a NaN was read. -/
def mmResult (s : State) (f : Fly) (d src tile acts : Bytes) : Bytes × Bool :=
  let k := mmKind d
  if k = 0 then
    let (rs, odd) := mmTier d src tile
    (fxOut d false rs, odd)
  else if k = 1 then (mmReference s f d src acts, false)
  else
    let site := (slotAdapter s f.part (fld d 28 2)).bind fun raw => (siteAt raw (fld d 30 2)).map fun x => (raw, x)
    match site with
    | none => (fxOut d true ((List.range (mmLen d)).map fun _ => (0, false)), false)
    | some (raw, x) =>
      if k = 2 then
        let (rs, odd) := mmDown d src raw x
        (fxOut d false rs, odd)
      else
        let (rs, odd) := mmUp d src raw x
        (upOut d src rs, odd)

/-- Whether source, tile or output of a CLUSTER_MATMUL reach beyond the store, or the header `h` of its source is of another
type (R267, R520). -/
def mmUnfit (s : State) (f : Fly) (d h : Bytes) : Bool :=
  let own := opOwn f.op
  (rangeOf s f.st own (opBits f.op 79 48) (mmSource d h)).isNone || (mmKind d == 3 && byteAt h 2 != 0#8) ||
    (rangeOf s f.st own (opBits f.op 47 16) (mmOut d)).isNone ||
    (mmKind d == 0 && (rangeOf s f.st own (fld d 8 4) (tileWords d)).isNone)

/-- A CLUSTER_MATMUL whose descriptor has been read: its source, and for kind 0 its tile, under the guard. -/
def mmRead (id : Nat) (f : Fly) (d : Bytes) (s : State) : State :=
  let f := { f with body := .desc d 0 }
  let own := opOwn f.op
  let g := srcWord s f
  let k := mmKind d
  if k == 3 && mustWait f s [g] then waitFor id f [g] s else
  let h := wordAt s g
  let n := mmSource d h
  let tw := wordOf s f.st own (fld d 8 4)
  if mmUnfit s f d h then invalidDesc 0x0307 id f s else
  withSource id f (span g n ++ if k = 0 then span tw (tileWords d) else []) (fun s =>
    let acts := if fld d 24 4 = 0 then zeros 128 else wordsAt s (wordOf s f.st own (fld d 24 4)) 4
    let (b, odd) := mmResult s f d (wordsAt s g n) (if k = 0 then wordsAt s tw (tileWords d) else []) acts
    hold id f s.spin.tick (toWords (dstWord s f) b) (noteOdd f odd s)) s

/-- CLUSTER_MATMUL at issue. -/
def startMatmul (id : Nat) (f : Fly) (s : State) : State :=
  let d := wordsAt s (descWord s f) 2
  if mmBad s f d then invalidDesc 0x0307 id f s else mmRead id f d s

/-- CLUSTER_MATMUL. -/
def execClusterMatmul (st : Nat) (op : PlanOp) (s : State) : Host.Outcome State Fault Refusal :=
  .next (issue 0x40 st op startMatmul s)

/-- CLUSTER_MATMUL_WRITE: no earliest index is stated, so it may come from the index of the read on. -/
def execClusterMatmulWrite (id : Nat) (s : State) : Host.Outcome State Fault Refusal := .next (writeHeld 0x40 id s)

/-! ### The gather task (R319) -/

/-- Whether a gather descriptor breaks its table, or its rows and table do not fit. -/
def gatherBad (s : State) (f : Fly) (d : Bytes) : Bool :=
  let mode := (byteAt d 2).toNat
  let rw := fld d 4 2
  let n := fld d 6 2
  byteAt d 0 != 0x60#8 || byteAt d 1 != 2#8 || decide (1 < mode) || byteAt d 3 != 0#8 || rw == 0 || decide (1024 < rw) ||
    n == 0 || decide (4096 < n) || !zeroAt d 30 34 ||
    (rangeOf s f.st none (fld d 16 4) (if mode = 0 then n * rw else rw)).isNone ||
    (rangeOf s f.st none (opBits f.op 79 48) 8).isNone ||
    (if mode = 0 then decide (2 ^ 36 ≤ fld d 8 8) || (memPlace s f 0 (fld d 8 8) (32 * fld d 24 4 * rw)).isNone
      else (rangeOf s f.st none (fld d 20 4) (n * rw)).isNone)

/-- The rows that a gather task writes. -/
def gatherRows (s : State) (f : Fly) (d rec : Bytes) : Bytes :=
  let rw := fld d 4 2
  let n := fld d 6 2
  let avail := fld rec 12 2
  let fl := (byteAt rec 14).toNat
  let zero := zeros (32 * rw)
  if (byteAt d 2).toNat = 0 then
    match memPlace s f 0 (fld d 8 8) (32 * fld d 24 4 * rw) with
    | none => []
    | some (region, a) =>
      (span (fld d 28 2) n).flatMap fun e =>
        let t := if 100 + 4 * e ≤ rec.length then fld rec (96 + 4 * e) 4 else 0xFFFFFFFF
        if fl.testBit 0 || decide (avail ≤ e) || t == 0xFFFFFFFF || decide (fld d 24 4 ≤ t) then zero
        else regionRead s f region (a + t * 32 * rw) (32 * rw)
  else if fl.testBit 1 ∧ 0 < avail ∧ avail ≤ n then
    wordsAt s (wordOf s f.st none (fld d 20 4) + (avail - 1) * rw) rw
  else zero

/-- A gather task whose descriptor has been read: the slot input record, and in mode 1 the selected row, under
the guard. -/
def gatherSource (id : Nat) (f : Fly) (d : Bytes) (s : State) : State :=
  let f := { f with body := .desc d 2 }
  let g := srcWord s f
  if mustWait f s [g] then waitFor id f [g] s else
  let h := wordAt s g
  let n := if byteAt h 15 = 0#8 then 8 else 515
  if (rangeOf s f.st none (opBits f.op 79 48) n).isNone then invalidDesc 0x0505 id f s else
  let rw := fld d 4 2
  let avail := fld h 12 2
  let sel := if (byteAt d 2).toNat = 1 ∧ (byteAt h 14).toNat.testBit 1 ∧ 0 < avail ∧ avail ≤ fld d 6 2 then
      span (wordOf s f.st none (fld d 20 4) + (avail - 1) * rw) rw
    else []
  withSource id f (span g n ++ sel) (fun s =>
    hold id f (f.issue + 16) (toWords (wordOf s f.st none (fld d 16 4)) (gatherRows s f d (wordsAt s g n))) s) s

/-- A MGMT_TASK that is no adapter update: the gather task, or a descriptor that makes it invalid (R319). -/
def startGather (id : Nat) (f : Fly) (s : State) : State :=
  let d := wordsAt s (descWord s f) 2
  if gatherBad s f d then invalidDesc 0x0505 id f s else gatherSource id f d s

/-- Whether the descriptor of a due MGMT_TASK is an adapter update (TASK 1). -/
def isUpdate (s : State) (st : Nat) (op : PlanOp) : Bool :=
  match partOfStack s st with
  | none => false
  | some (_, p) => byteAt (wordAt s (wordOf s st none p.d.descBase + 2 * opBits op 15 0)) 1 == 1#8

/-- GATHER_TASK. -/
def execGatherTask (st : Nat) (op : PlanOp) (s : State) : Host.Outcome State Fault Refusal :=
  .next (if isUpdate s st op then s else issue 0x60 st op startGather s)

/-- GATHER_TASK_WRITE. -/
def execGatherTaskWrite (id : Nat) (s : State) : Host.Outcome State Fault Refusal := .next (writeHeld 0x60 id s)

/-! ### The adapter update task (R306, R307) -/

/-- The consolidation job whose updates a partition's tasks stage: that of the lowest slot that runs one (the
descriptor names no slot; DESIGN CHOICE, log 40). -/
def updateJob (s : State) (pk : Nat) : Option (Nat × Ctx × Job × Option Nat) :=
  match partAt s pk with
  | none => none
  | some p => p.steps.findSome? fun x =>
    if x.job = 2 ∧ !x.empty then
      match x.ctx, stepCtx s x with
      | some k, some c => c.job.map fun j => (k, c, j, x.replay)
      | _, _ => none
    else none

/-- Elements of a row of a matrix in row-major numbering: B rows are counted with their padding. -/
def rowElems (raw : Bytes) (x : Site) (b : Bool) : Nat := if b then 32 * rankBlocks raw else 32 * x.inBlocks

/-- Rows of a matrix. -/
def matrixRows (raw : Bytes) (x : Site) (b : Bool) : Nat := if b then x.outLen else rankOf raw

/-- The invalid event of the task, once in a pass. -/
def updateInvalid (id : Nat) (f : Fly) (s : State) : State :=
  endFly id (postOncePerPass f.part 0x060A 3 0
    (le 1 f.st ++ le 4 f.op.unit ++ le 4 f.op.offset ++ le 2 (opBits f.op 15 0)) s)

/-- The updates of one task: elements past RANK in a row of B, and beyond the matrix, are left (R307). -/
def updatesOf (f : Fly) (raw d : Bytes) (x : Site) (gs : List Dyad) : List Update :=
  let b := byteAt d 4 == 1#8
  let len := rowElems raw x b
  (gs.zipIdx).filterMap fun (g, k) =>
    let e := fld d 8 4 + k
    if matrixRows raw x b * len ≤ e ∨ (b ∧ rankOf raw ≤ e % len) then none
    else some ⟨fld d 2 2 * 2 ^ 34 + b2n b * 2 ^ 33 + e, g, f.st, f.op.pos⟩

/-- Stage updates: with the job, or for a replay's step with the replay (R308, R405). -/
def stageUpdates (k : Nat) (c : Ctx) (j : Job) (replay : Option Nat) (us : List Update) (s : State) : State :=
  match replay with
  | none => setCtx k (some { c with job := some { j with staged := j.staged ++ us } }) s
  | some n =>
    match replayAt s n with
    | none => s
    | some r =>
      { s with serve := { s.serve with
        replays := tset none s.serve.replays n (some { r with updates := r.updates ++ us }) } }

/-- An adapter update whose descriptor has been read: it reads its gradient block and stages (R307). -/
def updateSource (id : Nat) (f : Fly) (d : Bytes) (s : State) : State :=
  let f := { f with body := .desc d 1 }
  let g := srcWord s f
  if mustWait f s [g] then waitFor id f [g] s else
  let h := wordAt s g
  if byteAt h 2 != 0#8 || (rangeOf s f.st none (opBits f.op 79 48) (blockWords h)).isNone then updateInvalid id f s else
  let job := updateJob s f.part
  let site := job.bind fun x => siteAt x.2.2.1.form (fld d 2 2)
  let bad := match job with
    | none => false
    | some (_, _, j, _) =>
      match site with
      | none => true
      | some x => decide (matrixRows j.form x (byteAt d 4 == 1#8) * rowElems j.form x (byteAt d 4 == 1#8) ≤ fld d 8 4)
  if bad then updateInvalid id f s else
  withSource id f (span g (blockWords h)) (fun s =>
    match job, site with
    | some (k, c, j, n), some x =>
      let us := updatesOf f j.form d x (blockValues (wordsAt s g (blockWords h)))
      endFly id (stageUpdates k c j n us s)
    | _, _ => endFly id s) s

/-- An adapter update task at issue. -/
def startUpdate (id : Nat) (f : Fly) (s : State) : State :=
  let d := wordsAt s (descWord s f) 2
  if byteAt d 0 != 0x60#8 || decide (1 < (byteAt d 4).toNat) || !zeroAt d 5 3 || fld d 8 4 % 256 != 0 || !zeroAt d 12 52 then
    updateInvalid id f s
  else updateSource id f d s

/-- ADAPTER_UPDATE_TASK. -/
def execAdapterUpdateTask (st : Nat) (op : PlanOp) (s : State) : Host.Outcome State Fault Refusal :=
  .next (if isUpdate s st op then issue 0x60 st op startUpdate s else s)

end Sys2Proof.Machine
end

