-- ==== Sys2Proof/Machine/Command.lean ====
section
/-!
DEFINITION. How a fetched command runs: the order of its begin (R469), the checks of R475, tags and
freshness (R446 to R448), and its completion (R479 to R481).
-/

namespace Sys2Proof.Machine

/-- What running a command leads to. -/
inductive Ran where
  /-- SUCCESS with a result -/
  | ok (s : State) (result : Nat)
  /-- a failing status, with what took effect before it -/
  | err (f : Fail) (s : State)
  /-- it completes later -/
  | later (s : State)

/-- The commands of the exempt set, on the physical function only (R446). -/
def exempt : List Nat :=
  [0x0601, 0x0602, 0x0604, 0x0605, 0x0503, 0x0504, 0x0506, 0x0402, 0x0403, 0x0A01, 0x0A02]

/-- The tenant's MAC key (R445). -/
def macKey (t : Nat) (n : Tenant) : Bytes := kdf n.mn (n.rs ++ n.ts) (ascii "K9MAC" ++ le 2 t)

/-- The digest of a block, 32 zero bytes where there is none (R447). -/
def blockDigest (b : Bytes) : Bytes := if b.isEmpty then zeros 32 else sha256 b

/-- The tag of R447 under a MAC key. -/
def commandTag (key raw param data : Bytes) : Bytes :=
  (hmac key (ascii "K9CMD" ++ raw.take 10 ++ slice raw 40 8 ++ slice raw 12 4 ++ slice raw 32 8 ++
    blockDigest param ++ blockDigest data)).take 16

/-- Whether a tag sequence is fresh (R448). -/
def freshSeq (n : Tenant) (q : Nat) : Bool :=
  q != 0 && (decide (n.high < q) || (decide (n.high < q + 1024) && !n.seen.contains q))

/-- The tenant session after it has consumed a sequence: H and the record of the last 1,024 (R448). -/
def consumeSeq (n : Tenant) (q : Nat) : Tenant :=
  let h := max n.high q
  { n with high := h, seen := (q :: n.seen).filter fun x => decide (h < x + 1024) }

/-- A protected tenant. -/
def tenantOf (s : State) (t : Nat) : Option Tenant := tget none s.trust.tenants t

/-- Refuse a command's tag: the first refusal for a tenant in a turn posts TENANT_TAG_REJECTED (R453). -/
def rejectTag (t fn sub : Nat) (s : State) : State :=
  postOncePerTurn 0xD 0 0x0A01 2 t (le 2 t ++ le 4 fn ++ le 4 sub ++ le 4 1) s

/-- The tag of a command of a protected tenant: refused, or consumed (R448). -/
def checkTag (raw : Bytes) (fn : Nat) (c : CmdIn) (t : Nat) (n : Tenant) (s : State) : State × Option Fail :=
  let q := fld raw 4 4
  if commandTag (macKey t n) raw c.param c.data != (raw.drop 48).take 16 then
    (rejectTag t fn 1 s, some ⟨6, 1, 0⟩)
  else if !freshSeq n q then (rejectTag t fn 2 s, some ⟨6, 2, 0⟩)
  else ({ s with trust := { s.trust with tenants := tset none s.trust.tenants t (some (consumeSeq n q)) } }, none)

/-- Whether a command must carry a tag: on a virtual function always, on the physical function when it
names a protected tenant and is not exempt (R446). -/
def needsTag (raw : Bytes) (fn : Nat) (s : State) : Bool :=
  fn != 0 || ((tenantOf s (fld raw 8 2)).isSome && !exempt.contains (opcodeOf raw))

/-- Step 2 of R475: function and tenant, then tag and freshness. -/
def checkTenant (raw : Bytes) (fn : Nat) (c : CmdIn) (s : State) : State × Option Fail :=
  let t := fld raw 8 2
  if fn != 0 && (tget 0 s.trust.binds fn == 0 || tget 0 s.trust.binds fn != t) then (s, some ⟨6, 4, 0⟩)
  else match tenantOf s t with
    | none => (s, if fn != 0 then some ⟨6, 3, 0⟩ else none)
    | some n => if needsTag raw fn s then checkTag raw fn c t n s else (s, none)

/-- The refusal of an admin command outside queue 0 (R472). MODULE_RESET and STACK_RESET on a virtual function, which owns no
queue 0, are refused as R503 and R504 say (DEDUCED, log 71). -/
def queueFail (f : Fetched) : Option Fail :=
  let op := opcodeOf f.raw
  if op / 256 ≠ 1 ∨ f.sq = 0 then none
  else if f.fn ≠ 0 ∧ (op = 0x0106 ∨ op = 0x0107) then some ⟨6, 6, 0⟩
  else some ⟨3, 1, 0⟩

/-- Steps 1 to 4 of R475. In Hold every command but MODULE_RESET gets STATE_CONFLICT (R421). -/
def gate (f : Fetched) (c : CmdIn) (s : State) : State × Option Fail :=
  if s.phys.state < 3 then (s, some ⟨1, 1, 0⟩)
  else if s.phys.state = 4 ∧ opcodeOf f.raw ≠ 0x0106 then (s, some ⟨0xD, 0, 0⟩)
  else match checkTenant f.raw f.fn c s with
    | (s, some e) => (s, some e)
    | (s, none) =>
      if fld f.raw 3 1 ≠ 1 then (s, some ⟨4, 3, 0⟩) else (s, queueFail f)

/-- Whether a fetched command may begin: earlier commands of its queue have begun, and with FENCE set
they have completed (R469). Those of a queue that a function-level reset deleted hold up only one another (R505). -/
def mayBegin (s : State) (tag : Nat) (f : Fetched) : Bool :=
  (tvals s.host.fetched).all fun (t, g) =>
    decide (tag ≤ t) || g.sq != f.sq || (g.lost && !f.lost) || (g.begun && fld f.raw 2 1 % 2 != 1)

/-- Mark a fetched command begun. -/
def markBegun (tag : Nat) (f : Fetched) (s : State) : State :=
  { s with host := { s.host with fetched := tset none s.host.fetched tag (some { f with begun := true }) } }

/-- The opcodes of R491. -/
def opcodes : List Nat :=
  span 0x0101 7 ++ [0x0120, 0x0201, 0x0202] ++ span 0x0210 5 ++ [0x0220] ++ span 0x0301 8 ++ span 0x0401 3 ++
  span 0x0501 6 ++ span 0x0601 9 ++ [0x0701, 0x0702] ++ span 0x0710 3 ++ [0x0720] ++ span 0x0730 5 ++
  span 0x0801 5 ++ span 0x0901 3 ++ span 0x0A01 8 ++ [0x0B01]

/-- The commands that the physical function alone may issue (step 5 of R475). -/
def pfCommand (op : Nat) : Bool :=
  ([1, 2, 7, 8, 9, 0xB].contains (op / 256) && op != 0x0210) || op == 0x0601 || (decide (0x0A02 ≤ op) && decide (op ≤ 0x0A08))

/-- End a command with what running it led to. -/
def finish (tag : Nat) : Ran → State
  | .ok s r => complete tag 0 0 r s
  | .err f s => complete tag f.status f.sub f.result s
  | .later s => s

/-- Run the fetched command `c.tag`, whose opcode must be `op`: the checks of R475 in their order, then
its effect. A tag that names no such command, or a command that may not begin yet, changes nothing
(log 3). -/
def runCommand (op : Nat) (checks : Cmd → State → List Check) (act : Cmd → State → Ran)
    (c : CmdIn) (s : State) : State :=
  match tget none s.host.fetched c.tag with
  | none => s
  | some f =>
    if f.begun || opcodeOf f.raw != op || !mayBegin s c.tag f then s else
    match gate f c (markBegun c.tag f s) with
    | (s, some e) => complete c.tag e.status e.sub e.result s
    | (s, none) =>
      let cmd : Cmd := ⟨c.tag, f, c.param, c.data, needsTag f.raw f.fn s⟩
      match firstFail (checks cmd s) with
      | some e => complete c.tag e.status e.sub e.result s
      | none => finish c.tag (act cmd s)

end Sys2Proof.Machine
end

