-- ==== Sys2Proof/Machine/Service.lean ====
section
/-!
DEFINITION. The stacks' recompute services: exact values, paired samples and what they lead to (R178, R179, R223 to R227,
R237, R400, R402), and TRUE_STATS.
-/

namespace Sys2Proof.Machine

/-! ### Samples -/

/-- A paired sample of an element (R224): its key, q, burnish count and exponent, squared bound, accumulator, weight, the
deck's drift factor and whether that is valid, and 64 times D ÷ 2^q in physical polarity. -/
structure Sample where
  key : Nat
  q : Nat
  n : Nat
  p : Nat
  b2 : Nat
  acc : Int
  weight : Int
  drift : Nat
  sure : Bool
  exact64 : Int

/-- 64 times the difference of T_a and D ÷ 2^q under a factor word (R400). -/
def Sample.diff (x : Sample) (word : Nat) : Int := 64 * partT x.acc x.weight word x.drift x.p x.q - x.exact64

/-- 64 n times the difference of T_a and D ÷ (n × 2^q) under a factor word (R225, log 56). -/
def Sample.gap (x : Sample) (word : Nat) : Int := 64 * x.n * partT x.acc x.weight word x.drift x.p x.q - x.exact64

/-- Whether a sample lies beyond the tolerance under a factor word (R225, R187). -/
def Sample.beyond (x : Sample) (word : Nat) : Bool :=
  decide (1024 * 4096 * x.n ^ 2 * x.b2 < (x.gap word).natAbs ^ 2 * 40000 * 4 ^ x.q)

/-- The regressor z of R224, in FP64. -/
def Sample.z (x : Sample) : Dyad := f64Div ⟨x.n * x.exact64, x.q - 6⟩ ⟨x.drift, -9⟩

/-- The error of R400, in LSB. -/
def Sample.error (x : Sample) (word : Nat) : Dyad := ⟨x.diff word, x.q - 11⟩

/-- The number with which events name an element: physical column, or row. -/
def elemName (key : Nat) : Nat := if 1024 ≤ key % 4096 then key % 4096 - 1024 else key % 4096

/-- An accepted sample's error joins the element's window of 16 (R400). -/
def noteError (x : Sample) (s : State) : State :=
  let w := (tget none s.cal.stats x.key).getD .empty
  let w := { w with count := w.count + 1, ac := dadd w.ac (x.error (activeWord s x.key)), bound := w.bound + x.b2 }
  if w.count < 16 then { s with cal := { s.cal with stats := tset none s.cal.stats x.key (some w) } } else
  let s := { s with cal := { s.cal with stats := tset none s.cal.stats x.key none } }
  if rootExceeds w.ac w.bound then outlier (x.key / 4096) (elemName x.key) 0 s else s

/-- A pair joins the regression window; a full window yields a value, or makes the element Failing (R226, R227). -/
def regress (x : Sample) (s : State) : State :=
  let w := (windowOf s x.key).add x.weight x.acc x.z
  if w.count < w.size then setWindow x.key (some w) s else
  let s := setWindow x.key none s
  match w.solve with
  | none => failElement x.key 0 s
  | some v => takeValue x.key v s

/-- A rejected sample is a statistics outlier at once; two in one window make the element Failing (R225, R227, R400). -/
def rejectSample (x : Sample) (s : State) : State :=
  let s := outlier (x.key / 4096) (elemName x.key) 0 s
  let w := windowOf s x.key
  if 1 ≤ w.rejected then failElement x.key 1 (setWindow x.key none s)
  else setWindow x.key (some { w with rejected := w.rejected + 1 }) s

/-- One sample of a Candidate: the first 32 decide (R237). -/
def checkCandidate (x : Sample) (c : Cand) (s : State) : State :=
  let c := { c with seen := c.seen + 1, beyond := c.beyond + b2n (x.beyond c.value) }
  if c.seen < 32 then { s with cal := { s.cal with cands := tset none s.cal.cands x.key (some c) } }
  else endCandidate x.key c (decide (c.beyond ≤ 1)) s

/-- Use a sample by the state of its element (R221, R225). While the deck's drift factor is Provisional no comparison is made
with it (R187). -/
def takeSample (x : Sample) (s : State) : State :=
  if tget false s.cal.failing x.key then s else
  match tget none s.cal.cands x.key with
  | some c => if x.sure then checkCandidate x c s else s
  | none =>
    if !elemValid s x.key || !x.sure then regress x s
    else if x.beyond (activeWord s x.key) then rejectSample x s
    else noteError x (regress x s)

/-! ### Requests -/

/-- The chuck entry of a physical deck read by a request: in the bank in force, else in the other, else that of a deck
under verification. -/
def requestEntry (s : State) (r : Request) : Option Bytes :=
  let b := bankOf s r.part
  match chuckOf s b r.engine r.deck with
  | some e => some e
  | none =>
    match chuckOf s (1 - b) r.engine r.deck with
    | some e => some e
    | none => deckEntryOf s r.phys r.deck

/-- The element key that a sample of a request belongs to: the physical column, or the row (R224). -/
def requestKey (entry : Bytes) (r : Request) : Nat :=
  elemKey r.phys (if r.inputs.kind = 3 then 1024 + r.col
    else mapColumn entry (if 3000 ≤ r.col then r.col - 3000 + 512 else r.col))

/-- The sample that a finished request makes. -/
def sampleOf (s : State) (entry : Bytes) (r : Request) : Sample :=
  let v := exactOf s (some entry) r.inputs r.phys r.col
  let v64 := if 3000 ≤ r.col then v
    else if r.inputs.kind = 3 then 64 * v
    else 64 * (groupSign s r.phys r.deck (r.col / 64) * v)
  let n := 2 ^ r.inputs.burnish
  { key := requestKey entry r, q := formatShift entry, n := n, p := r.inputs.burnish
    b2 := bound2 r.inputs.kind n r.inputs.a8 false, acc := r.acc, weight := r.weight
    drift := driftIn (driftWord s r.phys r.deck), sure := elemValid s (elemKey r.phys (3000 + r.deck)), exact64 := v64 }

/-- A request of a stack whose value is available: 12 indices after its start (R178). -/
def readyRequest (s : State) (st id : Nat) (paired : Bool) : Option Request :=
  (serviceOf s st).find? fun r => r.id == id && r.paired == paired && r.started.any fun t => decide (t + 12 ≤ s.spin.tick)

/-- Remove a request from its stack's queue. -/
def dropRequest (st id : Nat) (s : State) : State := setService st ((serviceOf s st).filter fun r => r.id != id) s

/-- A tile of the shadow failed (R399): the partition's pass is abandoned, and the version must be installed again. -/
def shadowTile (st : Nat) (r : Request) (s : State) : State :=
  let e := (requestEntry s r).getD []
  let s := { s with model := { s.model with broken := (s.model.broken ++ [fld e 0 4 * 65536 + fld e 4 2]).eraseDups } }
  planTile [r.part] 9 st (shadowAddr e) s

/-- RECOMPUTE_RESULT: the exact value is delivered to its read and to the TRUE that waits for it (R179). -/
def recomputeResult (st id : Nat) (tileOk : Bool) (s : State) : State :=
  match readyRequest s st id false with
  | none => s
  | some r =>
    let s := dropRequest st id s
    if !tileOk then shadowTile st r s
    else deliverExact r (exactOf s (requestEntry s r) r.inputs r.phys r.col) s

/-- PAIRED_SAMPLE_RESULT: the sample is used (R224 to R227). -/
def pairedResult (st id : Nat) (s : State) : State :=
  match readyRequest s st id true with
  | none => s
  | some r =>
    let s := dropRequest st id s
    match requestEntry s r with
    | none => s
    | some e => endWarmups (takeSample (sampleOf s e r) s)

/-- PAIRED_SAMPLE_RESULT. -/
def execPairedSampleResult (st req : Nat) (s : State) : Host.Outcome State Fault Refusal := .next (pairedResult st req s)

/-! ### TRUE_STATS (R188) -/

/-- The last completed pass of the partition that holds a stack. -/
def lastPass (s : State) (st : Nat) : Option (Nat × Nat × Nat) := (partOfStack s st).bind fun x => x.2.last

/-- The checks of TRUE_STATS. -/
def trueStatsChecks (c : Cmd) (s : State) : List Check :=
  pfOnly c :: headChecks c .none .none 1 ++ [badField 40 (decide (15 < c.at 40 1)), inlineZero c 41 23,
    conflict (lastPass s (c.at 40 1)).isNone]

/-- TRUE_STATS. -/
def trueStats (c : Cmd) (s : State) : Ran :=
  match lastPass s (c.at 40 1) with
  | none => .ok s 0
  | some (a, b, d) => .ok s (satBits 24 a + 2 ^ 24 * satBits 24 b + 2 ^ 48 * satBits 16 d)

/-- TRUE_STATS. -/
def execTrueStats (c : CmdIn) (s : State) : Host.Outcome State Fault Refusal :=
  .next (runCommand 0x0720 trueStatsChecks trueStats c s)

end Sys2Proof.Machine
end

