-- ==== Sys2Proof/Machine/Registers.lean ====
section
/-!
DEFINITION. BAR0 and VF BAR0 (R458 to R462), doorbells (R358, R463, R464), and the data link
(R454, R456).
-/

namespace Sys2Proof.Machine

/-- What a meaning answers. -/
abbrev Result := Host.Outcome State Fault Refusal

/-! ### Reading registers -/

/-- Firmware has started or runs: the identity digest is valid from STATE 1 (R459). -/
def idDigest (s : State) : Nat := if s.phys.state = 0 then 0 else leNat ((b256 Config.identity).take 8)

/-- The set counters of four flags from bit `k` on, 8 bits each. -/
def setCounts (t : Tab Nat) (k n : Nat) : Nat := leNat ((span k n).map fun j => BitVec.ofNat 8 (tget 0 t j))

/-- A 64-bit register of BAR0 by its offset; none where the offset names no 64-bit register. -/
def wideRegister (s : State) (fn off : Nat) : Option Nat :=
  if off = 0x18 then some s.spin.count
  else if fn ≠ 0 then none
  else if off = 0x08 then some (idDigest s)
  else if off = 0x40 then some (s.bar.asqBase / 4096 * 4096)
  else if off = 0x48 then some (s.bar.acqBase / 4096 * 4096)
  else if off = 0x100 then some (s.phys.bootAddr / 4096 * 4096)
  else none

/-- The first word: PART, STEPPING, HIF_VERSION (R459, R462). -/
def partWord : Nat := Config.part + 256 * Config.stepping.toNat + 65536 * 1

/-- A 32-bit register of BAR0 by its offset; 0 at offsets not listed (R458, R459). -/
def narrowRegister (s : State) (off : Nat) : Nat :=
  if off = 0x00 then partWord
  else if off = 0x04 then 16 + 256 * 32 + 65536 * 31
  else if off = 0x10 then s.phys.state + 16 * s.phys.fatal + 256 * b2n s.bar.active
  else if off = 0x20 then s.spin.state + 256 * s.spin.source
  else if off = 0x24 then
    s.spin.power + (match s.spin.pend with
      | none => 0
      | some p => 4 * p.mode + 16)
  else if off = 0x50 then s.bar.asqExp + 256 * s.bar.acqExp
  else if off = 0x54 then b2n s.bar.enable
  else if off = 0x58 then b2n s.bar.active + 2 * b2n s.bar.error + 16 * s.bar.cause
  else if off = 0x80 then s.bar.hostFlags.toNat
  else if off = 0x84 then setCounts s.bar.hostSets 0 4
  else if off = 0x88 then setCounts s.bar.hostSets 4 2
  else if off = 0x90 then s.bar.syncFlags.toNat
  else if off = 0x94 then setCounts s.bar.syncSets 0 4
  else if off = 0x98 then setCounts s.bar.syncSets 4 2
  else if off = 0x108 then s.phys.bootLength
  else if off = 0x110 then s.phys.bootState + 256 * s.phys.bootError + 65536 * s.phys.bootAttempts
  else 0

/-- VF_TENANT of a virtual function (R462). -/
def vfTenant (s : State) (fn : Nat) : Nat :=
  let t := tget 0 s.trust.binds fn
  (if t = 0 then 0xFFFF else t) + 65536 * b2n (t != 0 && (tenantOf s t).isSome)

/-- A 32-bit register of function `fn`'s BAR0. -/
def narrowOf (s : State) (fn off : Nat) : Nat :=
  if fn = 0 then narrowRegister s off
  else if off = 0x00 then partWord
  else if off = 0x10 then s.phys.state
  else if off = 0x40 then vfTenant s fn
  else 0

/-- The word that a 32-bit read of a function's BAR0 returns: the latched high word where the offset is
the high half of a 64-bit register (R458). -/
def readWord (s : State) (fn off : Nat) : Nat :=
  match wideRegister s fn off with
  | some v => v % 2 ^ 32
  | none =>
    if (wideRegister s fn (off - 4)).isSome ∧ 4 ≤ off then tget 0 s.bar.latches (fn * 65536 + (off - 4))
    else narrowOf s fn off

/-! ### What memory reads of the BARs return -/

/-- The header of the black box in BAR4 (R419). -/
def boxHeader (s : State) : Bytes :=
  le 4 0x4242394B ++ le 4 (b2n s.ev.frozen + 16 * s.ev.cause) ++ le 4 (s.ev.written % 65536) ++ zeros 4 ++ le 8 s.ev.written ++
    le 4 s.ev.dropped ++ zeros 4 ++ le 8 s.ev.freezeCount

/-- The snapshot header in BAR4 (R465). -/
def snapHeader (s : State) : Bytes := le 4 0x4E53394B ++ le 4 s.ev.snapSeq ++ le 8 s.ev.snapCount

/-- A byte of BAR4 (R419, R465). The diagnostic regions read 0 before the first snapshot after a cold reset. -/
def windowByte (s : State) (a : Nat) : Byte :=
  if a < 0x1000 then byteAt (boxHeader s) a
  else if a < 0x201000 then byteAt (tget [] s.ev.box ((a - 0x1000) / 32)) ((a - 0x1000) % 32)
  else if s.ev.snapSeq = 0 then 0
  else if 0x800000 ≤ a ∧ a < 0x800040 then byteAt (snapHeader s) (a - 0x800000)
  else if 0x801000 ≤ a ∧ a < 0x841000 then
    byteAt (le 4 ((tget none s.ev.snapSources ((a - 0x801000) / 4)).getD 0xFFFFFFFF)) ((a - 0x801000) % 4)
  else if 0x841000 ≤ a ∧ a < 0x842000 then byteAt s.ev.snapQueues (a - 0x841000)
  else 0

/-- What a read of `size` bytes of a function's BAR returns: the words of BAR0 (R458), the bytes of BAR4 of the physical function,
which is memory (R457, R465), and 0 from doorbells (R463), from a register read of another size and from all else. -/
def barRead (s : State) (fn bar off size : Nat) : Nat :=
  if bar = 4 ∧ fn = 0 then leNat ((span off size).map (windowByte s))
  else if bar = 0 ∧ size = 4 ∧ off % 4 = 0 then readWord s fn off
  else 0

/-- A read of the low word of a 64-bit register latches its high word (R458). No access reaches a register while the link
is down. -/
def lowWordRead (fn off : Nat) (s : State) : State :=
  if !s.phys.link then s else
  match wideRegister s fn off with
  | none => s
  | some v =>
    { s with
      bar := { s.bar with latches := tset 0 s.bar.latches (fn * 65536 + off) (v / 2 ^ 32) }
      out := { s.out with reads := s.out.reads ++ [(fn, off, v % 2 ^ 32)] } }

/-- LOW_WORD_READ. -/
def execLowWordRead (fn off : Nat) (s : State) : Result := .next (lowWordRead fn off s)

/-! ### Writing registers -/

/-- A 64-bit value with one of its words replaced. -/
def setHalf (v word : Nat) (high : Bool) : Nat :=
  if high then v % 2 ^ 32 + word * 2 ^ 32 else v / 2 ^ 32 * 2 ^ 32 + word

/-- A write to a plain RW register of BAR0; the admin registers are kept while the pair is in use
(R459, R460). -/
def storeRegister (off v : Nat) (s : State) : State :=
  let bar := s.bar
  if off = 0x100 ∨ off = 0x104 then
    { s with phys := { s.phys with bootAddr := setHalf s.phys.bootAddr v (off == 0x104) } }
  else if off = 0x108 then { s with phys := { s.phys with bootLength := v } }
  else if bar.active then s
  else if off = 0x40 ∨ off = 0x44 then { s with bar := { bar with asqBase := setHalf bar.asqBase v (off == 0x44) } }
  else if off = 0x48 ∨ off = 0x4C then { s with bar := { bar with acqBase := setHalf bar.acqBase v (off == 0x4C) } }
  else if off = 0x50 then { s with bar := { bar with asqExp := bits v 4 0, acqExp := bits v 12 8 } }
  else s

/-- A write that reaches no register with behaviour of its own: a size other than 4 bytes, an unaligned
offset, BAR4 and virtual functions' registers are ignored (R458, R462, R465). -/
def registerWrite (fn bar off size : Nat) (v : BitVec 32) (s : State) : State :=
  if s.phys.link ∧ size = 4 ∧ off % 4 = 0 ∧ fn = 0 ∧ bar = 0 then storeRegister off v.toNat s else s

/-- REGISTER_WRITE. -/
def execRegisterWrite (fn bar off size : Nat) (v : BitVec 32) (s : State) : Result :=
  .next (registerWrite fn bar off size v s)

/-- A failed enable of the admin pair leaves it disabled with its cause (R460). -/
def adminError (cause : Nat) (s : State) : State :=
  { s with bar := { s.bar with enable := false, error := true, cause := cause } }

/-- A write of 1 to AQ_ENABLE (R460). While the pair is in use it changes nothing (DESIGN CHOICE, log 75). -/
def aqEnable (s : State) : State :=
  let b := s.bar
  if b.active || !s.phys.link then s
  else if b.asqExp < 4 ∨ 16 < b.asqExp ∨ b.acqExp < 4 ∨ 16 < b.acqExp then adminError 1 s
  else if b.asqBase % 4096 ≠ 0 ∨ b.acqBase % 4096 ≠ 0 then adminError 2 s
  else
    { s with
      bar := { b with enable := true, active := true, error := false, cause := 0 }
      host := { s.host with
        sqs := tset none s.host.sqs 0 (some ⟨b.asqBase, b.asqExp, 0, 0, 0, 0, false⟩)
        cqs := tset none s.host.cqs 0 (some ⟨b.acqBase, b.acqExp, 0, 0, 0, true, false⟩) } }

/-- AQ_ENABLE. -/
def execAqEnable (s : State) : Result := .next (aqEnable s)

/-- A write of 0 to AQ_ENABLE stops fetching; AQ_ACTIVE clears after the last fetched command (R460). -/
def aqDisable (s : State) : State := if !s.phys.link then s else finishAdmin { s with bar := { s.bar with enable := false } }

/-- AQ_DISABLE. -/
def execAqDisable (s : State) : Result := .next (aqDisable s)

/-- HOST_FLAGS_CLEAR. -/
def execHostFlagsClear (value : BitVec 32) (raced : BitVec 6) (s : State) : Result :=
  .next (if s.phys.link then clearHostFlags value raced s else s)

/-- SYNC_FLAGS_CLEAR. -/
def execSyncFlagsClear (value : BitVec 32) (raced : BitVec 6) (s : State) : Result :=
  .next (if s.phys.link then clearSyncFlags value raced s else s)

/-! ### Doorbells -/

/-- What a doorbell write finds. -/
inductive Bell where
  /-- no such queue, or another function's -/
  | stray
  /-- a value out of range -/
  | invalid
  | ok
deriving DecidableEq, Repr

/-- Whether `v` lies on the arc of a ring of `n` from `head` to `tail`, inclusive (R464). -/
def onArc (n head tail v : Nat) : Bool := decide (v < n) && decide ((v + n - head) % n ≤ (tail + n - head) % n)

/-- Judge a doorbell write of function `fn` on page `q`; kinds are numbered as in R463. -/
def judgeBell (s : State) (kind fn q v : Nat) : Bell :=
  if kind = 0 then
    match tget none s.host.sqs q with
    | none => .stray
    | some r => if r.owner ≠ fn then .stray else if v < 2 ^ r.exp then .ok else .invalid
  else if kind = 1 then
    match tget none s.host.cqs q with
    | none => .stray
    | some r => if r.owner ≠ fn then .stray else if onArc (2 ^ r.exp) r.head r.tail v then .ok else .invalid
  else if kind = 2 then
    match tget none s.host.evqs q with
    | none => .stray
    | some r => if fn ≠ 0 then .stray else if onArc (2 ^ r.exp) r.head r.tail v then .ok else .invalid
  else
    match tget none s.host.outqs q with
    | none => .stray
    | some r =>
      if r.owner ≠ fn then .stray
      else if v % 64 = 0 ∧ (r.head :: r.marks).contains v then .ok else .invalid

/-- A doorbell write: stray and invalid values are ignored and flagged, others are held and replace a
value not yet consumed (R358, R464). No doorbell is received while the link is down (R456). -/
def ringBell (kind fn q v : Nat) (s : State) : State :=
  if !s.phys.link then s else
  match judgeBell s kind fn q v with
  | .stray => setHostFlag flagStray s
  | .invalid =>
    postOncePerTurn 1 0 0x0103 2 (kind * 64 + q) (le 1 kind ++ le 4 q ++ le 4 v) (setHostFlag flagInvalid s)
  | .ok => { s with host := { s.host with bells := tset none s.host.bells (kind * 64 + q) (some v) } }

/-- SQ_TAIL. -/
def execSqTail (fn q v : Nat) (s : State) : Result := .next (ringBell 0 fn q v s)
/-- CQ_HEAD. -/
def execCqHead (fn q v : Nat) (s : State) : Result := .next (ringBell 1 fn q v s)
/-- EVQ_HEAD. -/
def execEvqHead (fn q v : Nat) (s : State) : Result := .next (ringBell 2 fn q v s)
/-- OUTQ_HEAD. -/
def execOutqHead (fn q v : Nat) (s : State) : Result := .next (ringBell 3 fn q v s)

/-- Record boundaries after the head has moved to `v`. -/
def dropMarks (v : Nat) (l : List Nat) : List Nat := if l.contains v then (l.dropWhile (· != v)).drop 1 else l

/-- The module consumes the latest value of each doorbell: a queue's new tail or head (R358). -/
def consumeBells (s : State) : State :=
  let h := s.host
  let bell := fun (kind q : Nat) => tget none h.bells (kind * 64 + q)
  { s with host := { h with
      bells := []
      sqs := h.sqs.map fun (q, o) => (q, o.map fun r => { r with tail := (bell 0 q).getD r.tail })
      cqs := h.cqs.map fun (q, o) => (q, o.map fun r => { r with head := (bell 1 q).getD r.head })
      evqs := h.evqs.map fun (q, o) => (q, o.map fun r => { r with head := (bell 2 q).getD r.head })
      outqs := h.outqs.map fun (q, o) => (q, o.map fun r =>
        match bell 3 q with
        | none => r
        | some v => { r with head := v, marks := dropMarks v r.marks }) } }

/-- DOORBELL_CONSUME. -/
def execDoorbellConsume (s : State) : Result := .next (consumeBells s)

/-! ### The host port (R454) -/

/-- The features of R454's table that a function offers or lacks. -/
inductive Feature where
  | srIov | ari | functionReset | errorReporting | dataExchange | ide | d3hot
  | intx | msi | msiX | ats | pageRequests | pasid | tph | ltr | aspmL0s | aspmL1 | l1Substates
  | resizableBar | expansionRom | hotPlug
deriving DecidableEq, Repr

/-- The functions of the module: the physical function and 31 virtual functions (R457). -/
def present (fn : Nat) : Bool := decide (fn ≤ 31)

/-- Whether a function offers a feature. Where configuration space has its registers, and what SR-IOV enables in it, is not the
model's (log 70). -/
def offers (fn : Nat) : Feature → Bool
  | .srIov | .ari | .ide | .d3hot => fn == 0
  | .functionReset => fn != 0 && present fn
  | .errorReporting | .dataExchange => present fn
  | .intx | .msi | .msiX | .ats | .pageRequests | .pasid | .tph | .ltr | .aspmL0s | .aspmL1 | .l1Substates
  | .resizableBar | .expansionRom | .hotPlug => false

/-- The Interrupt Pin register of every function. -/
def interruptPin : Nat := 0

/-! ### The data link -/

/-- Post LINK_CHANGED: kinds are changed, lost, returned (R494). -/
def postLink (kind : Nat) (s : State) : State :=
  postEvent 1 0 0x0102 2 (le 4 s.phys.rate ++ le 4 s.phys.width ++ le 1 kind) s

/-- A rate or width other than 64 GT/s on 16 lanes sets LINK_CHANGE (R454). -/
def flagRate (s : State) : State :=
  if s.phys.rate = 32 ∧ s.phys.width = 16 then s else setHostFlag flagLink s

/-- LINK_DOWN: the data link goes down without PERST# (R456). -/
def execLinkDown (s : State) : Result :=
  .next (if !s.phys.link then s else postLink 1 { s with phys := { s.phys with link := false } })

/-- Write what waited for the link: data and records, completions, then event records in sequence order, up to the free
entries of their queues (R456). -/
def flushWaiting (s : State) : State :=
  let c := s.host.waitCpl
  let e := s.host.waitEv
  let s := { s with
    out := { s.out with host := s.out.host ++ s.host.waitOut }
    host := { s.host with waitCpl := [], waitEv := [], waitOut := [] } }
  finishAdmin (e.foldl (fun s x => evqDeliver x.1 x.2 s) (c.foldl (fun s x => cqPut x.1 x.2 s) s))

/-- LINK_RETURN. -/
def execLinkReturn (rate width : Nat) (s : State) : Result :=
  .next (if s.phys.link || s.phys.perst || !s.phys.pwrGood then s else
    postLink 2 (flagRate (flushWaiting { s with phys := { s.phys with link := true, rate := rate, width := width } })))

/-- LINK_RATE_CHANGE. -/
def execLinkRateChange (rate width : Nat) (s : State) : Result :=
  .next (if s.phys.rate = rate ∧ s.phys.width = width ∨ !s.phys.link then s else
    postLink 0 (flagRate { s with phys := { s.phys with rate := rate, width := width } }))

end Sys2Proof.Machine
end

