-- ==== Sys2Proof/Machine/Link.lean ====
section
/-!
DEFINITION. Dritar ports and peers: training, hellos, attestation, sealed frames (R371 to R377, R385, R388,
R390 to R392, R438 to R441).
-/

namespace Sys2Proof.Machine

/-! ### Connections and the map -/

/-- A connection before anything has happened to it. -/
def Conn.blank : Conn :=
  { state := 0, waiting := false, identity := [], hello := [], helloSeq := 0, latency := 0, resent := 0, fec := 0,
    detaches := 0, rack := 0, retry := false, att := none, wire := none, kept := [], keptFor := [] }

/-- A connection. -/
def connAt (s : State) (k : Nat) : Conn := (tget none s.net.conns k).getD .blank

/-- Replace a connection. -/
def setConn (k : Nat) (c : Conn) (s : State) : State :=
  { s with net := { s.net with conns := tset none s.net.conns k (if c = .blank then none else some c) } }

/-- The map that a running partition uses (R380). -/
def mapFor (s : State) (pk : Nat) : Option FabMap :=
  match tget none s.net.old pk with
  | some m => m
  | none => s.net.map

/-- A map entry read from its 48 bytes. -/
def mapEntryAt (b : Bytes) (o : Nat) : MapEntry :=
  ⟨fld b o 2, fld b (o + 2) 1, fld b (o + 3) 1, fld b (o + 4) 2, fld b (o + 6) 2, fld b (o + 8) 2, slice b (o + 16) 32⟩

/-- A map read from its bytes. -/
def parseMap (b : Bytes) : FabMap :=
  ⟨fld b 0 2, (List.range (fld b 2 2)).map fun k => mapEntryAt b (16 + 48 * k), b⟩

/-- The map that has been applied everywhere; none before there is one (R376, R380). -/
def appliedMap (s : State) : Option FabMap := if s.net.applied.isEmpty then none else some (parseMap s.net.applied)

/-- SELF of the applied map; none without one. -/
def selfModule (s : State) : Option Nat := (appliedMap s).map (·.self)

/-- SELF as a frame names it: that of the map which the sending partition uses, or of the applied map (R372). -/
def selfFor (s : State) (part : Option Nat) : Nat :=
  match part with
  | none => (selfModule s).getD noModule
  | some pk => ((mapFor s pk).map (·.self)).getD noModule

/-- The entry of a module in a map. -/
def entryIn (m : Option FabMap) (module : Nat) : Option MapEntry :=
  m.bind fun m => m.entries.find? fun e => e.module == module

/-- The connections of an entry's route: those of its ports, or its peer session. -/
def MapEntry.conns (e : MapEntry) : List Nat :=
  if e.route = 0 then (List.range 15).filter fun p => e.board.testBit p
  else if e.route = 1 then [15 + e.rack]
  else [64 + e.module]

/-- The physical port of a connection of an entry. -/
def MapEntry.port (e : MapEntry) (k : Nat) : Nat := if k < 64 then k else 15 + e.rack

/-- Whether a connection is Attached to an entry's identity (R378). -/
def carries (s : State) (e : MapEntry) (k : Nat) : Bool :=
  (connAt s k).state == 4 && (connAt s k).identity == e.identity &&
    (decide (k < 64) || (connAt s (15 + e.rack)).state == 5)

/-- The connections that carry a route now; one of a bond carries it alone (R379). -/
def liveConns (s : State) (e : MapEntry) : List Nat := e.conns.filter (carries s e)

/-- The maps in force for a partition number: those of its running partitions, else the latest map (R380). -/
def mapsInForce (s : State) (p : Nat) : List (Option FabMap) :=
  match (parts s).filter fun x => x.1 % 16 == p with
  | [] => [s.net.map]
  | l => l.map fun x => mapFor s x.1

/-- Whether a connection's partner is mapped for some partition (R378, R391). -/
def connMapped (s : State) (k : Nat) : Bool :=
  (List.range 16).any fun p => (mapsInForce s p).any fun m => m.any fun m => m.entries.any fun e =>
    e.conns.contains k && e.identity == (connAt s k).identity && e.mask.testBit p

/-! ### Events -/

/-- Post a fabric event of a port or of a peer (R487, R392). -/
def connEvent (k code sev : Nat) (pay : Bytes) (s : State) : State :=
  if k < 64 then postEvent 9 k code sev (le 1 k ++ pay) s
  else postEvent 0xA (k - 64) code sev (le 2 (k - 64) ++ pay) s

/-! ### Frames -/

/-- Put a frame out on a port. -/
def putFrame (port : Nat) (b : Bytes) (s : State) : State :=
  { s with out := { s.out with frames := s.out.frames ++ [(port, b)] } }

/-- The frame's type, source, sequence, acknowledgement. -/
def frameType (b : Bytes) : Nat := (byteAt b 0).toNat % 16
/-- SRC. -/
def frameSrc (b : Bytes) : Nat := fld b 2 2 % 1024

/-- Payload of a frame: all but header and trailer. -/
def payloadOf (b : Bytes) : Bytes := (b.drop 16).take (b.length - 32)

/-- Whether an unsealed frame's CRC checks (R372). -/
def crcGood (b : Bytes) : Bool :=
  decide (32 ≤ b.length) && fld b (b.length - 16) 4 == crc32c (b.take (b.length - 16)) && zeroAt b (b.length - 12) 12

/-- The acknowledgement a connection sends: the latest frame received in order; before any frame has come, the number
before the first (DEDUCED, log 42). -/
def ackOf (c : Conn) : Nat := match c.wire with
  | some w => (w.recvE + 65535) % 65536
  | none => 65535

/-- The destination module of frames of a connection: a peer's number, or the one the partner's hello names. -/
def dstOf (s : State) (k : Nat) : Nat :=
  if 64 ≤ k then k - 64 else if (connAt s k).hello.isEmpty then noModule else fld (connAt s k).hello 34 2 % 1024

/-- The port of a connection: its own, or for a peer session the rack port of its route. -/
def portOf (s : State) (k : Nat) : Nat := if k < 64 then k else 15 + (connAt s k).rack

/-- The virtual channel of a frame type (R373); a nack goes with management (DESIGN CHOICE, log 42). -/
def channelOf (type : Nat) : Nat := if type = 3 then 1 else if type = 4 then 0 else if type = 5 then 3 else 2

/-- A frame header (R372). -/
def FrameOut.header (f : FrameOut) (s : State) (seq : Nat) : Bytes :=
  le 1 (f.type + 16 * channelOf f.type) ++ le 1 f.blocks ++ le 2 (selfFor s f.part) ++ le 2 f.dst ++ le 2 seq ++
  le 2 (ackOf (connAt s f.conn)) ++ le 4 f.daddr ++ le 1 f.flags ++ le 1 0

/-- The bytes of an unsealed frame (R372). -/
def FrameOut.unsealed (f : FrameOut) (s : State) : Bytes :=
  let b := f.header s f.seq ++ f.pay
  b ++ le 4 (crc32c b) ++ zeros 12

/-- Whether frames of a type are sealed (R372). -/
def sealedType (type : Nat) : Bool := decide (2 ≤ type) && decide (type ≤ 5)

/-- The frame key of a direction and generation (R440). -/
def frameKey (w : Wire) (dir gen : Nat) : Bytes := kdf salt0 w.key (ascii "K9DIR" ++ le 1 dir ++ le 4 gen)

/-- The nonce of extended sequence E in a direction (R440, R441). -/
def frameNonce (w : Wire) (dir e : Nat) : Bytes := (kdf salt0 w.key (ascii "K9SALT" ++ le 1 dir)).take 4 ++ le 8 e

/-- The additional data of a header (R441). -/
def headAad (h : Bytes) : Bytes := h.take 8 ++ zeros 2 ++ h.drop 10

/-- The direction of frames this module sends. -/
def Wire.out (w : Wire) : Nat := if w.lo then 0 else 1

/-- Seal a header and payload for sequence E. -/
def sealFrame (w : Wire) (e : Nat) (h pay : Bytes) : Bytes :=
  let r := gcmSeal (frameKey w w.out (e / 2 ^ 48)) (frameNonce w w.out e) (headAad h) pay
  h ++ r.1 ++ r.2

/-! ### Slots (R362, R363, R373) -/

/-- The definition of a partition of a loaded plan. -/
def partDefOf (s : State) (pk : Nat) : Option PartDef :=
  (planAt s (pk / 16)).bind fun p => p.d.parts.find? fun d => d.part == pk % 16

/-- The reservations of a partition on a link. -/
def reservations (s : State) (pk link : Nat) : List LinkRes :=
  match partDefOf s pk with
  | none => []
  | some d => d.links.filter fun r => r.link == link

/-- The slots that a partition holds on a link for plan data (R373), also once it has stopped, while its plan is loaded
(DESIGN CHOICE, log 61). -/
def slotsOn (s : State) (pk link : Nat) : Nat :=
  (((reservations s pk link).filter fun r => r.vc == 1).map fun r => popcount r.mask).sum

/-- The slots of a partition on a link for plan data that no frame has used in this index. -/
def slotsLeft (s : State) (pk link : Nat) : Nat :=
  slotsOn s pk link - (s.net.used.filter fun u => u == ⟨link, some pk, false⟩).length

/-- Use slots of a partition on a link in this index. -/
def useSlots (pk link n : Nat) (s : State) : State :=
  { s with net := { s.net with used := s.net.used ++ List.replicate n ⟨link, some pk, false⟩ } }

/-- The link code of a port (link reservation entry). -/
def portLink (port : Nat) : Nat := if port < 15 then 3 * 4096 + port else 4 * 4096 + (port - 15)

/-- The unreserved slots of a link that no frame has used in this index: those that no armed or running plan holds
(R363, R373). -/
def unreservedLeft (s : State) (link : Nat) : Nat :=
  let plans := (plansOf s).filter fun x => x.2.state == 1 || x.2.state == 2
  let held := plans.foldl (fun m x => x.2.d.parts.foldl (fun m d =>
    (d.links.filter fun r => r.link == link).foldl (fun m r => m ||| r.mask) m) m) 0
  16 - popcount (held % 65536) - (s.net.used.filter fun u => u == ⟨link, none, false⟩).length

/-- An unreserved slot of a link, where one is left. -/
def openSlot (s : State) (link : Nat) : Option (List SlotUse) :=
  if 0 < unreservedLeft s link then some [⟨link, none, false⟩] else none

/-- The lowest slot of a mask, 16 for none. -/
def firstSlot (mask : Nat) : Nat := ((List.range 16).find? fun k => mask.testBit k).getD 16

/-- The first slot that a partition holds on a link, with either `VC`, while no sync frame has used it in this index; a
slot for plan data counts as one of those too (R373). -/
def syncSlot (s : State) (pk link : Nat) : Option (List SlotUse) :=
  let first := sortBy (fun a b : LinkRes => decide (firstSlot a.mask ≤ firstSlot b.mask)) (reservations s pk link)
  let use : SlotUse := ⟨link, some pk, true⟩
  match first with
  | [] => none
  | r :: _ =>
    if s.net.used.contains use then none
    else if r.vc = 1 then (if 0 < slotsLeft s pk link then some [use, ⟨link, some pk, false⟩] else none)
    else some [use]

/-- The slot that a waiting frame takes now (R373, R374): resent plan data one of its partition's slots; a sync frame the
first slot of its partition or an unreserved one; any other frame an unreserved one. Plan data of a partition that holds
slots no more goes in unreserved ones (DESIGN CHOICE, log 61). -/
def slotFor (s : State) (w : Waiting) : Option (List SlotUse) :=
  let link := portLink w.frame.port
  match w.frame.part with
  | none => openSlot s link
  | some pk =>
    if w.frame.type = 3 ∧ 0 < slotsOn s pk link then
      (if 0 < slotsLeft s pk link then some [⟨link, some pk, false⟩] else none)
    else if w.frame.type = 4 ∧ w.again = false then
      match syncSlot s pk link with
      | some u => some u
      | none => openSlot s link
    else openSlot s link

/-! ### Sending (R372 to R374, R441) -/

/-- Send a sealed frame on a connection under the next sequence number, and keep it until it is acknowledged. -/
def emitSealed (f : FrameOut) (s : State) : State :=
  let c := connAt s f.conn
  match c.wire with
  | none => s
  | some w =>
    let b := sealFrame w w.sendE (f.header s (w.sendE % 65536)) f.pay
    let u := lastOf 256 (w.unacked ++ [⟨w.sendE, 1, b, f⟩])
    putFrame f.port b (setConn f.conn { c with wire := some { w with sendE := w.sendE + 1, unacked := u } } s)

/-- Send a kept frame again: its bytes are those it had, but for `ACK` (R441). -/
def emitAgain (f : FrameOut) (e : Nat) (s : State) : State :=
  let c := connAt s f.conn
  match c.wire with
  | none => s
  | some w =>
    match w.unacked.find? fun u => u.seq == e with
    | none => s
    | some u =>
      let b := u.frame.take 8 ++ le 2 (ackOf c) ++ u.frame.drop 10
      let us := w.unacked.map fun v => if v.seq = e then { v with tries := v.tries + 1 } else v
      putFrame f.port b (setConn f.conn { c with wire := some { w with unacked := us } } s)

/-- A frame leaves in its slot; the port counts those sent again (R391). -/
def emit (w : Waiting) (s : State) : State :=
  let f := w.frame
  let s := match w.num with
    | some e => emitAgain f e s
    | none => if sealedType f.type then emitSealed f s else putFrame f.port (f.unsealed s) s
  let c := connAt s f.port
  if w.again then setConn f.port { c with resent := min 65535 (c.resent + 1) } s else s

/-- The order in which waiting frames use slots: resent, sync, management, bulk (R373). -/
def Waiting.rank (w : Waiting) : Nat :=
  if w.again then 0 else if w.frame.type = 4 then 1 else if w.frame.type = 5 then 3 else 2

/-- Whether a waiting frame has been acknowledged in the meantime. -/
def Waiting.stale (w : Waiting) (s : State) : Bool :=
  w.num.any fun e => match (connAt s w.frame.conn).wire with
    | none => true
    | some x => !x.unacked.any fun u => u.seq == e

/-- Put a frame at the end of those that wait. -/
def queueFrame (w : Waiting) (s : State) : State := { s with net := { s.net with queue := s.net.queue ++ [w] } }

/-- One waiting frame leaves if it has a slot. New sealed frames of a connection follow those it sends again, and these
go in their order: `held` lists the connections at which one waits. -/
def pumpOne (s : State) (w : Waiting) (held : List Nat) : State × List Nat :=
  if w.stale s then (s, held)
  else if sealedType w.frame.type && held.contains w.frame.conn then (queueFrame w s, held)
  else match slotFor s w with
    | none => (queueFrame w s, if w.again then w.frame.conn :: held else held)
    | some u => (emit w { s with net := { s.net with used := s.net.used ++ u } }, held)

/-- The waiting frames of a list leave while they have slots. -/
def pumpAll : List Waiting → List Nat → State → State
  | [], _, s => s
  | w :: l, held, s =>
    let r := pumpOne s w held
    pumpAll l r.2 r.1

/-- The frames that wait at a port leave while there are slots for them. -/
def pump (port : Nat) (s : State) : State :=
  let mine := s.net.queue.filter fun w => w.frame.port == port
  pumpAll (sortBy (fun a b : Waiting => decide (a.rank ≤ b.rank)) mine) []
    { s with net := { s.net with queue := s.net.queue.filter fun w => w.frame.port != port } }

/-- The waiting frames of every port leave while there are slots for them. -/
def pumpPorts (s : State) : State := (List.range 23).foldl (fun s p => pump p s) s

/-- Hand a frame to its port. -/
def submit (f : FrameOut) (s : State) : State := pump f.port (queueFrame ⟨f, false, none⟩ s)

/-- Whether a connection has frames to send again. -/
def resending (s : State) (k : Nat) : Bool := s.net.queue.any fun w => w.again && w.frame.conn == k

/-- Send an unsealed frame: types 1 and 6 take no sequence number (DEDUCED, log 42). -/
def sendOpen (k type seq : Nat) (pay : Bytes) (s : State) : State :=
  submit ⟨k, portOf s k, type, 0, dstOf s k, seq, 0, 0, none, pay⟩ s

/-- Send a sealed frame of an attached connection that carries no blocks, for a partition or for none. -/
def sendSealed (k port type dst : Nat) (part : Option Nat) (pay : Bytes) (s : State) : State :=
  if (connAt s k).wire.isNone then s else submit ⟨k, port, type, 0, dst, 0, 0, 0, part, pay⟩ s

/-- The extended value of a 16-bit number nearest an expected one (R441). -/
def extend (expected n : Nat) : Nat :=
  let d := (n + 65536 - expected % 65536) % 65536
  if d < 32768 ∨ expected + d < 65536 then expected + d else expected + d - 65536

/-- Frames that an acknowledgement covers are no longer kept; the number it names lies `back` before the last one
sent. -/
def Wire.acked (w : Wire) (ack : Nat) : Wire :=
  let back := (w.sendE + 131071 - ack % 65536) % 65536
  { w with unacked := w.unacked.filter fun u => decide (w.sendE ≤ u.seq + back) }

/-- Send a nack that names the expected sequence number, in its `SEQ` field (DESIGN CHOICE, log 42). -/
def sendNack (k : Nat) (s : State) : State :=
  sendOpen k 6 (match (connAt s k).wire with
    | some w => w.recvE % 65536
    | none => 0) [] s

/-- The connection a received frame belongs to: a port's, or on a Switched port the peer session of its source
(R374, R377). -/
def connFor (s : State) (port : Nat) (b : Bytes) : Nat :=
  if (connAt s port).state = 5 then 64 + frameSrc b else port

/-- An unsealed frame: one whose CRC fails is dropped, with a nack of a connection in Hello or beyond (R374). -/
def openFrame (port : Nat) (b : Bytes) (f : State → State) (s : State) : State :=
  if crcGood b then f s
  else if 2 ≤ (connAt s (connFor s port b)).state then sendNack (connFor s port b) s else s

/-- Open a sealed frame of a connection: none, with a nack, when it fails its tag or is out of sequence (R374,
R441). -/
def openSealed (k : Nat) (b : Bytes) (s : State) : Option Bytes × State :=
  let c := connAt s k
  match c.wire with
  | none => (none, s)
  | some w =>
    let e := extend w.recvE (fld b 6 2)
    let dir := 1 - w.out
    let h := b.take 16
    match gcmOpen (frameKey w dir (e / 2 ^ 48)) (frameNonce w dir e) (headAad h) (payloadOf b) (b.drop (b.length - 16)) with
    | none => (none, sendNack k s)
    | some pay =>
      if e ≠ w.recvE ∨ b.length < 32 then (none, sendNack k s) else
      let w := { w with recvE := e + 1 }
      (some pay, setConn k { c with wire := some (w.acked (fld b 8 2)) } s)

/-! ### Detaching -/

/-- The peers whose route uses a rack port. -/
def peersOn (s : State) (port : Nat) : List Nat :=
  (tkeys s.net.conns).filter fun k => decide (64 ≤ k) && portOf s k == port

/-- The frames that a connection has sent without an acknowledgement, or not yet sent, in order (R385). -/
def undelivered (s : State) (k : Nat) : List FrameOut :=
  let sent := match (connAt s k).wire with
    | some w => w.unacked.map (·.body)
    | none => []
  sent ++ (s.net.queue.filter fun w => w.frame.conn == k && w.num.isNone && sealedType w.frame.type).map (·.frame)

/-- One connection drops its keys and posts DRITAR_DETACHED: causes hello loss, lock loss, retry limit, identity
change, disable (R375, R392). -/
def dropConn (k cause next : Nat) (s : State) : State :=
  let c := connAt s k
  let up := c.state == 4 || c.state == 5
  let kept := undelivered s k
  let s := { s with net := { s.net with queue := s.net.queue.filter fun w => w.frame.conn != k } }
  let s := setConn k { c with
    state := next, wire := none, att := none, retry := false
    kept := if kept.isEmpty then c.kept else kept
    keptFor := if kept.isEmpty then c.keptFor else c.identity
    detaches := if up then min 63 (c.detaches + 1) else c.detaches } s
  if up then connEvent k 0x0902 2 (le 1 cause) s else s

/-- A connection detaches: a port begins training again, a Switched port takes its peers with it, a peer session
ends. -/
def detach (k cause : Nat) (s : State) : State :=
  let peers := if (connAt s k).state = 5 then peersOn s k else []
  let s := peers.foldl (fun s p => dropConn p cause 0 s) s
  dropConn k cause (if k < 64 then 1 else 0) s

/-! ### Attestation (R438 to R440) -/

/-- Measurement 2: the firmware's header digest (R435). -/
def firmwareDigest (s : State) : Bytes := (s.phys.fw.map (·.digest)).getD (zeros 32)

/-- The running SVN. -/
def runningSvn (s : State) : Nat := (s.phys.fw.map (·.svn)).getD 0

/-- The fused security version: the number of set bits (R427). -/
def fusedSvn (s : State) : Nat := ((List.range 32).filter fun k => s.phys.svnFuses.getLsbD k).length

/-- Payload bytes of one slot of a port (R362). -/
def slotPayload (port : Nat) : Nat := if port < 15 then 1024 else 2048

/-- The root certificate that the firmware carries (R428). -/
def rootCert (s : State) : Bytes := (s.phys.fw.map (·.root)).getD []

/-- The certificate chain: root, intermediate, and the device certificate of the fuses (R427, R428). -/
def certChain (s : State) : Bytes :=
  rootCert s ++ (s.phys.fw.map (·.intermediate)).getD [] ++ Config.deviceCert.take 2000

/-- The ATT_CERT payloads for a port (R428, R438). -/
def certPayloads (s : State) (port : Nat) : List Bytes :=
  let chain := certChain s
  let size := slotPayload port - 36
  let n := ceilDiv chain.length size
  (List.range n).map fun i =>
    identityBytes ++ [0x10#8] ++ le 1 i ++ le 1 n ++ [0#8] ++ (chain.drop (size * i)).take size

/-- Begin an attestation attempt: state Attesting, certificate fragments sent. -/
def beginAttest (k : Nat) (s : State) : State :=
  let certs := certPayloads s (portOf s k)
  let s := setConn k { connAt s k with state := 3, retry := false, att := some ⟨certs, [], [], [], false, [], [], []⟩ } s
  certs.foldl (fun s p => sendOpen k 1 0 p s) s

/-- An attempt fails: DRITAR_ATTEST_FAILED, back to Hello until the retry (R375). A port measures its latency again;
the row gives no echo frames, so the measured value is free (R388; DESIGN CHOICE, log 61). -/
def failAttest (k : Nat) (s : State) : State :=
  let c := connAt s k
  let (r, s) := freeBits 18 s
  let s := setConn k { c with
    state := if k < 64 then 2 else 0, att := none, retry := true, latency := if k < 64 then r else c.latency } s
  connEvent k 0x0903 3 (padTo 8 c.identity) s

/-- Send ATT_ABORT with a cause, and fail. -/
def abortAttest (k cause : Nat) (s : State) : State :=
  failAttest k (sendOpen k 1 0 (identityBytes ++ [0x13#8] ++ le 1 cause) s)

/-- Whether this module is lo against an identity. -/
def isLo (identity : Bytes) : Bool := decide (leNat identityBytes.reverse < leNat identity.reverse)

/-- T of R438. -/
def attDigest (lo : Bool) (a : Att) : Bytes :=
  let mine := a.certs.flatten ++ a.offer
  let theirs := a.peerCerts.flatten ++ a.peerOffer
  sha256 (if lo then mine ++ theirs else theirs ++ mine)

/-- The partner's DER chain. -/
def Att.chain (a : Att) : Bytes := a.peerCerts.flatMap fun p => p.drop 36

/-- Whether every fragment of the partner's chain has arrived. -/
def Att.whole (a : Att) : Bool :=
  match a.peerCerts with
  | [] => false
  | p :: _ => decide (a.peerCerts.length = (byteAt p 34).toNat)

/-- Replace the attempt of a connection. -/
def setAtt (k : Nat) (a : Att) (s : State) : State := setConn k { connAt s k with att := some a } s

/-- Send ATT_SIGN once both offers are known. -/
def maybeSign (k : Nat) (s : State) : State :=
  match (connAt s k).att with
  | none => s
  | some a =>
    if a.signed || a.offer.isEmpty || a.peerOffer.isEmpty then s else
    let (r, s) := randomBytes 32 s
    let sig := Config.pssSign identityKey (ascii "K9ATT" ++ attDigest (isLo (connAt s k).identity) a) r
    setAtt k { a with signed := true } (sendOpen k 1 0 (identityBytes ++ [0x12#8] ++ zeros 7 ++ padTo 384 sig) s)

/-- Send ATT_OFFER: nonce, wrapped secret, SVN, measurement 2. -/
def sendOffer (k : Nat) (a : Att) (s : State) : State :=
  let (n, s) := randomBytes 32 s
  let (x, s) := randomBytes 32 s
  let (r, s) := randomBytes 32 s
  let offer := identityBytes ++ [0x11#8] ++ zeros 7 ++ n ++ padTo 384 (Config.oaepWrap a.chain x r) ++
    le 1 (runningSvn s) ++ zeros 7 ++ firmwareDigest s
  sendOpen k 1 0 offer (setAtt k { a with nonce := n, secret := x, offer := offer } s)

/-- An unsealed attestation message on a port: the connection it belongs to while that is Attesting, and its
payload, which carries the partner's identity and `kind`. -/
def attMessage (s : State) (port : Nat) (b : Bytes) (kind : Nat) : Option (Nat × Bytes × Att) :=
  let k := connFor s port b
  let c := connAt s k
  let p := payloadOf b
  match c.att with
  | some a =>
    if frameType b == 1 && c.state == 3 && p.take 32 == c.identity && (byteAt p 32).toNat == kind then
      some (k, p, a)
    else none
  | none => none

/-- A certificate fragment: in order only; the last one is followed by the chain check and the offer (R438,
R439). -/
def attCert (port : Nat) (b : Bytes) (s : State) : State :=
  match attMessage s port b 0x10 with
  | none => s
  | some (k, p, a) =>
    if (byteAt p 33).toNat ≠ a.peerCerts.length ∨ a.whole then s else
    let a := { a with peerCerts := a.peerCerts ++ [p] }
    let s := setAtt k a s
    if !a.whole then s else
    match Config.chainIdentity (rootCert s) a.chain with
    | none => abortAttest k 1 s
    | some i => if b256 i != (connAt s k).identity then abortAttest k 1 s else maybeSign k (sendOffer k a s)

/-- ATT_CERT. -/
def execAttCert (port : Nat) (frame : Bytes) (s : State) : Result := .next (openFrame port frame (attCert port frame) s)

/-- An offer: SVN check, unwrapping (R439). -/
def attOffer (port : Nat) (b : Bytes) (s : State) : State :=
  match attMessage s port b 0x11 with
  | none => s
  | some (k, p, a) =>
    if !a.whole || !a.peerOffer.isEmpty then s
    else if (byteAt p 456).toNat < fusedSvn s then abortAttest k 2 s
    else match Config.oaepUnwrap identityKey (slice p 72 384) [] with
      | none => abortAttest k 4 s
      | some x => maybeSign k (setAtt k { a with peerOffer := p, peerSecret := padTo 32 x } s)

/-- ATT_OFFER. -/
def execAttOffer (port : Nat) (frame : Bytes) (s : State) : Result := .next (openFrame port frame (attOffer port frame) s)

/-- K of R440. -/
def partnerKey (lo : Bool) (a : Att) : Bytes :=
  let n := slice a.peerOffer 40 32
  let t := attDigest lo a
  kdf (if lo then a.nonce ++ n else n ++ a.nonce) (if lo then a.secret ++ a.peerSecret else a.peerSecret ++ a.secret)
    (ascii "K9DRITAR" ++ t)

/-- A connection becomes Attached: keys, DRITAR_ATTACHED, frames kept for the same identity sent again (R375,
R385). -/
def attached (k : Nat) (a : Att) (s : State) : State :=
  let c := connAt s k
  let lo := isLo c.identity
  let kept := if c.keptFor == c.identity then c.kept else []
  let s := setConn k { c with
    state := 4, att := none, wire := some ⟨partnerKey lo a, lo, 0, 0, []⟩, kept := [], keptFor := [] } s
  let s := connEvent k 0x0901 1 (padTo 8 c.identity ++ le 4 c.latency) s
  let s := if connMapped s k ∨ 64 ≤ k then s else postEvent 9 k 0x0904 2 (le 1 k ++ padTo 8 c.identity) s
  let queue := kept.map fun f => (⟨{ f with port := portOf s k }, true, none⟩ : Waiting)
  pump (portOf s k) { s with net := { s.net with queue := s.net.queue ++ queue } }

/-- The partner's signature. The partner's SVN is compared again with the fused version, which SVN_COMMIT may have raised since the
offer (R430, R439). -/
def attSign (port : Nat) (b : Bytes) (s : State) : State :=
  match attMessage s port b 0x12 with
  | none => s
  | some (k, p, a) =>
    if a.offer.isEmpty || a.peerOffer.isEmpty then s
    else if (byteAt a.peerOffer 456).toNat < fusedSvn s then abortAttest k 2 s
    else if Config.chainVerify a.chain (ascii "K9ATT" ++ attDigest (isLo (connAt s k).identity) a) (slice p 40 384) then
      attached k a (maybeSign k s)
    else abortAttest k 3 s

/-- ATT_SIGN. -/
def execAttSign (port : Nat) (frame : Bytes) (s : State) : Result := .next (openFrame port frame (attSign port frame) s)

/-- ATT_ABORT fails the attempt. -/
def attAbort (port : Nat) (b : Bytes) (s : State) : State :=
  match attMessage s port b 0x13 with
  | none => s
  | some (k, _, _) => failAttest k s

/-- ATT_ABORT. -/
def execAttAbort (port : Nat) (frame : Bytes) (s : State) : Result := .next (openFrame port frame (attAbort port frame) s)

/-- ATTEST_TIMEOUT: the attempt has taken over 200 ms. -/
def execAttestTimeout (port : Nat) (s : State) : Result :=
  .next (if (connAt s port).state = 3 then failAttest port s else s)

/-- Begin the attestation of a peer that the applied map routes over a Switched rack port (R377). A session under
another identity ends first; one under the same identity goes on, over the port that the map names. -/
def startPeer (s : State) (e : MapEntry) : State :=
  let k := 64 + e.module
  let c := connAt s k
  if e.route ≠ 2 ∨ (connAt s (15 + e.rack)).state ≠ 5 then s
  else if c.identity = e.identity ∧ (c.state ≠ 0 ∨ c.retry) then setConn k { c with rack := e.rack } s
  else
    let s := if c.state = 0 then s else dropConn k 3 0 s
    beginAttest k (setConn k { connAt s k with identity := e.identity, rack := e.rack, retry := false } s)

/-- Begin the attestation of the peers of the applied map (R377). -/
def startPeers (s : State) : State :=
  match appliedMap s with
  | none => s
  | some m => m.entries.foldl startPeer s

/-- ATTEST_RETRY: 1 s after a failure a new attempt begins. -/
def execAttestRetry (port : Nat) (s : State) : Result :=
  let c := connAt s port
  .next (if !c.retry then s
    else if port < 64 then
      (if c.state = 2 ∧ !c.hello.isEmpty then beginAttest port s else setConn port { c with retry := false } s)
    else startPeers (setConn port { c with retry := false } s))

/-! ### Ports -/

/-- DRITAR_PORT_ENABLE's checks. -/
def portEnableChecks (c : Cmd) (s : State) : List Check :=
  let m := c.at 40 4
  let stop := c.at 44 1 = 1 ∧ s.spin.source = 2 ∧ m.testBit s.spin.port ∧ (plansOf s).any fun (_, p) => p.state != 0
  pfOnly c :: headChecks c .none .none 1 ++
  [ badField 40 (m == 0 || decide (2 ^ 23 ≤ m)), badField 44 (decide (1 < c.at 44 1)), inlineZero c 45 19,
    conflict stop ]

/-- DRITAR_PORT_ENABLE (R390). -/
def portEnable (c : Cmd) (s : State) : Ran :=
  let ps := (List.range 23).filter fun p => (c.at 40 4).testBit p
  if c.at 44 1 = 0 then
    let todo := ps.filter fun p => (connAt s p).state == 0
    let fresh' := todo.filter fun p => !(connAt s p).waiting
    let s := todo.foldl (fun s p => setConn p { connAt s p with waiting := true } s) s
    if todo.isEmpty then .ok s 0
    else .later { s with net := { s.net with enables := s.net.enables ++ [(c.tag, todo, fresh'.length)] } }
  else
    let todo := ps.filter fun p => (connAt s p).state != 0 || (connAt s p).waiting
    let s := todo.foldl (fun s p =>
      let peers := if (connAt s p).state = 5 then peersOn s p else []
      let s := peers.foldl (fun s q => dropConn q 4 0 s) s
      let s := dropConn p 4 0 s
      setConn p { connAt s p with waiting := false } s) s
    .ok s todo.length

/-- Ports that no longer wait to train leave the enables; one without ports completes (R390). -/
def finishEnables (s : State) : State :=
  let left := s.net.enables.map fun (t, ps, n) => (t, ps.filter fun p => (connAt s p).waiting, n)
  let s := { s with net := { s.net with enables := left.filter fun x => !x.2.1.isEmpty } }
  (left.filter fun x => x.2.1.isEmpty).foldl (fun s x => complete x.1 0 0 x.2.2 s) s

/-- DRITAR_PORT_ENABLE. -/
def execDritarPortEnable (c : CmdIn) (s : State) : Result :=
  .next (finishEnables (runCommand 0x0901 portEnableChecks portEnable c s))

/-- The lowest enabled port that waits begins training (R375). -/
def trainNext (s : State) : State :=
  match (List.range 23).find? fun p => (connAt s p).waiting with
  | none => s
  | some p => finishEnables (setConn p { connAt s p with state := 1, waiting := false } s)

/-- PORT_TRAINING_START. -/
def execPortTrainingStart (s : State) : Result := .next (trainNext s)

/-- A list of numbers in ascending order. -/
def ascending (l : List Nat) : List Nat := sortBy (fun a b => decide (a ≤ b)) l

/-- The median of round trips as a one-way latency: each halved and rounded to nearest; of an even number the
mean of the middle two, rounded to nearest (R388; DESIGN CHOICE, log 42). -/
def latencyOf (trips : List Nat) : Nat :=
  let l := ascending (trips.map fun t => (t + 1) / 2)
  let n := l.length
  if n % 2 = 1 then l.getD (n / 2) 0 else (l.getD (n / 2 - 1) 0 + l.getD (n / 2) 0 + 1) / 2

/-- FEC_LOCK: the latency is measured from at most 64 round trips, and hellos begin (R375, R388). -/
def execFecLock (port : Nat) (roundTrips : List Nat) (s : State) : Result :=
  let c := connAt s port
  .next (if c.state = 1 then setConn port { c with state := 2, latency := latencyOf (roundTrips.take 64) % 2 ^ 18 } s else s)

/-- TRAINING_TIMEOUT: training restarts; the port stays in Training (R375). -/
def trainAgain (port : Nat) (s : State) : State :=
  let c := connAt s port
  if c.state = 1 then setConn port { c with state := 1, att := none, wire := none } s else s

/-- TRAINING_TIMEOUT. -/
def execTrainingTimeout (port : Nat) (s : State) : Result := .next (trainAgain port s)

/-- FEC_LOCK_LOSS: an Attached or Switched port detaches (R375). -/
def execFecLockLoss (port : Nat) (s : State) : Result :=
  let c := connAt s port
  .next (if c.state = 4 ∨ c.state = 5 then
    detach port 1 (setConn port { c with fec := min 65535 (c.fec + 1) } s) else s)

/-- The hello payload (R376). -/
def helloPayload (s : State) (port seq : Nat) : Bytes :=
  identityBytes ++ le 1 0 ++ le 1 port ++ le 2 ((selfModule s).getD 0xFFFF) ++ le 4 seq ++ le 1 Config.part ++ zeros 23

/-- HELLO_TIMER: a port in Hello or beyond sends a hello (R376). -/
def execHelloTimer (port : Nat) (s : State) : Result :=
  let c := connAt s port
  .next (if 2 ≤ c.state then
    sendOpen port 1 0 (helloPayload s port c.helloSeq) (setConn port { c with helloSeq := (c.helloSeq + 1) % 2 ^ 32 } s)
    else s)

/-- HELLO_TIMEOUT: 4 ms without a valid hello (R375). -/
def execHelloTimeout (port : Nat) (s : State) : Result :=
  let c := connAt s port
  .next (if c.state = 4 ∨ c.state = 5 then detach port 0 s else s)

/-- A received hello (R375, R376). -/
def hello (port : Nat) (b : Bytes) (s : State) : State :=
  let p := payloadOf b
  let c := connAt s port
  let kind := (byteAt p 32).toNat
  if frameType b != 1 || p.length != 64 || decide (1 < kind) || !zeroAt p 41 23 || decide (c.state < 2) then s else
  let id := p.take 32
  let now := { c with hello := p, identity := id }
  if c.state = 2 then
    if kind = 1 then startPeers (setConn port { now with state := 5, retry := false } s)
    else if c.retry then setConn port now s
    else beginAttest port (setConn port now s)
  else if c.state = 3 then (if id = c.identity then setConn port now s else s)
  else if id ≠ c.identity ∨ (kind = 1) ≠ (c.state = 5) then detach port 3 s
  else
    let w := c.wire.map fun w => w.acked (fld b 8 2)
    setConn port { now with wire := w } s

/-- DRITAR_HELLO. -/
def execDritarHello (port : Nat) (frame : Bytes) (s : State) : Result := .next (openFrame port frame (hello port frame) s)

/-! ### Retries (R374) -/

/-- Send every kept frame from a sequence number on again, in order, or detach a connection whose frame has been sent
8 times; the attestation of a peer that still appears in the map begins anew (R377). -/
def resendFrom (k n : Nat) (s : State) : State :=
  let c := connAt s k
  match c.wire with
  | none => s
  | some w =>
    let e := extend w.sendE n
    let again := w.unacked.filter fun u => decide (e ≤ u.seq)
    if again.any fun u => decide (8 ≤ u.tries) then startPeers (detach k 2 s) else
    let rest := s.net.queue.filter fun x => !(x.frame.conn == k && x.num.isSome)
    let queue := again.map fun u => (⟨u.body, true, some u.seq⟩ : Waiting)
    pump (portOf s k) (setConn k { c with wire := some { w with unacked := again } }
      { s with net := { s.net with queue := queue ++ rest } })

/-- DRITAR_NACK. -/
def execDritarNack (port : Nat) (frame : Bytes) (s : State) : Result :=
  .next (openFrame port frame (fun s =>
    if frameType frame = 6 then resendFrom (connFor s port frame) (fld frame 6 2) s else s) s)

/-! ### Status -/

/-- The reach class of a port of the C2X: 2,750 ns are 4,400 logic cycles of 0.625 ns (R45, R381, R507). The
latency, and with it the class, changes only when the port returns to Hello. -/
def reachClass (port latency : Nat) : Nat :=
  if port < 15 then 0 else if !Config.singleMode (port - 15) then 3 else if 4400 < latency then 5 else 4

/-- DRITAR_PORT_STATUS's checks. -/
def portStatusChecks (c : Cmd) (_ : State) : List Check :=
  pfOnly c :: headChecks c .none .any 1 ++
  [ badField 40 (decide (22 < c.at 40 1)), inlineZero c 41 23,
    badLength 32 (c.dataLen != 0 && decide (c.dataLen < 64)) ]

/-- DRITAR_PORT_STATUS (R391). Codewords that cannot be corrected come between the commands of the table too: on a port that is not
Disabled the counter has risen by a free number since it was read last (DESIGN CHOICE, log 61). -/
def portStatus (c : Cmd) (s : State) : Ran :=
  let p := c.at 40 1
  let (lost, s) := freeBits 16 s
  let n := connAt s p
  let n := { n with fec := if n.state = 0 then n.fec else satBits 16 (n.fec + lost) }
  let s := setConn p n s
  let s' := if c.dataLen = 0 then s else writeData c (padTo 64 n.hello) s
  .ok s' (n.state + 8 * b2n (connMapped s p) + 16 * reachClass p n.latency + 2 ^ 8 * (n.latency % 2 ^ 18) + 2 ^ 26 * satBits 16 n.resent +
    2 ^ 42 * satBits 16 n.fec + 2 ^ 58 * satBits 6 n.detaches)

/-- DRITAR_PORT_STATUS. -/
def execDritarPortStatus (c : CmdIn) (s : State) : Result := .next (runCommand 0x0903 portStatusChecks portStatus c s)

end Sys2Proof.Machine
end

