-- ==== Sys2Proof/Machine/Send.lean ====
section
/-!
DEFINITION. Transfers between stacks and modules: GRAIN_SEND and its frames (R362 to R370), DRITAR_SEND (R382 to
R386), plan data from partners, and FABRIC_MAP_SET (R378, R380).
-/

namespace Sys2Proof.Machine

/-! ### GRAIN_SEND -/

/-- GRAIN_SEND reads its source and makes its frames (R367). -/
def startGrain (id : Nat) (f : Fly) (s : State) : State :=
  let n := opBits f.op 11 0
  let t := opBits f.op 15 12
  let g := srcWord s f
  withSource id f (span g n) (fun s =>
    let ws := toWords (wordOf s t none (opBits f.op 47 16)) (wordsAt s g n)
    let frames := (List.range (ceilDiv n 512)).map fun k =>
      ({ id := s.net.nextFrame + k, fly := id, part := f.part, chan := channelKey f, at_ := f.st, target := t
         route := route f.st t, words := (ws.drop (512 * k)).take 512, fill := f.op.fill
         ready := s.spin.tick + 1, landed := false } : GrainFrame)
    setFly id (some { f with wait := .none, body := .send frames.length })
      { s with net := { s.net with frames := s.net.frames ++ frames, nextFrame := s.net.nextFrame + frames.length } }) s

/-- GRAIN_SEND. -/
def execGrainSend (st : Nat) (op : PlanOp) (s : State) : Host.Outcome State Fault Refusal :=
  .next (issue 0x30 st op startGrain s)

/-- Whether frame `a` goes before frame `b` on a link: in issue order of their sends, then by transfer channel,
then in word order (R367). -/
def grainBefore (s : State) (a b : GrainFrame) : Bool :=
  let issueOf := fun g : GrainFrame => ((flyAt s g.fly).map (·.issue)).getD 0
  if issueOf a ≠ issueOf b then decide (issueOf a < issueOf b)
  else if a.chan ≠ b.chan then decide (a.chan < b.chan)
  else decide (a.id < b.id)

/-- Whether a frame is still at the stack that sends it. -/
def GrainFrame.home (g : GrainFrame) : Bool := g.at_ == g.chan / 16

/-- Whether a frame wants its next link in this index; none starts while the spindle is Coasting (spec/12,
coinciding happenings). -/
def grainWants (s : State) (g : GrainFrame) : Bool :=
  !g.landed && !g.route.isEmpty && decide (g.ready ≤ s.spin.tick) && !(s.spin.state == 3 && g.home)

/-- Whether a frame can cross its next link now: a slot is left, and no earlier frame of the partition waits
for it (R367, R368). -/
def grainCan (s : State) (g : GrainFrame) : Bool :=
  let link := g.route.headD 0
  grainWants s g && decide (0 < slotsLeft s g.part link) &&
    !s.net.frames.any fun h => grainWants s h && h.part == g.part && h.route.headD 0 == link && grainBefore s h g

/-- The stack at the far end of a torus link (R27, R67). -/
def linkEnd (link : Nat) : Nat :=
  let st := link / 4
  let d := link % 4
  if d = 0 then (st + 1) % 4 + 4 * (st / 4) else if d = 1 then (st + 3) % 4 + 4 * (st / 4)
  else if d = 2 then (st + 4) % 16 else (st + 12) % 16

/-- Whether a stack is being reset (R504). -/
def inReset (s : State) (st : Nat) : Bool := s.host.stackResets.any fun r => r.2.testBit st

/-- Whether a torus link retrains: the stack at one of its ends is being reset (R504, R506). -/
def linkRetrains (s : State) (link : Nat) : Bool := inReset s (link / 4) || inReset s (linkEnd link)

/-- A frame has crossed its next link at the end of this index (R368). -/
def GrainFrame.cross (g : GrainFrame) (tick : Nat) : GrainFrame :=
  let rest := g.route.drop 1
  { g with at_ := linkEnd (g.route.headD 0), route := rest, ready := tick + 1, landed := rest.isEmpty }

/-- A send waits for its link, or waits for it no more; a wait for full words stands (R370). -/
def linkWait (id : Nat) (w : Bool) (s : State) : State :=
  match flyAt s id with
  | none => s
  | some f =>
    match f.wait with
    | .none => if w then setFly id (some { f with wait := .link }) s else s
    | .link => if w then s else setFly id (some { f with wait := .none }) s
    | _ => s

/-- Note frames that a grain link failed to deliver in this turn (R370). -/
def linkErrors (link n : Nat) (s : State) : State :=
  { s with net := { s.net with errors := tset 0 s.net.errors link (tget 0 s.net.errors link + n) } }

/-- A frame arrives at the far end of its link; one whose CRC fails, or whose link retrains, is sent again in the next slot, and
its send waits for the link until it arrives (R370, R506). -/
def grainArrival (id : Nat) (crcOk : Bool) (s : State) : State :=
  match s.net.frames.find? fun g => g.id == id with
  | none => s
  | some g =>
    if !grainCan s g then s else
    let link := g.route.headD 0
    let s := useSlots g.part link 1 s
    if crcOk && !linkRetrains s link then
      linkWait g.fly false { s with net := { s.net with
          frames := s.net.frames.map fun h => if h.id = id then h.cross s.spin.tick else h } }
    else linkWait g.fly true (linkErrors link 1 s)

/-- GRAIN_FRAME_ARRIVAL. -/
def execGrainFrameArrival (frame : Nat) (crcOk : Bool) (s : State) : Result := .next (grainArrival frame crcOk s)

/-- Frames at their target that may be written in this index: of each transfer channel those up to the first
that must wait for empty words (R368). -/
def landable (s : State) : List GrainFrame :=
  let due := sortBy (grainBefore s) (s.net.frames.filter fun g => g.landed && decide (g.ready ≤ s.spin.tick) && !inReset s g.target)
  (due.foldl (fun (acc : List GrainFrame × List Nat) g =>
    if acc.2.contains g.chan then acc
    else (acc.1 ++ [g], if g.fill && g.words.any (fun w => fullAt s w.1) then acc.2 ++ [g.chan] else acc.2)) ([], [])).1

/-! ### DRITAR_SEND -/

/-- The target module of a DRITAR_SEND. -/
def sendModule (op : PlanOp) : Nat := opBits op 15 6

/-- DRITAR_SEND reads its source and cuts it into blocks of 1 KiB (R382). -/
def startDritar (id : Nat) (f : Fly) (s : State) : State :=
  let n := opBits f.op 5 0
  let g := srcWord s f
  withSource id f (span g (32 * n)) (fun s =>
    let blocks := (List.range n).map fun k => wordsAt s (g + 32 * k) 32
    let x : Send := { fly := id, part := f.part, st := f.st, module := sendModule f.op, dst := opBits f.op 47 16
                      fill := f.op.fill, issue := s.spin.tick, blocks := blocks, hub := 0, hubTick := s.spin.tick
                      hubBefore := 0, sent := 0 }
    setFly id (some { f with wait := .none, body := .send n }) { s with net := { s.net with sends := s.net.sends ++ [x] } }) s

/-- DRITAR_SEND. -/
def execDritarSend (st : Nat) (op : PlanOp) (s : State) : Host.Outcome State Fault Refusal :=
  .next (issue 0x31 st op startDritar s)

/-- The connections that a send of a partition to a module may use now: none while the route is not Attached and
mapped (R378, R379, R385). -/
def routeOf (s : State) (pk module : Nat) : List Nat :=
  match entryIn (mapFor s pk) module with
  | none => []
  | some e => if e.mask.testBit (pk % 16) then liveConns s e else []

/-- The physical port of a connection under a partition's map. -/
def connPort (s : State) (pk module k : Nat) : Nat :=
  match entryIn (mapFor s pk) module with
  | none => k
  | some e => e.port k

/-- The frames of a hub link that fail in this index, of those that slots carry. -/
def failedOn (s : State) (link slots : Nat) : Nat := min slots (s.net.failed.filter (· == link)).length

/-- Failed frames of a hub link are accounted for. -/
def noteFailed (link n : Nat) (s : State) : State :=
  if n = 0 then s else
  linkErrors link n { s with net := { s.net with failed := s.net.failed.diff (List.replicate n link) } }

/-- Blocks of a send cross the stack-to-hub link in this index: 8 to a slot; a frame that fails takes one slot more. The
answer says whether one failed (R370, R382). -/
def crossHub (x : Send) (s : State) : Send × Bool × State :=
  let link := 4096 + x.st
  let left := slotsLeft s x.part link
  let need := ceilDiv (x.blocks.length - x.hub) 8
  let lost := if need = 0 then 0 else failedOn s link left
  let used := min left (need + lost)
  let n := min (x.blocks.length - x.hub) (8 * (used - lost))
  let before := if x.hubTick < s.spin.tick then x.hub else x.hubBefore
  ({ x with hub := x.hub + n, hubBefore := before, hubTick := s.spin.tick }, decide (0 < lost),
    noteFailed link lost (useSlots x.part link used s))

/-- Send one plan-data frame of `n` blocks from block `sent` on. -/
def sendBlocks (x : Send) (k port n : Nat) (s : State) : State :=
  emit ⟨⟨k, port, 3, n, x.module, 0, x.dst + 32 * x.sent, b2n x.fill, some x.part,
    ((x.blocks.drop x.sent).take n).flatten⟩, false, none⟩ s

/-- Whether a new frame of a send can leave on a connection now: a slot is left, and no frame of the connection waits to
be sent again (R374). -/
def portReady (s : State) (x : Send) (k : Nat) : Bool :=
  decide (0 < slotsLeft s x.part (portLink (connPort s x.part x.module k))) && !resending s k

/-- Blocks of a send leave through its ports in this index: dealt in turn over a bond, past a port that has no slot left,
while a port has one (R379, R382, R386). -/
def crossPort (ks : List Nat) : Nat → Send → State → Send × State
  | 0, x, s => (x, s)
  | fuel + 1, x, s =>
    if x.hubBefore ≤ x.sent then (x, s) else
    let turn := x.sent % ks.length
    match (ks.drop turn ++ ks.take turn).find? (portReady s x) with
    | none => (x, s)
    | some k =>
      let port := connPort s x.part x.module k
      let n := if port < 15 then 1 else min 2 (x.hubBefore - x.sent)
      crossPort ks fuel { x with sent := x.sent + n } (sendBlocks x k port n (useSlots x.part (portLink port) 1 s))

/-- One index of a DRITAR_SEND: held while its route is down, FABRIC_ROUTE_DOWN once per target in a pass (R385); it
waits too while its hub link fails to deliver (R370). It is complete when its last frame is sent (DEDUCED, log 43). -/
def moveSend (s : State) (x : Send) : State :=
  match flyAt s x.fly with
  | none => s
  | some f =>
    if s.spin.tick ≤ x.issue then s else
    let (x, failed, s) := crossHub x s
    let ks := routeOf s x.part x.module
    let put := fun (x : Send) (s : State) =>
      { s with net := { s.net with sends := s.net.sends.map fun y => if y.fly = x.fly then x else y } }
    if ks.isEmpty then
      put x (postOncePerPass x.part 0x0905 2 x.module (le 2 x.module) (setFly x.fly (some { f with wait := .link }) s))
    else
      let (x, s) := crossPort ks x.blocks.length x s
      if x.blocks.length ≤ x.sent then
        endFly x.fly { s with net := { s.net with sends := s.net.sends.filter fun y => y.fly != x.fly } }
      else put x (setFly x.fly (some { f with wait := if failed then .link else .none }) s)

/-- Every DRITAR_SEND, in issue order and then by transfer channel (R367); none starts a frame while the spindle
is Coasting. -/
def moveSends (s : State) : State :=
  if s.spin.state = 3 then s else
  let before := fun a b : Send =>
    let ch := fun x : Send => ((flyAt s x.fly).map channelKey).getD 0
    decide (a.issue < b.issue) || (a.issue == b.issue && decide (ch a ≤ ch b))
  (sortBy before s.net.sends).foldl moveSend s

/-! ### Plan data from partners (R384) -/

/-- The map entry of a connection's attached partner with an identity that matches (R378). -/
def partnerEntry (s : State) (m : Option FabMap) (k : Nat) : Option MapEntry :=
  m.bind fun m => m.entries.find? fun e => e.conns.contains k && e.identity == (connAt s k).identity

/-- Note a discarded plan-data frame: DRITAR_NO_RECEIVER is posted at the end of the turn with the count. -/
def noReceiver (src st : Nat) (s : State) : State :=
  let k := 65536 + src * 16 + st
  { s with net := { s.net with errors := tset 0 s.net.errors k (tget 0 s.net.errors k + 1) } }

/-- A plan-data frame: opened, placed by `DADDR`, held at the hub for its way to the stack (R372, R382, R384). -/
def planData (port : Nat) (b : Bytes) (s : State) : State :=
  let k := connFor s port b
  if frameType b ≠ 3 ∨ (connAt s k).state ≠ 4 then s else
  match openSealed k b s with
  | (none, s) => s
  | (some pay, s) =>
    let (st, a) := dritarDest (fld b 10 4)
    let n := 32 * (byteAt b 1).toNat
    match partOfStack s st, placeOf s st none a with
    | some (pk, _), some (g, room) =>
      let ok := (partnerEntry s (mapFor s pk) k).any fun e => e.mask.testBit (pk % 16)
      if !ok || decide (room < n) || decide (pay.length < 32 * n) then noReceiver (frameSrc b) st s else
      let x : Incoming := { src := frameSrc b, st := st, words := toWords g (pay.take (32 * n))
                            fill := (byteAt b 14).toNat.testBit 0, ready := s.spin.tick + 1, landed := false }
      { s with net := { s.net with incoming := s.net.incoming ++ [x] } }
    | _, _ => noReceiver (frameSrc b) st s

/-- DRITAR_PLAN_DATA. -/
def execDritarPlanData (port : Nat) (frame : Bytes) (s : State) : Result := .next (planData port frame s)

/-- Whether a frame waits at the hub for its way to a stack. -/
def atHub (s : State) (x : Incoming) : Bool := !x.landed && decide (x.ready ≤ s.spin.tick)

/-- Blocks that can cross to a stack in this index: 8 to a slot of the receiving partition that no failed frame takes. -/
def roomIn (s : State) (st : Nat) : Nat :=
  match partOfStack s st with
  | some (pk, _) => 8 * (slotsOn s pk (2 * 4096 + st) - failedOn s (2 * 4096 + st) (slotsOn s pk (2 * 4096 + st)))
  | none => 0

/-- Blocks at the hub cross to their stacks in this index, in the order of their arrival (R382, R386); a hub frame that
fails goes again in a later slot (R370). -/
def crossIn (s : State) : State :=
  let r := s.net.incoming.foldl (fun (acc : List Incoming × List (Nat × Nat)) x =>
    let done := ((acc.2.find? fun y => y.1 == x.st).map (·.2)).getD 0
    let n := x.words.length / 32
    if !atHub s x then (acc.1 ++ [x], acc.2)
    else
      let fits := decide (done + n ≤ roomIn s x.st)
      (acc.1 ++ [if fits then { x with landed := true, ready := s.spin.tick + 1 } else x],
       (x.st, done + n) :: acc.2.filter fun y => y.1 != x.st)) ([], [])
  let lost := (List.range 16).filter fun st => s.net.incoming.any fun x => x.st == st && atHub s x
  let s := { s with net := { s.net with incoming := r.1 } }
  lost.foldl (fun s st => match partOfStack s st with
    | some (pk, _) => noteFailed (2 * 4096 + st) (failedOn s (2 * 4096 + st) (slotsOn s pk (2 * 4096 + st))) s
    | none => s) s

/-- The frames that may be written in this index, with their places in the list: of each source and stack those up
to the first that must wait (R368, R384). -/
def landableIn (s : State) : List (Nat × Incoming) :=
  let due := (s.net.incoming.zipIdx.map fun (x, i) => (i, x)).filter fun y => y.2.landed && decide (y.2.ready ≤ s.spin.tick)
  (due.foldl (fun (acc : List (Nat × Incoming) × List (Nat × Nat)) y =>
    if acc.2.contains (y.2.src, y.2.st) then acc
    else (acc.1 ++ [y], if y.2.fill && y.2.words.any (fun w => fullAt s w.1) then acc.2 ++ [(y.2.src, y.2.st)] else acc.2))
    ([], [])).1

/-- Frames whose stack belongs to no running partition any more are discarded (R384). -/
def dropStrays (s : State) : State :=
  let stray := s.net.incoming.filter fun x => (partOfStack s x.st).isNone
  let s := { s with net := { s.net with incoming := s.net.incoming.filter fun x => (partOfStack s x.st).isSome } }
  stray.foldl (fun s x => noReceiver x.src x.st s) s

/-- The instance number of a grain link: torus links, then stack-to-hub and hub-to-stack links (R487). -/
def linkInstance (link : Nat) : Nat :=
  if link < 4096 then link else if link < 8192 then 64 + link % 4096 else 80 + link % 4096

/-- The events of a turn that has ended: GRAIN_LINK_ERRORS of each link, DRITAR_NO_RECEIVER of each source
module (R370, R384, R392). -/
def turnReports (s : State) : State :=
  let es := s.net.errors
  let s := { s with net := { s.net with errors := [] } }
  let s := (es.filter fun x => decide (x.1 < 65536)).foldl (fun s (l, n) =>
    postEvent 0xC (linkInstance l) 0x0908 2 (le 4 l ++ le 4 n) s) s
  let far := es.filter fun x => decide (65536 ≤ x.1)
  ((far.map fun x => (x.1 - 65536) / 16).eraseDups).foldl (fun s m =>
    let mine := far.filter fun x => (x.1 - 65536) / 16 == m
    postEvent 0xB 0 0x0906 2 (le 2 m ++ le 1 ((mine.headD (0, 0)).1 % 16) ++ le 4 (mine.map (·.2)).sum) s) s

/-! ### Management and bulk frames -/

/-- A frame of type 2 or 5 from an attached partner: authenticated and put in order; what it asks for lies with
its payload, whose layout the spec does not give (log 44). -/
def keepFrame (type port : Nat) (b : Bytes) (s : State) : State :=
  let k := connFor s port b
  if frameType b ≠ type ∨ (connAt s k).state ≠ 4 then s else
  match openSealed k b s with
  | (none, s) => s
  | (some pay, s) => { s with net := { s.net with inbox := s.net.inbox ++ [(frameSrc b, type, pay)] } }

/-- DRITAR_MANAGEMENT. -/
def execDritarManagement (port : Nat) (frame : Bytes) (s : State) : Result := .next (keepFrame 2 port frame s)

/-- DRITAR_BULK. -/
def execDritarBulk (port : Nat) (frame : Bytes) (s : State) : Result := .next (keepFrame 5 port frame s)

/-! ### FABRIC_MAP_SET (R378, R380, R383) -/

/-- Checks of one entry (fabric map entry). -/
def mapEntryChecks (b : Bytes) (k : Nat) : List Check :=
  let o := 16 + 48 * k
  let e := mapEntryAt b o
  [ badParam o (decide (1023 < e.module) || e.module == fld b 0 2 ||
      (List.range k).any fun j => (mapEntryAt b (16 + 48 * j)).module == e.module),
    badParam (o + 2) (decide (2 < e.route)),
    badParam (o + 3) (decide ((if e.route = 0 then 0 else 7) < e.rack)),
    badParam (o + 4) (if e.route = 0 then decide (2 ^ 15 ≤ e.board) || popcount e.board == 0 || decide (2 < popcount e.board)
      else e.board != 0),
    badParam (o + 8) (e.route != 2 && e.switchNs != 0),
    badParam (o + 10) (!zeroAt b (o + 10) 6) ]

/-- Whether a DRITAR_SEND of a plan fails R383 under a map. -/
def sendRefused (m : Option FabMap) (d : PartDef) (st : Nat) (op : PlanOp) : Bool :=
  let holds := fun link => d.links.any fun r => r.link == link && r.vc == 1
  op.code == 0x31 &&
    (m.map (·.self) == some (sendModule op) ||
     match entryIn m (sendModule op) with
     | none => true
     | some e => !e.mask.testBit d.part || !holds (4096 + st) || !((e.conns.map e.port).all fun p => holds (portLink p)))

/-- Whether a plan fails R383 under a map. -/
def fabricRefuses (m : Option FabMap) (p : PlanDef) : Bool :=
  p.parts.any fun d => d.cuts.any fun (st, ops) => ops.any (sendRefused m d st)

/-- FABRIC_MAP_SET's checks. -/
def fabricChecks (c : Cmd) (s : State) : List Check :=
  let n := fld c.param 2 2
  pfOnly c :: headChecks c .some .none 1 ++ [inlineZero c 40 24] ++
  [ badParam 0 (decide (1023 < fld c.param 0 2)), badParam 2 (decide (1023 < n)), badParam 4 (!zeroAt c.param 4 12) ] ++
  (if c.param.length < 16 + 48 * n then [] else (List.range n).flatMap (mapEntryChecks c.param)) ++
  [ badLength 12 (c.paramLen != 16 + 48 * n),
    conflict ((plansOf s).any fun (_, p) =>
      (p.state == 1 || p.state == 2) && fabricRefuses (some (parseMap c.param)) p.d) ]

/-- The map has been applied everywhere: FABRIC_MAP_APPLIED, and the command completes (R380). -/
def mapApplied (tag result : Nat) (s : State) : State :=
  let raw := (s.net.map.map (·.raw)).getD []
  let n := (s.net.map.map (·.entries.length)).getD 0
  let s := { s with net := { s.net with staged := none, applied := raw } }
  let s := postEvent 0xB 0 0x0907 1 (le 2 ((selfModule s).getD 0x3FF) ++ le 4 n ++ le 8 result) s
  startPeers (complete tag 0 0 result s)

/-- FABRIC_MAP_SET: running partitions keep the map they use until their next boundary; a map not yet applied
everywhere is replaced and its command ends ABORTED. -/
def fabricSet (c : Cmd) (s : State) : Ran :=
  let run := (parts s).map (·.1)
  let s := match s.net.staged with
    | some (tag, _) => complete tag 0xA 1 0 s
    | none => s
  let old := run.foldl (fun t pk => tset none t pk (some (mapFor s pk))) s.net.old
  let s := { s with net := { s.net with map := some (parseMap c.param), old := old, staged := some (c.tag, run) } }
  .later (if run.isEmpty then mapApplied c.tag 0 s else s)

/-- FABRIC_MAP_SET. -/
def execFabricMapSet (c : CmdIn) (s : State) : Result := .next (runCommand 0x0902 fabricChecks fabricSet c s)

/-- A partition reaches a boundary, or stops running: the latest map applies to it (R380). -/
def applyMapTo (pk : Nat) (s : State) : State :=
  let s := { s with net := { s.net with old := tset none s.net.old pk none } }
  match s.net.staged with
  | none => s
  | some (tag, left) =>
    if !left.contains pk then s else
    let left := left.filter (· != pk)
    let s := { s with net := { s.net with staged := some (tag, left) } }
    if left.isEmpty then mapApplied tag s.spin.count s else s

end Sys2Proof.Machine
end

