-- ==== Sys2Proof/Machine/Sync.lean ====
section
/-!
DEFINITION. Barriers across units, partitions and modules (R349 to R361, R389).
-/

namespace Sys2Proof.Machine

/-! ### Events -/

/-- The partition of a plan that defines a barrier, as a partition key. -/
def barrierPart (key : Nat) (p : Plan) (b : Nat) : Option Nat :=
  (p.d.parts.find? fun d => d.barriers.any fun x => x.id == b).map fun d => partKey key d.part

/-- BARRIER_LAP_OVERRUN at the first refusal on a barrier in a pass, and its flag (R352, R361). -/
def noteLap (pk b unit gen : Nat) (s : State) : State :=
  syncEvent pk 0 0x0223 2 b (le 2 b ++ le 2 unit ++ le 2 gen) s

/-- BARRIER_EXCESS at the first discard on a barrier in a pass; its flag is set at the discard (R361). -/
def noteExcess (pk b source gen : Nat) (s : State) : State :=
  postOncePerPass pk 0x0224 2 b (le 2 b ++ le 2 source ++ le 2 gen) s

/-- One more refused arriving operation for SYNC_QUERY (R352). -/
def countRefusal (key b : Nat) (s : State) : State :=
  match planAt s key with
  | none => s
  | some p =>
    let c := barrierAt p b
    setBarrier key p b { c with refused := min 65535 (c.refused + 1) } s

/-! ### BARRIER_ARRIVE -/

/-- The barrier of a BARRIER_ARRIVE or BARRIER_WAIT. -/
def barrierOf (op : PlanOp) : Nat := opBits op 11 0

/-- The arrival frame of R389. -/
def arrivalPayload (b gen scope : Nat) : Bytes := padTo 32 (le 2 b ++ le 2 gen ++ le 1 scope)

/-- Send an arrival to every module that the arriving partition maps; a route that is down takes none (R355,
R385, R389). -/
def sendArrivals (pk b gen scope : Nat) (s : State) : State :=
  match mapFor s pk with
  | none => s
  | some m => (m.entries.filter fun e => e.mask.testBit (pk % 16)).foldl (fun s e =>
      match liveConns s e with
      | [] => s
      | k :: _ => sendSealed k (e.port k) 4 e.module (some pk) (arrivalPayload b gen scope) s) s

/-- BARRIER_ARRIVE at issue: an arrival for generation a, which then advances; counted, refused or discarded here,
and sent to the partners of a barrier of scope 2 or 3 (R350 to R352, R389). -/
def startArrive (id : Nat) (f : Fly) (s : State) : State :=
  let b := barrierOf f.op
  match planOfFly s f with
  | none => s
  | some (key, p) =>
    let a := tget 0 p.arrivals (arrivalKey f b)
    let scope := ((barrierDef p b).map (·.scope)).getD 0
    let p := { p with arrivals := tset 0 p.arrivals (arrivalKey f b) ((a + 1) % 65536) }
    let s := setPlan key (some p) s
    let s := if 2 ≤ scope then sendArrivals f.part b a scope s else s
    let d := genDist a (barrierAt p b).g
    let (s, refused) := arrive key p b a s
    if refused then
      noteLap f.part b (unitField f.op) a (countRefusal key b
        (setFly id (some { f with wait := .arrival, body := .barrier b a }) s))
    else if 2 ≤ d then noteExcess f.part b (selfFor s (some f.part)) a s
    else s

/-- BARRIER_ARRIVE. -/
def execBarrierArrive (st : Nat) (op : PlanOp) (s : State) : Host.Outcome State Fault Refusal :=
  .next (issue 0x50 st op startArrive s)

/-- A refused arrival tries again: it is counted once its distance is 0 or 1 (R352). -/
def retryArrive (id : Nat) (f : Fly) (s : State) : State :=
  match f.body, planOfFly s f with
  | .barrier b a, some (key, p) =>
    match arrive key p b a s with
    | (_, true) => s
    | (s, false) => endFly id s
  | _, _ => s

/-! ### BARRIER_WAIT -/

/-- Indices after the issue of the last arrival by which a release has reached every unit (R354). -/
def releaseBound (s : State) (pk scope : Nat) : Nat :=
  let sw := match mapFor s pk with
    | none => 0
    | some m => ((m.entries.filter fun e => e.route == 2 && e.mask.testBit (pk % 16)).map (·.switchNs)).foldl max 0
  if scope = 0 then 3 else if scope = 1 then 4 else if scope = 2 then 8 else 1 + ceilDiv (3000 + sw) 160

/-- The own clock of a generation's release; none while it is not released, `some none` when that lies further
back than the copy remembers. -/
def releaseOf (c : Barrier) (gen : Nat) : Option (Option Nat) :=
  let d := genDist gen c.g
  if d ≤ 32767 then none else some ((c.released.find? fun r => r.1 == gen).map (·.2))

/-- BARRIER_WAIT at issue: it completes at once when the release of its unit's latest arrival has reached the unit
under R354; otherwise it waits (R353). -/
def startWait (id : Nat) (f : Fly) (s : State) : State :=
  let b := barrierOf f.op
  match planOfFly s f with
  | none => s
  | some (_, p) =>
    let gen := (tget 0 p.arrivals (arrivalKey f b) + 65535) % 65536
    let scope := ((barrierDef p b).map (·.scope)).getD 0
    let wait := setFly id (some { f with wait := .release gen, body := .barrier b gen }) s
    match releaseOf (barrierAt p b) gen with
    | none => wait
    | some none => s
    | some (some t) => if t + releaseBound s f.part scope ≤ s.spin.tick then s else wait

/-- BARRIER_WAIT. -/
def execBarrierWait (st : Nat) (op : PlanOp) (s : State) : Host.Outcome State Fault Refusal :=
  .next (issue 0x51 st op startWait s)

/-- A release reaches a waiting unit (R353, R354). -/
def releaseReach (id : Nat) (s : State) : State :=
  match flyAt s id with
  | none => s
  | some f =>
    match f.body, f.wait, planOfFly s f with
    | .barrier b gen, .release _, some (_, p) =>
      match releaseOf (barrierAt p b) gen with
      | none => s
      | some (some t) => if t < s.spin.tick then endFly id s else s
      | some none => endFly id s
    | _, _, _ => s

/-- BARRIER_RELEASE_REACH. -/
def execBarrierReleaseReach (id : Nat) (s : State) : Result := .next (releaseReach id s)

/-! ### Release (R351) -/

/-- Release generations of a copy at the end of an index, while c0 equals `PARTICIPANTS`. -/
def releaseAll (need tick : Nat) : Nat → Barrier → Barrier
  | 0, c => c
  | n + 1, c =>
    if c.c0 < need then c else
    releaseAll need tick n
      { c with g := (c.g + 1) % 65536, c0 := c.c1, c1 := 0, released := ((c.g, tick) :: c.released).take 512 }

/-- The releases of one plan at the end of an index. -/
def releasePlan (tick : Nat) (p : Plan) : Plan :=
  { p with barriers := (tvals p.barriers).foldl (fun t (b, c) =>
      match barrierDef p b with
      | none => t
      | some d => tset none t b (some (releaseAll d.need tick 3 c))) p.barriers }

/-- The releases of every plan at the end of an index. -/
def releaseBarriers (s : State) : State :=
  (plansOf s).foldl (fun s (k, p) =>
    if p.barriers.isEmpty then s else setPlan k (some (releasePlan s.spin.tick p)) s) s

/-! ### Arrivals from partners (R389) -/

/-- The plan whose copy of a barrier the module means: the running plan's, that of the successor once it has begun to take
over, else the armed or halted one's (R360). -/
def barrierPlan (s : State) (b : Nat) : Option (Nat × Plan) :=
  let defs := (plansOf s).filter fun (_, p) => p.state != 0 && (barrierDef p b).isSome
  let run := defs.filter fun x => x.2.state == 2
  match run.find? fun x => run.any fun y => x.2.replaces.contains y.1 with
  | some x => some x
  | none => match run with
    | x :: _ => some x
    | [] => defs.head?

/-- Whether the copy is held for arrivals of partners: scope 2 or 3. -/
def farBarrier (s : State) (b : Nat) : Option (Nat × Plan) :=
  (barrierPlan s b).bind fun x => if 2 ≤ ((barrierDef x.2 b).map (·.scope)).getD 0 then some x else none

/-- An arrival for which the module holds no copy of scope 2 or 3 is discarded: the flag, and where a plan defines the
barrier the event with that plan's pass (R349, R361). -/
def discardFar (src b gen : Nat) (s : State) : State :=
  let s := setSyncFlag 1 s
  match barrierPlan s b with
  | none => s
  | some (key, p) => match barrierPart key p b with
    | none => s
    | some pk => noteExcess pk b src gen s

/-- Count an arrival from a partner: the answer says whether it is refused and waits. -/
def farArrive (src b gen : Nat) (s : State) : State × Bool :=
  match farBarrier s b with
  | none => (discardFar src b gen s, false)
  | some (key, p) =>
    let d := genDist gen (barrierAt p b).g
    let (s, refused) := arrive key p b gen s
    if refused ∨ d ≤ 1 then (s, refused) else
    ((match barrierPart key p b with
      | some pk => noteExcess pk b src gen s
      | none => s), false)

/-- A barrier arrival frame (R375, R389). Its payload names no unit, so the unit of a BARRIER_LAP_OVERRUN is open
(log 8). -/
def barrierFrame (port : Nat) (b : Bytes) (s : State) : State :=
  let k := connFor s port b
  if frameType b ≠ 4 ∨ (connAt s k).state ≠ 4 then s else
  match openSealed k b s with
  | (none, s) => s
  | (some pay, s) =>
    if !connMapped s k then s else
    let bar := fld pay 0 2 % 4096
    let gen := fld pay 2 2
    let src := frameSrc b
    match farArrive src bar gen s with
    | (s, false) => s
    | (s, true) =>
      let s := { s with net := { s.net with arrivals := s.net.arrivals ++ [⟨src, bar, gen⟩] } }
      match farBarrier s bar with
      | none => s
      | some (key, p) =>
        let unit := (Config.openWord s.free 0).toNat % 65536
        let s := countRefusal key bar { s with free := s.free + 1 }
        match barrierPart key p bar with
        | some pk => noteLap pk bar unit gen s
        | none => setSyncFlag 0 s

/-- DRITAR_BARRIER_ARRIVAL. -/
def execDritarBarrierArrival (port : Nat) (frame : Bytes) (s : State) : Result := .next (barrierFrame port frame s)

/-- Refused arrivals of partners try again at the start of an index (R352). -/
def retryFar (s : State) : State :=
  let l := s.net.arrivals
  l.foldl (fun s x =>
    match farArrive x.src x.barrier x.gen s with
    | (s, true) => { s with net := { s.net with arrivals := s.net.arrivals ++ [x] } }
    | (s, false) => s) { s with net := { s.net with arrivals := [] } }

/-! ### SYNC_QUERY (R360) -/

/-- SYNC_QUERY's checks. -/
def syncQueryChecks (c : Cmd) (_ : State) : List Check :=
  pfOnly c :: headChecks c .none .none 1 ++ [badField 40 (decide (4095 < c.at 40 2)), inlineZero c 42 22]

/-- Whether a refused arrival waits on a barrier of a plan. -/
def lapWaiting (s : State) (key b : Nat) : Bool :=
  (s.net.arrivals.any fun x => x.barrier == b) ||
  (tvals s.plans.flies).any fun (_, f) => f.part / 16 == key && f.wait == .arrival && barrierOf f.op == b

/-- The result field of SYNC_QUERY. -/
def syncResult (s : State) (b : Nat) : Nat :=
  match barrierPlan s b with
  | none => 0
  | some (key, p) =>
    let c := barrierAt p b
    c.g + 2 ^ 16 * (c.c0 % 2 ^ 13) + 2 ^ 29 * (c.c1 % 2 ^ 13) + 2 ^ 42 + 2 ^ 43 * b2n (lapWaiting s key b) +
      2 ^ 44 * ((barrierDef p b).map (·.scope)).getD 0 + 2 ^ 48 * satBits 16 c.refused

/-- SYNC_QUERY. -/
def execSyncQuery (c : CmdIn) (s : State) : Result :=
  .next (runCommand 0x0220 syncQueryChecks (fun c s => .ok s (syncResult s (c.at 40 2))) c s)

end Sys2Proof.Machine
end

