-- ==== Sys2Proof/Machine/Resume.lean ====
section
/-!
DEFINITION. WAITING_OPERATION_RESUME: a waiting operation tries again (R80, R341, R343, R352).
-/

namespace Sys2Proof.Machine

/-- Whether what an operation waits for is there in this index: its words full, its destination words empty, or a
refused arrival that would now be counted. A TRUE that has not written its first word waits also for an earlier TRUE of its unit
that waits (R167). Releases reach their units by BARRIER_RELEASE_REACH, and sends go on at the
end of the index. -/
def satisfied (s : State) (f : Fly) : Bool :=
  match f.wait, f.body with
  | .guard ws, _ => ws.all (fullAt s)
  | .fill _, .send _ => false
  | .fill ws, .true t => !ws.any (fullAt s) && !(t.left.contains 0 && earlierTrue s f)
  | .fill ws, _ => !ws.any (fullAt s)
  | .arrival, .barrier b a =>
    match planOfFly s f with
    | none => false
    | some (key, p) => !(arrive key p b a s).2
  | _, _ => false

/-- An operation whose source words are full goes on where its guard stopped it, as its operation reads them. -/
def reread (id : Nat) (f : Fly) (s : State) : State :=
  match f.op.code, f.body with
  | 0x20, _ => startMove id f s
  | 0x10, _ => startRead id f s
  | 0x11, _ => startRead id f s
  | 0x24, .desc d kind => trueSource id f d kind s
  | 0x21, _ => startCoreReduce id f s
  | 0x22, _ => startStackReduce id f s
  | 0x23, .held hs => fuseSource id f hs s
  | 0x42, .held (d :: _) => kvSource id f d s
  | 0x41, .held (d :: _) => attendSource id f d s
  | 0x44, _ => finishSource id f s
  | 0x43, _ => sampleSource id f s
  | 0x40, .desc d _ => mmRead id f d s
  | 0x60, .desc d 1 => updateSource id f d s
  | 0x60, .desc d _ => gatherSource id f d s
  | 0x33, _ => startMemWrite id f s
  | 0x52, _ => startFeWait id f s
  | 0x30, _ => startGrain id f s
  | 0x31, _ => startDritar id f s
  | _, _ => s

/-- An operation whose destination words are empty writes again. -/
def rewrite_ (id : Nat) (f : Fly) (s : State) : State :=
  match f.body with
  | .out ws => tryWrite id f ws s
  | .read j => tryRecord id f j s
  | .true t => flushTrue id f t s
  | _ => s

/-- The stall limit of an operation's partition. -/
def limitOf (s : State) (f : Fly) : Nat := ((partAt s f.part).map fun p => p.d.limit).getD 8192

/-- Whether an operation's wait has lasted the stall limit (R348). -/
def stalledOut (s : State) (f : Fly) : Bool := f.wait != .none && decide (limitOf s f ≤ f.stall)

/-- The stall count restarts where a wait on source words has ended; an operation that waits on more of them waits on
(R347). -/
def restartStall (id : Nat) (s : State) : State :=
  match flyAt s id with
  | none => s
  | some f => match f.wait with
    | .guard _ => s
    | _ => setFly id (some { f with stall := 0 }) s

/-- A waiting operation whose wait is satisfied goes on; a wait that has lasted the stall limit ends in the fault of R348.
A write may be refused again at the end of the index, and then the wait has persisted (R344, R347). -/
def resume (id : Nat) (s : State) : State :=
  match flyAt s id with
  | none => s
  | some f =>
    if !satisfied s f || stalledOut s f then s else
    let g := { f with wait := .none }
    match f.wait with
    | .guard _ => restartStall id (reread id g (setFly id (some g) s))
    | .fill _ => rewrite_ id g (setFly id (some g) s)
    | .arrival => retryArrive id g (setFly id (some g) s)
    | _ => s

/-- WAITING_OPERATION_RESUME. -/
def execWaitingOperationResume (id : Nat) (s : State) : Result := .next (resume id s)

end Sys2Proof.Machine
end

