-- ==== Sys2Proof/Machine/Landing.lean ====
section
/-!
DEFINITION. The end of an index: empties, then writes with the rules of same-index conflicts (R340, R341, R344), what
a written record starts (R178, R222, R223), the charges of the truing budget (R180), the starts of the recompute
services (R178, R182), and the sends, releases and strays of the index.
-/

namespace Sys2Proof.Machine

/-! ### Writes of the index -/

/-- What a write at the end of an index belongs to. -/
inductive Landing where
  /-- an operation in flight -/
  | op (fly : Nat)
  /-- a grain frame at its target -/
  | grain (frame : Nat)
  /-- a plan-data frame of a partner, by its place in the list -/
  | far (place : Nat)
deriving DecidableEq, Repr

/-- The grain frame as a write of its sending operation. -/
def grainWrite (s : State) (g : GrainFrame) : Landing × PendWrite :=
  match flyAt s g.fly with
  | some f => (.grain g.id, ⟨g.fly, unitPos f.st f.op, f.issue, f.op.pos, g.fill, g.words⟩)
  | none => (.grain g.id, ⟨g.fly, (g.chan / 16 * 16 + 4) * 4096 + g.chan % 16, 0, 0, g.fill, g.words⟩)

/-- A partner's frame as a write: after every unit of its stack (log 4). -/
def farWrite (y : Nat × Incoming) : Landing × PendWrite :=
  (.far y.1, ⟨0, (y.2.st * 16 + 15) * 4096, y.2.ready, y.1, y.2.fill, y.2.words⟩)

/-- Every write that may take effect at the end of the index. -/
def landings (s : State) : List (Landing × PendWrite) :=
  (s.stores.writes.map fun w => (.op w.fly, w)) ++ (landable s).map (grainWrite s) ++ (landableIn s).map farWrite

/-- The order of R344: unit, then issue, then place in the cut list. -/
def fillsBefore (a b : Landing × PendWrite) : Bool :=
  if a.2.unit ≠ b.2.unit then decide (a.2.unit < b.2.unit)
  else if a.2.issue ≠ b.2.issue then decide (a.2.issue < b.2.issue)
  else decide (a.2.pos ≤ b.2.pos)

/-- The outcome of an index's writes: those that take effect, those refused, and those refused by a conflict with the
words they lost. -/
structure Landed where
  won : List (Landing × PendWrite)
  refused : List (Landing × PendWrite)
  lost : List (PendWrite × List Nat)

/-- Whether a write is the first of a TRUE, and that of an earlier TRUE of its unit is refused in this index: a later TRUE never
writes in an earlier index (R167). -/
def overtakes (s : State) (refused : List (Landing × PendWrite)) (x : Landing × PendWrite) : Bool :=
  let first := fun (y : Landing × PendWrite) => (flyAt s y.2.fly).any fun f =>
    match y.1, f.body with
    | .op _, .true t => t.left.contains 0
    | _, _ => false
  first x && refused.any fun y => first y && y.2.unit == x.2.unit && decide (y.2.issue < x.2.issue)

/-- One filling write in its turn: it needs every destination word empty at the start of the index, and none taken
by a write before it (R341, R344). -/
def fillStep (s : State) (acc : Landed × List Nat) (x : Landing × PendWrite) : Landed × List Nat :=
  let ws := x.2.words.map (·.1)
  if ws.any (fullAt s) || overtakes s acc.1.refused x then ({ acc.1 with refused := acc.1.refused ++ [x] }, acc.2)
  else
    let hit := ws.filter fun g => acc.2.contains g
    if hit.isEmpty then ({ acc.1 with won := acc.1.won ++ [x] }, acc.2 ++ ws)
    else ({ acc.1 with refused := acc.1.refused ++ [x], lost := acc.1.lost ++ [(x.2, hit)] }, acc.2)

/-- Which writes of the index take effect. The bits are those at the start of the index. -/
def judge (s : State) : Landed :=
  let l := landings s
  let plain := l.filter fun x => !x.2.fill
  let fills := sortBy fillsBefore (l.filter fun x => x.2.fill)
  let r := (fills.foldl (fillStep s) (⟨[], [], []⟩, [])).1
  let late := plain.filter (overtakes s r.refused)
  { r with won := plain.filter (fun x => !overtakes s r.refused x) ++ r.won, refused := r.refused ++ late }

/-- One write takes effect: contents, and the fills it makes (R341, R342). -/
def applyWrite (s : State) (x : Landing × PendWrite) : State :=
  let s := putWords x.2.words s
  if x.2.fill then fillWords (x.2.words.map (·.1)) s else s

/-- FILL_CONFLICT for each refused write, and FE_FILL_CONFLICT at the first conflict of a partition in a pass, with the number of
units that had a write refused at its word (R344, R361). -/
def noteConflicts (lost : List (PendWrite × List Nat)) (s : State) : State :=
  lost.foldl (fun s (_, hit) =>
    let g := hit.headD 0
    let n := (lost.filter fun y => y.2.contains g).map (·.1.unit) |>.eraseDups.length
    let s := setSyncFlag 2 s
    match partOfStack s (wordStack g) with
    | none => s
    | some (pk, _) => postOncePerPass pk 0x0225 2 0 (le 1 (wordStack g) ++ le 4 (canonical s g) ++ le 4 n) s) s

/-! ### What a written record starts -/

/-- What a half drove, kept from the index in which its record is written. -/
def inputsOf (tick : Nat) (j : ReadJob) (h : HalfRead) : ReadInputs :=
  { engine := j.engine, deck := j.deck, kind := h.kind, a8 := j.a8, burnish := j.burnish, gain := j.gain, xs := h.xs
    written := tick, asked := [], exact := [] }

/-- The elements that a record's bitmap names: data columns or rows, then check columns. -/
def redoElems (h : HalfRead) : List Nat :=
  (((dataCols h.kind).zip h.redo).filter fun x => x.2).map (·.1) ++
    (((checkCols h.kind).zip h.redoCheck).filter fun x => x.2).map fun x => x.1 - 512 + 3000

/-- A half's record is written: what it drove is kept, and its bitmap's elements are requested (R178). -/
def noteHalf (f : Fly) (j : ReadJob) (s : State) (h : HalfRead) : State :=
  match partAt s f.part with
  | none => s
  | some p =>
    let inp := inputsOf s.spin.tick j h
    let s := setPart f.part (some { p with reads := tset none p.reads h.dest (some inp) }) s
    requestElems f.part h.dest j.engine j.phys j.deck inp none (redoElems h) s

/-- The word of a calibration draw (R222). -/
def calDraw (seed phys m : Nat) : Nat := kmixN seed (m * 2 ^ 24 ||| phys * 256 ||| 32)

/-- The value that a record holds for an element, where it may be sampled: it did not clip, is not recomputed, and
belongs to no range-split column (R223). -/
def sampled (h : HalfRead) (el : Nat) : Option Int :=
  if h.zero then none else
  if 512 ≤ el && h.kind != 3 then
    match (checkCols h.kind).idxOf? el with
    | none => none
    | some i =>
      if h.clipCheck.getD i true || h.redoCheck.getD i true then none
      else some (h.checks.getD i 0)
  else
    match (dataCols h.kind).idxOf? el with
    | none => none
    | some i => if h.clip.getD i true || h.redo.getD i true then none else some (h.accs.getD i 0)

/-- A read that counts: its ordinal advances, and it may offer one candidate sample (R222, R223). Candidates are queued
with the mark of a paired sample; they start in this index or are dropped. -/
def offerSample (f : Fly) (j : ReadJob) (s : State) : State :=
  if j.notBound || j.unsettled || j.halves.all (·.zero) then s else
  let m := tget 0 s.arr.ordinal j.phys
  let s := { s with arr := { s.arr with ordinal := tset 0 s.arr.ordinal j.phys ((m + 1) % 2 ^ 40) } }
  let w := calDraw j.seed j.phys m
  let el := w % 1024
  let rate := if intensified s j.phys then 10 else j.rate
  if !decide (bits w 63 44 < 2 ^ (30 - rate)) || (!j.reverse && decide (520 ≤ el)) then s else
  match j.halves.find? fun h => (sampled h el).isSome with
  | none => s
  | some h =>
    pushRequest
      { id := 0, part := f.part, record := h.dest, engine := j.engine, phys := j.phys, deck := j.deck
        col := if 512 ≤ el && !j.reverse then el - 512 + 3000 else el, extra := false, paired := true, group := none
        inputs := inputsOf s.spin.tick j h, acc := (sampled h el).getD 0, weight := h.weight, queued := 0, counted := true
        started := none } s

/-- A write of an operation has taken effect: most operations have made their last write then (R81). -/
def wroteOp (id : Nat) (ws : List Nat) (s : State) : State :=
  match flyAt s id with
  | none => s
  | some f =>
    match f.body with
    | .read j => endFly id (offerSample f j (j.halves.foldl (noteHalf f j) s))
    | .true t =>
      let g := dstWord s f
      let t := { t with left := t.left.filter fun w => !ws.contains (g + w) }
      if t.left.isEmpty then endFly id s else setFly id (some { f with body := .true t }) s
    | .writing _ => endFly id s
    | _ => s

/-- A write of an operation was refused: the operation waits for its destination words (R341). -/
def refusedOp (id : Nat) (ws : List (Nat × Bytes)) (s : State) : State :=
  match flyAt s id with
  | none => s
  | some f =>
    let wait := Wait.fill (ws.map (·.1))
    match f.body with
    | .read j => setFly id (some { f with wait := wait, body := .read { j with done := false } }) s
    | .true _ => setFly id (some { f with wait := wait }) s
    | .writing ws => setFly id (some { f with wait := wait, body := .out ws }) s
    | _ => s

/-- A grain frame has been written; its send is complete with its last frame. -/
def wroteFrame (id : Nat) (s : State) : State :=
  match s.net.frames.find? fun g => g.id == id with
  | none => s
  | some g =>
    let s := { s with net := { s.net with frames := s.net.frames.filter fun h => h.id != id } }
    match flyAt s g.fly with
    | none => s
    | some f =>
      if s.net.frames.any fun h => h.fly == g.fly then setFly g.fly (some { f with wait := .none }) s
      else endFly g.fly s

/-- A grain frame whose destination is full: its send waits (R368). -/
def refusedFrame (id : Nat) (ws : List (Nat × Bytes)) (s : State) : State :=
  match s.net.frames.find? fun g => g.id == id with
  | none => s
  | some g =>
    match flyAt s g.fly with
    | none => s
    | some f =>
      match f.wait with
      | .fill _ => s
      | _ => setFly g.fly (some { f with wait := .fill (ws.map (·.1)), stall := 0 }) s

/-- What follows a write that took effect. -/
def wrote (s : State) (x : Landing × PendWrite) : State :=
  match x.1 with
  | .op id => wroteOp id (x.2.words.map (·.1)) s
  | .grain id => wroteFrame id s
  | .far _ => s

/-- What follows a refused write. -/
def refusedWrite (s : State) (x : Landing × PendWrite) : State :=
  match x.1 with
  | .op id => refusedOp id x.2.words s
  | .grain id => refusedFrame id x.2.words s
  | .far _ => s

/-- Frames of partners that have been written leave the list. -/
def dropFar (won : List (Landing × PendWrite)) (s : State) : State :=
  { s with net := { s.net with
    incoming := (s.net.incoming.zipIdx.filter fun x => !won.any fun y => y.1 == .far x.2).map (·.1) } }

/-- Empties, then writes, at the end of the index (R340), and what they lead to. -/
def landWrites (s : State) : State :=
  let r := judge s
  let s := emptyWords s.stores.empties s
  let s := { s with stores := { s.stores with empties := [], writes := [] } }
  let s := noteConflicts r.lost (r.won.foldl applyWrite s)
  dropFar r.won (r.refused.foldl refusedWrite (r.won.foldl wrote s))

/-! ### Charges and starts (R178 to R182) -/

/-- The order of requests queued in one index: engine, then column or row (R178). -/
def requestBefore (a b : Request) : Bool :=
  if a.engine ≠ b.engine then decide (a.engine < b.engine) else decide (a.col ≤ b.col)

/-- Charge one request to its partition's budget; charges beyond it are overflow (R180). -/
def chargeOne (acc : List Request × State) (r : Request) : List Request × State :=
  match partAt acc.2 r.part with
  | none => (acc.1 ++ [{ r with counted := true }], acc.2)
  | some p =>
    let late := decide (p.d.budget ≤ p.charges)
    (acc.1 ++ [{ r with counted := true, extra := late }],
     setPart r.part (some { p with charges := p.charges + 1, overflow := p.overflow + b2n late }) acc.2)

/-- The requests that entered a stack's queue in this index, in their order, charged; candidates stand behind them. -/
def chargeStack (s : State) (st : Nat) : State :=
  let q := serviceOf s st
  let old := q.filter fun r => r.counted && !r.paired
  let run := q.filter fun r => r.paired && r.started.isSome
  let new := sortBy requestBefore (q.filter fun r => !r.counted)
  let cands := sortBy requestBefore (q.filter fun r => r.paired && r.started.isNone)
  let (new, s) := new.foldl chargeOne ([], s)
  setService st (old ++ new ++ cands ++ run) s

/-- Whether a monitor's holds cover a stack: hub monitors cover every stack (R153). -/
def monOnStack (mon st : Nat) : Bool := decide (32 ≤ mon) || mon / 2 == st

/-- Whether a hold covers a stack, or the running partition that has it (R35, R183). -/
def stackHeld (s : State) (st : Nat) : Bool :=
  (s.conv.holds.any fun h => monOnStack h.mon st) || (partOfStack s st).any fun x => heldPart s x.2.d

/-- Whether a partition is in the overflow freeze of R182 on account of its charges of earlier indices. -/
def overflowing (s : State) (pk tick : Nat) : Bool :=
  s.plans.queues.any fun x => x.2.any fun r => r.part == pk && r.extra && decide (r.queued < tick)

/-- The requests that start in this index on a stack: 4, or 16 in the overflow freeze with overflow requests first
(R178, R182). -/
def startsOf (s : State) (st : Nat) : List Nat :=
  if s.spin.state == 3 || stackHeld s st then [] else
  let flood := (partOfStack s st).any fun x => x.2.flood
  let wait := (serviceOf s st).filter fun r => r.started.isNone && !r.paired
  let order := if flood then wait.filter (·.extra) ++ wait.filter (fun r => !r.extra) else wait
  (order.take (if flood then 16 else 4)).map (·.id)

/-- Start a stack's requests, then candidates in the start slots that are left, of 4 or while probes are sampled of 16
(R240); others are dropped and counted (R223). -/
def startStack (s : State) (st : Nat) : State :=
  let go := startsOf s st
  let q := serviceOf s st
  let cands := q.filter fun r => r.paired && r.started.isNone
  if go.isEmpty && cands.isEmpty then s else
  let slots := if probing s st then 16 else 4
  let room := if s.spin.state == 3 || stackHeld s st then 0 else slots - go.length
  let taken := (cands.take room).map (·.id)
  let gone := (cands.drop room).map (·.id)
  let q := (q.filter fun r => !gone.contains r.id).map fun r =>
    if go.contains r.id || taken.contains r.id then { r with started := some s.spin.tick } else r
  setService st q { s with cal := { s.cal with dropped := tset 0 s.cal.dropped st (tget 0 s.cal.dropped st + gone.length) } }

/-- The recompute services in this index. -/
def runServices (s : State) : State :=
  let s := (List.range 16).foldl chargeStack s
  (List.range 16).foldl startStack s

/-! ### The end of the index -/

/-- Everything that happens at the end of an index. -/
def endIndex (s : State) : State :=
  let s := runServices (landWrites s)
  let s := settleReleased (releaseBarriers (dropStrays (crossIn (moveSends s))))
  { s with net := { s.net with used := [], failed := [] } }

end Sys2Proof.Machine
end

