-- ==== Sys2Proof/Machine/Pages.lean ====
section
/-!
DEFINITION. Tiers of KV pages, quotas, dropped spans, and the reservation of tails (R295 to R303, R399).
-/

namespace Sys2Proof.Machine

/-! ### Placement -/

/-- Tiles of a page of a context by its key. -/
def pageTiles (c : Ctx) (page : Nat) : Nat := ((c.group (page / 2 ^ 20)).map (·.tiles)).getD 0

/-- The move in progress of a page. -/
def moveOf (s : State) (k page : Nat) : Option Move := s.serve.moves.find? fun m => m.ctx == k && m.page == page

/-- Where a page lies, or is on its way to: tier and stack. -/
def pageHome (s : State) (k page : Nat) (p : Page) : Nat × Nat :=
  match moveOf s k page with
  | some m => (m.tier, m.stack)
  | none => (p.tier, p.stack)

/-- A page with its place: context, page key, page. -/
abbrev PageRef := Nat × Nat × Page

/-- Every page of a tenant. -/
def tenantPages (s : State) (tenant : Nat) : List PageRef :=
  ((tvals s.serve.ctxs).filter fun x => x.2.tenant == tenant).flatMap fun (k, c) =>
    (tvals c.pages).map fun (n, p) => (k, n, p)

/-- Tiles of a page reference. -/
def refTiles (s : State) (r : PageRef) : Nat := ((ctxAt s r.1).map fun c => pageTiles c r.2.1).getD 0

/-- Tiles that a tenant holds in a tier; of Hot pages on one stack. -/
def heldTiles (s : State) (tenant tier st : Nat) : Nat :=
  (((tenantPages s tenant).filter fun r =>
    let h := pageHome s r.1 r.2.1 r.2.2
    h.1 == tier && (tier != 0 || h.2 == st)).map (refTiles s)).sum

/-- Least recently attended first; ties by context ID, then layer, then page index (R298). -/
def staler (a b : PageRef) : Bool :=
  decide (a.2.2.stamp < b.2.2.stamp) || (a.2.2.stamp == b.2.2.stamp &&
    (decide (a.1 < b.1) || (a.1 == b.1 && decide (a.2.1 < b.2.1))))

/-- Whether a page lies within the tail that a step of a running pass may write (R299); a consolidation job's tail lies in
no page of the context (R306). -/
def inTail (k page : Nat) (g : KvGroup) (x : Step) : Bool :=
  x.ctx == some k && !x.empty && x.job != 2 && x.replay.isNone &&
    decide (x.base < (page % 2 ^ 20 + 1) * 2 ^ g.pageExp) &&
    decide (page % 2 ^ 20 * 2 ^ g.pageExp < x.base + tailCap x.kind)

/-- The home stack of the slot whose tail in a running pass includes a page. -/
def tailHome (s : State) (k page : Nat) (c : Ctx) : Option Nat :=
  (c.group (page / 2 ^ 20)).bind fun g => (parts s).findSome? fun (_, p) =>
    (p.steps.find? (inTail k page g)).map fun x => ((p.d.slots.find? fun d => d.slot == x.slot).map (·.home)).getD 0

/-- Whether a page holds tentative entries, or is kept for them: those of a step of a running pass, or of a withheld step,
past M (R290, R293, R299). -/
def tentative (s : State) (k page : Nat) (c : Ctx) : Bool :=
  (tailHome s k page c).isSome || tailKept s k && match c.group (page / 2 ^ 20) with
    | some g => decide (c.mark < (page % 2 ^ 20 + 1) * 2 ^ g.pageExp)
    | none => false

/-! ### Contexts in use -/

/-- Whether a session holds a slot. -/
def Session.admitted (x : Session) : Bool := x.state == 1 || x.state == 2

/-- Whether the context has an admitted session or a job (R296). -/
def ctxBusy (s : State) (k : Nat) : Bool :=
  ((ctxSession s k).any fun x => x.2.admitted) || (ctxAt s k).any fun c => c.job.isSome || c.recompute.isSome

/-- Whether the context's session awaits admission. -/
def ctxAwaits (s : State) (k : Nat) : Bool := (ctxSession s k).any fun x => x.2.state == 0

/-- Span length of a context as an exponent (R300). -/
def spanExp (c : Ctx) : Nat := (c.groups.map (·.pageExp)).foldl max 0

/-- The span that a page belongs to. -/
def pageSpan (c : Ctx) (page : Nat) : Nat :=
  match c.group (page / 2 ^ 20) with
  | some g => page % 2 ^ 20 * 2 ^ g.pageExp / 2 ^ spanExp c
  | none => 0

/-- Whether a context is Incomplete (R301, R302). -/
def incomplete (c : Ctx) : Bool := (tvals c.pages).any fun x => x.2.tier == 3

/-- A span loses every page in every tier (R301). -/
def loseSpan (c : Ctx) (span : Nat) : Ctx :=
  { c with pages := c.pages.map fun (n, o) =>
      (n, o.map fun p => if pageSpan c n = span then { p with tier := 3, data := [], auth := [] } else p) }

/-- Drop a span of a context: its pages are Dropped, their moves end. -/
def dropSpan (k span : Nat) (s : State) : State :=
  match ctxAt s k with
  | none => s
  | some c =>
    let s := setCtx k (some { loseSpan c span with dropped := c.dropped + 1 }) s
    { s with serve := { s.serve with moves := s.serve.moves.filter fun m => m.ctx != k || pageSpan c m.page != span } }

/-! ### Moves (R296) -/

/-- Bytes of a page as a tier holds them. -/
def pageBytes (c : Ctx) (page : Nat) (p : Page) : Bytes := mread p.data 0 (4096 * pageTiles c page)

/-- Additional data of a Cold page (R297). -/
def coldAad (k page : Nat) : Bytes :=
  le 2 (k / 2 ^ 32) ++ le 4 (k % 2 ^ 32) ++ le 2 (page / 2 ^ 20) ++ le 4 (page % 2 ^ 20)

/-- Replace a page of a context. -/
def setPage (k page : Nat) (p : Option Page) (s : State) : State :=
  match ctxAt s k with
  | none => s
  | some c => setCtx k (some { c with pages := tset none c.pages page p }) s

/-- Replace a tenant's quota record. -/
def setQuota (t : Nat) (q : Quota) (s : State) : State :=
  { s with serve := { s.serve with
      quotas := tset none s.serve.quotas t (if q = ⟨0, 0, 0, 0, none, [], 0⟩ then none else some q) } }

/-- Offsets of a tenant's cold area in use: offset and bytes. -/
def coldUsed (s : State) (tenant : Nat) : List (Nat × Nat) :=
  ((tenantPages s tenant).filter fun r => (pageHome s r.1 r.2.1 r.2.2).1 == 2 && r.2.2.auth != []).map fun r =>
    (r.2.2.home, 4096 * refTiles s r)

/-- A Warm page is encrypted and written to the host area (R297). -/
def writeCold (k page : Nat) (c : Ctx) (p : Page) (s : State) : Option State :=
  let q := quotaOf s c.tenant
  let len := 4096 * pageTiles c page
  match q.area with
  | none => none
  | some (fn, base, size) =>
    match firstFit 0 size len (coldUsed s c.tenant) with
    | none => none
    | some o =>
      let n := q.coldNonce + 1
      let (x, t) := gcmSeal q.coldKey (le 12 n) (coldAad k page) (pageBytes c page p)
      let s := setQuota c.tenant { q with coldNonce := n } s
      some (hostWrite fn (base + o) x (setPage k page (some { p with home := o, nonce := n, auth := t }) s))

/-- The end of a move that cannot be made. -/
def dropMove (k page : Nat) (s : State) : State :=
  { s with serve := { s.serve with moves := s.serve.moves.filter fun m => m.ctx != k || m.page != page } }

/-- The copy of a move is complete. -/
def readyMove (k page : Nat) (s : State) : State :=
  { s with serve := { s.serve with
      moves := s.serve.moves.map fun m => if m.ctx = k ∧ m.page = page then { m with ready := true } else m } }

/-- The steps of a pass that compute on a context are discarded; a replay's step is placed again instead (R399, R409). -/
def discardReaders (k : Nat) (p : Part) : Part :=
  { p with discards := p.discards ++ (p.steps.filter fun y => y.ctx == some k && !y.empty).map (·.slot) }

/-- A tile of a KV page failed: its span is lost, the steps of the slots that read the page in their passes are discarded,
and the context's session departs to Queued (R399). A Warm page is reported on channel 0 of module memory, because the spec
gives it no address (DESIGN CHOICE, log 26). -/
def pageTile (k page : Nat) (s : State) : State :=
  match ctxAt s k with
  | none => s
  | some c =>
    let p := (tget none c.pages page).getD ⟨3, 0, [], 0, 0, 0, []⟩
    let s := postTile 2 (if p.tier = 0 then p.stack else 0) page s
    let s := dropSpan k (pageSpan c page) s
    let s := { s with plans := { s.plans with parts := s.plans.parts.map fun (pk, o) =>
      (pk, o.map fun q => if p.stamp = q.start / 8192 then discardReaders k q else q) } }
    match ctxSession s k with
    | none => s
    | some (id, x) => if x.admitted then setSession id (some { x with requeue := true }) s else s

/-- PAGE_MOVE_DONE: the copy is complete; the move takes effect at the next boundary (R296). -/
def pageMoveDone (k layer n : Nat) (tileOk : Bool) (s : State) : State :=
  let page := pageKey layer n
  match moveOf s k page, ctxAt s k with
  | some m, some c =>
    if m.ready then s else
    if !tileOk then pageTile k page s else
    match tget none c.pages page with
    | none => dropMove k page s
    | some p =>
      if m.tier = 2 then
        match writeCold k page c p s with
        | some s => readyMove k page s
        | none => dropMove k page s
      else readyMove k page s
  | _, _ => s

/-- PAGE_MOVE_DONE. -/
def execPageMoveDone (ctx layer page : Nat) (tileOk : Bool) (s : State) : Result :=
  .next (pageMoveDone ctx layer page tileOk s)

/-- COLD_PAGE_FETCH_DONE: the page is checked and decrypted, and is Warm from the next boundary on; or it is discarded
(R296, R297). -/
def coldFetch (k layer n : Nat) (cipher : Bytes) (s : State) : State :=
  let page := pageKey layer n
  match ctxAt s k with
  | none => s
  | some c =>
    match tget none c.pages page with
    | none => s
    | some p =>
      if !s.phys.link ∨ p.tier ≠ 2 ∨ (moveOf s k page).isSome ∨ !(ctxAwaits s k || ctxBusy s k) then s else
      match gcmOpen (quotaOf s c.tenant).coldKey (le 12 p.nonce) (coldAad k page) cipher p.auth with
      | some b =>
        let s := setPage k page (some { p with data := mwrite [] 0 b, home := 0, nonce := 0, auth := [] }) s
        { s with serve := { s.serve with moves := s.serve.moves ++ [⟨k, page, 1, 0, true⟩] } }
      | none =>
        postEvent 8 0 0x0604 3 (le 2 c.tenant ++ le 4 c.id ++ le 4 layer ++ le 4 n)
          (setPage k page (some { p with tier := 3, home := 0, nonce := 0, auth := [] }) s)

/-- COLD_PAGE_FETCH_DONE. -/
def execColdPageFetchDone (ctx layer page : Nat) (cipher : Bytes) (s : State) : Result :=
  .next (coldFetch ctx layer page cipher s)

/-- Whether an ATTEND in flight reads a page. -/
def attendReads (s : State) (k page : Nat) : Bool :=
  (tvals s.plans.flies).any fun (_, f) =>
    match f.body with
    | .held [d, h, _, tree, _, _, _] =>
      let a := askOf d h
      f.op.code == 0x41 && ((stepOf s f.part a.slot).any fun x => x.ctx == some k && !x.empty &&
        ((stepCtx s x).bind fun c => c.group a.layer).any fun g =>
          (allAttended a x.base tree).any fun y => y.2.isNone && pageKey a.layer (g.pageOf y.1) == page)
    | _ => false

/-- Where a move puts a page: a page that holds tentative entries does not leave package memory, and one of a running tail
that comes from a colder tier goes there (R290); a page of a context in use is not made Cold (R296). -/
def moveTarget (s : State) (m : Move) (c : Ctx) : Option (Nat × Nat) :=
  if m.tier = 2 then (if ctxBusy s m.ctx then none else some (2, 0))
  else if m.tier = 0 then some (0, m.stack)
  else match tailHome s m.ctx m.page c with
    | some st => some (0, st)
    | none =>
      if tentative s m.ctx m.page c && (tget none c.pages m.page).any (fun p => p.tier == 0) then none else some (1, 0)

/-- A move takes effect, or ends without one. -/
def applyMove (s : State) (m : Move) : State :=
  let s := dropMove m.ctx m.page s
  match ctxAt s m.ctx with
  | none => s
  | some c =>
    match tget none c.pages m.page with
    | none => s
    | some p =>
      if p.tier = 3 then s else
      match moveTarget s m c with
      | none => if m.tier = 2 then setPage m.ctx m.page (some { p with home := 0, nonce := 0, auth := [] }) s else s
      | some (tier, st) =>
        if m.tier = 1 ∧ p.tier = 0 ∧ tier = 0 then s else
        setPage m.ctx m.page (some { p with tier := tier, stack := st, data := if tier = 2 then [] else p.data }) s

/-- Moves whose copy is complete and that no ATTEND reads take effect at a pass boundary (R296). -/
def applyMoves (s : State) : State :=
  (s.serve.moves.filter fun m => m.ready && !attendReads s m.ctx m.page).foldl applyMove s

/-! ### Quotas (R298, R301) -/

/-- Begin to move pages away, stalest first, until `held` is at most `quota`. -/
def moveUntil (quota tier : Nat) : List PageRef → Nat → State → State
  | [], _, s => s
  | r :: l, held, s =>
    if held ≤ quota then s
    else moveUntil quota tier l (held - refTiles s r) (beginMove r.1 r.2.1 tier r.2.2.stack s)

/-- Step 1: Hot pages over the quota of a stack go to Warm. -/
def demoteHot (s : State) (tenant st : Nat) : State :=
  let can := (tenantPages s tenant).filter fun r =>
    pageHome s r.1 r.2.1 r.2.2 == (0, st) && r.2.2.tier == 0 && !(ctxAt s r.1).any (tentative s r.1 r.2.1)
  moveUntil (quotaOf s tenant).hot 1 (sortBy staler can) (heldTiles s tenant 0 st) s

/-- Step 2: Warm pages over the quota go to Cold. -/
def demoteWarm (s : State) (tenant : Nat) : State :=
  let q := quotaOf s tenant
  if q.area.isNone then s else
  let can := (tenantPages s tenant).filter fun r =>
    (pageHome s r.1 r.2.1 r.2.2).1 == 1 && r.2.2.tier == 1 && !ctxBusy s r.1
  moveUntil q.warm 2 (sortBy staler can) (heldTiles s tenant 1 0) s

/-- Whether a span may be dropped for quota (R301). -/
def droppable (s : State) (k : Nat) (c : Ctx) (span : Nat) : Bool :=
  c.droppable && !ctxBusy s k && !ctxAwaits s k && decide ((span + 1) * 2 ^ spanExp c ≤ c.mark)

/-- Drop spans, stalest page first, until `held` tiles of a tier are at most `quota`; the spans dropped by
context. -/
def dropUntil (tenant tier quota : Nat) : List PageRef → List Nat → State → List Nat × State
  | [], acc, s => (acc, s)
  | r :: l, acc, s =>
    if heldTiles s tenant tier 0 ≤ quota then (acc, s) else
    match ctxAt s r.1 with
    | none => dropUntil tenant tier quota l acc s
    | some c =>
      let span := pageSpan c r.2.1
      if droppable s r.1 c span && (tget none c.pages r.2.1).any fun p => p.tier != 3 then
        dropUntil tenant tier quota l (acc ++ [r.1]) (dropSpan r.1 span s)
      else dropUntil tenant tier quota l acc s

/-- Step 3: spans are dropped while the cold quota, or the warm quota without a cold area, is exceeded;
CTX_SPAN_DROPPED for each context. -/
def dropSpans (s : State) (tenant : Nat) : State :=
  let q := quotaOf s tenant
  let can := fun tier => sortBy staler ((tenantPages s tenant).filter fun r => (pageHome s r.1 r.2.1 r.2.2).1 == tier)
  let (a, s) := if q.area.isSome then dropUntil tenant 2 q.cold (can 2) [] s else dropUntil tenant 1 q.warm (can 1) [] s
  a.eraseDups.foldl (fun s k =>
    postEvent 8 0 0x0601 1 (le 2 (k / 2 ^ 32) ++ le 4 (k % 2 ^ 32) ++ le 4 (a.filter (· == k)).length) s) s

/-- Tenants that hold contexts, in ascending order; the context of a partner's replay has none. -/
def ctxTenants (s : State) : List Nat := (((tvals s.serve.ctxs).map fun x => x.2.tenant).filter (· != 0)).eraseDups

/-- Bring each tenant within its quotas (R298). -/
def enforceQuotas (s : State) : State :=
  (ctxTenants s).foldl (fun s t => dropSpans (demoteWarm ((List.range 16).foldl (fun s st => demoteHot s t st) s) t) t) s

/-! ### Reservations (R299) -/

/-- Pages that `cap` positions from `base` on need on top of those a context holds Hot: layer and page index. -/
def missingPages (c : Ctx) (base cap : Nat) : List Nat :=
  c.groups.flatMap fun g => (span g.first g.layers).flatMap fun layer =>
    let lo := g.pageOf base
    (span lo (g.pageOf (base + cap - 1) + 1 - lo)).filterMap fun n =>
      match tget none c.pages (pageKey layer n) with
      | some p => if p.tier = 0 then none else some (pageKey layer n)
      | none => some (pageKey layer n)

/-- Tiles that the steps of running passes have reserved for a tenant on a stack and not yet taken. -/
def reserved (s : State) (tenant st : Nat) : Nat :=
  ((parts s).map fun (_, p) => (p.steps.map fun x =>
    match x.ctx, stepCtx s x, p.d.slots.find? fun d => d.slot == x.slot with
    | some k, some c, some d =>
      if x.empty || x.sess.isNone || x.replay.isSome || k / 2 ^ 32 != tenant || d.home != st then 0
      else ((missingPages c x.base (tailCap x.kind)).map (pageTiles c)).sum
    | _, _, _ => 0).sum).sum

/-- Whether a page that a step will write is Cold: the step waits, as an empty slot, until the page is fetched, so that its
tentative entries stay in package memory (R290; DESIGN CHOICE, log 69). -/
def coldTail (c : Ctx) (base cap : Nat) : Bool :=
  (missingPages c base cap).any fun n => (tget none c.pages n).any fun p => p.tier == 2

/-- A Warm page of the coming tail is made Hot on the slot's home stack, so that no tentative entry leaves package
memory (R290). -/
def heatTail (k : Nat) (pages : List Nat) (st : Nat) (s : State) : State :=
  pages.foldl (fun s n =>
    match (ctxAt s k).bind fun c => tget none c.pages n with
    | some p => if p.tier = 1 then dropMove k n (setPage k n (some { p with tier := 0, stack := st }) s) else s
    | none => s) s

/-- Post a plan-driven event unless the turn already holds its mark. -/
def postPlanTurn (pk code sev subject : Nat) (pay : Bytes) (s : State) : State :=
  if s.ev.turnMarks.contains (code, subject) then s else
  postPlan pk code sev pay { s with ev := { s.ev with turnMarks := s.ev.turnMarks ++ [(code, subject)] } }

/-- Reserve the tail of the next step of a slot of a partition: none, with CTX_QUOTA_STALL at most once per context in a turn, when
the tenant's hot quota on the slot's home stack lacks room; none too while a page of the tail is Cold. -/
def reserveTail (pk k base kind st : Nat) (s : State) : Option State × State :=
  match ctxAt s k with
  | none => (some s, s)
  | some c =>
    if coldTail c base (tailCap kind) then (none, s) else
    let need := missingPages c base (tailCap kind)
    let want := (need.map (pageTiles c)).sum
    let have' := hotTiles s c.tenant st + reserved s c.tenant st
    let quota := (quotaOf s c.tenant).hot
    if have' + want ≤ quota then (some (heatTail k need st s), s)
    else (none, postPlanTurn pk 0x0603 2 k
      (le 2 c.tenant ++ le 4 c.id ++ le 1 st ++ le 4 (have' + want - quota)) s)

end Sys2Proof.Machine
end

