-- ==== Sys2Proof/Machine/Commit.lean ====
section
/-!
DEFINITION. The commit of a pass (R291 to R294, R302, R306 to R308, R330, R331, R407), the records of output
queues (R332 to R334), and what becomes of suspect steps (R404 to R407).
-/

namespace Sys2Proof.Machine

/-! ### Decision records -/

/-- A decision record as read at commit (R324). -/
structure DecRec where
  entries : Nat
  flags : Nat
  gen : Nat
  accept : List Nat
  tokens : List Nat
  drafts : List (Option Nat)

/-- Read the seven words of a record. -/
def readDecision (b : Bytes) : DecRec :=
  let gen := (byteAt b 5).toNat
  { entries := fld b 2 2, flags := (byteAt b 4).toNat, gen := gen
    accept := (List.range 8).map fun i => (byteAt b (8 + i)).toNat
    tokens := (List.range gen).map fun i => fld b (32 + 4 * i) 4
    drafts := (List.range 32).map fun i => let t := fld b (96 + 4 * i) 4; if t = 0xFFFFFFFF then none else some t }

/-- The words of a slot's decision record, when one was written in the pass. -/
def decisionAt (s : State) (p : Part) (slot : Nat) : Option Bytes :=
  (p.decided.find? fun x => x.1 == slot).map fun x => wordsAt s x.2 7

/-- Whether a slot of a partition's table is a consolidation slot: it has no decision record (R329). -/
def consolidates (p : Part) (slot : Nat) : Bool := p.d.slots.any fun d => d.slot == slot && d.kind == 2

/-- The module empties every decision record when it reads it at commit (R324). -/
def emptyDecisions (p : Part) (s : State) : State :=
  emptyWords ((p.decided.filter fun x => !consolidates p x.1).flatMap fun x => span x.2 7) s

/-! ### Tail entries (R291, R294) -/

/-- The tail entries of a slot, by layer and entry. -/
def slotTail (p : Part) (slot : Nat) : Tab Bytes := p.tails.filter fun x => x.1 / 2 ^ 22 == slot

/-- Write one record at a slot number of a layer's page. -/
def putRecord (layer : Nat) (g : KvGroup) (home turn t : Nat) (b : Bytes) (c : Ctx) : Ctx :=
  let n := pageKey layer (g.pageOf t)
  let p := (tget none c.pages n).getD ⟨0, home, [], turn, 0, 0, []⟩
  { c with pages := tset none c.pages n (some { p with data := mwrite p.data (g.recAt t) b }) }

/-- The first accepted entry and layer for which no record was written; none when all are there. -/
def missingEntry (c : Ctx) (slot : Nat) (tail : Tab Bytes) (accept : List Nat) : Option (Nat × Nat) :=
  accept.findSome? fun e => (List.range c.layers).findSome? fun l =>
    if tget [] tail (tailKey slot l e) = [] then some (e, l) else none

/-- Copy the accepted entries to their positions (step 2 of R291). -/
def copyEntries (slot base home turn : Nat) (tail : Tab Bytes) (accept : List Nat) (c : Ctx) : Ctx :=
  (accept.zipIdx).foldl (fun c (e, d) =>
    (List.range c.layers).foldl (fun c l =>
      match c.group l with
      | none => c
      | some g => putRecord l g home turn (base + d) (tget [] tail (tailKey slot l e)) c) c) c

/-- A step as it commits: with its tail, its decision, and whether a replay replaced it. -/
structure Commit where
  step : Step
  tail : Tab Bytes
  dec : DecRec
  replayed : Bool

/-- The accepted entries of a decision. -/
def accepted (kind : Nat) (d : DecRec) : List Nat :=
  if kind = 0 then 0 :: d.accept.take (d.entries - 1) else List.range d.entries

/-- Post KV_TAIL_INCOMPLETE: slot, context, entry, layer. -/
def postTailIncomplete (pk slot k e l : Nat) (s : State) : State :=
  postPlan pk 0x0609 3 (le 2 slot ++ le 4 (k % 2 ^ 32) ++ le 1 e ++ le 4 l) s

/-! ### Output records (R332 to R334) -/

/-- A session entry of a step-batch record: tenant × 64 + queue, session, bytes. -/
abbrev OutEntry := Nat × Nat × Bytes

/-- The 48 bytes of a session entry. -/
def outEntry (sid pos flags : Nat) (ts : List Nat) : Bytes :=
  padTo 48 (le 4 sid ++ le 4 pos ++ le 1 ts.length ++ le 1 flags ++ zeros 2 ++ ts.flatMap (le 4))

/-- Length of a record with `n` entries. -/
def recordLength (n : Nat) : Nat := ceilDiv (64 + 48 * n) 64 * 64

/-- Move a queue's tail over `len` bytes: at the end of the ring it returns to 0 and the phase toggles. -/
def Outq.advance (q : Outq) (len : Nat) : Outq :=
  let t := q.tail + len
  if q.size ≤ t then { q with tail := 0, phase := !q.phase, marks := q.marks ++ [0] }
  else { q with tail := t, marks := q.marks ++ [t] }

/-- Header bytes 0 to 23 of a record. -/
def recordHead (q : Outq) (len type count entries part epoch : Nat) : Bytes :=
  le 4 len ++ le 1 type ++ le 1 (b2n q.phase + 2 * b2n (q.encrypt && type == 1)) ++ le 2 q.tenant ++ le 8 count ++
    le 2 entries ++ le 1 part ++ zeros 1 ++ le 4 epoch

/-- Replace an output queue. -/
def setOutq (k : Nat) (q : Outq) (s : State) : State :=
  { s with host := { s.host with outqs := tset none s.host.outqs k (some q) } }

/-- A pad record to the end of the ring when the next record does not fit before it. -/
def padRing (k : Nat) (q : Outq) (len : Nat) (s : State) : Outq × State :=
  if q.tail + len ≤ q.size then (q, s) else
  let n := q.size - q.tail
  let s := hostWrite q.owner (q.base + q.tail) (padTo 64 (recordHead q n 0 0 0 0 0)) s
  let q := q.advance n
  (q, setOutq k q s)

/-- The output queue of a tenant by number; none where it is absent, or another tenant's. -/
def queueOf (s : State) (tenant k : Nat) : Option Outq := (tget none s.host.outqs k).filter fun q => q.tenant == tenant

/-- Write one step-batch record: entries first, the header last. Without a queue of the tenant it waits for one (R506). -/
def writeRecord (key part epoch count : Nat) (es : List Bytes) (s : State) : State :=
  let k := key % 64
  match queueOf s (key / 64) k with
  | none => { s with host := { s.host with orphans := s.host.orphans ++ [⟨key, count, part, epoch, es⟩] } }
  | some q =>
    let len := recordLength es.length
    let (q, s) := padRing k q len s
    let head := recordHead q len 1 count es.length part epoch
    let body := padTo (len - 64) es.flatten
    let (body, nonce, tag) := if q.encrypt then
        let r := gcmSeal q.key (le 12 q.nonce) head body
        (r.1, le 12 q.nonce, r.2)
      else (body, zeros 12, zeros 16)
    let s := hostWrite q.owner (q.base + q.tail + 64) body s
    let s := hostWrite q.owner (q.base + q.tail) (padTo 64 (head ++ nonce ++ zeros 4 ++ tag)) s
    setOutq k { q.advance len with nonce := if q.encrypt then q.nonce + 1 else q.nonce } s

/-- One record for each queue that has entries, sessions in ascending order (R333). -/
def writeRecords (part epoch : Nat) (es : List OutEntry) (s : State) : State :=
  (es.map (·.1)).eraseDups.foldl (fun s k =>
    let mine := sortBy (fun a b : OutEntry => decide (a.2.1 ≤ b.2.1)) (es.filter fun e => e.1 == k)
    writeRecord k part epoch s.spin.count (mine.map (·.2.2)) s) s

/-! ### Sessions' steps (R330) -/

/-- The session of a step after its commit: pending input, counts, drafts, stop or move. A stop decides where the session goes,
whatever had queued it again before (R311). -/
def sessionAfter (x : Session) (c : Commit) (eaten : Nat) : Session :=
  let d := c.dec
  let pending := x.pending.drop eaten
  let stop := if d.flags.testBit 1 then some 0 else if d.flags.testBit 2 then some 1 else x.stop
  { x with
    pending := pending, run := x.run + d.gen, total := x.total + d.gen
    drafts := if x.state = 2 then d.drafts.take x.tree.length else []
    stop := stop, requeue := x.requeue && !d.flags.testBit 1 && !d.flags.testBit 2
    moving := x.moving || (x.state == 1 && pending.isEmpty && stop.isNone) }

/-- The tokens that a commit appends to the log, with the records of R275. -/
def loggedTokens (c : Commit) : List Nat :=
  let fed := if c.step.kind = 0 then [] else
    ((c.step.tokens.take c.dec.entries).drop c.step.delta).filterMap fun t => t.map (· + 2 ^ 20)
  fed ++ c.dec.tokens

/-- Host tokens that a commit consumes. -/
def eatenTokens (c : Commit) : Nat := if c.step.kind = 0 then 0 else c.dec.entries - c.step.delta

/-- The output entry of a commit with generated tokens. -/
def commitEntry (x : Session) (c : Commit) : Option OutEntry :=
  if c.dec.gen = 0 then none else
  let pos := if c.step.kind = 0 then c.step.base + 1 else c.step.base + c.dec.entries
  let flags := bits c.dec.flags 2 1 + 4 * b2n (c.step.kind != 0) + 8 * b2n c.replayed + 16 * b2n x.digref
  some (x.tenant * 64 + x.outq, x.id, outEntry x.id pos flags c.dec.tokens)

/-- Commit a session's step of a slot whose home stack is `home` (R291, R294, R330). -/
def commitSession (pk home : Nat) (k sid : Nat) (cm : Commit) (s : State) : State × Option OutEntry :=
  match ctxAt s k, sessionAt s sid with
  | some c, some x =>
    let acc := accepted cm.step.kind cm.dec
    match missingEntry c cm.step.slot cm.tail acc with
    | some (e, l) => (postTailIncomplete pk cm.step.slot k e l (setCtx k (some (freeTail c)) s), none)
    | none =>
      let c := copyEntries cm.step.slot cm.step.base home (passTurn s pk) cm.tail acc c
      let c := freeTail { c with mark := cm.step.base + acc.length, log := c.log ++ loggedTokens cm }
      (setSession sid (some (sessionAfter x cm (eatenTokens cm))) (setCtx k (some c) s), commitEntry x cm)
  | _, _ => (s, none)

/-! ### Recompute jobs (R302) -/

/-- The pages of a recomputed span are Hot again, and their records are new; a page that the pass brought back has its pass's
turn as its stamp (R296, R298). -/
def healSpan (c : Ctx) (span home turn : Nat) : Ctx :=
  { c with pages := c.pages.map fun (n, o) =>
      (n, o.map fun p => if p.tier ≠ 0 ∧ pageSpan c n = span then ⟨0, home, p.data, turn, 0, 0, []⟩ else p) }

/-- The moves of a span's pages end. -/
def dropMoves (k : Nat) (c : Ctx) (span : Nat) (s : State) : State :=
  { s with serve := { s.serve with moves := s.serve.moves.filter fun m => m.ctx != k || pageSpan c m.page != span } }

/-- Commit one pass of a recompute job under R291: a whole span, or nothing but the end of its tail (R292, R302). -/
def commitRecompute (pk home k : Nat) (cm : Commit) (s : State) : State :=
  match ctxAt s k with
  | none => s
  | some c =>
    match c.recompute with
    | none => s
    | some r =>
      let acc := accepted 1 cm.dec
      let r := { r with passes := r.passes + 1 }
      let none' := freeTail { c with recompute := some r }
      if acc.length < cm.step.avail then setCtx k (some none') s else
      match missingEntry c cm.step.slot cm.tail acc with
      | some (e, l) => postTailIncomplete pk cm.step.slot k e l (setCtx k (some none') s)
      | none =>
        let sp := cm.step.base / 2 ^ spanExp c
        let turn := passTurn s pk
        let s := dropMoves k c sp s
        let c := copyEntries cm.step.slot cm.step.base home turn cm.tail acc (healSpan c sp home turn)
        let c := freeTail { c with mark := max c.mark (cm.step.base + acc.length) }
        let r := { r with spans := r.spans + 1 }
        if incomplete c then setCtx k (some { c with recompute := some r }) s
        else
          postEvent 8 0 0x0602 1 (le 2 c.tenant ++ le 4 c.id ++ le 4 r.spans ++ le 4 r.passes)
            (setCtx k (some { c with recompute := none, imported := false }) s)

/-! ### Consolidation jobs (R306 to R308) -/

/-- The elements of a matrix row as stored: 32 values of each block. -/
def rowValues (kind : ElemKind) (row : Bytes) (n : Nat) : List Dyad :=
  (List.range n).flatMap fun b =>
    let x := rowBlock kind row n b
    x.elems.map fun v => dmul v x.scale

/-- A row of `n` blocks from its values (R196, R269). -/
def formRow (kind : ElemKind) (n : Nat) (vs : List Dyad) : Bytes :=
  let bs := (List.range n).map fun b => writeBlock kind ((vs.drop (32 * b)).take 32)
  padTo (32 * ceilDiv n 32) (bs.flatMap fun b => le 1 b.scale) ++
    padTo (32 * ceilDiv (n * blockBytes kind) 32) (bs.flatMap fun b => elemBytes kind b.codes)

/-- The rows of an adapter image: the element key of a row's first element, its place, its blocks. -/
def adapterRows (raw : Bytes) : List (Nat × Nat × Nat) :=
  (List.range (siteCount raw)).flatMap fun i =>
    match siteAt raw i with
    | none => []
    | some x =>
      (List.range (rankOf raw)).map (fun j => (i * 2 ^ 34 + j * rowElems raw x false, rowA raw x j, x.inBlocks)) ++
      (List.range x.outLen).map fun j =>
        (i * 2 ^ 34 + 2 ^ 33 + j * rowElems raw x true, rowB raw x j, rankBlocks raw)

/-- The FP32 masters of an adapter image, by element (R306). -/
def mastersOf (raw : Bytes) : Tab Nat :=
  (adapterRows raw).foldl (fun t (key, off, n) =>
    ((rowValues (adapterKind raw) (slice raw off (rowBytes (adapterKind raw) n)) n).zipIdx).foldl
      (fun t (v, i) => tset 0 t (key + i) (enc32 (rn v))) t) []

/-- An image with bytes replaced from `off` on. -/
def splice (b : Bytes) (off : Nat) (x : Bytes) : Bytes := b.take off ++ x ++ b.drop (off + x.length)

/-- The element form rebuilt from the masters (R307). -/
def rebuildForm (raw : Bytes) (masters : Tab Nat) : Bytes :=
  (adapterRows raw).foldl (fun b (key, off, n) =>
    splice b off (formRow (adapterKind raw) n ((List.range (32 * n)).map fun i => (read32 (tget 0 masters (key + i))).v))) raw

/-- One staged update (R307). -/
def applyUpdate (j : Job) (u : Update) : Job :=
  let beta := (read32 j.momentum).v
  let eta := (read32 j.lr).v
  let m := rn (dadd (rn (dmul beta (read32 (tget 0 j.momenta u.key)).v)) (rn u.grad))
  let t := rn (dsub (read32 (tget 0 j.masters u.key)).v (rn (dmul eta m)))
  { j with momenta := tset 0 j.momenta u.key (enc32 m), masters := tset 0 j.masters u.key (enc32 t) }

/-- The updates of one step, in ascending stack order and then in cut-list order. -/
def orderedUpdates (us : List Update) : List Update :=
  sortBy (fun a b : Update => decide (a.st < b.st) || (a.st == b.st && decide (a.pos ≤ b.pos))) us

/-- Versions of an adapter that are resident. -/
def residents (s : State) (id : Nat) : List Nat := (tkeys s.model.adapters).filter fun k => k / 256 == id

/-- Post CTX_JOB_DONE and end a context's job: causes done, cancelled, store full. How "none" is written as the new
version is a free value (log 8). -/
def endJob (k : Nat) (new : Option Nat) (cause : Nat) (s : State) : State :=
  match ctxAt s k with
  | none => s
  | some c =>
    match c.job with
    | none => s
    | some j =>
      let s := setCtx k (some { c with job := none }) s
      let s := { s with serve := { s.serve with jobs := s.serve.jobs.filter (· != k) } }
      let (version, s) := match new with
        | some v => (v, s)
        | none => freeBits 32 s
      let s := postEvent 8 0 0x0606 (if new.isSome then 1 else 2)
        (le 2 c.tenant ++ le 4 c.id ++ le 4 (j.adapter + j.version * 2 ^ 24) ++ le 4 version ++ le 4 j.steps ++ le 1 cause) s
      match j.cancel with
      | none => s
      | some tag => complete tag 0 0 0 s

/-- A version becomes pending; one that was pending is freed at the next boundary (R270). -/
def makePending (id v : Nat) (s : State) : State :=
  { s with model := { s.model with upcoming := tset none s.model.upcoming id (some v) } }

/-- A job's last commit loads the element form as the next version, when the store has room (R308). -/
def loadJob (k : Nat) (j : Job) (s : State) : State :=
  let v := (j.version + 1) % 256
  let key := j.adapter * 256 + v
  if 4 ≤ (residents s j.adapter).length ∨ (tget none s.model.adapters key).isSome ∨
      65536 ≤ (tkeys s.model.adapters).length then endJob k none 2 s
  else
    let head := slice j.form 4 4
    let raw := splice j.form 4 (head.take 3 ++ le 1 v)
    let a : Adapter := { tenant := fld raw 12 2, image := fld raw 8 4, rank := rankOf raw, kind := (byteAt raw 16).toNat
                         exp := signed 8 (byteAt raw 17).toNat, raw := raw, damaged := false }
    let s := { s with model := { s.model with adapters := tset none s.model.adapters key (some a) } }
    endJob k (some v) 0 (makePending j.adapter v s)

/-- Chunks of one sweep. -/
def jobChunks (j : Job) : Nat := ceilDiv (j.last - j.first) j.chunk

/-- Commit one pass of a consolidation job: staged values replace the working copy, and the next chunk follows. -/
def commitJob (k : Nat) (s : State) : State :=
  match ctxAt s k with
  | none => s
  | some c =>
    match c.job with
    | none => s
    | some j =>
      let j := (orderedUpdates j.staged).foldl applyUpdate { j with staged := [], steps := j.steps + 1 }
      let j := { j with form := rebuildForm j.form j.masters }
      let j := if j.next + 1 < jobChunks j then { j with next := j.next + 1 } else { j with next := 0, sweep := j.sweep + 1 }
      let s := setCtx k (some { c with job := some j }) s
      if j.epochs ≤ j.sweep then loadJob k j s else s

/-! ### Suspect steps (R404) -/

/-- Blank parameters for a step without a session. -/
def noSession : Session :=
  { id := 0, tenant := 0, ctx := 0, seed := 0, follow := false, digref := false, outq := 0, tree := [], adapter := none,
    temp := 0, topK := 0, window := 0, topP := 0, minP := 0, repPen := 0, presPen := 0, maxNew := 0, stops := [], state := 0,
    part := 0, slot := 0, pending := [], run := 0, total := 0, bank := 0, pinned := none, drafts := [], stop := none,
    requeue := false, moving := false, closing := none }

/-- Withhold a suspect step: its replay inputs are captured. -/
def withhold (pk : Nat) (p : Part) (x : Step) (s : State) : State :=
  let r : Replay := {
    part := pk, slot := x.slot, step := x, sess := (stepSession s x).getD noSession, causes := p.suspect
    decision := (decisionAt s p x.slot).getD [], tail := slotTail p x.slot, cores := p.blamed
    noTest := p.suspect.testBit 3, turn := s.spin.count / 8192, state := 0, host := none, partner := none
    result := [], own := [], updates := [], origin := none }
  { s with serve := { s.serve with
      replays := tset none s.serve.replays s.serve.nextReplay (some r), nextReplay := s.serve.nextReplay + 1 } }

/-- Count suspect steps of a stack: that of the slot's home. -/
def countSuspect (st n : Nat) (s : State) : State :=
  { s with integ := { s.integ with suspects := tset 0 s.integ.suspects st (tget 0 s.integ.suspects st + n) } }

/-! ### Step 1 of R83 -/

/-- The home stack of a slot of a partition. -/
def homeOf (p : Part) (slot : Nat) : Nat := ((p.d.slots.find? fun d => d.slot == slot).map (·.home)).getD 0

/-- A step's result leaves a context unchanged: its tail goes, and a job's staged updates. -/
def repeatStep (x : Step) (s : State) : State := discardTail x s

/-- Commit one step that is not suspect. -/
def commitStep (pk : Nat) (p : Part) (x : Step) (acc : State × List OutEntry) : State × List OutEntry :=
  let (s, es) := acc
  let home := homeOf p x.slot
  if x.empty || x.replay.isSome then (s, es)
  else if p.discards.contains x.slot then (repeatStep x s, es)
  else if x.job = 2 then
    (match x.ctx with
      | some k => if p.decided.any fun y => y.1 == x.slot then commitJob k s
          else postPlan pk 0x0506 3 (le 2 x.slot ++ le 4 x.sid) (repeatStep x s)
      | none => s, es)
  else match decisionAt s p x.slot, x.ctx with
    | some b, some k =>
      let cm : Commit := ⟨x, slotTail p x.slot, readDecision b, false⟩
      if x.job = 1 then (commitRecompute pk home k cm s, es)
      else
        let (s, e) := commitSession pk home k x.sid cm s
        (s, es ++ e.toList)
    | _, _ => (postPlan pk 0x0506 3 (le 2 x.slot ++ le 4 x.sid) (repeatStep x s), es)

/-- The updates of a replay of a consolidation step as it returns them. -/
def updateBytes (us : List Update) : Bytes :=
  us.flatMap fun u => le 8 u.key ++ le 16 (u.grad.m + 2 ^ 127).toNat ++ le 4 (u.grad.e + 2 ^ 31).toNat ++ le 1 u.st ++ le 4 u.pos

/-- The updates that such bytes stand for. -/
def updatesIn (b : Bytes) : List Update :=
  (List.range (b.length / 33)).map fun i =>
    let o := 33 * i
    ⟨fld b o 8, ⟨(fld b (o + 8) 16 : Int) - 2 ^ 127, (fld b (o + 24) 4 : Int) - 2 ^ 31⟩, fld b (o + 28) 1, fld b (o + 29) 4⟩

/-- The updates that a context's job has staged are those of its replay (R308). -/
def stageReplayed (k : Nat) (b : Bytes) (s : State) : State :=
  match ctxAt s k with
  | none => s
  | some c => setCtx k (some { c with job := c.job.map fun j => { j with staged := updatesIn (b.drop 224) } }) s

/-- A replay that has resolved commits at the partition's boundary: the original, or the replay's result (R407). -/
def commitReplay (pk : Nat) (p : Part) (n : Nat) (r : Replay) (acc : State × List OutEntry) : State × List OutEntry :=
  let (s, es) := acc
  let s := { s with serve := { s.serve with replays := tset none s.serve.replays n none } }
  let replaced := r.state == 3
  let b := if replaced then r.result else r.decision
  let tail := if replaced then r.own else r.tail
  let home := homeOf p r.slot
  match r.step.ctx with
  | none => (s, es)
  | some k =>
    if r.step.job = 2 then (commitJob k (if replaced then stageReplayed k b s else s), es)
    else if b.isEmpty then (repeatStep r.step s, es)
    else
      let cm : Commit := ⟨r.step, tail, readDecision b, replaced⟩
      if r.step.job = 1 then (commitRecompute pk home k cm s, es)
      else
        let (s, e) := commitSession pk home k r.step.sid cm s
        (s, es ++ e.toList)

/-- A replay's own step ends with its host's pass: its decision and tail are kept for REPLAY_RESULT; a suspect
host pass, or one without a decision, has it placed again. A consolidation step has no record; its updates are kept. -/
def endReplayStep (p : Part) (x : Step) (s : State) : State :=
  match x.replay with
  | none => s
  | some n =>
    match replayAt s n with
    | none => s
    | some r =>
      let back := { r with state := 0, host := none, result := [], own := [], updates := [] }
      let r := if p.suspect ≠ 0 || p.discards.contains x.slot then back else
        match decisionAt s p x.slot with
        | none => back
        | some b => if x.job = 2 then { r with result := zeros 224 ++ updateBytes r.updates } else { r with result := b, own := (slotTail p x.slot).map fun (k, v) => (k % 2 ^ 22 + r.slot * 2 ^ 22, v) }
      { s with serve := { s.serve with replays := tset none s.serve.replays n (some r) } }

/-- Whether a step has something to commit. -/
def Step.live (x : Step) : Bool := !x.empty && x.replay.isNone

/-- Step 1 of R83: STEP_SUSPECT and withheld steps, or commits; resolved replays; records of the output queues. -/
def commitPass (pk : Nat) (s : State) : State :=
  match partAt s pk with
  | none => s
  | some p =>
    let s := p.steps.foldl (fun s x => endReplayStep p x s) s
    let done := (tvals s.serve.replays).filter fun (_, r) => r.part == pk && (r.state == 2 || r.state == 3)
    let live := p.steps.filter (·.live)
    let (s, es) :=
      if p.suspect = 0 then live.foldl (fun acc x => commitStep pk p x acc) (s, [])
      else if live.isEmpty then (s, [])
      else
        let kept := live.filter fun x => !p.discards.contains x.slot
        let s := live.foldl (fun s x => if p.discards.contains x.slot then repeatStep x s else withhold pk p x s) s
        let s := kept.foldl (fun s x => countSuspect (homeOf p x.slot) 1 s) s
        (postPlan pk 0x0805 2 (le 4 p.suspect ++ le 4 kept.length) s, [])
    let s := emptyDecisions p s
    let (s, es) := done.foldl (fun acc (n, r) => commitReplay pk p n r acc) (s, es)
    writeRecords (pk % 16) p.epoch es s

end Sys2Proof.Machine
end

