-- ==== Sys2Proof/Machine/Banks.lean ====
section
/-!
DEFINITION. What a pass boundary does to banks, decks and cores: chuck switches and drains (R257 to R263), decks that
leave their banks (R252, R264), substitutions of cores (R411, R414), adapter versions (R270).
-/

namespace Sys2Proof.Machine

/-! ### Banks and their decks -/

/-- The model image of a partition's plan. -/
def imageOfPart (s : State) (pk : Nat) : Nat := ((planAt s (pk / 16)).map (·.d.model)).getD 0

/-- The running partitions whose plan runs a model image. -/
def imageParts (s : State) (image : Nat) : List Nat :=
  ((parts s).filter fun x => imageOfPart s x.1 == image).map (·.1)

/-- The bank of a chuck entry's key. -/
def bankOfKey (k : Nat) : Nat := k / 2097152

/-- The physical deck that an entry references, by its key and bytes (R256, R410). -/
def entryDeck (s : State) (x : Nat × Bytes) : Nat := physEngine s (x.1 / 32 % 65536) * 32 + chuckPhys x.2

/-- Whether a valid entry of some bank references a deck. -/
def referenced (s : State) (k : Nat) : Bool :=
  (tvals s.model.chuck).any fun x => chuckValid x.2 && entryDeck s x == k

/-- A Bound deck that no bank references any longer leaves Bound at the next boundary of every partition that runs a
plan of its image, or at once when none does (R252). `done` names a partition whose boundary this is. -/
def leaveDeck (done : Option Nat) (image k : Nat) (s : State) : State :=
  if referenced s k then s else
  let left := (imageParts s image).filter fun pk => some pk != done
  if left.isEmpty then freeDeck k s
  else { s with model := { s.model with leaving := s.model.leaving ++ [(k, left)] } }

/-- Decks that leave Bound: a partition that has a boundary, or runs no more, is waited for no longer. -/
def sweepLeaving (done : Option Nat) (s : State) : State :=
  let l := s.model.leaving.map fun (k, ps) => (k, ps.filter fun pk => some pk != done && (partAt s pk).isSome)
  let s := { s with model := { s.model with leaving := l.filter fun x => !x.2.isEmpty } }
  (l.filter fun x => x.2.isEmpty).foldl (fun s x => freeDeck x.1 s) s

/-- A bank of an image. -/
def bankAt (s : State) (image bank : Nat) : Option Bank := tget none s.model.banks (image * 2 + bank)

/-- Replace a bank of an image. -/
def setBank (image bank : Nat) (b : Option Bank) (s : State) : State :=
  { s with model := { s.model with banks := tset none s.model.banks (image * 2 + bank) b } }

/-- The entries of an image in a bank, with their keys. -/
def bankEntries (s : State) (image bank : Nat) : List (Nat × Bytes) :=
  (tvals s.model.chuck).filter fun x => bankOfKey x.1 == bank && fld x.2 0 4 == image

/-- A version's region and model areas are freed when its last bank is Empty (R264). -/
def freeRegion (image version : Nat) (s : State) : State :=
  if (List.range 2).any fun b => (bankAt s image b).any fun x => x.version == version then s else
  { s with model := { s.model with manifests := s.model.manifests.map fun m =>
      if m.id = image ∧ m.version = version then { m with region := none, areas := [] } else m } }

/-- A bank becomes Empty: its entries are cleared and its decks leave; the number of decks that no bank references
any longer. -/
def clearBank (done : Option Nat) (image bank : Nat) (s : State) : State × Nat :=
  let mine := bankEntries s image bank
  let decks := (mine.map (entryDeck s)).eraseDups
  let version := ((bankAt s image bank).map (·.version)).getD 0
  let s := setBank image bank none { s with model := { s.model with
    chuck := mine.foldl (fun t x => tset none t x.1 none) s.model.chuck } }
  let gone := decks.filter fun k => !referenced s k
  (freeRegion image version (gone.foldl (fun s k => leaveDeck done image k s) s), gone.length)

/-- The admitted sessions pinned to a bank of an image, with their IDs. -/
def pinnedTo (s : State) (image bank : Nat) : List (Nat × Session) :=
  (tvals s.serve.sessions).filter fun x => x.2.admitted && x.2.bank == bank && (ctxAt s x.2.ctx).any fun c => c.image == image

/-- The current bank of an image. -/
def currentBank (s : State) (image : Nat) : Option Nat :=
  (List.range 2).find? fun b => (bankAt s image b).any fun x => x.role == 1

/-! ### Chuck switches (R260 to R262) -/

/-- The named bank becomes current; the old current bank becomes retained, or standby when no session is pinned to it
and no partition still runs on it. Drains of an earlier switch are over. -/
def takeRoles (image bank : Nat) (s : State) : State :=
  let other := 1 - bank
  let s := { s with model := { s.model with drains := s.model.drains.filter fun d => d.image != image } }
  let s := match bankAt s image bank with
    | some b => setBank image bank (some { b with role := 1 }) s
    | none => s
  match bankAt s image other with
  | some o =>
    if o.role ≠ 1 then s else
    let held := !(pinnedTo s image other).isEmpty || (imageParts s image).any fun pk =>
      (partAt s pk).any fun p => p.current == other
    setBank image other (some { o with role := if held then 2 else 0 }) s
  | none => s

/-- Update one switch of the list, by its tag. -/
def setSwitch (w : Switch) (s : State) : State :=
  { s with model := { s.model with switches := s.model.switches.map fun x => if x.tag = w.tag then w else x } }

/-- The drain of a partition begins with a switch that sets one (R262). -/
def beginDrain (w : Switch) (pk : Nat) (s : State) : State :=
  if w.limit = 0 || s.model.drains.any fun d => d.image == w.image && d.part == pk then s else
  { s with model := { s.model with drains :=
    s.model.drains ++ [⟨w.image, 1 - w.bank, pk, s.spin.count / 8192, w.limit, w.action⟩] } }

/-- The sessions of a partition whose policy is Follow are pinned to a bank (R260). -/
def pinFollowers (image bank pk : Nat) (s : State) : State :=
  { s with serve := { s.serve with sessions := s.serve.sessions.map fun (k, o) => (k, o.map fun x =>
      if x.admitted ∧ x.part = pk ∧ x.follow ∧ (ctxAt s x.ctx).any (fun c => c.image == image) then { x with bank := bank }
      else x) } }

/-- The partitions that run no pass and hold sessions of an image. -/
def restingParts (s : State) (image : Nat) : List Nat :=
  (((tvals s.serve.sessions).filter fun x => x.2.admitted && (partAt s x.2.part).isNone &&
    (ctxAt s x.2.ctx).any fun c => c.image == image).map fun x => x.2.part).eraseDups

/-- A switch that has begun takes effect at once in the partitions that do not run and need not switch at a boundary of
their own (R260). -/
def switchResting (w : Switch) (s : State) : State :=
  ((restingParts s w.image).filter fun pk => !w.left.contains pk).foldl (fun s pk =>
    let s := pinFollowers w.image w.bank pk s
    if (pinnedTo s w.image (1 - w.bank)).any fun x => x.2.part == pk then beginDrain w pk s else s) s

/-- A switch takes effect in a partition (R260). -/
def switchPart (pk : Nat) (w : Switch) (s : State) : State :=
  match partAt s pk with
  | none => s
  | some p =>
    let s := setPart pk (some { p with current := w.bank, bank := w.bank }) s
    let s := pinFollowers w.image w.bank pk s
    let s := if w.begun then s else takeRoles w.image w.bank s
    let s := setSwitch { w with left := w.left.filter (· != pk), begun := true, last := s.spin.count } s
    let s := beginDrain w pk s
    postEvent 6 0 0x0303 1 (le 4 w.image ++ le 1 w.bank ++ le 1 (pk % 16) ++ le 8 s.spin.count) s

/-- Whether a partition may still switch: it runs, or its plan is Halted or armed again. -/
def maySwitch (s : State) (pk : Nat) : Bool :=
  (partAt s pk).isSome || (planAt s (pk / 16)).any fun p => p.state == 3 || p.state == 1

/-- Switches that every partition has made are complete; one that waits for no partition takes effect at once. -/
def endSwitches (s : State) : State :=
  s.model.switches.foldl (fun s w =>
    let w := { w with left := w.left.filter (maySwitch s) }
    if !w.left.isEmpty then (if w.begun then switchResting w (setSwitch w s) else setSwitch w s) else
    let s := switchResting w (if w.begun then s else takeRoles w.image w.bank s)
    let last := if w.begun then w.last else s.spin.count
    complete w.tag 0 0 last { s with model := { s.model with switches := s.model.switches.filter fun x => x.tag != w.tag } }) s

/-- The bank in force in the coming pass (R261): a switch, or the alternation of a drain; sessions are admitted at a
boundary where the current bank has come into force. -/
def stepBank (pk : Nat) (s : State) : State :=
  match partAt s pk with
  | none => s
  | some p =>
    let image := imageOfPart s pk
    let due := s.model.switches.find? fun w => w.image == image && w.left.contains pk && decide (w.turn ≤ s.spin.count / 8192)
    match due with
    | some w =>
      let s := switchPart pk w s
      match partAt s pk with
      | some p => setPart pk (some { p with admits := true }) s
      | none => s
    | none =>
      let old := 1 - p.current
      let pinned := (pinnedTo s image old).any fun x => x.2.part == pk
      let bank := if p.bank = p.current ∧ pinned then old else p.current
      setPart pk (some { p with bank := bank, admits := bank == p.current }) s

/-- The sessions of a partition that its drain still waits for. -/
def drained (s : State) (d : Drain) : List (Nat × Session) :=
  (pinnedTo s d.image d.bank).filter fun x => x.2.part == d.part

/-- What DRAIN_ACTION does with a session: pinned to the other bank, or it departs; one that has stopped at this boundary
departs with its stop (R262, R311). -/
def Session.expire (x : Session) (d : Drain) : Session :=
  if d.action = 0 then { x with bank := 1 - d.bank }
  else if x.stop.isSome then x
  else { x with requeue := true, stop := some 3 }

/-- Drains at a boundary of a partition: one that no session waits for is over; the sessions of one whose turns have passed
are pinned to the current bank, or depart (R262). -/
def endDrains (pk : Nat) (s : State) : State :=
  let mine := s.model.drains.filter fun d => d.part == pk &&
    ((drained s d).isEmpty || decide (d.turn + d.limit ≤ s.spin.count / 8192))
  mine.foldl (fun s d =>
    let s := { s with model := { s.model with drains := s.model.drains.filter (· != d) } }
    let old := drained s d
    if old.isEmpty then s else
    let s := old.foldl (fun s (id, x) => setSession id (some (x.expire d)) s) s
    postEvent 6 0 0x0304 2 (le 4 d.image ++ le 1 (pk % 16) ++ le 4 old.length) s) s

/-- A retained bank to which no session is pinned and which is not in force becomes Empty at a boundary (R259). -/
def freeRetained (pk image : Nat) (s : State) : State :=
  (List.range 2).foldl (fun s b =>
    match bankAt s image b with
    | none => s
    | some x =>
      let used := !(pinnedTo s image b).isEmpty || (imageParts s image).any fun q =>
        (partAt s q).any fun p => p.bank == b || p.current == b
      if x.role ≠ 2 ∨ used then s else
      let (s, n) := clearBank (some pk) image b s
      postEvent 6 0 0x0305 1 (le 4 image ++ le 4 x.version ++ le 4 n) s) s

/-! ### Substitution of cores (R410, R411, R414) -/

/-- Copy the store of one core to another, contents and full bits. -/
def copyStore (st old new : Nat) (s : State) : State :=
  let a := coreBase st old
  let b := coreBase st new
  let full := s.stores.full.filter fun x => !(decide (b ≤ x.1) && decide (x.1 < b + 32768))
  let olds := s.stores.full.filter fun x => decide (a ≤ x.1) && decide (x.1 < a + 32768)
  let bytes := s.stores.mem.filter fun x => decide (32 * a ≤ x.1) && decide (x.1 < 32 * (a + 32768))
  { s with stores := { s.stores with
      mem := bytes.foldl (fun m x => tset 0#8 m (x.1 - 32 * a + 32 * b) x.2) (mclear s.stores.mem (32 * b) (32 * 32768))
      full := olds.foldl (fun t x => tset false t (x.1 - a + b) x.2) full } }

/-- The bank entries of a core's engines name the side data of the physical decks that now serve them (R256, R414). -/
def resideEntries (core : Nat) (s : State) : State :=
  { s with model := { s.model with chuck := s.model.chuck.map fun (k, o) => (k, o.map fun b =>
    if coreOf (k / 32 % 65536) = core ∧ chuckValid b then
      match s.model.pool.find? fun x => x.2.2.2 == entryDeck s (k, b) with
      | some x => withSide x.2.1 b
      | none => b
    else b) } }

/-- A staged substitution takes effect (R414): `done` names the partition whose boundary this is. An old core that meanwhile serves
another core that a plan names goes on serving it (DESIGN CHOICE, log 67). -/
def substitute (done : Option Nat) (h : Hone) (s : State) : State :=
  let olds := (List.range 4).flatMap fun j => (distinctDecks (boundDecks s (gea h.st h.core j))).map fun (d, b) =>
    (gea h.st h.core j * 32 + d, fld b 0 4)
  let key := h.st * 640 + h.logical
  let s := { s with integ := { s.integ with
    subst := tset none s.integ.subst key (if h.spare = h.logical then none else some h.spare)
    hones := s.integ.hones.filter fun x => x.st != h.st || x.core != h.core
    marks := tset 0 s.integ.marks (h.st * 640 + h.core) 0
    intense := tset false s.integ.intense (h.st * 640 + h.core) false } }
  let s := copyStore h.st h.core h.spare s
  let still := (List.range 640).any fun l => physCore s h.st l == h.core && namedByPlan s h.st l
  let s := { s with arr := { s.arr with
    refs := tset none (tset none s.arr.refs (h.st * 640 + h.spare) (tget none s.arr.refs (h.st * 640 + h.core)))
      (h.st * 640 + h.core) (if still then tget none s.arr.refs (h.st * 640 + h.core) else none)
    refOn := tset false (tset false s.arr.refOn (h.st * 640 + h.spare) (tget false s.arr.refOn (h.st * 640 + h.core)))
      (h.st * 640 + h.core) (still && tget false s.arr.refOn (h.st * 640 + h.core))
    active := (List.range 4).foldl (fun t j =>
      tset 0 t (gea h.st h.spare j) (tget 0 s.arr.active (gea h.st h.core j))) s.arr.active
    noDeck := (List.range 4).foldl (fun t j =>
      tset false t (gea h.st h.spare j) (tget false s.arr.noDeck (gea h.st h.core j))) s.arr.noDeck } }
  let s := olds.foldl (fun s (k, image) => leaveDeck done image k s) (resideEntries key s)
  let s := setCore (h.st * 640 + h.spare) 0 (if still then s else setCore (h.st * 640 + h.core) (if h.retire then 5 else 3) s)
  let s := postEvent 4 h.st 0x0809 1 (le 1 h.st ++ le 2 h.logical ++ le 2 h.core ++ le 2 h.spare) s
  match h.tag with
  | some tag => complete tag 0 0 h.spare s
  | none => s

/-- Substitutions staged on the stacks of a partition take effect at its boundary. -/
def stepCores (pk : Nat) (d : PartDef) (s : State) : State :=
  (s.integ.hones.filter fun h => h.staged && d.mask.testBit h.st).foldl (fun s h => substitute (some pk) h s) s

/-- Substitutions staged on stacks that no running partition holds take effect at once. -/
def idleCores (s : State) : State :=
  (s.integ.hones.filter fun h => h.staged && idleStack s h.st).foldl (fun s h => substitute none h s) s

/-- The stacks' marks of intensified checking (R411): a cleared mark goes, and completes its request; a marked core is
under intensified checking from this boundary on. -/
def stepMarks (on : Nat → Bool) (s : State) : State :=
  let mine := s.integ.clearing.filter fun x => on (x.2 / 640)
  let s := { s with integ := { s.integ with clearing := s.integ.clearing.filter fun x => !on (x.2 / 640) } }
  let s := mine.foldl (fun s (tag, c) => complete tag 0 0 0xFFFF
    (if coreState s c = 1 then setCore c 0 (unmark c s) else s)) s
  let marked := s.integ.marks.filter fun x => on (x.1 / 640)
  { s with integ := { s.integ with intense := marked.foldl (fun t x => tset false t x.1 true) s.integ.intense } }

/-- Whether a stack holds a core under intensified checking. -/
def intenseOn (s : State) (d : PartDef) : Bool := s.integ.intense.any fun x => x.2 && d.mask.testBit (x.1 / 640)

/-! ### Adapter versions (R270) -/

/-- The references of an adapter version: sessions pinned to it, and 1 while it is current or pending. A job that
works from it is none. -/
def adapterRefs (s : State) (key : Nat) : Nat :=
  ((tvals s.serve.sessions).filter fun x => x.2.admitted && x.2.pinned == some key).length +
    b2n (tget none s.model.current (key / 256) == some (key % 256)) +
    b2n (tget none s.model.upcoming (key / 256) == some (key % 256))

/-- Post an adapter event: ID with the version in [31:24], as R484 gives the two, then the rest. -/
def adapterEvent (code key : Nat) (pay : Bytes) (s : State) : State :=
  postEvent 6 0 code 1 (le 4 (key / 256 + key % 256 * 2 ^ 24) ++ pay) s

/-- Versions that nothing references any longer are freed. -/
def freeAdapters (s : State) : State :=
  ((tkeys s.model.adapters).filter fun k => adapterRefs s k == 0).foldl (fun s k =>
    adapterEvent 0x0402 k [] { s with model := { s.model with adapters := tset none s.model.adapters k none } }) s

/-- Step 6 of R83: pending versions become current, sessions that Follow are pinned to them, retired adapters have no
current version. -/
def stepAdapters (pk : Nat) (s : State) : State :=
  let ups := (tvals s.model.upcoming).map fun (a, v) => a * 256 + v
  let others := (parts s).filter fun x => x.1 != pk
  let mine := (s.model.adopt.filter fun x => x.1 == pk).map (·.2) ++ ups
  let rest := s.model.adopt.filter fun x => x.1 != pk && (partAt s x.1).isSome
  let s := { s with model := { s.model with
    current := s.model.retiring.foldl (fun t a => tset none t a none)
      (ups.foldl (fun t k => tset none t (k / 256) (some (k % 256))) s.model.current)
    upcoming := [], retiring := []
    adopt := rest ++ ups.flatMap fun k => others.map fun x => (x.1, k) } }
  let s := mine.foldl (fun s k => adapterEvent 0x0401 k (le 1 (pk % 16)) s) s
  { s with serve := { s.serve with sessions := s.serve.sessions.map fun (k, o) =>
      (k, o.map fun x => if x.admitted ∧ x.part = pk ∧ x.follow then
        match x.adapter.bind fun a => (tget none s.model.current a).map (a * 256 + ·) with
        | some p => { x with pinned := some p }
        | none => x
      else x) } }

end Sys2Proof.Machine
end

