-- ==== Sys2Proof/Machine/Admit.lean ====
section
/-!
DEFINITION. Step 7 of a pass boundary (R83): departures, replays, moves, jobs and admissions (R302, R306, R311, R313 to
R316, R405, R408), and what each slot computes in the coming pass with its input record (R299, R303, R318, R335).
-/

namespace Sys2Proof.Machine

/-! ### Slots -/

/-- Whether a step of a session is withheld (R85): its replay has not committed. -/
def withheld (s : State) (sid : Nat) : Bool :=
  (tvals s.serve.replays).any fun (_, r) => r.step.sess == some sid

/-- Whether a job's step is withheld. -/
def jobWithheld (s : State) (k : Nat) : Bool :=
  (tvals s.serve.replays).any fun (_, r) => r.step.sess.isNone && r.step.ctx == some k

/-- The session that holds a slot of a partition. -/
def slotSession (s : State) (pk slot : Nat) : Option (Nat × Session) :=
  (tvals s.serve.sessions).find? fun x => x.2.admitted && x.2.part == pk && x.2.slot == slot

/-- The context whose job holds a slot of a partition, and whether it is a recompute job. -/
def slotJob (s : State) (pk slot : Nat) : Option (Nat × Bool) :=
  (tvals s.serve.ctxs).findSome? fun (k, c) =>
    if c.recompute.any fun r => r.part == pk && r.slot == slot then some (k, true)
    else if c.job.any fun j => j.place == some (pk, slot) then some (k, false)
    else none

/-- The replay that a slot hosts. -/
def slotReplay (s : State) (pk slot : Nat) : Option (Nat × Replay) :=
  (tvals s.serve.replays).find? fun x => x.2.state == 1 && x.2.host == some (pk, slot)

/-- Whether a slot is free. -/
def slotFree (s : State) (pk slot : Nat) : Bool :=
  (slotSession s pk slot).isNone && (slotJob s pk slot).isNone && (slotReplay s pk slot).isNone

/-- The slots of a partition in ascending order. -/
def orderedSlots (d : PartDef) : List SlotDef := sortBy (fun a b : SlotDef => decide (a.slot ≤ b.slot)) d.slots

/-- The lowest-numbered free slot of a kind that satisfies a condition. -/
def freeSlot (s : State) (pk : Nat) (kind : Nat) (ok : SlotDef → Bool) : Option SlotDef :=
  match partAt s pk with
  | none => none
  | some p => (orderedSlots p.d).find? fun d => d.kind == kind && ok d && slotFree s pk d.slot

/-- Depth of a session's draft tree. -/
def treeDepth (tree : List (Nat × Nat × Nat)) : Nat :=
  ((span 1 tree.length).map fun n => depthOf tree 33 n).foldl max 0

/-- The armed plans that will take stacks over from a partition (R75, R76). -/
def successors (s : State) (pk : Nat) : List Plan :=
  match partAt s pk with
  | none => []
  | some p => ((plansOf s).filter fun (_, q) => (q.state == 1 || q.state == 2) && q.replaces.contains (pk / 16) &&
      q.d.parts.any fun d => q.waiting.contains d.part && (d.mask &&& p.d.mask) != 0).map (·.2)

/-- Whether a slot may be given to a session of an image while a plan switch is armed (R76). -/
def slotStays (s : State) (pk : Nat) (image depth : Nat) (digref : Bool) (d : SlotDef) : Bool :=
  (successors s pk).all fun q => q.d.model == image && q.d.digref == digref &&
    q.d.parts.any fun e => e.slots.any fun y => y.slot == d.slot && y.kind == d.kind && (d.kind != 0 || decide (depth + 1 ≤ y.maxCommit))

/-- Whether a session may take a slot of its kind (R314, R76). -/
def slotServes (s : State) (pk : Nat) (c : Ctx) (x : Session) (d : SlotDef) : Bool :=
  let depth := treeDepth x.tree
  (d.kind != 0 || decide (depth + 1 ≤ d.maxCommit)) && slotStays s pk c.image depth x.digref d

/-! ### Departures (R311) -/

/-- The next state of a session that departs: closed sessions end, others are Idle or queued again. -/
def departOne (id : Nat) (x : Session) (s : State) : State :=
  let cause := if x.closing.isSome then some 2 else x.stop
  let s := match cause with
    | some c => postEvent 7 0 0x0503 1 (le 4 id ++ le 1 c) s
    | none => s
  match x.closing with
  | some tag => complete tag 0 0 x.total (setSession id none s)
  | none =>
    let again := x.requeue || !x.pending.isEmpty
    let y := { x with state := if again then 0 else 3, stop := none, requeue := false, moving := false, drafts := []
                      pinned := none }
    let s := setSession id (some y) s
    if again then { s with serve := { s.serve with queue := s.serve.queue ++ [id] } } else s

/-- Sessions of a partition whose stop, close or drain takes effect, in ascending session ID; a withheld step holds its
session back. -/
def departures (pk : Nat) (s : State) : State :=
  ((tvals s.serve.sessions).filter fun (id, x) => x.admitted && x.part == pk && !withheld s id &&
    (x.stop.isSome || x.requeue || x.closing.isSome)).foldl (fun s (id, x) => departOne id x s) s

/-- Jobs whose cancellation takes effect at a boundary of their partition, or that hold no running slot (R308). -/
def cancelJobs (pk : Nat) (s : State) : State :=
  ((tvals s.serve.ctxs).filter fun (_, c) => c.job.any fun j => j.cancel.isSome &&
    j.place.all fun x => x.1 == pk || (partAt s x.1).isNone).foldl (fun s (k, _) => endJob k none 1 s) s

/-! ### Replays (R405, R408, R409) -/

/-- The version of the weights that a bank of an image holds. -/
def bankVersion (s : State) (image bank : Nat) : Option Nat := (bankAt s image bank).map (·.version)

/-- The version of its model image that a replay computes with: that of the bank its session was pinned to, or the one a
partner names. -/
def replayVersion (s : State) (c : Ctx) (r : Replay) : Option Nat :=
  match r.origin with
  | some x => some x.2.2
  | none => bankVersion s c.image r.step.bank

/-- Whether a partition can host a replay: a Digital Reference plan of the same image version. A partner's replay needs
its adapter version here. -/
def canHost (s : State) (pk : Nat) (r : Replay) : Bool :=
  match planDefOf s pk, partAt s pk, r.step.ctx.bind (ctxAt s) with
  | some d, some p, some c =>
    d.digref && d.model == c.image && bankVersion s c.image p.bank == replayVersion s c r &&
      (r.origin.isNone || r.step.adapter.all fun a => (tget none s.model.adapters a).isSome)
  | _, _, _ => false

/-- Update a replay. -/
def setReplay (n : Nat) (r : Replay) (s : State) : State :=
  { s with serve := { s.serve with replays := tset none s.serve.replays n (some r) } }

/-- The connection on which a partner of the policy takes replays: named by the map and Attached. -/
def partnerConn (s : State) (m : Nat) : Option (Nat × MapEntry) :=
  (entryIn (appliedMap s) m).bind fun e => (liveConns s e).head?.map fun k => (k, e)

/-! Replay messages between modules: R408 names what they hold and gives no layout; this one is the model's (DESIGN
CHOICE, log 44). A message travels in parts of 1,008 bytes behind a head of 16: its kind (1 request, 2 page, 3 result),
3 bytes of 0, the asking module's number of the replay, the message's length, the part's offset. A page's part
has 512 bytes, and the page's name on 8 bytes in place of the length. -/

/-- The parts of a message. -/
def messageParts (kind n : Nat) (b : Bytes) : List Bytes :=
  (List.range (ceilDiv b.length 1008)).map fun i =>
    le 1 kind ++ zeros 3 ++ le 4 n ++ le 4 b.length ++ le 4 (1008 * i) ++ (b.drop (1008 * i)).take 1008

/-- Whether a received payload is part of a message. -/
def isPart (src type kind n : Nat) (x : Nat × Nat × Bytes) : Bool :=
  x.1 == src && x.2.1 == type && fld x.2.2 0 1 == kind && fld x.2.2 4 4 == n

/-- A message of which every part has arrived. -/
def gathered (s : State) (src type kind n : Nat) : Option Bytes :=
  let xs := (s.net.inbox.filter (isPart src type kind n)).map (·.2.2)
  match xs with
  | [] => none
  | x :: _ =>
    if (xs.map fun b => b.length - 16).sum < fld x 8 4 then none
    else some (mread (xs.foldl (fun m b => mwrite m (fld b 12 4) (b.drop 16)) []) 0 (fld x 8 4))

/-- The parts of a page. -/
def pageParts (n page tiles : Nat) (p : Page) : List Bytes :=
  (List.range (8 * tiles)).map fun i =>
    le 1 2 ++ zeros 3 ++ le 4 n ++ le 8 page ++ le 4 (512 * i) ++ mread p.data (512 * i) 512

/-- The pages that a replay's context holds. -/
def sentPages (c : Ctx) : List (Nat × Page) := (tvals c.pages).filter fun x => x.2.tier != 3

/-- The captured inputs of a replay (R404) as 4-byte words: 40 single ones, then layer groups, tree, tokens, stop tokens, the
token log, and the bytes of a consolidation job's element form and of the original decision record. -/
def replayWords (version : Nat) (r : Replay) (c : Ctx) : Bytes :=
  let x := r.step
  let j := c.job.map fun j => [j.adapter, j.version, j.first, j.last, j.chunk, j.next]
  let form := if x.job = 2 then (c.job.map (·.form)).getD [] else []
  let pages := ((sentPages c).map fun y => 8 * pageTiles c y.1).sum
  ([c.image, version, r.slot, x.kind, x.job, x.base, x.cpos, x.seed % 2 ^ 32, x.seed / 2 ^ 32, x.sid, x.avail, b2n x.final,
      x.delta, x.run, b2n x.adapter.isSome, x.adapter.getD 0, c.maxTokens, c.layers, c.mark, r.sess.temp, r.sess.topK,
      r.sess.window, r.sess.topP, r.sess.minP, r.sess.repPen, r.sess.presPen, r.sess.maxNew, pages, c.groups.length,
      x.tree.length, x.tokens.length, r.sess.stops.length, c.log.length, form.length] ++ j.getD [0, 0, 0, 0, 0, 0] ++
    (c.groups.flatMap fun g => [g.first, g.layers, g.heads, g.dim, g.kind, g.pageExp, g.kScale, g.vScale]) ++
    (x.tree.flatMap fun y => [y.1, y.2.1, y.2.2]) ++ x.tokens.map (·.getD 0xFFFFFFFF) ++ r.sess.stops ++ c.log).flatMap (le 4) ++
    form ++ r.decision

/-- Word `i` of a message. -/
def word4 (b : Bytes) (i : Nat) : Nat := fld b (4 * i) 4

/-- `n` words of a message from word `i` on. -/
def words4 (b : Bytes) (i n : Nat) : List Nat := (List.range n).map fun k => word4 b (i + k)

/-- Where the lists of a request begin: layer groups, tree, tokens, stop tokens, log, element form. -/
def tokenWord (b : Bytes) : Nat := 40 + 8 * word4 b 28 + 3 * word4 b 29

/-- The draft tree of a request. -/
def askedTree (b : Bytes) : List (Nat × Nat × Nat) :=
  (List.range (word4 b 29)).map fun k =>
    (word4 b (40 + 8 * word4 b 28 + 3 * k), word4 b (41 + 8 * word4 b 28 + 3 * k), word4 b (42 + 8 * word4 b 28 + 3 * k))

/-- The tokens of a request's step. -/
def askedTokens (b : Bytes) : List (Option Nat) :=
  (words4 b (tokenWord b) (word4 b 30)).map fun t => if t = 0xFFFFFFFF then none else some t

/-- The step that a request asks for. -/
def askedStep (key : Nat) (b : Bytes) : Step :=
  { slot := word4 b 2, kind := word4 b 3, empty := false, sess := none, ctx := some key, job := word4 b 4, replay := none
    base := word4 b 5, cpos := word4 b 6, seed := word4 b 7 + 2 ^ 32 * word4 b 8, sid := word4 b 9, avail := word4 b 10
    final := word4 b 11 == 1, delta := word4 b 12, run := word4 b 13
    adapter := if word4 b 14 = 1 then some (word4 b 15) else none, bank := 0
    tokens := askedTokens b, tree := askedTree b }

/-- The session parameters that a request carries. -/
def askedSession (b : Bytes) : Session :=
  { noSession with
    tree := askedTree b, temp := word4 b 19, topK := word4 b 20, window := word4 b 21, topP := word4 b 22
    minP := word4 b 23, repPen := word4 b 24, presPen := word4 b 25, maxNew := word4 b 26
    stops := words4 b (tokenWord b + word4 b 30) (word4 b 31) }

/-- The consolidation job that a request carries. -/
def askedJob (b : Bytes) : Job :=
  { adapter := word4 b 34, version := word4 b 35, first := word4 b 36, last := word4 b 37, chunk := word4 b 38
    epochs := 0, lr := 0, momentum := 0, place := none, sweep := 0, next := word4 b 39, steps := 0, masters := []
    momenta := [], staged := [], cancel := none
    form := slice b (4 * (tokenWord b + word4 b 30 + word4 b 31 + word4 b 32)) (word4 b 33) }

/-- The context of a request, with the pages that came with it. -/
def askedCtx (turn : Nat) (b : Bytes) (ps : List Bytes) : Ctx :=
  { tenant := 0, id := 0, image := word4 b 0, maxTokens := word4 b 16, droppable := false, layers := word4 b 17
    groups := (List.range (word4 b 28)).map fun g =>
      let w := fun k => word4 b (40 + 8 * g + k)
      ⟨w 0, w 1, w 2, w 3, w 4, w 5, w 6, w 7⟩
    param := [], log := words4 b (tokenWord b + word4 b 30 + word4 b 31) (word4 b 32), mark := word4 b 18
    pages := ps.foldl (fun m x =>
      let old := ((tget none m (fld x 8 8)).map (·.data)).getD []
      tset none m (fld x 8 8) (some ⟨0, 0, mwrite old (fld x 16 4) (x.drop 20), turn, 0, 0, []⟩)) []
    damaged := false, imported := false, full := false, dropped := 0, recompute := none
    job := if word4 b 4 = 2 then some (askedJob b) else none }

/-- The original decision record that a request carries, behind everything else. -/
def askedDecision (b : Bytes) : Bytes :=
  b.drop (4 * (tokenWord b + word4 b 30 + word4 b 31 + word4 b 32) + word4 b 33)

/-- Take up a partner's request once all of it and its pages have arrived: a replay that waits for a slot here. -/
def takeRequest (src n : Nat) (s : State) : State :=
  match gathered s src 2 1 n with
  | none => s
  | some b =>
    let ps := (s.net.inbox.filter (isPart src 5 2 n)).map (·.2.2)
    if ps.length < word4 b 27 then s else
    let id := s.serve.nextReplay
    let turn := s.spin.count / 8192
    let r : Replay := {
      part := 2 ^ 48, slot := word4 b 2, step := askedStep (2 ^ 48 + id) b, sess := askedSession b, causes := 0, decision := askedDecision b
      tail := [], cores := [], noTest := true, turn := turn, state := 0, host := none, partner := none, result := [], own := []
      updates := [], origin := some (src, n, word4 b 1) }
    { s with
      net := { s.net with inbox := s.net.inbox.filter fun x => !(isPart src 2 1 n x || isPart src 5 2 n x) }
      serve := { s.serve with
        ctxs := tset none s.serve.ctxs (2 ^ 48 + id) (some (askedCtx turn b ps))
        replays := tset none s.serve.replays id (some r), nextReplay := id + 1 } }

/-- Take up the requests of partners in the order of their arrival. -/
def takeRequests (s : State) : State :=
  (((s.net.inbox.filter fun x => x.2.1 == 2 && fld x.2.2 0 1 == 1).map fun x => (x.1, fld x.2.2 4 4)).eraseDups).foldl
    (fun s x => takeRequest x.1 x.2 s) s

/-- The tail entries in a partner's result: key, length, bytes. -/
def farTail : Nat → Bytes → Tab Bytes
  | 0, _ => []
  | n + 1, b => if b.length < 10 then [] else
    tset [] (farTail n (b.drop (10 + fld b 8 2))) (fld b 0 8) (slice b 10 (fld b 8 2))

/-- A replay's result: the decision and tail of its slot here, or those that a partner returned (R408). -/
def replayOutcome (n : Nat) (r : Replay) (s : State) : Option (Bytes × Tab Bytes) :=
  match r.partner with
  | none => if r.result.isEmpty then none else some (r.result, r.own)
  | some m => (gathered s m 5 3 n).map fun b =>
    (slice b 4 (fld b 0 4), farTail b.length (b.drop (4 + fld b 0 4)))

/-- Send a replay request on the management channel, and the committed pages of its context as bulk frames (R408). -/
def sendReplay (n m : Nat) (k : Nat) (e : MapEntry) (r : Replay) (s : State) : State :=
  let port := e.port k
  match r.step.ctx.bind (ctxAt s) with
  | none => s
  | some c =>
    let s := (messageParts 1 n (replayWords ((replayVersion s c r).getD 0) r c)).foldl (fun s b =>
      sendSealed k port 2 m none b s) s
    ((sentPages c).flatMap fun x => pageParts n x.1 (pageTiles c x.1) x.2).foldl (fun s b =>
      sendSealed k port 5 m none b s) s

/-- Drop the contexts of partners' replays that are over. -/
def sweepServed (s : State) : State :=
  { s with serve := { s.serve with
      ctxs := s.serve.ctxs.filter fun x =>
        decide (x.1 < 2 ^ 48) || (tvals s.serve.replays).any fun y => y.2.step.ctx == some x.1 } }

/-- Return the result of a partner's replay as bulk frames; it is over (R408). -/
def returnResult (n src num : Nat) (out : Bytes × Tab Bytes) (s : State) : State :=
  let s := sweepServed { s with serve := { s.serve with replays := tset none s.serve.replays n none } }
  match partnerConn s src with
  | none => s
  | some (k, e) =>
    let b := le 4 out.1.length ++ out.1 ++ out.2.flatMap fun x => le 8 x.1 ++ le 2 x.2.length ++ x.2
    (messageParts 3 num b).foldl (fun s b => sendSealed k (e.port k) 5 src none b s) s

/-- The pages of a partner's replay lie Hot on the stack of its slot. -/
def settlePages (st : Nat) (r : Replay) (s : State) : State :=
  match r.origin, r.step.ctx with
  | some _, some k => { s with serve := { s.serve with
      ctxs := s.serve.ctxs.map fun (i, o) => (i, if i = k then o.map fun c => { c with pages := c.pages.map fun (j, p) => (j, p.map fun q => { q with stack := st }) }
        else o) } }
  | _, _ => s

/-- Place one waiting replay in a partition, or with a partner of the policy where no running partition here has a free slot for it
(R405). A partner's replay is placed here only. -/
def placeReplay (pk n : Nat) (r : Replay) (s : State) : State :=
  let mayHere := s.integ.local_ || r.origin.isSome
  let here := if mayHere && canHost s pk r then freeSlot s pk r.step.kind (fun _ => true) else none
  match here with
  | some d => settlePages d.home r (setReplay n { r with state := 1, host := some (pk, d.slot), result := [], own := [], updates := [] } s)
  | none =>
    let elsewhere := mayHere && (parts s).any fun x =>
      canHost s x.1 r && (freeSlot s x.1 r.step.kind (fun _ => true)).isSome
    if elsewhere || r.origin.isSome then s else
    match s.integ.partners.findSome? fun m => (partnerConn s m).map fun x => (m, x) with
    | none => s
    | some (m, k, e) => sendReplay n m k e r (setReplay n { r with state := 1, partner := some m } s)

/-- Whether a replay is lost with the connection to its partner: no result has come back, or it waits here for a partner
that has detached. -/
def replayLost (s : State) (n : Nat) (r : Replay) : Bool :=
  match r.partner, r.origin with
  | some m, _ => r.state == 1 && (partnerConn s m).isNone && (replayOutcome n r s).isNone
  | none, some x => r.state == 0 && (partnerConn s x.1).isNone
  | none, none => false

/-- A partner that has detached loses the replay: it is to be placed again; its own requests and the parts of messages
not yet complete go (R408). -/
def reclaimReplays (s : State) : State :=
  let lost := ((tvals s.serve.replays).filter fun x => replayLost s x.1 x.2).map (·.1)
  let replays := (s.serve.replays.filter fun x => !(lost.contains x.1 && x.2.any fun r => r.origin.isSome)).map fun (n, o) =>
    (n, if lost.contains n then o.map fun r => { r with state := 0, partner := none } else o)
  sweepServed { s with
    serve := { s.serve with replays := replays }
    net := { s.net with inbox := s.net.inbox.filter fun x => (partnerConn s x.1).isSome ||
      (tvals replays).any fun y => y.2.partner == some x.1 && isPart x.1 5 3 y.1 x } }

/-- Place waiting replays in the order in which their steps became suspect; REPLAY_WAITING where steps of this partition
find no host. -/
def placeReplays (pk : Nat) (s : State) : State :=
  let s := takeRequests (reclaimReplays s)
  let s := ((tvals s.serve.replays).filter fun x => x.2.state == 0).foldl (fun s (n, r) => placeReplay pk n r s) s
  let mine := (tvals s.serve.replays).filter fun x => x.2.state == 0 && x.2.part == pk
  if mine.isEmpty then s else
  let oldest := (mine.map fun x => s.spin.count / 8192 - x.2.turn).foldl max 0
  postPlanTurn pk 0x0807 2 pk (le 4 mine.length ++ le 4 oldest ++ le 1 0) s

/-! ### Moves, jobs and admissions -/

/-- Whether a session's slot computes as an empty slot in the pass it is in, or that pass is just over. -/
def slotIdle (s : State) (pk : Nat) (x : Session) : Bool :=
  x.part == pk || match (partAt s x.part).bind fun p => p.steps.find? fun y => y.slot == x.slot with
    | some y => y.empty
    | none => true

/-- Moves from prefill to decode slots, in ascending session ID (R311, R313). -/
def moveSessions (pk : Nat) (s : State) : State :=
  ((tvals s.serve.sessions).filter fun (_, x) => x.state == 1 && x.moving).foldl (fun s (id, x) =>
    match ctxAt s x.ctx, planDefOf s pk with
    | some c, some d =>
      if withheld s id || !slotIdle s pk x || d.model != c.image || d.digref != x.digref || x.stop.isSome then s else
      match freeSlot s pk 0 (slotServes s pk c x) with
      | none => s
      | some y => setSession id (some { x with state := 2, part := pk, slot := y.slot, moving := false, drafts := [] }) s
    | _, _ => s) s

/-- Whether a job's place is lost: its partition runs no more. -/
def placeLost (s : State) (x : Nat × Nat) : Bool := (partAt s x.1).isNone

/-- Recompute jobs for Incomplete contexts of queued sessions, in queue order (R302). -/
def placeRecomputes (pk : Nat) (s : State) : State :=
  s.serve.queue.foldl (fun s id =>
    match sessionAt s id with
    | none => s
    | some x =>
      match ctxAt s x.ctx, planDefOf s pk, partAt s pk with
      | some c, some d, some p =>
        let holds := c.recompute.any fun r => !placeLost s (r.part, r.slot)
        if holds || !(incomplete c || c.imported) || c.damaged || d.model != c.image then s else
        match freeSlot s pk 1 (slotStays s pk c.image 0 d.digref) with
        | none => s
        | some y =>
          let r : Recompute := (c.recompute.getD ⟨0, 0, none, 0, 0, 0⟩)
          setCtx x.ctx (some { c with recompute := some { r with
            part := pk, slot := y.slot, adapter := currentAdapter s x.adapter, bank := p.current } }) s
      | _, _, _ => s) s

/-- Contexts whose consolidation jobs wait for a slot, in queue order, then those whose partition runs no more. -/
def waitingJobs (s : State) : List Nat :=
  s.serve.jobs ++ ((tvals s.serve.ctxs).filter fun (k, c) =>
    !s.serve.jobs.contains k && c.job.any fun j => j.place.any (placeLost s)).map (·.1)

/-- Consolidation jobs take free consolidation slots; the adapter's current version is copied at a job's first
admission (R306). -/
def placeJobs (pk : Nat) (s : State) : State :=
  (waitingJobs s).foldl (fun s k =>
    match ctxAt s k, planDefOf s pk with
    | some c, some d =>
      match c.job with
      | none => s
      | some j =>
        if d.model ≠ c.image ∨ c.damaged then s else
        match freeSlot s pk 2 (slotStays s pk c.image 0 d.digref) with
        | none => s
        | some y =>
          let take := fun (j : Job) =>
            { setCtx k (some { c with job := some { j with place := some (pk, y.slot) } }) s with
              serve := { (setCtx k (some { c with job := some { j with place := some (pk, y.slot) } }) s).serve with
                jobs := s.serve.jobs.filter (· != k) } }
          if j.place.isSome then take j else
          match (currentAdapter s (some j.adapter)).bind fun a => (tget none s.model.adapters a).map fun v => (a, v) with
          | none => s
          | some (a, v) => take { j with version := a % 256, masters := mastersOf v.raw, momenta := [], form := v.raw }
    | _, _ => s) s

/-- Sessions that hold a slot: at most 16,384 at once (R310). -/
def slotHolders (s : State) : Nat := ((tvals s.serve.sessions).filter fun x => x.2.admitted).length

/-- Admit one queued session in a partition when R314 holds for it there. -/
def admitOne (pk id : Nat) (s : State) : State :=
  match sessionAt s id with
  | none => s
  | some x =>
    match ctxAt s x.ctx, planDefOf s pk, partAt s pk with
    | some c, some d, some p =>
      let ready := p.admits && d.model == c.image && d.digref == x.digref && !incomplete c && !c.imported && !c.damaged &&
        c.recompute.isNone && (x.adapter.isNone || (currentAdapter s x.adapter).isSome) &&
        (queueOf s x.tenant x.outq).isSome && decide (slotHolders s < 16384)
      if !ready then s else
      let kind := if x.pending.isEmpty then 0 else 1
      match freeSlot s pk kind (slotServes s pk c x) with
      | none => s
      | some y =>
        let x := { x with state := if kind = 1 then 1 else 2, part := pk, slot := y.slot, bank := p.bank
                          pinned := currentAdapter s x.adapter, drafts := [], moving := false, stop := none, requeue := false }
        let s := setSession id (some x) s
        let turn := s.spin.count / 8192
        { s with serve := { s.serve with
            queue := s.serve.queue.filter (· != id)
            admits := (turn :: s.serve.admits).filter fun t => decide (turn < t + 64) } }
    | _, _, _ => s

/-- Queued sessions in order of receipt (R313). -/
def admissions (pk : Nat) (s : State) : State := s.serve.queue.foldl (fun s id => admitOne pk id s) s

/-! ### Steps (R280, R299, R303, R318, R335) -/

/-- An empty slot's step. -/
def blankStep (d : SlotDef) : Step :=
  { slot := d.slot, kind := d.kind, empty := true, sess := none, ctx := none, job := 0, replay := none, base := 0, cpos := 0
    seed := 0, sid := 0, avail := 0, final := false, tokens := [], tree := [], adapter := none, bank := 0, delta := 0, run := 0 }

/-- What a session's slot would compute next: the tokens of R318. -/
def sessionStep (d : SlotDef) (id : Nat) (x : Session) (c : Ctx) : Step :=
  let y := { blankStep d with
    sess := some id, ctx := some x.ctx, seed := x.seed, sid := id, adapter := x.pinned, bank := x.bank, run := x.run }
  let n := c.log.length
  if d.kind = 0 then
    let drafts := (List.range x.tree.length).map fun i => x.drafts.getD i none
    { y with base := n - 1, cpos := n, avail := x.tree.length + 1, tree := x.tree
             tokens := (c.log.getLast?.map (· % 2 ^ 20)) :: drafts }
  else
    let old := (c.log.drop c.mark).map (· % 2 ^ 20)
    let fed := (old ++ x.pending).take 4096
    { y with base := c.mark, cpos := c.mark + 1, avail := fed.length, final := decide (fed.length = old.length + x.pending.length)
             delta := old.length, tokens := fed.map some }

/-- The committed length a step may lead to at most (R303). -/
def lengthAfter (c : Ctx) (y : Step) : Nat :=
  if y.kind = 0 then c.log.length + treeDepth y.tree + 1
  else c.log.length + (y.avail - y.delta) + b2n y.final

/-- The lowest-numbered span that a recompute job has to compute, as first position and length: a Dropped span, up to
C − 1 in an imported context (R302). -/
def nextSpan (c : Ctx) : Option (Nat × Nat) :=
  let n := 2 ^ spanExp c
  let top := if c.imported then c.log.length - 1 else c.log.length
  let gone := ((tvals c.pages).filter fun x => x.2.tier == 3).map fun x => pageSpan c x.1
  (gone.min?).map fun sp => (sp * n, min n (top - sp * n))

/-- A recompute job's step, with the adapter version that the waiting session will be pinned to (R302). -/
def recomputeStep (d : SlotDef) (k : Nat) (c : Ctx) (adapter : Option Nat) (bank : Nat) : Step :=
  match nextSpan c with
  | none => { blankStep d with ctx := some k, job := 1 }
  | some (b, n) =>
    { blankStep d with
      empty := false, ctx := some k, job := 1, base := b, cpos := b + 1, avail := n, adapter := adapter, bank := bank
      tokens := ((c.log.drop b).take n).map fun t => some (t % 2 ^ 20) }

/-- A consolidation job's step: one chunk (R306). -/
def jobStep (d : SlotDef) (k : Nat) (c : Ctx) (j : Job) (bank : Nat) : Step :=
  let b := j.first + j.next * j.chunk
  let n := min j.chunk (j.last - b)
  { blankStep d with
    empty := false, ctx := some k, job := 2, base := b, cpos := b + 1, avail := n, adapter := some (j.adapter * 256 + j.version)
    bank := bank, tokens := ((c.log.drop b).take n).map fun t => some (t % 2 ^ 20) }

/-- Bytes of an output queue's ring that hold records the host has not released. -/
def Outq.used (q : Outq) : Nat :=
  if q.tail = q.head then (if q.marks.isEmpty then 0 else q.size) else (q.tail + q.size - q.head) % q.size

/-- The reservation of R335 for a number of sessions. -/
def recordRoom (n : Nat) : Nat := 128 + 48 * n

/-- Sessions of a partition on a queue, by their tenants. -/
def sessionsOn (s : State) (pk q : Nat) : List Nat :=
  ((tvals s.serve.sessions).filter fun x => x.2.admitted && x.2.part == pk && x.2.outq == q).map (·.2.tenant)

/-- Bytes that the other running partitions have reserved in a queue. -/
def othersOn (s : State) (pk q : Nat) : Nat :=
  (((parts s).filter fun x => x.1 != pk).map fun x =>
    ((x.2.reserve.filter fun r => r.1 == q).map (·.2)).sum).sum

/-- Note room reserved for the coming pass of a partition. -/
def noteReserve (pk q n : Nat) (s : State) : State :=
  match partAt s pk with
  | none => s
  | some p => setPart pk (some { p with reserve := p.reserve ++ [(q, n)] }) s

/-- A queue's own sessions in a partition: room is reserved, or they are output-stalled (R335, R456). -/
def reserveQueue (pk k : Nat) (acc : List Nat × State) : List Nat × State :=
  let (l, s) := acc
  match tget none s.host.outqs k with
  | none => (l, s)
  | some q =>
    let n := ((sessionsOn s pk k).filter (· == q.tenant)).length
    if n = 0 then (l, s) else
    let want := recordRoom n + othersOn s pk k
    let room := q.size - q.used
    if want ≤ room ∧ s.phys.link then (l, noteReserve pk k (recordRoom n) s)
    else (l ++ [k], postOncePerTurn 7 0 0x0502 2 k (le 2 q.tenant ++ le 4 k ++ le 4 (want - room)) s)

/-- Sessions whose queue a function-level reset deleted, or is another tenant's now, have no room (R505). -/
def reserveLost (pk k : Nat) (s : State) : State :=
  let lost := (sessionsOn s pk k).filter fun t => (queueOf s t k).isNone
  match lost with
  | [] => s
  | t :: _ => postOncePerTurn 7 0 0x0502 2 k (le 2 t ++ le 4 k ++ le 4 (recordRoom (lost.filter (· == t)).length)) s

/-- Reserve room in each output queue: the queues whose sessions are output-stalled for the pass (R335). -/
def stalledQueues (pk : Nat) (s : State) : List Nat × State :=
  (List.range 64).foldl (fun (acc : List Nat × State) k =>
    reserveQueue pk k (acc.1, reserveLost pk k acc.2)) ([], s)

/-- Post CTX_FULL once for a context. -/
def noteFull (pk k : Nat) (s : State) : State :=
  match ctxAt s k with
  | none => s
  | some c =>
    if c.full then s else
    postPlan pk 0x0605 2 (le 2 c.tenant ++ le 4 c.id ++ le 4 c.log.length) (setCtx k (some { c with full := true }) s)

/-- What a session's slot computes: an empty slot under R85, R261, R299, R303, R311 and R335. -/
def slotOfSession (pk bank : Nat) (stalled : List Nat) (d : SlotDef) (id : Nat) (x : Session) (s : State) : Step × State :=
  match ctxAt s x.ctx with
  | none => (blankStep d, s)
  | some c =>
    let y := sessionStep d id x c
    if withheld s id || x.moving || x.bank != bank || stalled.contains x.outq || (queueOf s x.tenant x.outq).isNone || y.avail == 0 then (y, s)
    else if c.maxTokens < lengthAfter c y then (y, noteFull pk x.ctx s)
    else match reserveTail pk x.ctx y.base d.kind d.home s with
      | (none, s) => (y, s)
      | (some s, _) => ({ y with empty := false }, s)

/-- What a slot computes in the coming pass. -/
def slotStep (pk : Nat) (p : Part) (stalled : List Nat) (d : SlotDef) (s : State) : Step × State :=
  match slotReplay s pk d.slot with
  | some (n, r) =>
    if r.result.isEmpty then ({ r.step with slot := d.slot, replay := some n, empty := false, bank := p.bank }, s)
    else (blankStep d, s)
  | none =>
    match slotSession s pk d.slot with
    | some (id, x) => slotOfSession pk p.bank stalled d id x s
    | none =>
      match slotJob s pk d.slot with
      | none => (blankStep d, s)
      | some (k, re) =>
        match ctxAt s k with
        | none => (blankStep d, s)
        | some c =>
          let y := if re then
              (c.recompute.map fun r => recomputeStep d k c ((recomputeAdapter s k).orElse fun _ => r.adapter) p.current).getD
                (blankStep d)
            else (c.job.map fun j => jobStep d k c j p.current).getD (blankStep d)
          let y := { y with empty := y.empty || c.damaged || jobWithheld s k || p.current != p.bank ||
            (re && coldTail c y.base y.avail) }
          (y, if re && !y.empty then heatTail k (missingPages c y.base y.avail) d.home s else s)

/-- Add one slot's step to the partition's, so that later reservations count it. -/
def addStep (pk : Nat) (stalled : List Nat) (s : State) (d : SlotDef) : State :=
  match partAt s pk with
  | none => s
  | some p =>
    let (y, s) := slotStep pk p stalled d s
    match partAt s pk with
    | none => s
    | some p => setPart pk (some { p with steps := p.steps ++ [y] }) s

/-- The slot input record (R318). -/
def slotRecord (y : Step) : Bytes :=
  let words := if y.kind = 0 then 8 else 515
  let on := !y.empty
  let head := le 4 (if on && y.job == 0 then y.sid else 0) ++ le 4 (if on then (y.ctx.getD 0) % 2 ^ 32 else 0) ++
    le 4 (if on then y.base else 0) ++ le 2 (if on then y.avail else 0) ++ le 1 (b2n y.empty + 2 * b2n (on && y.final)) ++
    le 1 y.kind
  let parent := fun (e : Nat) =>
    if on ∧ y.kind = 0 ∧ 1 ≤ e ∧ e ≤ y.tree.length then ((y.tree[e - 1]?).map (·.1)).getD 255 else 255
  let token := fun (e : Nat) =>
    if on ∧ e < y.avail then ((y.tokens.getD e none).getD 0xFFFFFFFF) else 0xFFFFFFFF
  padTo 32 head ++ (List.range 64).map (fun e => BitVec.ofNat 8 (parent e)) ++
    (List.range (8 * (words - 3))).flatMap fun e => le 4 (token e)

/-- Write the slot input records of a partition and fill their words (R318). -/
def writeInputs (pk : Nat) (s : State) : State :=
  match partAt s pk with
  | none => s
  | some p => p.steps.foldl (fun s y =>
      match p.d.slots.find? fun d => d.slot == y.slot with
      | none => s
      | some d =>
        let ws := toWords (word0 d.home none d.state) (slotRecord y)
        fillWords (ws.map (·.1)) (putWords ws s)) s

end Sys2Proof.Machine
end

