-- ==== Sys2Proof/Machine/Spans.lean ====
section
/-!
DEFINITION. Spans in which an engine is free (R113, R146, R254): what plans issue to a physical engine, the strokes of a
stack, and the reference-column probes of the monitor converters (R146, R156).
-/

namespace Sys2Proof.Machine

/-- The turn in progress. -/
def turnOf (s : State) : Nat := s.spin.count / 8192

/-! ### What plans issue to an engine -/

/-- The operations of a partition for a physical engine, by the logical core that it serves. -/
def opsOn (s : State) (d : PartDef) (e : Nat) : List PlanOp :=
  match servedCore s (engineStack e) (e / 4 % 1024) with
  | none => []
  | some l => ((d.cuts.filter fun x => x.1 == engineStack e).flatMap (·.2)).filter fun op =>
      op.kind == 0 && op.unit == l * 4 + e % 4

/-- Indices until the turn boundary at which turn `t` begins, or the next one where that has passed. -/
def boundaryIn (s : State) (t : Nat) : Nat := max (t * 8192) ((turnOf s + 1) * 8192) - s.spin.count

/-- The turn before which a running pass cannot end. -/
def endTurnOf (p : Part) : Nat := (p.start + p.d.length) / 8192

/-- The turn before which a partition of an armed plan cannot begin: START_TURN, and the ends of the passes that hold its
stacks (R75). -/
def startTurnOf (s : State) (q : Plan) (d : PartDef) : Nat :=
  ((parts s).filter fun x => (x.2.d.mask &&& d.mask) != 0).foldl (fun t x => max t (endTurnOf x.2)) q.startTurn

/-- Whether the running partition of an engine's stack issues nothing to it from `lead` indices before this one to `len`
after it: a span of pass-relative indices that ends with the pass (R113, R254). -/
def passQuiet (s : State) (e lead len : Nat) : Bool :=
  match partOfStack s (engineStack e) with
  | none => true
  | some (pk, p) =>
    let ops := opsOn s p.d e
    let before := ops.filter fun op => decide (op.offset ≤ p.p)
    let after := ops.filter fun op => decide (p.p < op.offset)
    let low := (before.map fun op => op.offset + busyOf op).foldl max 0
    let high := (after.map (·.offset)).foldl min p.d.length
    ops.isEmpty || (decide (low + lead ≤ p.p) && decide (p.p + len ≤ high) && decide (len ≤ boundaryIn s (endTurnOf p)) &&
      !p.ending &&
      !((fliesOf s pk).any fun x => x.2.st == engineStack e && x.2.op.kind == 0 && ops.any fun op => op.unit == x.2.op.unit))

/-- Whether no partition of an armed plan that uses an engine can begin in the next `len` indices. -/
def armedQuiet (s : State) (e len : Nat) : Bool :=
  (plansOf s).all fun x => !(x.2.state == 1 || x.2.state == 2) || x.2.d.parts.all fun d =>
    !(x.2.waiting.contains d.part && d.mask.testBit (engineStack e)) || (opsOn s d e).isEmpty ||
      decide (len ≤ boundaryIn s (startTurnOf s x.2 d))

/-- Whether plans issue nothing to a physical engine from `lead` indices before this one to `len` after it. -/
def engineQuiet (s : State) (e lead len : Nat) : Bool := passQuiet s e lead len && armedQuiet s e len

/-- Strokes busy on a stack at a pass-relative index of its partition. -/
def strokesAt (p : Part) (st i : Nat) : Nat :=
  (((p.d.cuts.filter fun x => x.1 == st).flatMap (·.2)).filter fun op =>
    (op.code == 0x10 || op.code == 0x11) && decide (op.offset ≤ i) && decide (i < op.offset + busyOf op)).length

/-- Whether the strokes of a stack stay below the cap for the next 8 indices, those of a pass that may begin in them
included (R146). -/
def strokesLow (s : State) (st : Nat) : Bool :=
  match partOfStack s st with
  | none => true
  | some (_, p) =>
    let n := boundaryIn s (endTurnOf p)
    (List.range 8).all fun i => decide (strokesAt p st (if i < n then p.p + i else i - n) < strokeCap p.mode)

/-! ### Occupied engines -/

/-- Whether a monitor's reference-column probe occupies an engine (R146). -/
def monProbing (s : State) (e : Nat) : Bool :=
  (tvals s.conv.mons).any fun x => x.2.probe.any fun y => y.1 == e && decide (s.spin.tick < y.2 + 8)

/-- Whether neither a loop nor a probe runs on an engine. -/
def engineIdle (s : State) (e : Nat) : Bool :=
  (tget none s.model.loops e).isNone && (tget none s.model.probes e).isNone && !monProbing s e

/-- Whether a loop or a probe that was begun before a plan was armed still runs on an engine that a partition of the plan uses:
its pass waits, because the two never overlap (R113 over R75; DESIGN CHOICE, log 64). -/
def partBusy (s : State) (d : PartDef) : Bool :=
  let es := tkeys s.model.loops ++ tkeys s.model.probes ++
    (tvals s.conv.mons).filterMap fun x => x.2.probe.bind fun y => if s.spin.tick < y.2 + 8 then some y.1 else none
  es.any fun e => d.mask.testBit (engineStack e) && !(opsOn s d e).isEmpty

/-- Whether a loop or a probe has reached its greatest length in this index and has not been reported: 25,000 indices for a
loop, 8 for a probe (R146, R254). -/
def overdue (s : State) : Bool :=
  (tvals s.model.loops).any (fun x => decide (x.2.start + 25000 ≤ s.spin.tick)) ||
  (tvals s.model.probes).any (fun x => decide (x.2.start + 8 ≤ s.spin.tick))

/-! ### Monitor converters (R143 to R148, R155) -/

/-- The number of select values an entry visits. -/
def MonEntry.sweeps (e : MonEntry) : Nat := max 1 e.sweep

/-- The select an entry converts on its table's present pass (R148). -/
def monChannel (m : Mon) (e : MonEntry) : Nat := e.channel + m.pass % e.sweeps

/-- A monitor that begins a table at entry 0, every entry out of violation. -/
def freshMon (table : List MonEntry) : Mon :=
  { running := true, table := table, entry := 0, pass := 0, made := 0, sum := 0, gap := false, delay := none,
    urgentNow := false, interleave := false, suspended := false, oddNext := false,
    viol := table.map fun _ => none, urgent := [], ring := [], written := 0, next := none
    asked := none, probed := false, probe := none }

/-- The converter of a number; idle before firmware runs. -/
def monAt (s : State) (mon : Nat) : Mon := (tget none s.conv.mons mon).getD { freshMon [] with running := false }

/-- Replace a converter. -/
def setMon (mon : Nat) (m : Mon) (s : State) : State :=
  { s with conv := { s.conv with mons := tset none s.conv.mons mon (some m) } }

/-- The converter whose table a converter runs: its even partner's while its own is suspended (R155). -/
def tableOf (s : State) (mon : Nat) : Nat := if (monAt s mon).suspended then mon - 1 else mon

/-- Whether a conversion is in progress on a converter, or on the pair whose table it runs. -/
def converting (s : State) (mon : Nat) : Bool :=
  let m := monAt s mon
  m.running && (m.urgentNow || (if m.suspended then
    (let e := monAt s (mon - 1)
     e.delay.isNone && !e.urgentNow && e.oddNext) else m.delay.isNone))

/-- The channel word of the conversion in progress on a converter itself. -/
def channelNow (s : State) (mon : Nat) : Option Nat :=
  let m := monAt s mon
  if !converting s mon then none
  else if m.urgentNow then m.urgent.head?.map (·.channel)
  else if m.interleave && m.oddNext then none
  else
    let t := monAt s (tableOf s mon)
    (t.table[t.entry]?).map (monChannel t)

/-- The engine of a reference-column channel of a monitor (R144, R146). -/
def refEngine (mon w : Nat) : Option Nat := if bits w 19 16 = 4 then some (mon / 2 * 4096 + w % 4096) else none

/-- Whether the conversion of a converter, or of the pair, has begun: one of a reference column that still waits for its span has
not (R146, R156). -/
def underway (s : State) (mon : Nat) : Bool :=
  let m := monAt s mon
  let src := if !m.urgentNow && m.interleave && m.oddNext then mon + 1 else mon
  converting s mon && (((channelNow s src).bind (refEngine src)).isNone || (monAt s src).probed)

/-- A converter at the beginning of an index: a reference-column conversion in progress begins its probe in the first span that
its engine gives within 8,192 indices (R146). -/
def stepProbe (s : State) (mon : Nat) : State :=
  let m := monAt s mon
  let m := { m with probe := m.probe.filter fun y => decide (s.spin.tick < y.2 + 8) }
  match (channelNow s mon).bind (refEngine mon) with
  | none => setMon mon { m with asked := none, probed := false } s
  | some e =>
    let since := m.asked.getD s.spin.tick
    if !m.probed && m.probe.isNone && decide (s.spin.tick < since + 8192) && engineIdle s e && engineQuiet s e 0 8 &&
        strokesLow s (engineStack e) then
      setMon mon { m with asked := some since, probed := true, probe := some (e, s.spin.tick) } s
    else setMon mon { m with asked := some since } s

/-- Every converter at the beginning of an index. -/
def stepProbes (s : State) : State := (tkeys s.conv.mons).foldl stepProbe s

/-- Whether the conversion in progress on a converter can end in this index: a reference-column conversion ends 80 ns and 1 µs
after its probe began, in the sixth index after it, or is skipped once 8,192 indices gave no span (R146). -/
def canEnd (s : State) (mon : Nat) (skipped : Bool) : Bool :=
  let m := monAt s mon
  match (channelNow s mon).bind (refEngine mon) with
  | none => true
  | some _ =>
    if m.probed then !skipped && m.probe.all fun y => decide (y.2 + 6 ≤ s.spin.tick)
    else skipped && m.asked.any fun t => decide (t + 8192 ≤ s.spin.tick)

/-- The conversion of a converter has ended. -/
def endProbe (mon : Nat) (s : State) : State := setMon mon { monAt s mon with asked := none, probed := false } s

end Sys2Proof.Machine
end

