-- ==== Sys2Proof/Machine/Pass.lean ====
section
/-!
DEFINITION. PASS_BOUNDARY and PLAN_START: what the module applies at a pass boundary, in the order of R83, and how a
partition's first and later passes begin (R75, R78, R81, R83, R84).
-/

namespace Sys2Proof.Machine

/-- The operations of a partition that issue at pass-relative index `p` (R78). -/
def dueAt (d : PartDef) (p : Nat) : List (Nat × PlanOp) :=
  d.cuts.flatMap fun (st, ops) => (ops.filter fun op => op.offset == p).map fun op => (st, op)

/-! ### Before the commit: accumulated checks and intensified checking (R398, R411) -/

/-- The integer square root, by its bits from bit `k − 1` down. -/
def isqrtBits (n : Nat) : Nat → Nat → Nat
  | 0, r => r
  | k + 1, r => isqrtBits n k (if (r + 2 ^ k) ^ 2 ≤ n then r + 2 ^ k else r)

/-- The integer square root. -/
def isqrt (n : Nat) : Nat := isqrtBits n (n.log2 / 2 + 1) 0

/-- The accumulated check of one engine, deck and check column (R398). -/
def checkSum (pk : Nat) (s : State) (x : Nat × Int) : State :=
  let e := x.1 / 8 / 32
  let v := tget 0 s.integ.vars x.1
  if x.2.natAbs ^ 2 * 640000 ≤ v then s else
  let s := blame (coreOf e) (suspectPass pk 0 s)
  let s := markSuspect (coreOf e) 1 s
  postPlan pk 0x0802 3 (le 2 e ++ le 1 (x.1 / 8 % 32) ++ le 1 (x.1 % 8) ++ leInt 8 x.2 ++ le 4 (isqrt (v / 640000))) s

/-- The accumulated checks of a partition's pass; the sums restart (R398). -/
def checkSums (pk : Nat) (d : PartDef) (s : State) : State :=
  let mine := fun (k : Nat) => d.mask.testBit (k / 8 / 32 / 4096)
  let s := (s.integ.sums.filter fun x => mine x.1).foldl (checkSum pk) s
  { s with integ := { s.integ with
    sums := s.integ.sums.filter fun x => !mine x.1, vars := s.integ.vars.filter fun x => !mine x.1 } }

/-! ### Power modes (R34, R36, R38) -/

/-- A pending mode that every partition has adopted is in force: POWER_MODE_APPLIED, and the command completes; while the
spindle is Coasting it waits (R37, R38). -/
def finishMode (s : State) : State :=
  match s.spin.pend with
  | none => s
  | some m =>
    let left := m.left.filter fun pk => (partAt s pk).isSome
    if !m.idle || !left.isEmpty || s.spin.state == 3 then { s with spin := { s.spin with pend := some { m with left := left } } } else
    complete m.tag 0 0 s.spin.count
      (postEvent 1 0 0x0110 1 (le 1 m.mode) { s with spin := { s.spin with power := m.mode, pend := none } })

/-- A partition adopts a pending mode at its boundary, once its turn has come (R36). One that had adopted a mode which was then
replaced waits for the turn of the new one too (R36 beside R39; DESIGN CHOICE, log 63). -/
def stepMode (pk : Nat) (s : State) : State :=
  match s.spin.pend, partAt s pk with
  | some m, some p =>
    if turnOf s < m.turn then s else
    finishMode { setPart pk (some { p with mode := m.mode }) s with
      spin := { s.spin with pend := some { m with left := m.left.filter (· != pk) } } }
  | _, _ => s

/-! ### The new pass -/

/-- The reference buffers' distances go on by the nominal length of the pass that ends (R115). An abandoned pass has no boundary and
adds none (DESIGN CHOICE, log 60). -/
def shiftRefs (d : PartDef) (s : State) : State :=
  { s with arr := { s.arr with refs := s.arr.refs.map fun (c, v) =>
      (c, if d.mask.testBit (c / 640) then v.map (· + (d.length : Int)) else v) } }

/-- A partition's record at the start of a pass: P is 0 and what belongs to one pass is empty. While a hold stands the pass
begins frozen, and its operations of offset 0 issue when the hold has cleared (R35, R78, R79); a suspect-mark of this
boundary bears on it too (R152). -/
def freshPass (s : State) (p : Part) : Part :=
  let held := heldPart s p.d
  { p with
    p := 0, start := s.spin.count, frozen := held, begun := !held, ending := false, causes := if held then 8 else 0
    lost := b2n (held && decide (0 < p.d.work)), due := if held then [] else dueAt p.d 0
    charges := 0, overflow := 0, overFrozen := 0, flood := false, rereads := 0, rereadFrozen := 0, rereadLeft := 0
    splitEnd := 0, marks := [], suspect := if markedPart s p.d then 4 else 0, discards := [], blamed := [], reads := []
    steps := [], tails := [], named := [], decided := [], reserve := [], epoch := s.cal.epoch }

/-- Begin the pass: the steps of every slot are fixed and their input records written (R299, R318, R335). -/
def openPass (pk : Nat) (s : State) : State :=
  match partAt s pk with
  | none => s
  | some p =>
    let s := setPart pk (some { p with epoch := s.cal.epoch }) (enforceQuotas (applyMoves s))
    let (stalled, s) := stalledQueues pk s
    writeInputs pk ((orderedSlots p.d).foldl (addStep pk stalled) s)

/-- Steps 3 to 7 of R83, and the pass that begins. -/
def enterPass (pk : Nat) (d : PartDef) (s : State) : State :=
  let image := imageOfPart s pk
  let s := stepMode pk s
  let s := endDrains pk (stepBank pk (stepMarks (fun st => d.mask.testBit st) (stepCores pk d s)))
  let s := applyStaged d.stacks s
  let s := stepAdapters pk s
  let s := cancelJobs pk (departures pk s)
  let s := endSwitches (sweepLeaving (some pk) (freeAdapters (freeRetained pk image s)))
  let s := admissions pk (placeJobs pk (placeRecomputes pk (moveSessions pk (placeReplays pk s))))
  applyMapTo pk (openPass pk s)

/-! ### Sessions at a plan switch (R76) -/

/-- Whether a partition has come to its end: it does not run, does not wait to start, and is none of a Halted plan whose
stacks nobody has taken. -/
def orphaned (s : State) (pk : Nat) : Bool :=
  (partAt s pk).isNone && !(planAt s (pk / 16)).any fun q =>
    if q.state = 3 then !q.released.contains (pk % 16) else q.waiting.contains (pk % 16)

/-- Whether a slot of a partition's table can take over what holds that slot number in a partition that runs no more: at
the switch to a plan that replaces the old one every slot is kept (R76), else what runs the plan's model image and, for a
session, the plan's `DIGREF` (log 66). -/
def slotFits (s : State) (pk : Nat) (d : PartDef) (old kind slot ctx : Nat) (same : Bool) : Bool :=
  old != pk && orphaned s old && (d.slots.any fun y => y.slot == slot && y.kind == kind) &&
    ((planAt s (pk / 16)).any (·.replaces.contains (old / 16)) ||
      same && (ctxAt s ctx).any fun c => c.image == imageOfPart s pk)

/-- A session whose partition runs no more keeps its slot number in a running partition where that slot is free (R76). -/
def adoptSession (pk : Nat) (d : PartDef) (digref : Bool) (s : State) (x : Nat × Session) : State :=
  if x.2.admitted && slotFits s pk d x.2.part (b2n (x.2.state == 1)) x.2.slot x.2.ctx (x.2.digref == digref) &&
      slotFree s pk x.2.slot then
    setSession x.1 (some { x.2 with part := pk }) s
  else s

/-- Withheld steps go with their sessions; those of jobs, with their slots. -/
def adoptReplay (s : State) (pk : Nat) (d : PartDef) (r : Replay) : Replay :=
  let goes := match r.step.sess with
    | some id => (sessionAt s id).any fun x => x.admitted && x.part == pk
    | none => slotFits s pk d r.part r.step.kind r.slot (r.step.ctx.getD 0) true
  if r.origin.isNone && goes then { r with part := pk } else r

/-- Drains go with the sessions that they wait for (R262). -/
def adoptDrains (pk : Nat) (olds : List Nat) (s : State) : State :=
  let more := (s.model.drains.filter fun d => olds.contains d.part &&
    !s.model.drains.any fun e => e.image == d.image && e.part == pk).map fun d => { d with part := pk }
  { s with model := { s.model with drains :=
    (s.model.drains ++ more).filter fun d => (partAt s d.part).isSome || !(drained s d).isEmpty } }

/-- Sessions whose partition runs no more, and withheld steps of such partitions, keep their slot numbers in a partition that
starts, or that runs when theirs stops (R76). -/
def adoptSlots (pk : Nat) (d : PartDef) (digref : Bool) (s : State) : State :=
  let olds := (((tvals s.serve.sessions).filter fun x => x.2.admitted && orphaned s x.2.part).map fun x => x.2.part).eraseDups
  let s := (tvals s.serve.sessions).foldl (adoptSession pk d digref) s
  let s := { s with serve := { s.serve with
    replays := s.serve.replays.map fun (n, o) => (n, o.map (adoptReplay s pk d)) } }
  adoptDrains pk olds s

/-- A partition has stopped: running partitions of the plans that replace its plan take over the sessions whose slots they
have (R76); those that Follow are pinned to the bank that is current there (R260). -/
def adoptStopped (old : Nat) (s : State) : State :=
  (parts s).foldl (fun s x => match planAt s (x.1 / 16) with
    | some q => if q.replaces.contains (old / 16) then
        pinFollowers q.d.model x.2.current x.1 (adoptSlots x.1 x.2.d q.d.digref s) else s
    | none => s) s

/-! ### Stops and switches (R75) -/

/-- The armed plans that take stacks over from a partition at this boundary. -/
def takers (s : State) (pk : Nat) : List Plan := (successors s pk).filter fun q => decide (q.startTurn ≤ turnOf s)

/-- Whether a PLAN_STOP of a plan is due. -/
def stopDue (s : State) (p : Plan) : Bool := p.stop.any fun x => decide (x.2 ≤ turnOf s)

/-- A plan of which no partition runs or waits any longer is Loaded, and its PLAN_STOP completes. -/
def closePlan (k : Nat) (s : State) : State :=
  match planAt s k with
  | none => s
  | some q =>
    let runs := q.d.parts.any fun d => (partAt s (partKey k d.part)).isSome
    if runs || (!q.waiting.isEmpty && !stopDue s q) then s else
    let s := setPlan k (some { q with state := 0, stop := none, waiting := [], released := [], barriers := [], arrivals := [] }) s
    match q.stop with
    | none => s
    | some (tag, _) => complete tag 0 0 s.spin.count s

/-- Post PLAN_STOPPED of a partition: version and boundary count. -/
def postStopped (pk start : Nat) (s : State) : State :=
  postEvent 3 (pk % 16) 0x0211 1 (passRef pk start ++ le 4 (pk / 16 % 65536) ++ le 8 s.spin.count) s

/-- A partition stops at its boundary, as by PLAN_STOP: its stacks are released, and the steps of R83 are taken without the
pass that would begin (R75). What is staged for stacks that a partition takes over at this index comes into force as that
partition begins. -/
def stopPart (pk : Nat) (p : Part) (s : State) : State :=
  let next := takers s pk
  let image := imageOfPart s pk
  let kept := fun st => next.any fun q => q.d.parts.any fun d => q.waiting.contains d.part && d.mask.testBit st
  let s := postStopped pk p.start s
  let s := dropRefs p.d kept (unhost pk (clearPass pk s))
  let s := finishMode (adoptStopped pk (closePlan (pk / 16) s))
  let s := endDrains pk (idleCores (stepMarks (fun st => p.d.mask.testBit st) s))
  let s := p.d.stacks.foldl (fun s st => if kept st then
    { s with cal := { s.cal with released := s.cal.released ++ [st] } } else settle st s) s
  let s := cancelJobs pk (departures pk (stepAdapters pk s))
  let s := endSwitches (sweepLeaving (some pk) (freeAdapters (freeRetained pk image s)))
  applyMapTo pk (enforceQuotas (applyMoves s))

/-! ### PASS_BOUNDARY -/

/-- Whether a pass is complete at a turn boundary: P past the work, every operation of the pass complete with every exact
value of R179 (R81). It lasts `PASS_TURNS` turns at least, whatever its slack (DESIGN CHOICE, log 62). -/
def passDone (s : State) (pk : Nat) (p : Part) : Bool :=
  p.due.isEmpty && decide (p.d.work ≤ p.p) && decide (p.start + p.d.length ≤ s.spin.count) && (fliesOf s pk).isEmpty &&
    !s.plans.queues.any fun x => x.2.any fun r => r.part == pk && !r.paired

/-- At a turn boundary: the passes that end there (R81). What completes later in the index does not count. -/
def judgePasses (s : State) : State :=
  if !(s.spin.atTurn && s.spin.state == 2) then s else
  { s with plans := { s.plans with parts := s.plans.parts.map fun (k, o) =>
      (k, o.map fun p => { p with ending := passDone s k p }) } }

/-- Whether a pass ends in this index, which begins a turn. -/
def passOver (s : State) (p : Part) : Bool := s.spin.atTurn && s.spin.state == 2 && p.ending

/-- PASS_STRETCHED where the pass took longer than PASS_TURNS (R81). -/
def noteStretch (pk : Nat) (p : Part) (s : State) : State :=
  if s.spin.count = p.start + p.d.length then s else
  postPlan pk 0x0212 2 (le 4 ((s.spin.count - p.start) / 8192) ++ le 4 (p.lost - p.d.slack) ++ le 4 p.causes) s

/-- The plan's record of a completed pass (PLAN_QUERY). -/
def countPass (pk : Nat) (p : Part) (s : State) : State :=
  match planAt s (pk / 16) with
  | none => s
  | some q => if p.d.part ≠ 0 then s else
    setPlan (pk / 16) (some { q with lastSlack := p.d.slack - p.lost, passes := q.passes + 1 }) s

/-- Whether a partition of an armed plan may begin: a turn boundary at or after START_TURN at which all its stacks are
free (R75). -/
def mayStart (s : State) (q : Plan) (d : PartDef) : Bool :=
  (q.state == 1 || q.state == 2) && q.waiting.contains d.part && !stopDue s q && s.spin.atTurn && s.spin.state == 2 &&
    decide (q.startTurn ≤ turnOf s) && !partBusy s d && (parts s).all fun x => (x.2.d.mask &&& d.mask) == 0

/-- The partitions with a boundary in this index that has not been taken yet: passes that end, and passes that may begin. -/
def boundaries (s : State) : List Nat :=
  ((parts s).filter fun x => passOver s x.2).map (·.1) ++
    (plansOf s).flatMap fun x => (x.2.d.parts.filter (mayStart s x.2)).map fun d => partKey x.1 d.part

/-- Boundaries at one spindle count are taken in ascending partition order (R232, R333), those of one number in the order
of their plans. -/
def nextBoundary (s : State) (pk : Nat) : Bool :=
  (boundaries s).all fun x => decide (pk % 16 < x % 16) || (pk % 16 == x % 16 && decide (pk / 16 ≤ x / 16))

/-- A pass boundary of a partition (R83). -/
def passBoundary (pk : Nat) (s : State) : State :=
  match partAt s pk with
  | none => s
  | some p =>
    if !(passOver s p && nextBoundary s pk) then s else
    let d := p.d
    let s := checkSums pk d s
    let s := if intenseOn s d then suspectPass pk 4 s else s
    let s := countPass pk p (noteStretch pk p (passReports pk s))
    let s := shiftRefs d (commitPass pk s)
    match partAt s pk, planAt s (pk / 16) with
    | some p, some q =>
      if stopDue s q || !(takers s pk).isEmpty then stopPart pk p s
      else enterPass pk d (setPart pk (some (freshPass s { p with last := some (p.charges, p.overflow, p.overFrozen) })) s)
    | _, _ => s

/-- PASS_BOUNDARY. -/
def execPassBoundary (p : PartRef) (s : State) : Result :=
  .next (passBoundary (partKey (planKey p.plan p.version) p.part) s)

/-! ### PLAN_START -/

/-- Whether a plan holds a stack: its partitions not yet released, of an armed or halted plan, or running (R73). -/
def planHolds (s : State) (k : Nat) (q : Plan) (st : Nat) : Bool :=
  q.state != 0 && q.d.parts.any fun d => d.mask.testBit st &&
    (if q.state = 3 then !q.released.contains d.part
     else q.waiting.contains d.part || (partAt s (partKey k d.part)).isSome)

/-- Release the partitions of Halted plans whose stacks a starting partition takes; the reference buffers of the stacks that
no partition of its plan takes go off, and a plan released whole is Loaded (R75, R114). -/
def releaseHalted (k : Nat) (d : PartDef) (s : State) : State :=
  let kept := fun st => (planAt s k).any fun q => q.d.parts.any fun e => q.waiting.contains e.part && e.mask.testBit st
  ((plansOf s).filter fun x => x.1 != k && x.2.state == 3).foldl (fun s (h, q) =>
    let taken := q.d.parts.filter fun e => (e.mask &&& d.mask) != 0 && !q.released.contains e.part
    if taken.isEmpty then s else
    let s := taken.foldl (fun s e => dropRefs e kept (postStopped (partKey h e.part) 0 s)) s
    let released := q.released ++ taken.map (·.part)
    if q.d.parts.all fun e => released.contains e.part then
      setPlan h (some { q with state := 0, released := [], barriers := [], arrivals := [] }) s
    else setPlan h (some { q with released := released }) s) s

/-- The bank on which a plan's partitions begin: the current one, else one that holds the plan's version (DEDUCED, log 29). -/
def firstBank (s : State) (d : PlanDef) : Nat :=
  (currentBank s d.model).getD (((List.range 2).find? fun b =>
    (bankAt s d.model b).any fun x => x.bound && x.version == d.modelVersion).getD 0)

/-- Pending switches of an image wait for a partition that starts. -/
def joinSwitches (pk image : Nat) (s : State) : State :=
  { s with model := { s.model with switches := s.model.switches.map fun w =>
      if w.image = image ∧ !w.begun ∧ !w.left.contains pk then { w with left := w.left ++ [pk] } else w } }

/-- A pending power mode waits for a partition that starts. -/
def joinMode (pk : Nat) (s : State) : State :=
  match s.spin.pend with
  | none => s
  | some m => { s with spin := { s.spin with pend := some { m with left := m.left ++ [pk] } } }

/-- A partition's record before its first pass. -/
def newPart (s : State) (k : Nat) (d : PartDef) (bank : Nat) : Part :=
  freshPass s {
    plan := k, d := d, p := 0, start := s.spin.count, frozen := false, causes := 0, lost := 0
    due := [], charges := 0, overflow := 0, overFrozen := 0, rereads := 0, rereadFrozen := 0, rereadLeft := 0, splitEnd := 0, marks := []
    suspect := 0, discards := [], blamed := [], reads := [], last := none, mode := s.spin.power, current := bank
    bank := bank, admits := true, steps := [], tails := [], named := [], decided := [], reserve := [], epoch := s.cal.epoch
    begun := false, ending := false, flood := false }

/-- A partition's first pass begins: every bit in the stores of its stacks is emptied before its input records are
written (R339). -/
def planStart (k part : Nat) (s : State) : State :=
  match planAt s k with
  | none => s
  | some q =>
    match q.d.parts.find? fun d => d.part == part with
    | none => s
    | some d =>
      if !(mayStart s q d && nextBoundary s (partKey k part)) then s else
      let pk := partKey k part
      let s := releaseHalted k d s
      let s := setPlan k (some { q with state := 2, waiting := q.waiting.filter (· != part) }) s
      let s := adoptSlots pk d q.d.digref s
      let s := d.stacks.foldl (fun s st => emptyStack st s) s
      let bank := firstBank s q.d
      let s := pinFollowers q.d.model bank pk (setPart pk (some (newPart s k d bank)) s)
      let s := { s with cal := { s.cal with released := s.cal.released.filter fun st => !d.mask.testBit st } }
      let s := joinMode pk (joinSwitches pk q.d.model s)
      let s := postPlan pk 0x0210 1 (le 4 (k % 65536) ++ le 8 (turnOf s)) s
      enterPass pk d s

/-! ### After a halt (R38, R380) -/

/-- Where partitions have ended outside a boundary, decks that leave and bank switches that waited for them go on. -/
def settleEnded (s : State) : State := endSwitches (sweepLeaving none s)

/-- Where a command has ended partitions that ran in `old` by a halt, what waited for them goes on: a power mode, a fabric map,
decks that leave, a bank switch. -/
def settleHalts (old s : State) : State :=
  if (parts s).length = (parts old).length then s else
  let gone := ((s.net.staged.map (·.2)).getD []).filter fun pk => (partAt s pk).isNone
  settleEnded (gone.foldl (fun s pk => applyMapTo pk s) (finishMode s))

/-- RECOMPUTE_RESULT. -/
def execRecomputeResult (st req : Nat) (tileOk : Bool) (s : State) : Host.Outcome State Fault Refusal :=
  .next (settleHalts s (recomputeResult st req tileOk s))

/-- MEM_READ_ARRIVAL. -/
def execMemReadArrival (id : Nat) (tileOk : Bool) (s : State) : Host.Outcome State Fault Refusal :=
  .next (settleHalts s (memArrival id tileOk s))

/-- PLAN_START. -/
def execPlanStart (p : PartRef) (s : State) : Result := .next (planStart (planKey p.plan p.version) p.part s)

end Sys2Proof.Machine
end

