-- ==== Sys2Proof/Machine/Index.lean ====
section
/-!
DEFINITION. INDEX_BOUNDARY and STALL_LIMIT: the end of one index and the start of the next. The commands that happen
within an index come between two boundaries; a boundary cannot come before what the spec places in the index that
ends (log 4).
-/

namespace Sys2Proof.Machine

/-! ### When an index may end -/

/-- Whether a release has reached its unit at the latest by the next index (R353, R354). -/
def releaseDue (s : State) (f : Fly) : Bool :=
  match f.body, f.wait, planOfFly s f with
  | .barrier b gen, .release _, some (_, p) =>
    match releaseOf (barrierAt p b) gen with
    | none => false
    | some none => true
    | some (some t) => decide (t + releaseBound s f.part (((barrierDef p b).map (·.scope)).getD 0) ≤ s.spin.tick + 1)
  | _, _, _ => false

/-- Whether a stage of an operation in flight falls in this index and has not come yet. -/
def stageDue (s : State) (f : Fly) : Bool :=
  match f.body with
  | .read j => f.wait == .none && !j.done &&
      (if j.halves.any (needsReread j) then (rereadWrite j).any fun w => decide (w ≤ s.spin.tick)
       else decide (f.due ≤ s.spin.tick))
  | .true t => trueDue s f || t.replay.any fun x => replayReady t x.1
  | .out _ => f.wait == .none && decide (f.due ≤ s.spin.tick) && [0x21, 0x22, 0x23].contains f.op.code
  | _ => releaseDue s f

/-- Whether something of the index in progress is still to come: due operations, pass boundaries and starts, stages of
operations, waits that are satisfied, frames that can cross, exact values, stall limits, ends of monitor delays, of loops and of probes, the lock of a self spindle,
the turn of a power mode. -/
def indexOpen (s : State) : Bool :=
  (parts s).any (fun x => !x.2.due.isEmpty) || !(boundaries s).isEmpty ||
  (tvals s.plans.flies).any (fun x => stageDue s x.2 || satisfied s x.2 || stalledOut s x.2) ||
  s.net.frames.any (grainCan s) ||
  s.plans.queues.any (fun x => x.2.any fun r => !r.paired && r.started.any fun t => decide (t + 12 ≤ s.spin.tick)) ||
  (tvals s.conv.mons).any (fun x => x.2.running && x.2.delay == some 0) || overdue s ||
  (s.spin.state == 1 && s.spin.selfStart.any fun x => decide (x.2 + 2 ≤ s.spin.tick)) ||
  (s.spin.state == 2 && s.spin.pend.any fun m => !m.idle && decide (m.turn ≤ turnOf s))

/-! ### The clock -/

/-- The next index of the module's own clock, and of the spindle count where it advances (R17, R46, R52). The answer
says whether the count advanced. -/
def tickOver (s : State) : State × Bool :=
  let runs := (s.spin.state == 2 && !s.spin.held) || (s.spin.state == 1 && s.spin.selfStart.isSome)
  let count := if runs then (s.spin.count + 1) % 2 ^ 64 else s.spin.count
  let turn := s.spin.state == 2 && runs && count % 8192 == 0
  ({ s with spin := { s.spin with tick := s.spin.tick + 1, count := count, held := false, atTurn := turn } }, runs)

/-- The events of a turn that has ended: SESSION_OVERLOAD (R337), and those of the fabric. A PLAN_STOP whose turn has
come and whose plan runs no partition completes. -/
def endTurn (s : State) : State :=
  if !s.spin.atTurn then s else
  let s := if s.serve.refused = 0 then s else
    postEvent 7 0 0x0501 2 (le 4 s.serve.refused ++ le 4 s.serve.queue.length)
      { s with serve := { s.serve with refused := 0 } }
  let s := turnReports s
  let s := ((plansOf s).filter fun x => x.2.stop.isSome).foldl (fun s x => closePlan x.1 s) s
  { s with ev := { s.ev with turnMarks := [] } }

/-! ### Monitor actions and holds (R150, R152, R153) -/

/-- The partitions that a monitor covers. -/
def monParts (s : State) (mon : Nat) : List Nat := ((parts s).filter fun x => monOnPart mon x.2.d).map (·.1)

/-- One monitor action takes effect. A suspect-mark bears on the passes in progress, and is kept for those that begin at this
boundary (R152). A monitor has one hold of each kind: a second entry that enters violation while it stands raises none
(R153; DESIGN CHOICE, log 21). MON_HOLD_RAISED gives the number of partitions held (R160; DESIGN CHOICE, log 21). -/
def monAction (s : State) (a : MonAct) : State :=
  if a.hold then
    if s.conv.holds.any fun h => h.mon == a.mon && h.thermal == a.thermal then s else
    postEvent 5 a.mon 0x0712 3 (le 1 a.mon ++ le 1 a.entry ++ le 1 (b2n !a.thermal) ++ le 4 (monParts s a.mon).length)
      { s with conv := { s.conv with holds := s.conv.holds ++ [⟨a.mon, a.thermal, s.spin.tick⟩] } }
  else (monParts s a.mon).foldl (fun s pk => suspectPass pk 2 s)
    { s with conv := { s.conv with marked := s.conv.marked ++ [a.mon] } }

/-- The group of a table entry's channel is a temperature (R147). -/
def MonEntry.thermal (e : MonEntry) : Bool := bits e.channel 19 16 == 3 || bits e.channel 19 16 == 5

/-- Whether an entry of a monitor with the hold action is in violation. -/
def holdStands (s : State) (h : Hold) : Bool :=
  match tget none s.conv.mons h.mon with
  | none => false
  | some m => (m.table.zip m.viol).any fun x => x.1.action == 2 && x.1.thermal == h.thermal && x.2.isSome

/-- Holds clear at the first boundary at which no entry keeps them (R153). -/
def clearHolds (s : State) : State :=
  let gone := s.conv.holds.filter fun h => !holdStands s h
  gone.foldl (fun s h => postEvent 5 h.mon 0x0713 1
      (le 1 h.mon ++ le 1 (b2n !h.thermal) ++ le 4 (s.spin.tick - h.tick)) s)
    { s with conv := { s.conv with holds := s.conv.holds.filter (holdStands s) } }

/-- Monitor actions, holds, and delays at a boundary. -/
def stepMonitors (s : State) : State :=
  let acts := s.conv.acts
  let s := acts.foldl monAction { s with conv := { s.conv with acts := [], marked := [] } }
  let s := clearHolds s
  { s with conv := { s.conv with mons := s.conv.mons.map fun (k, o) =>
      (k, o.map fun m => { m with delay := m.delay.map (· - 1) }) } }

/-! ### Range-split re-reads (R124 to R126) -/

/-- The reads of a partition that undergo a re-read not yet complete, in issue order. -/
def splits (s : State) (pk : Nat) : List (Nat × Fly × ReadJob) :=
  (fliesOf s pk).filterMap fun (id, f) =>
    match f.body with
    | .read j => if !j.done && j.halves.any (needsReread j) then some (id, f, j) else none
    | _ => none

/-- Busy indices of the last operation issued on a read's engine after it, 0 for none: k of R124 is 1 more, at least
2. -/
def busyAfter (p : Part) (f : Fly) : Nat :=
  let ops := ((p.d.cuts.filter fun x => x.1 == f.st).flatMap (·.2)).filter fun op =>
    op.kind == f.op.kind && op.unit == f.op.unit && decide (op.offset ≤ p.p) &&
      (decide (f.op.offset < op.offset) || (op.offset == f.op.offset && decide (f.op.pos < op.pos)))
  (ops.getLast?.map busyOf).getD 0

/-- Replace a read job in flight. -/
def setJob (id : Nat) (f : Fly) (j : ReadJob) (s : State) : State := setFly id (some { f with body := .read j }) s

/-- The index from which a read whose clip count has become known may drive: after the drain and the selection of its
deck, or after the re-read before it on its engine (R124, R125). -/
def readySplit (pk : Nat) (s : State) (x : Nat × Fly × ReadJob) : State :=
  let (id, f, j) := x
  match partAt s pk with
  | none => s
  | some p =>
    if j.ready.isSome || decide (s.spin.tick < f.due) then s else
    let before := (splits s pk).filter fun y => y.2.2.phys == j.phys && decide (y.1 < id)
    match before.getLast? with
    | none => setJob id f { j with ready := some (s.spin.tick + max 2 (1 + busyAfter p f) + 2) } s
    | some (_, _, i) =>
      match i.drive with
      | none => s
      | some d => setJob id f { j with ready := some (d + 4 * i.strokes + 4) } s

/-- Sub-reads that a stack drives in this index. -/
def driving (s : State) (pk st : Nat) : Nat :=
  ((splits s pk).filter fun x => x.2.1.st == st && x.2.2.drive.any fun d =>
    decide (d ≤ s.spin.tick) && decide (s.spin.tick < d + 4 * x.2.2.strokes)).length

/-- A read that is ready begins its sub-reads when the stroke cap of its stack allows (R125). -/
def driveSplit (pk : Nat) (s : State) (x : Nat × Fly × ReadJob) : State :=
  let (id, f, j) := x
  match partAt s pk with
  | none => s
  | some p =>
    if j.drive.isSome || !j.ready.any (fun r => decide (r ≤ s.spin.tick)) ||
        decide (strokeCap p.mode ≤ driving s pk f.st) then s
    else
      setPart pk (some { p with splitEnd := max p.splitEnd (s.spin.tick + 4 * j.strokes + 4) })
        (setJob id f { j with drive := some s.spin.tick } s)

/-- While the spindle is Coasting, phases not begun wait, and the current drive, which is a sub-read of b indices (DESIGN
CHOICE, log 60), completes (R126). -/
def coastSplit (s : State) (x : Nat × Fly × ReadJob) : State :=
  let (id, f, j) := x
  let inside := j.drive.any fun d =>
    decide (d < s.spin.tick) && decide (s.spin.tick < d + 4 * j.strokes) && (s.spin.tick - d) % j.strokes != 0
  if inside then s else setJob id f { j with ready := j.ready.map (· + 1), drive := j.drive.map (· + 1) } s

/-- The range-split freeze of a partition at a boundary; while the spindle is Coasting it lasts as much longer as its last
read waits (R124, R126). -/
def stepSplits (s : State) (pk : Nat) : State :=
  let xs := splits s pk
  if s.spin.state = 2 then
    let s := xs.foldl (readySplit pk) s
    let order := sortBy (fun a b : Nat × Fly × ReadJob => decide (a.2.2.engine ≤ b.2.2.engine)) (splits s pk)
    order.foldl (driveSplit pk) s
  else
    let s := xs.foldl coastSplit s
    match partAt s pk with
    | none => s
    | some p =>
      if p.splitEnd < s.spin.tick then s else
      let ends := (splits s pk).filterMap fun x => x.2.2.drive.map (· + 4 * x.2.2.strokes + 4)
      setPart pk (some { p with splitEnd := if ends.isEmpty then p.splitEnd + 1 else ends.foldl max p.splitEnd }) s

/-! ### Freezes (R79) -/

/-- Whether an operation waits at a boundary: words are tested as they are then, an arrival or a release until it has
come. -/
def waits (s : State) (f : Fly) : Bool :=
  match f.wait with
  | .none => false
  | .guard ws => !ws.all (fullAt s)
  | .fill ws => ws.any (fullAt s)
  | _ => true

/-- The freeze causes of R79 of a partition at a boundary, bit k for the (k + 1)-th. -/
def causesAt (s : State) (held : Bool) (pk : Nat) (p : Part) : Nat :=
  let mine := (fliesOf s pk).map (·.2)
  let on := fun (k : Nat) (b : Bool) => if b then 2 ^ k else 0
  let guards := mine.any fun f => waits s f && (match f.wait with
    | .guard _ => true
    | _ => false)
  let fills := mine.any fun f => waits s f && (match f.wait with
    | .fill _ => true
    | .link => true
    | _ => false)
  let bars := mine.any fun f => match f.wait with
    | .arrival => true
    | .release _ => true
    | _ => false
  let split := decide (s.spin.tick < p.splitEnd) || (splits s pk).any fun x => decide (x.2.1.due ≤ s.spin.tick)
  on 0 guards + on 1 fills + on 2 bars + on 3 (s.conv.holds.any fun h => monOnPart h.mon p.d) +
    on 4 (s.spin.state != 2) + on 5 held + on 6 split + on 7 (overflowing s pk s.spin.tick)

/-- P advances, or is 0 in the first index of a pass that began frozen, and the operations of that offset are due (R78). -/
def advance (p : Part) : Part :=
  if p.begun then { p with p := p.p + 1, due := dueAt p.d (p.p + 1) } else { p with begun := true, due := dueAt p.d 0 }

/-- A partition at an index boundary: P advances and operations become due unless it is frozen (R78 to R80). A cause at the
boundary at which its pass ends is the next pass's (R81). -/
def stepPart (held moved : Bool) (s : State) (pk : Nat) : State :=
  match partAt s pk with
  | none => s
  | some p =>
    let next := if moved then advance p else p
    if moved && s.spin.atTurn && passDone s pk next then setPart pk (some { next with frozen := false, flood := false }) s else
    let c := causesAt s held pk p
    let p := { p with
      frozen := c != 0, causes := p.causes ||| c
      lost := if c != 0 && s.spin.state == 2 && decide (p.p < p.d.work) then p.lost + 1 else p.lost
      rereadFrozen := p.rereadFrozen + b2n (c.testBit 6), overFrozen := p.overFrozen + b2n (c.testBit 7)
      flood := c.testBit 7 }
    let p := if c == 0 && moved then advance p else p
    setPart pk (some p) s

/-- The stall count of an operation at a boundary: it advances where a wait persists, and is 0 where none stands (R347). -/
def stallAt (s : State) (f : Fly) : Nat :=
  if f.wait == .none then 0 else if waits s f then f.stall + 1 else f.stall

/-- Stall counts at a boundary; they stand while the spindle is Coasting (R347). -/
def stepStalls (s : State) : State :=
  if s.spin.state != 2 then s else
  { s with plans := { s.plans with flies := s.plans.flies.map fun (k, o) =>
      (k, o.map fun f => { f with stall := stallAt s f }) } }

/-- A spare core whose buffer has been on for 256 indices is ready: its substitution is staged (R413). -/
def stageHones (s : State) : State :=
  { s with integ := { s.integ with hones := s.integ.hones.map fun h =>
      if (h.bufferOn.any fun t => decide (t + 256 ≤ s.spin.tick)) then { h with staged := true } else h } }

/-! ### What the module sends at a boundary (R42, R43, R48, R387) -/

/-- The bit of SPINDLE_OUT in the index of a turn. -/
def spindleBit (count : Nat) : Bool :=
  let i := count % 8192
  let turn := count / 8192 % 2 ^ 51
  let word := (List.range 51).map fun k => turn.testBit (50 - k)
  if i < 8 then Nat.testBit 0xD2 (7 - i)
  else if i < 59 then word.getD (i - 8) false
  else if i < 67 then (crc8 word).testBit (7 - (i - 59))
  else false

/-- The marker block of R387. -/
def markerBlock (s : State) : Bytes :=
  let head := le 2 0xD25A ++ le 7 (s.spin.count / 8192 % 2 ^ 51) ++ le 1 s.spin.hops ++ le 2 ((selfModule s).getD 0x3FF) ++ zeros 2
  head ++ le 2 (crc16 head)

/-- The ports that carry markers: those that are Attached. -/
def markerPorts (s : State) : List Nat := ((tvals s.net.conns).filter fun x => decide (x.1 < 64) && x.2.state == 4).map (·.1)

/-- The markers of a turn, one on each port that carries them, where their emission is enabled (R48). -/
def sendMarkers (s : State) : State :=
  if s.spin.state != 2 || !s.spin.outEnable.testBit 1 then s else
  { s with out := { s.out with markers := s.out.markers ++ (markerPorts s).map fun k => (k, markerBlock s) } }

/-- SPINDLE_OUT, index marks and markers of an index boundary. In the held index of a stutter the bit of the held count
goes out again, and none for a count passed over (DESIGN CHOICE, log 28: R48 does not say). -/
def sendSpindle (s : State) : State :=
  if s.spin.state != 2 then s else
  let s := if s.spin.outEnable.testBit 0 then
      { s with out := { s.out with spindle := s.out.spindle ++ [(s.spin.tick, spindleBit s.spin.count)] } }
    else s
  if !s.spin.outEnable.testBit 1 then s else
  let marks := (markerPorts s).map fun k => (k, [0xA5#8, 0x5A#8])
  let s := { s with out := { s.out with markers := s.out.markers ++ marks } }
  if s.spin.atTurn then sendMarkers s else s

/-! ### INDEX_BOUNDARY -/

/-- The start of an index. -/
def beginIndex (s : State) : State :=
  let held := s.spin.held
  let (s, moved) := tickOver s
  let s := endTurn s
  let s := stepMonitors (pumpPorts s)
  let s := idleCores (sweepLeaving none (stageHones (retryFar s)))
  let s := ((parts s).map (·.1)).foldl stepSplits s
  let s := stepStalls s
  let s := ((parts s).map (·.1)).foldl (stepPart held (moved && s.spin.state == 2)) s
  sendSpindle (stepProbes (judgePasses s))

/-! ### Failed tiles (R399) -/

/-- The token log of a context failed: the context is Damaged, and its session departs. -/
def logFailed (k : Nat) (s : State) : State :=
  match ctxAt s k with
  | none => s
  | some c =>
    let s := setCtx k (some { c with damaged := true }) (postTile 3 0 0 s)
    match ctxSession s k with
    | none => s
    | some (id, x) => if x.admitted then setSession id (some { x with requeue := true }) s else s

/-- The steps of a partition's slots that are pinned to an adapter version are discarded. -/
def discardPinned (v : Nat) (p : Part) : Part :=
  { p with discards := p.discards ++ (p.steps.filter fun x => !x.empty && x.job != 2 && x.adapter == some v).map (·.slot) }

/-- The stored image of an adapter version failed: it is Damaged and not current any more; the steps of slots pinned to it
are discarded, and their sessions depart to Queued. -/
def adapterFailed (v : Nat) (s : State) : State :=
  match tget none s.model.adapters v with
  | none => s
  | some a =>
    let s := postTile 4 0 0 s
    let other := fun (t : Tab (Option Nat)) => t.filter fun x => x.2.map (x.1 * 256 + ·) != some v
    { s with
      model := { s.model with
        adapters := tset none s.model.adapters v (some { a with damaged := true })
        current := other s.model.current, upcoming := other s.model.upcoming
        adopt := s.model.adopt.filter fun x => x.2 != v }
      plans := { s.plans with parts := s.plans.parts.map fun x => (x.1, x.2.map (discardPinned v)) }
      serve := { s.serve with sessions := s.serve.sessions.map fun x => (x.1, x.2.map fun y =>
        if y.admitted && y.pinned == some v then { y with requeue := true } else y) } }

/-- What a CRC failure of the index does. A store tile is named by its address in the store of its stack; a hub crossing
fails when the index ends. -/
def crcFailed (s : State) : CrcFail → State
  | .store g =>
    let s1 := if g < 335544320 then postTile 0 (wordStack g) (32 * (g % 20971520)) s
      else postTile 1 (wordStack g) (32 * ((g - 335544320) % 6291456)) s
    match partOfStack s (wordStack g) with
    | some (pk, _) => suspectPass pk 3 s1
    | none => s1
  | .kv k layer n => pageTile k (pageKey layer n) s
  | .log k => logFailed k s
  | .adapter v => adapterFailed v s
  | .area region readers place addr =>
    planTile (readers.map fun p => partKey (planKey p.plan p.version) p.part) region place addr s
  | .hub link => { s with net := { s.net with failed := s.net.failed ++ [link] } }

/-- An index boundary, once nothing of the index in progress is still to come: the CRC failures of the index, then its end,
in which the hub crossings named fail (R370), and the beginning of the next. -/
def indexBoundary (fails : List CrcFail) (s : State) : State :=
  if indexOpen s || !s.phys.pwrGood then s else beginIndex (endIndex (settleHalts s (fails.foldl crcFailed s)))

/-- INDEX_BOUNDARY. -/
def execIndexBoundary (fails : List CrcFail) (s : State) : Result := .next (indexBoundary fails s)

/-! ### STALL_LIMIT (R82, R348) -/

/-- The word a stall fault names: the first empty source word or the first full destination word; for a send held
under R385 its first destination as its operand names it. -/
def stallWord (s : State) (f : Fly) : Nat :=
  match f.wait with
  | .guard ws => canonical s ((ws.find? fun g => !fullAt s g).getD (ws.headD 0))
  | .fill ws => canonical s ((ws.find? fun g => fullAt s g).getD (ws.headD 0))
  | _ => opBits f.op 47 16

/-- The fault event of one wait that has reached the limit, with its flag (R348, R361). -/
def stallFault (pk : Nat) (s : State) (f : Fly) : State :=
  let words := le 1 f.st ++ le 2 (unitField f.op) ++ le 4 f.op.offset ++ le 4 (stallWord s f)
  match f.wait, f.body with
  | .guard _, _ => postPlan pk 0x0220 3 words (setSyncFlag 3 s)
  | .fill _, _ => postPlan pk 0x0221 3 words (setSyncFlag 4 s)
  | .link, _ => postPlan pk 0x0221 3 words (setSyncFlag 4 s)
  | _, .barrier b gen =>
    let c := match planOfFly s f with
      | some (_, p) => barrierAt p b
      | none => ⟨0, 0, 0, 0, []⟩
    postPlan pk 0x0222 3 (le 2 b ++ le 2 gen ++ le 4 c.c0 ++ le 4 c.c1) (setSyncFlag 5 s)
  | _, _ => s

/-- The waits of a partition that have reached the limit, by stack, unit kind and unit number. -/
def stalledFlies (s : State) (pk : Nat) : List Fly :=
  sortBy (fun a b : Fly => decide (unitPos a.st a.op ≤ unitPos b.st b.op)) (((fliesOf s pk).map (·.2)).filter (stalledOut s))

/-- The partitions of a plan whose waits have reached the limit at this boundary. -/
def stalledParts (s : State) (k : Nat) : List Nat :=
  ((parts s).map (·.1)).filter fun x => x / 16 == k && !(stalledFlies s x).isEmpty

/-- A wait has reached the stall limit: the faults of the waits of every partition of the plan that have reached it at this
boundary, then every pass of the plan is abandoned (R82, R348). -/
def stallLimit (pk : Nat) (s : State) : State :=
  if (stalledFlies s pk).isEmpty then s else
  let hit := stalledParts s (pk / 16)
  abandonPlan (pk / 16) (fun k => if hit.contains k then 1 else 2)
    (hit.foldl (fun s x => (stalledFlies s x).foldl (stallFault x) s) s)

/-- STALL_LIMIT. -/
def execStallLimit (p : PartRef) (s : State) : Result :=
  .next (settleHalts s (stallLimit (partKey (planKey p.plan p.version) p.part) s))

end Sys2Proof.Machine
end

