-- ==== Sys2Proof/Machine/Trust.lean ====
section
/-!
DEFINITION. The load log (R436), tenants and their keys (R442 to R445), plan signing keys (R450), security versions
(R430), and the commands of "Trust and keys" (R452, R453).
-/

namespace Sys2Proof.Machine

/-! ### The load log (R436) -/

/-- Entries that the log holds. -/
def logRoom : Nat := 16384

/-- Whether the log is full: a command that would add an entry is refused. -/
def logFull (s : State) : Bool := decide (logRoom ≤ s.trust.log.length)

/-- A load log entry. -/
def logEntry (kind id version : Nat) (digest : Bytes) (count : Nat) : Bytes :=
  le 1 kind ++ zeros 3 ++ le 4 id ++ le 2 version ++ zeros 6 ++ padTo 32 digest ++ le 8 count ++ zeros 8

/-- Add an entry: the running digest goes on over bytes 0 to 47, and LOAD_LOG_FULL is posted when the log is full. -/
def addLog (kind id version : Nat) (digest : Bytes) (s : State) : State :=
  let e := logEntry kind id version digest s.spin.count
  let s := { s with trust := { s.trust with
    log := s.trust.log ++ [e], digest := sha256 (s.trust.digest ++ sha256 (e.take 48)) } }
  if s.trust.log.length = logRoom then postEvent 0xD 0 0x0A04 3 (le 8 s.spin.count) s else s

/-! ### Manifests as keys (R242, R450) -/

/-- The owner's public key that a manifest carries before its signature: modulus and exponent. -/
def ownerKey (raw : Bytes) : Bytes := (raw.drop (raw.length - 772)).take 388

/-- `ENCRYPTED`. -/
def encrypted (raw : Bytes) : Bool := bit (fld raw 14 2) 0

/-- `REDUCTION_DIGEST`. -/
def reductionOf (raw : Bytes) : Bytes := slice raw 32 32

/-- The key named by a digest among those held for a role: registered operator keys, or the owner keys of held
manifests. -/
def heldKey (s : State) (role : Nat) (digest : Bytes) : Option Bytes :=
  let keys := if role = 0 then (tvals s.trust.planKeys).map (·.2) else
    if role = 1 then s.model.manifests.map fun m => ownerKey m.raw else []
  keys.find? fun k => sha256 k == digest

/-- Whether a signature verifies under a key of 388 bytes. -/
def verifies (key message sig : Bytes) : Bool := Config.pssVerify (key.take 384) (slice key 384 4) message sig

/-! ### Tenants -/

/-- Whether a number names no tenant (R18). -/
def noTenant (t : Nat) : Bool := t == 0 || t == 0xFFFF

/-- A tenant ID in its range (R18). -/
def badTenant (c : Cmd) : Check := badField 8 (noTenant c.tenant)

/-- The tenant's export key (R445). -/
def exportKey (t : Nat) (n : Tenant) : Bytes := kdf salt0 n.ts (ascii "K9EXPORT" ++ le 2 t)

/-- The tenant's adapter key of an ID and version. -/
def adapterKey (t : Nat) (n : Tenant) (a v : Nat) : Bytes := kdf salt0 n.ts (ascii "K9ADAPT" ++ le 2 t ++ le 3 a ++ le 1 v)

/-- The output key of a queue made under a tag sequence. -/
def outputKey (t : Nat) (n : Tenant) (q seq : Nat) : Bytes :=
  kdf n.mn (n.rs ++ n.ts) (ascii "K9OUT" ++ le 2 t ++ le 1 q ++ le 4 seq)

/-- The block of a TENANT_KEY_SET, unwrapped (R443). -/
def openBlock (c : Cmd) : Option Bytes :=
  (Config.oaepUnwrap identityKey ((c.param.drop 32).take 384) (ascii "K9TENANT")).bind fun b =>
    if b.length = 66 ∧ fld b 64 2 = c.tenant then some b else none

/-- TENANT_KEY_SET's checks: it may be issued on a virtual function bound to its tenant. -/
def keySetChecks (c : Cmd) (s : State) : List Check :=
  let old := tenantOf s c.tenant
  headChecks c .some .some 64 ++
  [ badTenant c, inlineZero c 40 24, badParam 416 (!zeroAt c.param 416 96), badLength 12 (c.paramLen != 512),
    badLength 32 (decide (c.dataLen < 32)), integrity 0 (c.param.take 32 != identityBytes), integrity 0 (openBlock c).isNone,
    unauthorised 5 (old.any fun n => (openBlock c).any fun b => b.take 32 != n.ts),
    exhausted (old.isNone && (decide (4096 ≤ (tvals s.trust.tenants).length) || logFull s)) ]

/-- TENANT_KEY_SET: a new secret, or a new session under the same one (R443, R444). -/
def keySet (c : Cmd) (s : State) : Ran :=
  match openBlock c with
  | none => .ok s 0
  | some b =>
    let again := (tenantOf s c.tenant).isSome
    let (mn, s) := randomBytes 32 s
    let n : Tenant := { ts := b.take 32, rs := slice b 32 32, mn := mn, high := 0, seen := [] }
    let s := { s with trust := { s.trust with tenants := tset none s.trust.tenants c.tenant (some n) } }
    let s := if again then s else addLog 7 c.tenant 0 (sha256 (exportKey c.tenant n)) s
    let s := postEvent 0xD 0 0x0A02 1 (le 2 c.tenant ++ le 1 (b2n again)) (writeData c mn s)
    .ok s (1 + b2n again)

/-- TENANT_KEY_SET. -/
def execTenantKeySet (c : CmdIn) (s : State) : Result := .next (runCommand 0x0A01 keySetChecks keySet c s)

/-- Whether a tenant has a context, session, output queue or adapter version (R451). -/
def tenantUsed (s : State) (t : Nat) : Bool :=
  (tvals s.serve.ctxs).any (fun x => x.2.tenant == t) || (tvals s.serve.sessions).any (fun x => x.2.tenant == t) ||
  (tvals s.host.outqs).any (fun x => x.2.tenant == t) || (tvals s.model.adapters).any fun x => x.2.tenant == t

/-- TENANT_KEY_CLEAR's checks. -/
def keyClearChecks (c : Cmd) (s : State) : List Check :=
  pfOnly c :: headChecks c .none .none 1 ++ [badTenant c, inlineZero c 40 24,
    unauthorised 3 (tenantOf s c.tenant).isNone, exhausted (logFull s), conflict (tenantUsed s c.tenant)]

/-- TENANT_KEY_CLEAR. -/
def keyClear (c : Cmd) (s : State) : Ran :=
  match tenantOf s c.tenant with
  | none => .ok s 0
  | some n =>
    .ok (addLog 8 c.tenant 0 (sha256 (exportKey c.tenant n))
      { s with trust := { s.trust with tenants := tset none s.trust.tenants c.tenant none } }) 0

/-- TENANT_KEY_CLEAR. -/
def execTenantKeyClear (c : CmdIn) (s : State) : Result := .next (runCommand 0x0A02 keyClearChecks keyClear c s)

/-- VF_BIND's checks: a function with queues keeps its binding (R442, R451). -/
def vfBindChecks (c : Cmd) (s : State) : List Check :=
  let fn := c.at 40 1
  pfOnly c :: headChecks c .none .none 1 ++
  [ badField 40 (fn == 0 || decide (31 < fn)), inlineZero c 41 1, badField 42 (c.at 42 2 == 0), inlineZero c 44 20,
    conflict ((tvals s.host.sqs).any (fun x => x.2.owner == fn) || (tvals s.host.cqs).any (fun x => x.2.owner == fn) ||
      (tvals s.host.outqs).any fun x => x.2.owner == fn) ]

/-- VF_BIND. -/
def vfBind (c : Cmd) (s : State) : Ran :=
  let t := if c.at 42 2 = 0xFFFF then 0 else c.at 42 2
  .ok { s with trust := { s.trust with binds := tset 0 s.trust.binds (c.at 40 1) t } } 0

/-- VF_BIND. -/
def execVfBind (c : CmdIn) (s : State) : Result := .next (runCommand 0x0A03 vfBindChecks vfBind c s)

/-! ### Plan keys -/

/-- PLAN_KEY_REGISTER's checks. -/
def keyRegisterChecks (c : Cmd) (s : State) : List Check :=
  let e := fld c.data 384 4
  pfOnly c :: headChecks c .none .some 64 ++
  [ badField 40 (decide (7 < c.at 40 1)), inlineZero c 41 23, badData 384 (decide (388 ≤ c.dataLen) && (decide (e < 3) || e % 2 == 0)),
    badLength 32 (c.dataLen != 388), exhausted (logFull s), conflict (tget none s.trust.planKeys (c.at 40 1)).isSome ]

/-- PLAN_KEY_REGISTER. -/
def keyRegister (c : Cmd) (s : State) : Ran :=
  let k := slice c.data 0 388
  .ok (addLog 5 (c.at 40 1) 0 (sha256 k)
    { s with trust := { s.trust with planKeys := tset none s.trust.planKeys (c.at 40 1) (some k) } }) 0

/-- PLAN_KEY_REGISTER. -/
def execPlanKeyRegister (c : CmdIn) (s : State) : Result := .next (runCommand 0x0A04 keyRegisterChecks keyRegister c s)

/-- PLAN_KEY_REMOVE's checks. -/
def keyRemoveChecks (c : Cmd) (s : State) : List Check :=
  pfOnly c :: headChecks c .none .none 1 ++
  [ badField 40 (decide (7 < c.at 40 1)), inlineZero c 41 23, exhausted (logFull s),
    conflict (tget none s.trust.planKeys (c.at 40 1)).isNone ]

/-- PLAN_KEY_REMOVE. -/
def keyRemove (c : Cmd) (s : State) : Ran :=
  let k := (tget none s.trust.planKeys (c.at 40 1)).getD []
  .ok (addLog 6 (c.at 40 1) 0 (sha256 k)
    { s with trust := { s.trust with planKeys := tset none s.trust.planKeys (c.at 40 1) none } }) 0

/-- PLAN_KEY_REMOVE. -/
def execPlanKeyRemove (c : CmdIn) (s : State) : Result := .next (runCommand 0x0A05 keyRemoveChecks keyRemove c s)

/-! ### Security versions, identity, log -/

/-- Checks of a command without parameters or buffers. -/
def plainChecks (c : Cmd) (_ : State) : List Check := pfOnly c :: headChecks c .none .none 1 ++ [inlineZero c 40 24]

/-- Set the lowest clear fuse, up to `n` times (R430). -/
def burnFuses : Nat → BitVec 32 → BitVec 32
  | 0, f => f
  | n + 1, f =>
    burnFuses n (match (List.range 32).find? fun k => !f.getLsbD k with
      | none => f
      | some k => f ||| BitVec.ofNat 32 (2 ^ k))

/-- SVN_COMMIT. -/
def svnCommit (_ : Cmd) (s : State) : Ran :=
  let old := fusedSvn s
  let new := runningSvn s
  if new ≤ old then .ok s old else
  let s := { s with phys := { s.phys with svnFuses := burnFuses (new - old) s.phys.svnFuses } }
  .ok (postEvent 0xD 0 0x0A03 1 (le 4 old ++ le 4 (fusedSvn s)) s) (fusedSvn s)

/-- SVN_COMMIT. -/
def execSvnCommit (c : CmdIn) (s : State) : Result := .next (runCommand 0x0A06 plainChecks svnCommit c s)

/-- IDENTITY_READ's checks. -/
def identityChecks (c : Cmd) (s : State) : List Check :=
  pfOnly c :: headChecks c .none .some 64 ++ [inlineZero c 40 24, badLength 32 (decide (c.dataLen < (certChain s).length))]

/-- IDENTITY_READ: the chain of R428, and the first bytes of the identity digest. -/
def identityRead (c : Cmd) (s : State) : Ran := .ok (writeData c (certChain s) s) (fld identityBytes 0 8)

/-- IDENTITY_READ. -/
def execIdentityRead (c : CmdIn) (s : State) : Result := .next (runCommand 0x0A07 identityChecks identityRead c s)

/-- LOAD_LOG_READ's checks. -/
def logReadChecks (c : Cmd) (_ : State) : List Check :=
  pfOnly c :: headChecks c .none .some 64 ++ [badField 32 (c.dataLen % 64 != 0), inlineZero c 44 20]

/-- LOAD_LOG_READ: the entries from the first one named, as far as the buffer holds them (R436). -/
def logRead (c : Cmd) (s : State) : Ran :=
  let es := (s.trust.log.drop (c.at 40 4)).take (c.dataLen / 64)
  .ok (if es.isEmpty then s else writeData c es.flatten s) s.trust.log.length

/-- LOAD_LOG_READ. -/
def execLoadLogRead (c : CmdIn) (s : State) : Result := .next (runCommand 0x0A08 logReadChecks logRead c s)

end Sys2Proof.Machine
end

