-- ==== Sys2Proof/Machine/Monitors.lean ====
section
/-!
DEFINITION. CAL_SELF and the trim words (R132 to R142), and the monitor converters with their sequencer (R143 to
R160, R236).
-/

namespace Sys2Proof.Machine

/-! ### CAL_SELF (R139 to R142) -/

/-- The stacks of a mask. -/
def stacksOf (mask : Nat) : List Nat := (List.range 16).filter fun st => mask.testBit st

/-- Whether an armed, running or halted plan holds a stack. -/
def stackPlanned (s : State) (st : Nat) : Bool := (plansOf s).any fun x => planHolds s x.1 x.2 st

/-- Whether program-and-verify, warm-start probing or honing is in progress on a stack. -/
def arraysBusy (s : State) (st : Nat) : Bool :=
  s.model.writes.any (fun w => engineStack w.engine == st) || (tkeys s.model.loops).any (fun e => engineStack e == st) ||
  (tkeys s.model.probes).any (fun e => engineStack e == st) || s.cal.warmups.any (fun w => w.mask.testBit st) ||
  s.integ.cores.any fun x => x.1 / 640 == st && (x.2 == 2 || x.2 == 3)

/-- CAL_SELF's checks. -/
def calSelfChecks (c : Cmd) (s : State) : List Check :=
  let mask := c.at 40 2
  pfOnly c :: headChecks c .none .none 1 ++
  [ badField 40 (mask == 0), inlineZero c 42 22, busy (s.conv.runs.any fun r => r.mask &&& mask != 0),
    conflict ((stacksOf mask).any fun st => stackPlanned s st || arraysBusy s st) ]

/-- The trim words of a stack are 0 and its spares unassigned (R138). -/
def clearTrims (st : Nat) (s : State) : State :=
  { s with conv := { s.conv with
      trims := s.conv.trims.filter fun (k, _) => k / 132 / 4096 != st
      spare := s.conv.spare.filter fun (e, _) => e / 4096 != st
      valid := s.conv.valid.filter (· != st) } }

/-- CAL_SELF: the trims of the named stacks are not valid until it ends. -/
def calSelf (c : Cmd) (s : State) : Ran :=
  let s := (stacksOf (c.at 40 2)).foldl (fun s st => clearTrims st s) s
  .later { s with conv := { s.conv with runs := s.conv.runs ++ [⟨c.tag, c.at 40 2⟩] } }

/-- CAL_SELF. -/
def execCalSelf (c : CmdIn) (s : State) : Result := .next (runCommand 0x0701 calSelfChecks calSelf c s)

/-- Whether an ADC failed: in verification, or with a trim outside its field (phases of CAL_SELF). -/
def adcBad (r : AdcResult) : Bool :=
  r.failed || decide (r.offset < -256 ∨ 255 < r.offset ∨ r.gain < -2048 ∨ 2047 < r.gain)

/-- The trim word of a measured ADC of a stack that passed: OFFSET_TRIM, GAIN_TRIM, FAILED, TRIM_VALID. A trim outside its
field, whose ADC fails, stands there modulo the field (DESIGN CHOICE, log 21). -/
def trimWord (r : AdcResult) : Nat :=
  (r.offset % 512).toNat + 65536 * (r.gain % 4096).toNat + 2 ^ 30 * b2n (adcBad r) + 2 ^ 31

/-- The engines of a stack. -/
def enginesOf (st : Nat) : List Nat := span (st * 4096) 2560

/-- Spare assignment and events of one engine: the spare covers the lowest failed ADC if it passed itself; counts of
spares assigned and uncovered ADCs go on (R136, R141). A failed spare replaces nothing and nothing replaces it: it is uncovered
(R137). -/
def assignSpare (a : State × Nat × Nat) (e : Nat) : State × Nat × Nat :=
  let (s, n, u) := a
  let bad := (List.range 132).filter (adcFailed s e)
  let cover := if adcFailed s e 131 then none else bad.head?
  let s := { s with conv := { s.conv with spare := tset none s.conv.spare e cover } }
  let post := fun (s : State) (x : Nat × Bool × Nat) =>
    postEvent 4 (engineStack e) 0x0701 x.2.2 (le 2 e ++ le 4 x.1 ++ le 1 (b2n x.2.1)) s
  let s := (bad.map fun x => if cover = some x then (x, true, 2) else (x, false, 3)).foldl post s
  (s, n + b2n cover.isSome, u + (bad.length - b2n cover.isSome))

/-- The elements of a stack in a table keyed by element. -/
def dropStack {α : Type} (st : Nat) (t : Tab α) : Tab α := t.filter fun (k, _) => k / 4096 / 4096 != st

/-- The Candidates that a factor blob loaded on a stack are discarded, which ends their restore (R239). -/
def dropRestore (st : Nat) (s : State) : State :=
  match tget none s.cal.restores st with
  | none => s
  | some (o, p, d) => postEvent 4 st 0x0756 1 (le 1 st ++ le 4 p ++ le 4 (d + o))
      { s with cal := { s.cal with restores := tset none s.cal.restores st none } }

/-- Every active, staged and Candidate value, every window and every glide of a stack is discarded and every factor
is Provisional; every engine is stamped (R142, R221, R232). -/
def discardFactors (st ep : Nat) (s : State) : State :=
  let s := dropRestore st s
  let c := s.cal
  let here := fun (e : Nat) => engineStack e == st
  { s with cal := { c with
      words := dropStack st c.words, drifts := dropStack st c.drifts, staged := dropStack st c.staged,
      glides := dropStack st c.glides, cands := dropStack st c.cands, failing := dropStack st c.failing,
      windows := dropStack st c.windows, stats := dropStack st c.stats,
      drift := c.drift.filter fun (k, _) => !here (k / 32)
      leak := c.leak.filter fun (k, _) => !here (k / 32)
      repairs := c.repairs.filter fun r => !here r.engine
      stamps := (enginesOf st).foldl (fun t e => tset 0 t e ep) c.stamps } }

/-- The end of a CAL_SELF: `refFail` names the stacks whose ADC references failed, `results` what was measured. -/
def calSelfDone (refFail : BitVec 16) (results : List AdcResult) (s : State) : State :=
  match s.conv.runs with
  | [] => s
  | r :: rest =>
    let good := (stacksOf r.mask).filter fun st => !refFail.getLsbD st
    let bad := (stacksOf r.mask).filter fun st => refFail.getLsbD st
    let count := if s.spin.state = 2 then s.spin.count else 0
    let mine := results.filter fun x => good.contains (engineStack x.engine) && decide (x.engine % 4096 < 2560 ∧ x.adc < 132)
    let every := good.flatMap fun st => (enginesOf st).flatMap fun e => (List.range 132).map fun k => (e * 132 + k, 2 ^ 31)
    let trims := mine.foldl (fun t x => tset 0 t (x.engine * 132 + x.adc) (trimWord x))
      (every.foldl (fun t x => tset 0 t x.1 x.2) s.conv.trims)
    let s := { s with conv := { s.conv with
      runs := rest, trims := trims, valid := s.conv.valid ++ good,
      calCount := (stacksOf r.mask).foldl (fun t st => tset 0 t st count) s.conv.calCount } }
    let (s, n, u) := (good.flatMap enginesOf).foldl assignSpare (s, 0, 0)
    let ep := (s.cal.epoch + 1) % 2 ^ 32
    let s := if good.isEmpty then s else
      good.foldl (fun s st => discardFactors st ep s) { s with cal := { s.cal with epoch := ep } }
    let mask := fun (l : List Nat) => (l.map (2 ^ ·)).sum
    let result := mask good + 2 ^ 16 * mask bad + 2 ^ 32 * satBits 16 n + 2 ^ 48 * satBits 16 u
    if bad.isEmpty then complete r.tag 0 0 result s else complete r.tag 7 (mask bad) result s

/-- CAL_SELF_DONE. -/
def execCalSelfDone (refFail : BitVec 16) (results : List AdcResult) (s : State) : Result :=
  .next (calSelfDone refFail results s)

/-- Whether a global engine address is valid (R18, R19). -/
def geaOk (e : Nat) : Bool := decide (e / 4096 < 16) && decide (e / 4 % 1024 < 640)

/-- ADC_TRIM_READ's checks. -/
def trimReadChecks (c : Cmd) (_ : State) : List Check :=
  pfOnly c :: headChecks c .none .some 64 ++
  [badField 40 !geaOk (c.at 40 2), inlineZero c 42 22, badLength 32 (decide (c.dataLen < 560))]

/-- The 560 bytes that ADC_TRIM_READ writes. -/
def trimBytes (s : State) (e : Nat) : Bytes :=
  let bad := ((List.range 132).filter fun k => adcFailed s e k && tget none s.conv.spare e != some k).length
  padTo 32 (le 2 e ++ le 1 ((tget none s.conv.spare e).getD 0xFF) ++ le 1 bad ++ le 8 (tget 0 s.conv.calCount (engineStack e))) ++
    (List.range 132).flatMap fun k => le 4 (trimOf s e k)

/-- ADC_TRIM_READ. -/
def trimRead (c : Cmd) (s : State) : Ran := .ok (writeData c (trimBytes s (c.at 40 2)) s) 0

/-- ADC_TRIM_READ. -/
def execAdcTrimRead (c : CmdIn) (s : State) : Result := .next (runCommand 0x0702 trimReadChecks trimRead c s)

/-! ### Channels and tables (R143, R144, R147, R154) -/

/-- Whether a channel word names a channel of a monitor (R144). -/
def channelOk (mon w : Nat) : Bool :=
  let g := bits w 19 16
  let sel := w % 65536
  decide (w < 2 ^ 20) &&
  (if mon < 32 then
    (g == 0 && decide (sel < 640)) || (g == 1 && decide (sel < 4)) || (g == 2 && decide (sel < 3)) ||
    (g == 3 && decide (sel < 16)) || (g == 4 && decide (sel < 16384) && decide (sel % 4096 < 2560))
  else (g == 2 && decide (sel < 6)) || (g == 3 && decide (sel < 8)) || (g == 5 && decide (sel < 8)))

/-- Whether an entry's channel and sweep cover a channel word. -/
def MonEntry.covers (e : MonEntry) (w : Nat) : Bool :=
  bits e.channel 19 16 == bits w 19 16 && decide (e.channel % 65536 ≤ w % 65536) &&
    decide (w % 65536 < e.channel % 65536 + e.sweeps)

/-- An entry read from its 16 bytes. -/
def monEntryOf (b : Bytes) : MonEntry :=
  let act := (byteAt b 5).toNat
  { channel := fld b 0 4, times := fld b 4 1, action := act % 4, mean := act.testBit 2, delay := fld b 6 2,
    low := fld b 8 2, high := fld b 10 2, hyst := fld b 12 2, sweep := fld b 14 2 }

/-- The checks of one table entry at byte `o` of the parameter block (R147). -/
def monEntryChecks (mon : Nat) (b : Bytes) (o : Nat) : List Check :=
  let e := monEntryOf b
  let act := (byteAt b 5).toNat
  [ badParam o !channelOk mon e.channel, badParam (o + 4) (e.times == 0),
    badParam (o + 5) (e.action == 3 || decide (8 ≤ act) || (e.action == 2 && bits e.channel 19 16 == 4)),
    badParam (o + 8) (decide (4096 ≤ e.low)), badParam (o + 10) (decide (4096 ≤ e.high ∨ e.high < e.low)),
    badParam (o + 12) (decide (4096 ≤ e.hyst ∨ e.high - e.low < e.hyst)),
    badParam (o + 14) (decide (65536 ≤ e.channel % 65536 + (e.sweeps - 1)) || !channelOk mon (e.channel + (e.sweeps - 1))) ]

/-- A table entry of fixed numbers: group, select, repeat, delay, low, high, hysteresis, sweep, action, mean. -/
def monEntry (g sel times delay low high hyst sweep action : Nat) (mean : Bool) : MonEntry :=
  ⟨g * 65536 + sel, times, action, mean, delay, low, high, hyst, sweep⟩

/-- The default sequencer tables (R154). -/
def defaultTable (mon : Nat) : List MonEntry :=
  if mon < 32 ∧ mon % 2 = 0 then
    (List.range 16).map (fun k => monEntry 3 k 1 0 720 2560 80 1 2 false) ++
    [ monEntry 2 0 1 0 2850 3150 30 1 2 false, monEntry 2 1 1 0 3135 3465 30 1 2 false,
      monEntry 2 2 1 1000 2090 2310 20 1 2 false ]
  else if mon < 32 then
    [ monEntry 1 0 4 0 3168 3232 8 4 1 true, monEntry 0 0 1 0 2352 2448 12 640 1 false,
      monEntry 4 0 1 0 3661 4019 16 2560 0 false, monEntry 4 0x1000 1 0 2739 2893 16 2560 0 false,
      monEntry 4 0x2000 1 0 640 896 16 2560 0 false, monEntry 4 0x3000 1 100 2016 2080 16 2560 0 false ]
  else if mon = 32 then
    (List.range 8).map (fun k => monEntry 3 k 1 0 720 2560 80 1 2 false) ++
    [ monEntry 2 5 1 0 2500 3750 31 1 2 false, monEntry 2 0 1 0 2850 3150 30 1 2 false,
      monEntry 2 3 1 1000 0 16 4 1 0 false ]
  else
    [ monEntry 2 1 1 0 3420 3780 30 1 2 false, monEntry 2 2 1 0 1900 2100 20 1 2 false,
      monEntry 2 4 1 0 3040 3360 30 1 2 false ] ++
    (List.range 8).map fun k => monEntry 5 k 1 (if k = 7 then 1000 else 0) 720 2400 80 1 2 false

/-- A monitor converter when firmware begins to run (R154). -/
def defaultMon (mon : Nat) : Mon := freshMon (defaultTable mon)

/-! ### Setting a table (R155, R159) -/

/-- The hold entries in violation of a table, by channel word of the select in violation. -/
def heldEntries (m : Mon) : List (Nat × MonViol) :=
  (m.table.zip m.viol).filterMap fun x =>
    if x.1.action = 2 then x.2.map fun v => (x.1.channel / 65536 * 65536 + v.select, v) else none

/-- The first hold entry of a table that covers a channel word. -/
def takesOver (table : List MonEntry) (w : Nat) : Option Nat :=
  (List.range table.length).find? fun k => (table[k]?).any fun e => e.action == 2 && e.covers w

/-- The violations with which a new table begins: raised holds pass to the entries that cover them. -/
def takenOver (m : Mon) (table : List MonEntry) : List (Option MonViol) :=
  (List.range table.length).map fun k =>
    ((heldEntries m).find? fun x => takesOver table x.1 == some k).map (·.2)

/-- Whether a converter has a hold raised. -/
def holdRaised (m : Mon) : Bool := !(heldEntries m).isEmpty

/-- The odd partner's table is suspended, or resumes from entry 0 (R155). -/
def setPartner (mon : Nat) (on : Bool) (s : State) : State :=
  let o := monAt s (mon + 1)
  if o.suspended == on then s else
  setMon (mon + 1) { o with suspended := on, entry := 0, pass := 0, made := 0, sum := 0, gap := false, delay := none, asked := none } s

/-- A table begins at entry 0. -/
def beginTable (mon : Nat) (table : List MonEntry) (inter : Bool) (s : State) : State :=
  let m := monAt s mon
  let m := { m with
    running := true, table := table, viol := takenOver m table, entry := 0, pass := 0, made := 0, sum := 0,
    gap := false, delay := none, interleave := inter, oddNext := false, next := none
    asked := if m.urgentNow || m.suspended then m.asked else none }
  let s := setMon mon m s
  if mon % 2 = 0 then setPartner mon inter s else s

/-- The count at which a table begins: 0 while no source is Locked (R159). -/
def lockedCount (s : State) : Nat := if s.spin.state = 2 then s.spin.count else 0

/-- The table of a MON_TABLE_SET: its entries, or the default one for a count of 0. -/
def newTable (c : Cmd) : List MonEntry :=
  if c.at 41 1 = 0 then defaultTable (c.at 40 1)
  else (List.range (c.at 41 1)).map fun k => monEntryOf (slice c.param (16 * k) 16)

/-- MON_TABLE_SET's checks. -/
def tableSetChecks (c : Cmd) (s : State) : List Check :=
  let mon := c.at 40 1
  let n := c.at 41 1
  let m := monAt s mon
  let inter := bit (c.at 42 1) 0
  pfOnly c :: headChecks c .any .none 1 ++
  [ badField 12 (c.paramLen != 16 * n), badField 40 (decide (33 < mon)), badField 41 (decide (32 < n)),
    badField 42 (decide (2 ≤ c.at 42 1) || (inter && mon % 2 == 1)), inlineZero c 43 21 ] ++
  (if n = 0 then [] else (List.range n).flatMap fun k => monEntryChecks mon (slice c.param (16 * k) 16) (16 * k)) ++
  [ conflict ((heldEntries m).any fun x => (takesOver (newTable c) x.1).isNone),
    conflict (inter && holdRaised (monAt s (mon + 1))) ]

/-- A table that still waits is replaced: its command completes as one whose table has begun (DESIGN CHOICE, log 21). -/
def overtake (mon : Nat) (s : State) : State :=
  match (monAt s mon).next with
  | none => s
  | some (tag, table, inter) => complete tag 0 0 (lockedCount s) (beginTable mon table inter s)

/-- MON_TABLE_SET: the table begins when the conversion in progress ends, or at once where there is none. -/
def tableSet (c : Cmd) (s : State) : Ran :=
  let mon := c.at 40 1
  let inter := bit (c.at 42 1) 0
  let s := overtake mon s
  let m := monAt s mon
  if !m.suspended && underway s mon then .later (setMon mon { m with next := some (c.tag, newTable c, inter) } s)
  else .ok (beginTable mon (newTable c) inter s) (lockedCount s)

/-- MON_TABLE_SET. -/
def execMonTableSet (c : CmdIn) (s : State) : Result := .next (runCommand 0x0710 tableSetChecks tableSet c s)

/-! ### Urgent requests and rings (R156 to R158) -/

/-- MON_CONVERT_NOW's checks. -/
def convertNowChecks (c : Cmd) (s : State) : List Check :=
  let mon := c.at 40 1
  let n := c.at 41 1
  pfOnly c :: headChecks c .none .none 1 ++
  [ badField 40 (decide (33 < mon)), badField 41 (n == 0 || decide (64 < n)), inlineZero c 42 2,
    badField 44 !channelOk mon (c.at 44 4), inlineZero c 48 16, busy (decide (8 ≤ (monAt s mon).urgent.length)) ]

/-- MON_CONVERT_NOW: the request is served after the conversion in progress; a conversion of the table that still waits for its
probe span has not begun, and is made after the request (R156). -/
def convertNow (c : Cmd) (s : State) : Ran :=
  let mon := c.at 40 1
  let m := monAt s mon
  let u : Urgent := ⟨c.tag, c.at 44 4, c.at 41 1, [], false, false, false, false⟩
  let go := !m.urgentNow && !underway s mon
  .later (setMon mon { m with
    urgent := m.urgent ++ [u], urgentNow := m.urgentNow || go, asked := if go then none else m.asked } s)

/-- MON_CONVERT_NOW. -/
def execMonConvertNow (c : CmdIn) (s : State) : Result := .next (runCommand 0x0711 convertNowChecks convertNow c s)

/-- MON_RING_READ's checks. -/
def ringReadChecks (c : Cmd) (_ : State) : List Check :=
  pfOnly c :: headChecks c .none .some 64 ++
  [badField 40 (decide (33 < c.at 40 1)), inlineZero c 41 23, badLength 32 (decide (c.dataLen < 1024))]

/-- The 64 ring entries, oldest first; entries never written read 0 and stand before the others (R158). -/
def ringBytes (m : Mon) : Bytes := zeros (16 * (64 - m.ring.length)) ++ m.ring.flatten

/-- MON_RING_READ. -/
def ringRead (c : Cmd) (s : State) : Ran :=
  let m := monAt s (c.at 40 1)
  .ok (writeData c (ringBytes m) s) (m.written % 2 ^ 32)

/-- MON_RING_READ. -/
def execMonRingRead (c : CmdIn) (s : State) : Result := .next (runCommand 0x0712 ringReadChecks ringRead c s)

/-! ### Results (R145, R150 to R152, R236) -/

/-- Whether the quantity of a channel of a monitor is not present (R145): a read reference buffer that is off, or a
select that names nothing. -/
def absentNow (s : State) (mon w : Nat) : Bool :=
  !channelOk mon w || (bits w 19 16 == 0 && !tget false s.arr.refOn (mon / 2 * 640 + w % 65536))

/-- The ring entry of a result (R158). A skipped conversion of group 4 shows the engine's active deck (DESIGN CHOICE,
log 21). -/
def ringEntry (s : State) (mon w code : Nat) (low high urgent skipped absent odd : Bool) (entry : Nat) : Bytes :=
  let deck := if bits w 19 16 = 4 then tget 0 s.arr.active (mon / 2 * 4096 + w % 4096) else 0
  le 8 (lockedCount s) ++ le 4 (w + 2 ^ 27 * deck) ++ le 2 (code % 4096) ++
    le 1 (b2n low + 2 * b2n high + 4 * b2n urgent + 8 * b2n skipped + 16 * b2n absent + 32 * b2n odd) ++ le 1 entry

/-- Write a ring entry: the newest of 64. -/
def ringPut (mon : Nat) (e : Bytes) (s : State) : State :=
  let m := monAt s mon
  let r := m.ring ++ [e]
  setMon mon { m with ring := r.drop (r.length - 64), written := m.written + 1 } s

/-- The action of a violation takes effect at the next boundary (R150). -/
def queueAct (mon k : Nat) (e : MonEntry) (hold : Bool) (s : State) : State :=
  { s with conv := { s.conv with acts := s.conv.acts ++ [⟨mon, k, hold, e.thermal⟩] } }

/-- Replace the violation state of an entry. -/
def setViol (mon k : Nat) (v : Option MonViol) (s : State) : State :=
  let m := monAt s mon
  setMon mon { m with viol := m.viol.set k v } s

/-- Compare a result of the channel word `w` with entry `k` of a converter's table (R150 to R152). A result that does
not end a violation of its select counts as a further one (DEDUCED from the worked example of R154, log 21). -/
def judgeResult (mon k w code : Nat) (s : State) : State :=
  let m := monAt s mon
  match m.table[k]? with
  | none => s
  | some e =>
    let out := decide (code < e.low ∨ e.high < code)
    let s := if out && e.action == 1 then queueAct mon k e false s else s
    match (m.viol[k]?).join with
    | none =>
      if !out then s else
      let high := decide (e.high < code)
      let s := setViol mon k (some ⟨w % 65536, high, 0⟩) s
      let s := postEvent 5 mon 0x0710 2 (le 1 mon ++ le 1 k ++ le 4 w ++ le 2 code ++ le 1 (b2n high)) s
      let s := if e.action = 2 then queueAct mon k e true s else s
      if bits w 19 16 = 0 then trimRef (mon / 2 * 640 + w % 65536) s else s
    | some v =>
      let same := w % 65536 == v.select
      let inside := if v.high then decide (code + e.hyst ≤ e.high) else decide (e.low + e.hyst ≤ code)
      if same && !out && inside then
        postEvent 5 mon 0x0711 1 (le 1 mon ++ le 1 k ++ le 4 w ++ le 2 code ++ le 4 v.count) (setViol mon k none s)
      else if out || same then setViol mon k (some { v with count := min 65535 (v.count + 1) }) s
      else s

/-! ### The sequencer (R148, R155, R156) -/

/-- The entry after a completed one: its delay, then the next entry; the last one ends a pass (R147, R148). -/
def nextEntry (m : Mon) (e : MonEntry) : Mon :=
  let last := decide (m.table.length ≤ m.entry + 1)
  { m with
    entry := if last then 0 else m.entry + 1, pass := if last then m.pass + 1 else m.pass,
    made := 0, sum := 0, gap := false, oddNext := false,
    delay := if e.delay = 0 then none else some (e.delay + 1) }

/-- A conversion of the table of converter `mon` ends; `odd` when the interleaved partner made it. LOW and HIGH of an entry
with COMPARE_MEAN stay 0 (DESIGN CHOICE, log 21). -/
def tableResult (mon code : Nat) (skipped odd : Bool) (s : State) : State :=
  let m := monAt s mon
  match m.table[m.entry]? with
  | none => s
  | some e =>
    let w := monChannel m e
    let skipped := skipped && bits w 19 16 == 4
    let absent := absentNow s mon w
    let gone := skipped || absent
    let last := decide (e.times ≤ m.made + 1)
    let single := !e.mean && !gone
    let s := ringPut mon (ringEntry s mon w code (single && decide (code < e.low)) (single && decide (e.high < code)) false
      skipped absent odd m.entry) s
    let s := if single then judgeResult mon m.entry w code s else s
    let total := m.sum + code
    let s := if e.mean && last && !(gone || m.gap) then
        judgeResult mon m.entry w ((2 * total + e.times) / (2 * e.times)) s else s
    let m' := monAt s mon
    setMon mon (if last then nextEntry m' e else
      { m' with made := m.made + 1, sum := total, gap := m.gap || gone, oddNext := m.interleave && !odd }) s

/-- The first entry of a table that covers a channel word (R157). -/
def coveringEntry (table : List MonEntry) (w : Nat) : Option (Nat × MonEntry) :=
  (List.range table.length).findSome? fun k => (table[k]?).bind fun e => if e.covers w then some (k, e) else none

/-- The result of an urgent request (MON_CONVERT_NOW). -/
def urgentResult (u : Urgent) : Nat :=
  let n := u.codes.length
  let low := u.codes.foldl min 4095
  let high := u.codes.foldl max 0
  (2 * u.codes.sum + n) / (2 * n) + 2 ^ 12 * low + 2 ^ 24 * high + 2 ^ 36 * b2n u.below + 2 ^ 37 * b2n u.above +
    2 ^ 38 * b2n u.absent

/-- An urgent conversion of a converter ends (R156, R157). -/
def urgentEnd (mon code : Nat) (skipped : Bool) (s : State) : State :=
  let m := monAt s mon
  match m.urgent with
  | [] => setMon mon { m with urgentNow := false } s
  | u :: rest =>
    let w := u.channel
    let skipped := skipped && bits w 19 16 == 4
    let absent := absentNow s mon w
    let t := tableOf s mon
    let cover := if skipped || absent then none else coveringEntry (monAt s t).table w
    let low := cover.any fun x => decide (code < x.2.low)
    let high := cover.any fun x => decide (x.2.high < code)
    let s := ringPut mon (ringEntry s mon w code low high true skipped absent false 0xFF) s
    let s := match cover with
      | none => s
      | some (k, _) => judgeResult t k w code s
    let u : Urgent := { u with
      left := u.left - 1, codes := u.codes ++ [code], below := u.below || low, above := u.above || high,
      absent := u.absent || absent, skipped := u.skipped || skipped }
    let m := monAt s mon
    if (u.left != 0) then setMon mon { m with urgent := u :: rest } s else
    let s := setMon mon { m with urgent := rest, urgentNow := !rest.isEmpty } s
    if u.skipped then complete u.tag 2 0 0 s else complete u.tag 0 0 (urgentResult u) s

/-- What waited for the conversion in progress of a converter begins: a new table, urgent requests. -/
def afterConversion (mon : Nat) (s : State) : State :=
  let s := overtake mon s
  let m := monAt s mon
  setMon mon { m with urgentNow := !m.urgent.isEmpty } s

/-- A conversion ends on a converter: an urgent one, or one of the table it runs. A sample of the odd converter of an
interleaved pair ends the conversion that the even one's table and requests wait for (R155, R156, R159). -/
def conversionEnd (mon code : Nat) (skipped : Bool) (s : State) : State :=
  if 33 < mon ∨ !converting s mon ∨ !canEnd s mon skipped then s else
  let m := monAt s mon
  if m.urgentNow then afterConversion mon (urgentEnd mon (code % 4096) skipped (endProbe mon s))
  else if m.suspended then
    afterConversion (mon - 1) (afterConversion mon (tableResult (mon - 1) (code % 4096) skipped true (endProbe mon s)))
  else if m.interleave && m.oddNext then s
  else
    afterConversion mon (tableResult mon (code % 4096) skipped false (endProbe mon s))

/-- MONITOR_CONVERSION_END. -/
def execMonitorConversionEnd (mon code : Nat) (skipped : Bool) (s : State) : Result :=
  .next (conversionEnd mon code skipped s)

/-- The delay of an entry ends: the next entry starts. -/
def execMonitorDelayEnd (mon : Nat) (s : State) : Result :=
  let m := monAt s mon
  .next (if m.delay = some 0 then setMon mon { m with delay := none } s else s)

end Sys2Proof.Machine
end

