-- ==== Sys2Proof/Machine/Calib.lean ====
section
/-!
DEFINITION. The calibration commands: policy, factor blobs, warm-up, status (R237 to R240).
-/

namespace Sys2Proof.Machine

/-! ### CAL_POLICY_SET (R238) -/

/-- Whether a field is neither 0 nor within its range. -/
def outside (v lo hi : Nat) : Bool := v != 0 && (decide (v < lo) || decide (hi < v))

/-- CAL_POLICY_SET's checks. -/
def calPolicyChecks (c : Cmd) (_ : State) : List Check :=
  pfOnly c :: headChecks c .none .none 1 ++
  [ badField 40 (outside (c.at 40 1) 10 30), badField 41 (decide (1 < c.at 41 1)), badField 42 (outside (c.at 42 2) 64 4096),
    badField 44 (outside (c.at 44 2) 1 4096), badField 46 (outside (c.at 46 2) 1 4096), inlineZero c 56 8 ]

/-- A field where 0 selects a default. -/
def orElse (v d : Nat) : Nat := if v = 0 then d else v

/-- CAL_POLICY_SET: later reads, windows and stagings follow the new policy. -/
def calPolicy (c : Cmd) (s : State) : Ran :=
  let p : Policy :=
    { rate := orElse (c.at 40 1) 12, glide := c.at 41 1 == 1, window := orElse (c.at 42 2) 512,
      gainStep := orElse (c.at 44 2) 16, offsetStep := orElse (c.at 46 2) 16, seed := c.at 48 8 }
  .ok { s with cal := { s.cal with policy := p } } 0

/-- CAL_POLICY_SET. -/
def execCalPolicySet (c : CmdIn) (s : State) : Result := .next (runCommand 0x0730 calPolicyChecks calPolicy c s)

/-! ### Factor blobs -/

/-- Bytes of a factor blob. -/
def blobLength : Nat := 16220256

/-- Whether a stack's trims are valid (R140). -/
def calibrated (s : State) (st : Nat) : Bool := s.conv.valid.contains st

/-- The engine record of an engine (engine record). -/
def engineRecord (s : State) (e : Nat) : Bytes :=
  ((List.range 540).flatMap fun c => le 4 (activeWord s (elemKey e c))) ++
  ((List.range 1024).flatMap fun r => le 4 (activeWord s (elemKey e (1024 + r)))) ++
  ((List.range 32).flatMap fun d => le 2 (activeWord s (elemKey e (3000 + d)))) ++
  le 1 ((tget none s.cal.swaps e).getD 0xFF) ++ le 1 (tget 0 s.cal.refSel (coreOf e)) ++ zeros 14

/-- The factor blob of a stack without its tag. -/
def blobBody (s : State) (st : Nat) : Bytes :=
  le 4 0x4643394B ++ le 2 1 ++ le 1 st ++ zeros 1 ++ identityBytes.take 16 ++ le 4 s.cal.epoch ++ le 8 s.spin.count ++
    zeros 28 ++ (enginesOf st).flatMap (engineRecord s)

/-- CAL_FACTORS_READ's checks. -/
def factorsReadChecks (c : Cmd) (s : State) : List Check :=
  pfOnly c :: headChecks c .none .some 64 ++
  [ badField 40 (decide (15 < c.at 40 1)), inlineZero c 41 23, badLength 32 (decide (c.dataLen < blobLength)),
    uncalibrated !calibrated s (c.at 40 1) ]

/-- CAL_FACTORS_READ. -/
def factorsRead (c : Cmd) (s : State) : Ran :=
  let b := blobBody s (c.at 40 1)
  .ok (writeData c (b ++ hmac factorKey b) s) 0

/-- CAL_FACTORS_READ. -/
def execCalFactorsRead (c : CmdIn) (s : State) : Result := .next (runCommand 0x0731 factorsReadChecks factorsRead c s)

/-- The checks of the engine record of index `j` in a blob. -/
def recordChecks (b : Bytes) (j : Nat) : List Check :=
  let o := 64 + 6336 * j
  let swap := fld b (o + 6320) 1
  let sel := fld b (o + 6321) 1
  [ badData (o + 6320) (decide (130 < swap) && swap != 0xFF),
    badData (o + 6321) (decide (7 < sel) || sel != fld b (64 + 6336 * (j / 4 * 4) + 6321) 1),
    badData (o + 6322) !zeroAt b (o + 6322) 14 ]

/-- CAL_FACTORS_WRITE's checks. -/
def factorsWriteChecks (c : Cmd) (s : State) : List Check :=
  let b := c.data
  let st := c.at 40 1
  pfOnly c :: headChecks c .none .some 64 ++ [badField 40 (decide (15 < st)), inlineZero c 41 23] ++
  (if c.dataLen = blobLength then
    [ badData 0 (fld b 0 4 != 0x4643394B), badData 4 (fld b 4 2 != 1), badData 6 (fld b 6 1 != st), badData 7 !zeroAt b 7 1,
      badData 36 !zeroAt b 36 28 ] ++ (List.range 2560).flatMap (recordChecks b)
   else []) ++
  [ badLength 32 (c.dataLen != blobLength),
    integrity 0 (hmac factorKey (b.take 16220224) != slice b 16220224 32 || slice b 8 16 != identityBytes.take 16),
    uncalibrated !calibrated s st, conflict (s.cal.warmups.any fun w => w.mask.testBit st) ]

/-- The elements of an engine record with their words. -/
def recordElems (e : Nat) (r : Bytes) : List (Nat × Nat) :=
  ((List.range 540).map fun c => (elemKey e c, fld r (4 * c) 4)) ++
  ((List.range 1024).map fun i => (elemKey e (1024 + i), fld r (2160 + 4 * i) 4)) ++
  (List.range 32).map fun d => (elemKey e (3000 + d), fld r (6256 + 2 * d) 2)

/-- Whether an element is Provisional: neither Valid nor Failing nor a Candidate (R221). -/
def isProvisional (s : State) (k : Nat) : Bool :=
  !elemValid s k && !tget false s.cal.failing k && (tget none s.cal.cands k).isNone

/-- Load one element as a Candidate where it is Provisional; the count of those loaded goes on (R239). -/
def loadCandidate (a : State × Nat) (x : Nat × Nat) : State × Nat :=
  let (s, n) := a
  if isProvisional s x.1 then
    ({ s with cal := { s.cal with
        cands := tset none s.cal.cands x.1 (some ⟨bareWord x.1 x.2, 0, 0, 0, dzero, 0, true⟩)
        windows := tset none s.cal.windows x.1 none } }, n + 1)
  else (s, n)

/-- Stage the swap and the reference select of an engine record (R230, R239). A select that is staged posts CAL_REF_TRIM; no cell
has been measured, and the spec gives no code for it: it is a free value (R241; DESIGN CHOICE, log 30). -/
def stageRecord (s : State) (x : Nat × Bytes) : State :=
  let e := x.1
  let swap := fld x.2 6320 1
  let sel := fld x.2 6321 1
  let s := if swap = 0xFF ∨ tget none s.cal.swaps e = some swap ∨ (tget none s.conv.spare e).isSome then s else
    { s with cal := { s.cal with stagedSwaps := tset 0 s.cal.stagedSwaps e (swap + 257) } }
  if e % 4 ≠ 0 ∨ sel = tget 0 s.cal.refSel (coreOf e) then s else
  let (code, s) := freeBits 12 s
  let old := tget 0 s.cal.refSel (coreOf e)
  postEvent 4 (engineStack e) 0x0754 2 (le 1 (engineStack e) ++ le 2 (coreOf e % 640) ++ le 4 old ++ le 4 sel ++ le 2 code)
    { s with cal := { s.cal with stagedRefs := tset 0 s.cal.stagedRefs (coreOf e) (sel + 1) } }

/-- Load the engine records of a stack (R239). -/
def loadFactors (st : Nat) (recs : List (Nat × Bytes)) (s : State) : Ran :=
  let (s, n) := (recs.flatMap fun x => recordElems x.1 x.2).foldl loadCandidate (s, 0)
  let s := match tget none s.cal.restores st with
    | some (o, p, d) => { s with cal := { s.cal with restores := tset none s.cal.restores st (some (o + n, p, d)) } }
    | none =>
      if n = 0 then postEvent 4 st 0x0756 1 (le 1 st ++ le 4 0 ++ le 4 0) s
      else { s with cal := { s.cal with restores := tset none s.cal.restores st (some (n, 0, 0)) } }
  .ok (settle st (recs.foldl stageRecord s)) n

/-- CAL_FACTORS_WRITE. -/
def factorsWrite (c : Cmd) (s : State) : Ran :=
  loadFactors (c.at 40 1) ((List.range 2560).map fun j => (c.at 40 1 * 4096 + j, slice c.data (64 + 6336 * j) 6336)) s

/-- CAL_FACTORS_WRITE. -/
def execCalFactorsWrite (c : CmdIn) (s : State) : Result := .next (runCommand 0x0732 factorsWriteChecks factorsWrite c s)

/-! ### CAL_WARMUP and CAL_STATUS -/

/-- CAL_WARMUP's checks. -/
def warmupChecks (c : Cmd) (s : State) : List Check :=
  let sts := stacksOf (c.at 40 2)
  pfOnly c :: headChecks c .none .none 1 ++
  [ badField 40 (c.at 40 2 == 0), inlineZero c 42 22, uncalibrated (sts.any fun st => !calibrated s st),
    conflict (sts.any (stackPlanned s)) ]

/-- CAL_WARMUP: it ends when every data and check column of the stacks is Valid or Failing (R240). -/
def warmup (c : Cmd) (s : State) : Ran :=
  .later (endWarmups { s with cal := { s.cal with warmups := s.cal.warmups ++ [⟨c.tag, c.at 40 2, s.spin.tick⟩] } })

/-- CAL_WARMUP. -/
def execCalWarmup (c : CmdIn) (s : State) : Result := .next (runCommand 0x0733 warmupChecks warmup c s)

/-- The column elements of a stack. -/
def stackColumns (st : Nat) : List Nat := (enginesOf st).flatMap fun e => (List.range 540).map (elemKey e)

/-- CAL_STATUS's checks. -/
def calStatusChecks (c : Cmd) (_ : State) : List Check :=
  pfOnly c :: headChecks c .none .none 1 ++ [badField 40 (decide (15 < c.at 40 1)), inlineZero c 41 23]

/-- CAL_STATUS. -/
def calStatus (c : Cmd) (s : State) : Ran :=
  let ks := stackColumns (c.at 40 1)
  let bad := (ks.filter fun k => tget false s.cal.failing k).length
  let prov := (ks.filter fun k => !elemValid s k && !tget false s.cal.failing k).length
  .ok s (s.cal.epoch + 2 ^ 32 * prov + 2 ^ 53 * satBits 11 bad)

/-- CAL_STATUS. -/
def execCalStatus (c : CmdIn) (s : State) : Result := .next (runCommand 0x0734 calStatusChecks calStatus c s)

end Sys2Proof.Machine
end

