-- ==== Sys2Proof/Machine/Models.lean ====
section
/-!
DEFINITION. Model images: manifests (R242 to R248), binding keys (R249), installs and restores (R252, R258, R259, R264,
R268, R271), and the commands on banks.
-/

namespace Sys2Proof.Machine

/-! ### The manifest (R242) -/

/-- DECK_IMAGE_COUNT, CHUNK_COUNT, TIER_COUNT, REDUCTION_COUNT, STREAM_LENGTH of a manifest. -/
def mfDecks (m : Bytes) : Nat := fld m 16 4
def mfChunks (m : Bytes) : Nat := fld m 20 4
def mfTiers (m : Bytes) : Nat := fld m 24 4
def mfReductions (m : Bytes) : Nat := fld m 28 4
def mfStream (m : Bytes) : Nat := fld m 64 8
def mfRegion (m : Bytes) : Nat := fld m 80 8
/-- Bytes of the model area of a stack. -/
def mfArea (m : Bytes) (st : Nat) : Nat := 4096 * fld m (128 + 4 * st) 4

/-- Where the tables of a manifest begin. -/
def chunkTable (m : Bytes) : Nat := 256 + 48 * mfDecks m
def tierTable (m : Bytes) : Nat := chunkTable m + 32 * mfChunks m
def reductionTable (m : Bytes) : Nat := tierTable m + 32 * mfTiers m
def keyOffset (m : Bytes) : Nat := reductionTable m + 80 * mfReductions m
/-- Bytes of a manifest: its tables, the owner's key and the signature. -/
def manifestLength (m : Bytes) : Nat := keyOffset m + 388 + 384

/-- A tier part: home, offset in it, offset in the stream, bytes. -/
structure Tier where
  home : Nat
  off : Nat
  stream : Nat
  len : Nat
deriving DecidableEq, Repr

/-- Entry `i` of the tier table. -/
def tierAt (m : Bytes) (i : Nat) : Tier :=
  let o := tierTable m + 32 * i
  ⟨fld m o 1, fld m (o + 8) 8, fld m (o + 16) 8, fld m (o + 24) 4⟩

/-- The tier parts. -/
def tiersOf (m : Bytes) : List Tier := (List.range (mfTiers m)).map (tierAt m)

/-- Whether two parts of one home overlap. -/
def tiersMeet (x y : Tier) : Bool :=
  x.home == y.home && decide (x.off < y.off + y.len) && decide (y.off < x.off + x.len)

/-- The checks of the manifest's header (R242, R248). -/
def mfHeaderChecks (m : Bytes) : List Check :=
  [ badData 0 (fld m 0 4 != 0x4D4D394B), badData 4 (fld m 4 2 != 1), badData 6 !zeroAt m 6 2, badData 8 (fld m 8 4 == 0),
    badData 14 (decide (2 ≤ fld m 14 2)), badData 16 (mfDecks m == 0 || decide (1310720 < mfDecks m)),
    badData 20 (mfChunks m != ceilDiv (mfStream m) 4194304), badData 24 (decide (65536 < mfTiers m)),
    badData 28 (mfReductions m == 0 || decide (16777216 < mfReductions m)),
    badData 80 (mfRegion m % 4096 != 0 || decide (mfRegion m < 266240 * mfDecks m)), badData 192 !zeroAt m 192 64 ]

/-- The check of REDUCTION_DIGEST, for a manifest whose reduction section is whole. -/
def mfDigestCheck (m : Bytes) : Check :=
  badData 32 (slice m 32 32 != sha256 (slice m (reductionTable m) (80 * mfReductions m)))

/-- The checks of the deck and chunk tables. -/
def mfTableChecks (m : Bytes) : List Check :=
  ((List.range (mfDecks m)).flatMap fun i =>
    let o := 256 + 48 * i
    [ badData o (fld m o 8 % 32 != 0 || decide (mfStream m < fld m o 8 + fld m (o + 8) 4)), badData (o + 12) !zeroAt m (o + 12) 4 ]) ++
  (List.range (mfChunks m)).map fun i =>
    let o := chunkTable m + 32 * i + 16
    badData o (encrypted m && !zeroAt m o 16)

/-- The checks of the tier table (R248). -/
def mfTierChecks (m : Bytes) : List Check :=
  let ts := tiersOf m
  (List.range (mfTiers m)).flatMap fun i =>
    let o := tierTable m + 32 * i
    let t := tierAt m i
    let limit := if t.home = 16 then mfRegion m else mfArea m t.home
    [ badData o (decide (16 < t.home)), badData (o + 1) !zeroAt m (o + 1) 7,
      badData (o + 8) (t.off % 32 != 0 || (t.home == 16 && decide (t.off < 266240 * mfDecks m)) || decide (limit < t.off + t.len) ||
        (ts.take i).any (tiersMeet t)),
      badData (o + 16) (decide (mfStream m < t.stream + t.len)), badData (o + 28) !zeroAt m (o + 28) 4 ]

/-- The checks of the reduction section (reduction record). -/
def mfReductionChecks (m : Bytes) : List Check :=
  (List.range (mfReductions m)).flatMap fun i =>
    let o := reductionTable m + 80 * i
    let kind := fld m o 1
    let n := fld m (o + 1) 1
    [ badData o (decide (2 < kind)), badData (o + 1) (n == 0 || decide ((if kind = 0 then 4 else 16) < n)),
      badData (o + 4) (decide (64 ≤ fld m (o + 4) 1)), badData (o + 5) (decide ((if kind = 2 then 63 else 0) < fld m (o + 5) 1)),
      badData (o + 6) !zeroAt m (o + 6) 2, badData (o + 12) !zeroAt m (o + 12) 4 ] ++
    ((List.range n).map fun j => badData (o + 16 + 4 * j) (kind != 0 && decide (i ≤ fld m (o + 16 + 4 * j) 4))) ++
    [badData (o + 16 + 4 * n) !zeroAt m (o + 16 + 4 * n) (64 - 4 * n)]

/-- The content key of a key block: unwrapped, when the block is addressed to this module (R244). -/
def contentKey (b : Bytes) : Option Bytes :=
  if b.take 32 != identityBytes then none
  else (Config.oaepUnwrap identityKey (slice b 32 384) []).bind fun k => if k.length = 32 then some k else none

/-- Whether a command on a virtual function names an image of another tenant. -/
def foreignImage (c : Cmd) (s : State) (image : Nat) : Bool :=
  c.f.fn != 0 && s.model.manifests.any fun m => m.id == image && m.tenant != c.tenant

/-- MODEL_MANIFEST_LOAD's checks. -/
def manifestChecks (c : Cmd) (s : State) : List Check :=
  let m := c.data
  let n := manifestLength m
  let enc := encrypted m
  let raw := m.take n
  headChecks c .any .some 64 ++ [inlineZero c 40 24, badParam 416 (enc && !zeroAt c.param 416 96)] ++
  (if 256 ≤ c.dataLen then mfHeaderChecks m else []) ++
  (if n ≤ c.dataLen then mfDigestCheck m :: mfTableChecks m ++ mfTierChecks m ++ mfReductionChecks m else []) ++
  [ badLength 12 (c.paramLen != (if enc then 512 else 0)), badLength 32 (decide (c.dataLen < n)),
    integrity 0 (!verifies (ownerKey raw) (raw.take (n - 384)) (raw.drop (n - 384))), integrity 0 (enc && (contentKey c.param).isNone),
    unauthorised 0 (slice m 96 32 != sha256 (ownerKey raw)), unauthorised 4 (foreignImage c s (fld m 8 4)),
    exhausted (decide (4 ≤ s.model.manifests.length) || logFull s), inUse (manifestOf s (fld m 8 4) (fld m 12 2)).isSome ]

/-- MODEL_MANIFEST_LOAD: the manifest is held with its content key. -/
def manifestLoad (c : Cmd) (s : State) : Ran :=
  let raw := c.data.take (manifestLength c.data)
  let id := fld raw 8 4
  let v := fld raw 12 2
  let key := if encrypted raw then (contentKey c.param).getD [] else []
  let m : Manifest := ⟨id, v, c.tenant, raw, key, none, []⟩
  .ok (addLog 3 id v (sha256 raw) { s with model := { s.model with manifests := s.model.manifests ++ [m] } }) (id + 2 ^ 32 * v)

/-- MODEL_MANIFEST_LOAD. -/
def execModelManifestLoad (c : CmdIn) (s : State) : Result := .next (runCommand 0x0301 manifestChecks manifestLoad c s)

/-! ### Binding keys (R249) -/

/-- BIND_KEY_CREATE's checks. -/
def keyCreateChecks (c : Cmd) (s : State) : List Check :=
  headChecks c .none .some 64 ++
  [inlineZero c 40 24, badLength 32 (decide (c.dataLen < 128)), conflict !(tvals s.model.banks).isEmpty]

/-- The first 44 bytes of a binding blob. -/
def blobHead (serial : Nat) (nonce : Bytes) : Bytes :=
  le 4 0x4B42394B ++ le 2 1 ++ zeros 2 ++ identityBytes.take 16 ++ le 8 serial ++ padTo 12 nonce

/-- BIND_KEY_CREATE: a new random key; Persisted decks become Free (R252). -/
def keyCreate (c : Cmd) (s : State) : Ran :=
  let (key, s) := randomBytes 32 s
  let (nonce, s) := randomBytes 12 s
  let serial := s.model.serial + 1
  let head := blobHead serial nonce
  let (w, t) := gcmSeal wrapKey nonce head key
  let s := (s.model.decks.filter fun x => x.2 == 3).foldl (fun s x => freeDeck x.1 s) s
  let s := { s with model := { s.model with bindKey := some key, serial := serial } }
  .ok (writeData c (padTo 128 (head ++ padTo 32 w ++ padTo 16 t)) s) serial

/-- BIND_KEY_CREATE. -/
def execBindKeyCreate (c : CmdIn) (s : State) : Result := .next (runCommand 0x0305 keyCreateChecks keyCreate c s)

/-- The binding key of a blob. -/
def openBlob (b : Bytes) : Option Bytes :=
  if slice b 8 16 != identityBytes.take 16 then none
  else (gcmOpen wrapKey (slice b 32 12) (slice b 0 44) (slice b 44 32) (slice b 76 16)).bind fun k =>
    if k.length = 32 then some k else none

/-- BIND_KEY_SUPPLY's checks. -/
def keySupplyChecks (c : Cmd) (s : State) : List Check :=
  let b := c.data
  headChecks c .none .some 64 ++
  [ inlineZero c 40 24, badData 0 (fld b 0 4 != 0x4B42394B), badData 4 (fld b 4 2 != 1), badData 6 !zeroAt b 6 2,
    badData 92 !zeroAt b 92 36, badLength 32 (decide (c.dataLen < 128)), integrity 0 (openBlob b).isNone,
    conflict s.model.bindKey.isSome ]

/-- BIND_KEY_SUPPLY. -/
def keySupply (c : Cmd) (s : State) : Ran :=
  .ok { s with model := { s.model with bindKey := openBlob c.data } } (fld c.data 24 8)

/-- BIND_KEY_SUPPLY. -/
def execBindKeySupply (c : CmdIn) (s : State) : Result := .next (runCommand 0x0306 keySupplyChecks keySupply c s)

/-! ### Deck images (R245, R246) -/

/-- The format value of column `c`, row `r` of a deck image. -/
def imageWeight (b : Bytes) (c r : Nat) : Int :=
  signed 4 (elemAt .int4 [byteAt b (64 + 512 * c + r / 2)] (r % 2))

/-- CHANNEL_COUNT and OUTLIER_COUNT of a deck image. -/
def imageChannels (b : Bytes) : Nat := fld b 20 1
def imageOutliers (b : Bytes) : Nat := fld b 24 4

/-- Where the outlier list of a deck image begins. -/
def imageList (b : Bytes) : Nat := 271168 + 256 * imageChannels b

/-- The outlier entries of a column as raw words. -/
def imageEntries (b : Bytes) (c : Nat) : List Nat :=
  let d := fld b (imageList b + 4 * c) 4
  (List.range (bits d 30 20)).map fun i => fld b (imageList b + 2048 + 4 * (bits d 19 0 + i)) 4

/-- Whether the numbers rise strictly. -/
def rising : List Nat → Bool
  | a :: b :: l => decide (a < b) && rising (b :: l)
  | _ => true

/-- Whether the outlier list breaks R173. -/
def imageListBad (b : Bytes) : Bool :=
  (List.range 512).any fun c =>
    let d := fld b (imageList b + 4 * c) 4
    let es := imageEntries b c
    d.testBit 31 || decide (1024 < bits d 30 20) || decide (imageOutliers b < bits d 19 0 + bits d 30 20) ||
      !rising (es.map fun e => e % 1024) || es.any fun e => bits e 15 10 != 0 || bits e 31 16 == 0 || bits e 31 16 == 0x8000

/-- The largest weight of a format (R92). -/
def formatMax (f : Nat) : Int := if f = 0 then 7 else if f = 1 then 3 else 1

/-- Whether the header of a deck image breaks its table. -/
def imageHeaderBad (b : Bytes) (i : Nat) : Bool :=
  fld b 0 4 != 0x4944394B || fld b 4 4 != i || decide (2 < fld b 10 1) || decide (1 < fld b 11 1) ||
    (fld b 11 1 == 0 && fld b 16 4 != 0) || decide (64 < imageChannels b) || decide (524288 < imageOutliers b) ||
    !zeroAt b 21 3 || !zeroAt b 28 36

/-- The sum of the stored values of a group's columns in a row. -/
def groupSum (b : Bytes) (k r : Nat) : Int :=
  2 ^ (fld b 10 1) * ((span (64 * k) 64).map fun c => imageWeight b c r).sum

/-- Whether weights, stripped positions or residuals of a deck image fail (R92, R93, R245). -/
def weightsBad (b : Bytes) : Bool :=
  (List.range 512).any (fun c =>
    ((List.range 1024).any fun r => decide (formatMax (fld b 10 1) < (imageWeight b c r).natAbs)) ||
      (imageEntries b c).any fun e => imageWeight b c (e % 1024) != 0) ||
  (List.range 8).any fun k => (List.range 1024).any fun r =>
    let v := groupSum b k r
    sfld b (262720 + 1024 * k + r) 1 != v - 64 * divAway v 64

/-- Whether the channel list fails: rows twice, above 1,023, or non-zero beyond the count. -/
def channelsBad (b : Bytes) : Bool :=
  let rows := (List.range (imageChannels b)).map fun k => fld b (271040 + 2 * k) 2
  rows.any (fun r => decide (1023 < r)) || rows.eraseDups.length != rows.length ||
    !zeroAt b (271040 + 2 * imageChannels b) (128 - 2 * imageChannels b)

/-- Whether the module refuses deck image `i` of a manifest (R246). -/
def imageBad (m b : Bytes) (i : Nat) : Bool :=
  let o := 256 + 48 * i
  sha256 b != slice m (o + 16) 32 || imageHeaderBad b i ||
    fld m (o + 8) 4 != 273216 + 256 * imageChannels b + 4 * imageOutliers b || weightsBad b || imageListBad b || channelsBad b

/-! ### Installs: what they hold -/

/-- Placement entry `i`: logical engine, plan deck, SHARE. -/
def placeAt (p : Bytes) (i : Nat) : Nat × Nat × Bool := (fld p (8 * i) 2, fld p (8 * i + 2) 1, bit (fld p (8 * i + 3) 1) 0)

/-- The module-memory address of a deck image's shadow (R264). -/
def shadowOf (m : Manifest) (i : Nat) : Nat := m.region.getD 0 + 266240 * i

/-- The column map that a new entry of an engine takes: the spares that the engine maps (R235). -/
def engineMap (s : State) (e : Nat) : Bytes := ((boundDecks s e).head?.map fun x => slice x.2 64 32).getD (zeros 32)

/-- A chuck entry (R256): header fields of the deck image, physical deck, side data, shadow, column map. -/
def chuckBytes (m : Manifest) (i : Nat) (hdr : Bytes) (deck side : Nat) (cols : Bytes) : Bytes :=
  le 4 m.id ++ le 2 m.version ++ le 1 (128 + deck) ++ slice hdr 10 1 ++ slice hdr 8 2 ++ slice hdr 20 1 ++ slice hdr 11 1 ++
    slice hdr 12 8 ++ le 4 i ++ le 8 side ++ le 8 (shadowOf m i) ++ zeros 24 ++ padTo 32 cols ++ zeros 32

/-- An entry of the other bank that a shared placement may reuse: the same engine and deck image digest (R258). -/
def shareOf (s : State) (m : Manifest) (bank e i : Nat) : Option Bytes :=
  let digest := slice m.raw (256 + 48 * i + 16) 32
  (List.range 32).findSome? fun d =>
    (chuckEntry s (1 - bank) e d).bind fun b =>
      if fld b 0 4 = m.id ∧ (manifestOf s m.id (fld b 4 2)).any (fun o =>
        slice o.raw (256 + 48 * fld b 20 4 + 16) 32 == digest) then some b else none

/-- The Persisted deck of a physical engine that a restore claims for an entry (R268). -/
def claimOf (s : State) (image version e i : Nat) : Option Nat :=
  (List.range 32).find? fun d => deckState s (e * 32 + d) == 3 &&
    (tget none s.model.dir (e * 32 + d)).any fun x => x.image == image && x.version == version && x.index == i

/-- The lowest-numbered Free deck of a physical engine (R271). -/
def freeDeckOf (s : State) (e : Nat) : Option Nat := (List.range 32).find? fun d => deckState s (e * 32 + d) == 0

/-- Bytes of the side data of a deck image: all but header, weights and fingerprints (R256). -/
def sideLength (m : Bytes) (i : Nat) : Nat := fld m (256 + 48 * i + 8) 4 - 262336

/-- Put a deck into the Writing state for an entry: directory entry, counter, signs (R250 to R252). -/
def beginDeck (k image version i : Nat) (s : State) : State :=
  let (n, s) := nextCounter k s
  let s := setDeck k 1 (setDir k (some ⟨image, version, false, i, n⟩) s)
  { s with cal := { s.cal with signs := tset none s.cal.signs k (some (signByte (deckHash s (k / 32) (k % 32) n))) } }

/-- A deck write of an install. -/
def installWrite (x : Install) (e deck i planDeck : Nat) (entry : Bytes) (writing : Bool) : DeckWrite :=
  { engine := e, deck := deck, image := x.image, version := x.version, index := i, bank := x.bank, planDeck := planDeck,
    install := some x.tag, hone := none, entry := entry, writing := writing, row := if writing then 0 else 1024,
    again := false, prints := 0, failed := false, phi := [] }

/-- Choose a Free deck for an entry and begin to write it; none without a Free deck or room for its side data. -/
def chooseDeck (x : Install) (m : Manifest) (e i planDeck : Nat) (s : State) : Option State :=
  match freeDeckOf s e with
  | none => none
  | some d =>
    (allocSide (engineStack e) (e * 32 + d) (sideLength m.raw i) s).map fun r =>
      let s := beginDeck (e * 32 + d) x.image x.version i r.2
      { s with model := { s.model with writes := s.model.writes ++ [installWrite x e d i planDeck [] true] } }

/-- Claim a Persisted deck for an entry. -/
def claimDeck (x : Install) (m : Manifest) (e d i planDeck : Nat) (s : State) : Option State :=
  (allocSide (engineStack e) (e * 32 + d) (sideLength m.raw i) s).map fun r =>
    { r.2 with model := { r.2.model with writes := r.2.model.writes ++ [installWrite x e d i planDeck [] false] } }

/-- Replace an install, by its tag. -/
def setInstall (x : Install) (s : State) : State :=
  { s with model := { s.model with installs := s.model.installs.map fun y => if y.tag = x.tag then x else y } }

/-- The install with a tag. -/
def installAt (s : State) (tag : Nat) : Option Install := s.model.installs.find? fun x => x.tag == tag

/-- Begin one placement entry of an install: share, claim, or choose a deck. -/
def beginEntry (m : Manifest) (x : Install) (acc : Option (State × Install)) (i : Nat) : Option (State × Install) :=
  acc.bind fun (s, x') =>
    let (l, planDeck, share) := placeAt x.place i
    let e := physEngine s l
    match (if share then shareOf s m x.bank l i else none) with
    | some b =>
      let entry := chuckBytes m i (zeros 8 ++ slice b 8 2 ++ slice b 7 1 ++ slice b 11 1 ++ slice b 12 8 ++ slice b 10 1)
        (chuckPhys b) (sideAddr b) (slice b 64 32)
      some ({ s with model := { s.model with chuck := tset none s.model.chuck (chuckKey x.bank l planDeck) (some entry) } },
        { x' with shared := x'.shared + 1 })
    | none =>
      let claim := if x.restore then claimOf s x.image x.version e i else none
      (match claim with
        | some d => claimDeck x m e d i planDeck s
        | none => chooseDeck x m e i planDeck s).map fun s => (s, x')

/-- The model areas of an image by stack: package memory above the plan areas, 256 MiB of scratch left free at the top
(DESIGN CHOICE, log 31). -/
def areaFor (s : State) (m : Manifest) (st : Nat) : Option Nat :=
  if mfArea m.raw st = 0 then some 0 else
  firstFit 7537164288 (packageSize - 268435456) (mfArea m.raw st)
    (s.model.manifests.filterMap fun o => if o.region.isSome then some (tget 0 o.areas st, mfArea o.raw st) else none)

/-- Allocate the region and the model areas of a version that holds none (R264). -/
def allocModel (s : State) (m : Manifest) : Option Manifest :=
  if m.region.isSome then some m else
  let used := s.model.manifests.filterMap fun o => o.region.map fun a => (a, mfRegion o.raw)
  (firstFit 0 moduleSize (mfRegion m.raw) used).bind fun a =>
    let areas := (List.range 16).map fun st => areaFor s m st
    if areas.any (·.isNone) then none else
    some { m with region := some a, areas := ((List.range 16).zip areas).foldl (fun t x => tset 0 t x.1 (x.2.getD 0)) [] }

/-- Persisted decks of the restored version that no entry claims become Free (R252). -/
def dropUnclaimed (x : Install) (s : State) : State :=
  let n := x.place.length / 8
  let claimed := (List.range n).filterMap fun i =>
    let e := physEngine s (placeAt x.place i).1
    (claimOf s x.image x.version e i).map fun d => e * 32 + d
  let mine := (s.model.decks.filter fun k => k.2 == 3 && !claimed.contains k.1 &&
    (tget none s.model.dir k.1).any fun d => d.image == x.image && d.version == x.version).map (·.1)
  mine.foldl (fun s k => freeDeck k s) s

/-- What a MODEL_INSTALL sets in motion; none where a deck, side data, the region or an area does not fit. -/
def startInstall (c : Cmd) (s : State) : Option (State × Install) :=
  (manifestOf s (c.at 40 4) (c.at 44 2)).bind fun m =>
    (allocModel s m).bind fun m =>
      let x : Install :=
        { tag := c.tag, image := m.id, version := m.version, bank := c.at 46 1, restore := bit (c.at 47 1) 0,
          rewrite := bit (c.at 47 1) 1, place := c.param, read := if c.tagged then some c.data else none, stream := [], chunks := 0, taken := 0, copied := false,
          made := 0, written := 0, restored := 0, shared := 0 }
      let s := { s with model := { s.model with manifests := s.model.manifests.map fun o =>
        if o.id = m.id ∧ o.version = m.version then m else o } }
      let s := setBank x.image x.bank (some ⟨x.version, false, 0⟩) s
      let s := if x.restore then dropUnclaimed x s else s
      (List.range (mfDecks m.raw)).foldl (beginEntry m x) (some (s, x))

/-- The stacks that a placement touches. -/
def placeStacks (p : Bytes) (n : Nat) : List Nat := ((List.range n).map fun i => (placeAt p i).1 / 4096).eraseDups

/-- The first entry for which a restore without REWRITE finds no deck. -/
def unclaimable (c : Cmd) (s : State) (m : Manifest) : Option Nat :=
  (List.range (mfDecks m.raw)).find? fun i =>
    let (l, _, share) := placeAt c.param i
    !(share && (shareOf s m (c.at 46 1) l i).isSome) && (claimOf s m.id m.version (physEngine s l) i).isNone

/-- The checks of a placement. -/
def placementChecks (c : Cmd) (s : State) (m : Manifest) : List Check :=
  let n := mfDecks m.raw
  let p := c.param
  let keys := (List.range n).map fun i => (placeAt p i).1 * 256 + (placeAt p i).2.1
  (List.range n).flatMap fun i =>
    let (l, d, share) := placeAt p i
    [ badParam (8 * i) (!geaOk l || (keys.take i).contains (l * 256 + d)), badParam (8 * i + 2) (decide (31 < d)),
      badParam (8 * i + 3) (decide (1 < fld p (8 * i + 3) 1) || (share && (shareOf s m (c.at 46 1) l i).isNone)),
      badParam (8 * i + 4) !zeroAt p (8 * i + 4) 4 ]

/-- MODEL_INSTALL's checks (R271). -/
def installChecks (c : Cmd) (s : State) : List Check :=
  let o := manifestOf s (c.at 40 4) (c.at 44 2)
  let raw := (o.map (·.raw)).getD []
  let n := mfDecks raw
  let restore := bit (c.at 47 1) 0
  let rewrite := bit (c.at 47 1) 1
  let miss := if restore && !rewrite then o.bind (unclaimable c s) else none
  headChecks c .some .some 64 ++
  [ badField 12 (o.isSome && c.paramLen != 8 * n), badField 40 o.isNone, badField 46 (decide (1 < c.at 46 1)),
    badField 47 (decide (3 < c.at 47 1)), inlineZero c 48 16 ] ++
  ((o.map (placementChecks c s)).getD []) ++
  [ badLength 32 (decide (c.dataLen < mfStream raw)), integrity (miss.getD 0) miss.isSome, unauthorised 4 (foreignImage c s (c.at 40 4)),
    exhausted (startInstall c s).isNone, conflict (bankAt s (c.at 40 4) (c.at 46 1)).isSome, conflict (s.spin.power == 2),
    conflict s.model.bindKey.isNone, uncalibrated ((placeStacks c.param n).any fun st => !calibrated s st) ]

/-! ### Ends of installs -/

/-- An install ends at its first failure: its bank is Empty, the decks it was writing are Free, claimed ones are
Persisted still (R252, R259). -/
def failInstall (x : Install) (f : Fail) (s : State) : State :=
  let mine := s.model.writes.filter fun w => w.install == some x.tag
  let s := { s with model := { s.model with
    writes := s.model.writes.filter fun w => w.install != some x.tag
    installs := s.model.installs.filter fun y => y.tag != x.tag } }
  let s := mine.foldl (fun s w =>
    let k := w.engine * 32 + w.deck
    if w.writing then freeDeck k s
    else { s with model := { s.model with pool := s.model.pool.filter fun p => p.2.2.2 != k } }) s
  complete x.tag f.status f.sub f.result (clearBank none x.image x.bank s).1

/-- The result field of MODEL_INSTALL. -/
def installResult (x : Install) : Nat :=
  satBits 24 x.written + 2 ^ 24 * satBits 24 x.restored + 2 ^ 48 * satBits 16 x.shared

/-- An install whose every entry is bound and whose tiers are copied ends: the bank is Bound, standby (R259). -/
def tryEndInstall (tag : Nat) (s : State) : State :=
  match installAt s tag with
  | none => s
  | some x =>
    if !x.copied || decide (x.made + x.shared < x.place.length / 8) then s else
    let s := setBank x.image x.bank (some ⟨x.version, true, 0⟩) { s with model := { s.model with
      installs := s.model.installs.filter fun y => y.tag != tag
      broken := s.model.broken.filter (· != x.image * 65536 + x.version) } }
    let s := postEvent 6 0 0x0301 1 (le 4 x.image ++ le 4 x.version ++ le 1 x.bank ++ le 4 x.written ++ le 4 x.restored ++ le 4 x.shared) s
    complete tag 0 0 (installResult x) s

/-- MODEL_INSTALL. -/
def install (c : Cmd) (s : State) : Ran :=
  match startInstall c s with
  | none => .ok s 0
  | some (s, x) => .later { s with model := { s.model with installs := s.model.installs ++ [x] } }

/-- MODEL_INSTALL. -/
def execModelInstall (c : CmdIn) (s : State) : Result := .next (runCommand 0x0302 installChecks install c s)

/-! ### Chunks (R243) -/

/-- The plaintext of chunk `i` of a manifest; none when its tag or digest does not check. -/
def openChunk (m : Manifest) (i : Nat) (b : Bytes) : Option Bytes :=
  let e := slice m.raw (chunkTable m.raw + 32 * i) 32
  if b.length ≠ min 4194304 (mfStream m.raw - 4194304 * i) then none
  else if encrypted m.raw then
    gcmOpen m.key (slice m.raw 88 8 ++ le 4 i) (sha256 m.raw ++ le 4 i) b (e.take 16)
  else if sha256 b = e then some b else none

/-- A deck image has been read and checked: its shadow and side data are written, and its deck can be programmed or
verified (R256, R264, R268). -/
def placeImage (m : Manifest) (x : Install) (i : Nat) (b : Bytes) (s : State) : State :=
  let s := moduleWrite (shadowOf m i) (padTo 266240 (slice b 64 262144 ++ slice b 262208 512)) s
  match s.model.writes.find? fun w => w.install == some x.tag && w.index == i with
  | none => s
  | some w =>
    let k := w.engine * 32 + w.deck
    let side := ((s.model.pool.find? fun p => p.2.2.2 == k).map (·.2.1)).getD 0
    let s := packageWrite (engineStack w.engine) side (slice b 262208 8704 ++ b.drop 271040) s
    let entry := chuckBytes m i (b.take 64) w.deck side (engineMap s w.engine)
    let counter := ((tget none s.model.dir k).map (·.counter)).getD 0
    { s with
      model := { s.model with writes := s.model.writes.map fun y => if y = w then { w with entry := entry, phi := slice b 270912 128 } else y }
      cal := { s.cal with signs := tset none s.cal.signs k (some (signByte (deckHash s w.engine w.deck counter))) } }

/-- Take the deck images that the stream now covers, in the order of the deck table; the install fails at the first
that the module refuses. -/
def takeImages (m : Manifest) : Nat → Install → State → Install × State × Option Nat
  | 0, x, s => (x, s, none)
  | n + 1, x, s =>
    let i := x.taken
    let o := 256 + 48 * i
    let off := fld m.raw o 8
    let len := fld m.raw (o + 8) 4
    if mfDecks m.raw ≤ i ∨ x.stream.length < off + len then (x, s, none) else
    let b := slice x.stream off len
    if imageBad m.raw b i then (x, s, some i)
    else takeImages m n { x with taken := i + 1 } (placeImage m x i b s)

/-- Copy the tier parts to their homes (R248). -/
def copyTiers (m : Manifest) (stream : Bytes) (s : State) : State :=
  (tiersOf m.raw).foldl (fun s t =>
    let b := slice stream t.stream t.len
    if t.home = 16 then moduleWrite (m.region.getD 0 + t.off) b s
    else packageWrite t.home (tget 0 m.areas t.home + t.off) b s) s

/-- The next chunk of the first install that needs one has been read. The module reads each block once: the chunks of a tagged
install come from the data over which its tag was checked (R243, R447). Nothing is read while the link is down (R456). -/
def chunkRead (b : Bytes) (s : State) : State :=
  if !s.phys.link then s else
  match s.model.installs.find? fun x => (manifestOf s x.image x.version).any fun m => decide (x.chunks < mfChunks m.raw) with
  | none => s
  | some x =>
    match manifestOf s x.image x.version with
    | none => s
    | some m =>
      let b := (x.read.map fun d => slice d (4194304 * x.chunks) 4194304).getD b
      match openChunk m x.chunks b with
      | none => failInstall x ⟨7, 0, 0⟩ s
      | some p =>
        let x := { x with stream := x.stream ++ p, chunks := x.chunks + 1 }
        let (x, s, bad) := takeImages m (mfDecks m.raw) x s
        match bad with
        | some i => failInstall x ⟨7, i % 65536, i⟩ s
        | none =>
          let last := decide (mfChunks m.raw ≤ x.chunks)
          let s := if last then copyTiers m x.stream s else s
          tryEndInstall x.tag (setInstall { x with copied := last } s)

/-- MODEL_CHUNK_READ. -/
def execModelChunkRead (chunk : Bytes) (s : State) : Result := .next (chunkRead chunk s)

/-! ### CHUCK_SWITCH (R260, R263) -/

/-- The plan decks that a cut list selects, with the engines. -/
def selectsOf (d : PlanDef) : List (Nat × Nat) :=
  d.parts.flatMap fun p => p.cuts.flatMap fun (st, ops) =>
    (ops.filter fun op => op.code == 0x03).map fun op => (gea st (opCore op) (op.unit % 4), opBits op 4 0)

/-- Whether an armed or running plan of an image stands against a switch to a bank (R263). -/
def planForbids (s : State) (image bank : Nat) (b : Bank) : Bool :=
  let digest := fun v => (manifestOf s image v).map fun m => reductionOf m.raw
  (plansOf s).any fun x => (x.2.state == 1 || x.2.state == 2) && x.2.d.model == image &&
    (digest b.version != some x.2.d.reduction ||
      (selectsOf x.2.d).any fun y => (chuckEntry s bank y.1 y.2).isNone)

/-- Whether an image is known: a manifest is held or a bank is not Empty. -/
def knownImage (s : State) (image : Nat) : Bool :=
  s.model.manifests.any (fun m => m.id == image) || (List.range 2).any fun b => (bankAt s image b).isSome

/-- CHUCK_SWITCH's checks. -/
def switchChecks (c : Cmd) (s : State) : List Check :=
  let image := c.at 40 4
  let bank := c.at 44 1
  headChecks c .some .none 1 ++
  [ badField 40 !knownImage s image, badField 44 (decide (1 < bank)), badField 45 (decide (1 < c.at 45 1)), inlineZero c 46 18,
    badParam 0 (decide (2 ^ 51 ≤ fld c.param 0 8)), badParam 12 !zeroAt c.param 12 4, badLength 12 (c.paramLen != 16),
    unauthorised 4 (foreignImage c s image),
    conflict (match bankAt s image bank with
      | some b => !b.bound || b.role != 0 || planForbids s image bank b
      | none => true),
    conflict ((bankAt s image (1 - bank)).any fun o => o.role == 2) ]

/-- CHUCK_SWITCH: it takes effect at the boundaries of the partitions that run a plan of the image, or at once. -/
def chuckSwitch (c : Cmd) (s : State) : Ran :=
  let image := c.at 40 4
  let w : Switch :=
    { tag := c.tag, image := image, bank := c.at 44 1, turn := fld c.param 0 8, limit := fld c.param 8 4, action := c.at 45 1,
      left := imageParts s image, begun := false, last := 0 }
  .later (endSwitches { s with model := { s.model with switches := s.model.switches ++ [w] } })

/-- CHUCK_SWITCH. -/
def execChuckSwitch (c : CmdIn) (s : State) : Result := .next (runCommand 0x0303 switchChecks chuckSwitch c s)

/-! ### MODEL_RELEASE, CHUCK_READ, MODEL_STATUS -/

/-- MODEL_RELEASE's checks. -/
def releaseChecks (c : Cmd) (s : State) : List Check :=
  let image := c.at 40 4
  let v := c.at 44 2
  let bank := c.at 46 1
  let drop := bank == 0xFF
  let b := bankAt s image bank
  let held := (List.range 2).any fun j => (bankAt s image j).any fun x => x.version == v
  headChecks c .none .none 1 ++
  [ badField 40 !knownImage s image, badField 44 (drop && (manifestOf s image v).isNone), badField 46 (decide (1 < bank) && !drop),
    inlineZero c 47 17, unauthorised 4 (foreignImage c s image), exhausted (drop && logFull s),
    inUse (!drop && (b.any fun x => x.role == 1 || !(pinnedTo s image bank).isEmpty)),
    conflict (if drop then held else !b.any fun x => x.bound && x.role == 0 && x.version == v) ]

/-- MODEL_RELEASE: a standby bank becomes Empty, or an unbound manifest is held no longer (R259, R451). -/
def modelRelease (c : Cmd) (s : State) : Ran :=
  let image := c.at 40 4
  let v := c.at 44 2
  if c.at 46 1 ≠ 0xFF then .ok (clearBank none image (c.at 46 1) s).1 0 else
  let raw := ((manifestOf s image v).map (·.raw)).getD []
  .ok (addLog 4 image v (sha256 raw) { s with model := { s.model with
    manifests := s.model.manifests.filter fun m => m.id != image || m.version != v } }) 0

/-- MODEL_RELEASE. -/
def execModelRelease (c : CmdIn) (s : State) : Result := .next (runCommand 0x0304 releaseChecks modelRelease c s)

/-- CHUCK_READ's checks. -/
def chuckReadChecks (c : Cmd) (_ : State) : List Check :=
  headChecks c .none .some 64 ++
  [ badField 40 (decide (1 < c.at 40 1)), badField 41 (decide (15 < c.at 41 1)), inlineZero c 42 22,
    badLength 32 (decide (c.dataLen < 10485760)) ]

/-- CHUCK_READ: the entries of a bank on a stack; zeros where there is none. -/
def chuckRead (c : Cmd) (s : State) : Ran :=
  let b := (enginesOf (c.at 41 1)).flatMap fun e => (List.range 32).flatMap fun d =>
    padTo 128 ((tget none s.model.chuck (chuckKey (c.at 40 1) e d)).getD [])
  .ok (writeData c b s) 0

/-- CHUCK_READ. -/
def execChuckRead (c : CmdIn) (s : State) : Result := .next (runCommand 0x0307 chuckReadChecks chuckRead c s)

/-- MODEL_STATUS's checks. -/
def modelStatusChecks (c : Cmd) (s : State) : List Check :=
  headChecks c .none .none 1 ++
  [badField 40 !knownImage s (c.at 40 4), inlineZero c 44 20, unauthorised 4 (foreignImage c s (c.at 40 4))]

/-- MODEL_STATUS. A drain runs while a bank is retained. -/
def modelStatus (c : Cmd) (s : State) : Ran :=
  let image := c.at 40 4
  let state := fun b => match bankAt s image b with
    | none => 0
    | some x => if x.bound then 2 else 1
  let kept := (List.range 2).find? fun b => (bankAt s image b).any fun x => x.role == 2
  let pins := (kept.map fun b => (pinnedTo s image b).length).getD 0
  .ok s (state 0 + 4 * state 1 + 16 * b2n (currentBank s image == some 1) + 32 * b2n kept.isSome + 256 * satBits 24 pins)

/-- MODEL_STATUS. -/
def execModelStatus (c : CmdIn) (s : State) : Result := .next (runCommand 0x0308 modelStatusChecks modelStatus c s)

end Sys2Proof.Machine
end

