-- ==== Sys2Proof/Machine/Adapters.lean ====
section
/-!
DEFINITION. The commands of adapters (R269 to R271, R449).
-/

namespace Sys2Proof.Machine

/-! ### The envelope and the image -/

/-- The adapter ID and version that an envelope or image names in one field. -/
def adapterId (field : Nat) : Nat := field % 2 ^ 24

/-- The adapter image inside an envelope, decrypted under the adapter key (R449). -/
def openAdapter (c : Cmd) (n : Tenant) : Option Bytes :=
  let b := c.data
  let a := fld b 8 4
  gcmOpen (adapterKey c.tenant n (adapterId a) (a / 2 ^ 24)) (slice b 12 12) (slice b 0 12) (b.drop 48) (slice b 24 16)

/-- The decrypted image of an ADAPTER_LOAD. -/
def adapterImage (c : Cmd) (s : State) : Option Bytes := (tenantOf s c.tenant).bind (openAdapter c)

/-- Bytes that a site's matrices take. -/
def siteBytes (raw : Bytes) (x : Site) : Nat := rowB raw x x.outLen - x.off

/-- Whether a value of a B row beyond RANK is not 0 (R269). -/
def rankPadding (raw : Bytes) (x : Site) : Bool :=
  let k := adapterKind raw
  let n := rankBlocks raw
  (List.range x.outLen).any fun j =>
    ((rowValues k (slice raw (rowB raw x j) (rowBytes k n)) n).drop (rankOf raw)).any fun v => v.m != 0

/-- Whether a site entry breaks its table. -/
def siteBad (raw : Bytes) (i : Nat) : Bool :=
  let e := slice raw (64 + 16 * i) 16
  decide (64 ≤ fld e 2 1) || fld e 3 1 != 0 || fld e 4 2 % 32 != 0 || fld e 6 2 % 256 != 0 ||
    match siteAt raw i with
    | none => true
    | some x => decide (fld raw 20 8 < x.off + siteBytes raw x) || decide (x.off < 64 + 16 * siteCount raw) || rankPadding raw x

/-- The checks of a decrypted image, at their bytes of the data. A model whose manifest is not held is an unknown image (R500,
DEDUCED from R271, log 72). -/
def adapterImageChecks (s : State) (raw : Bytes) : List Check :=
  let exp := signed 8 (fld raw 17 1)
  [ badData 48 (fld raw 0 4 != 0x4441394B), badData 56 (!s.model.manifests.any fun m => m.id == fld raw 8 4), badData 60 (noTenant (fld raw 12 2)), badData 62 (decide (rankOf raw < 1 ∨ 256 < rankOf raw)),
    badData 64 (decide (2 < fld raw 16 1)), badData 65 (decide (exp < -32 ∨ 32 < exp)),
    badData 66 (decide (siteCount raw < 1 ∨ 4096 < siteCount raw)), badData 76 (!zeroAt raw 28 36) ] ++
  if fld raw 20 8 ≤ raw.length ∧ 64 + 16 * siteCount raw ≤ fld raw 20 8 then
    (List.range (siteCount raw)).map fun i => badData (112 + 16 * i) (siteBad raw i)
  else []

/-! ### ADAPTER_LOAD -/

/-- Whether another tenant owns the adapter ID. -/
def foreignAdapter (c : Cmd) (s : State) (a : Nat) : Bool :=
  (tvals s.model.adapters).any fun x => x.1 / 256 == a && x.2.tenant != c.tenant

/-- ADAPTER_LOAD's checks. -/
def adapterLoadChecks (c : Cmd) (s : State) : List Check :=
  let b := c.data
  let a := adapterId (fld b 8 4)
  let raw := adapterImage c s
  headChecks c .none .some 64 ++
  [ badTenant c, inlineZero c 40 24, badData 0 (fld b 0 4 != 0x4541394B), badData 4 (noTenant (fld b 4 2)), badData 6 (fld b 6 2 != 0), badData 40 (!zeroAt b 40 8) ] ++
  (raw.map (adapterImageChecks s)).getD [] ++
  [ badLength 32 (decide (c.dataLen < 112) || raw.any fun r => decide (r.length < fld r 20 8) || decide (fld r 20 8 < 64)),
    integrity 0 ((tenantOf s c.tenant).isSome && raw.isNone),
    integrity 0 (raw.any fun r => fld r 4 4 != fld b 8 4 || fld r 12 2 != fld b 4 2),
    unauthorised 3 (tenantOf s c.tenant).isNone, unauthorised 4 (fld b 4 2 != c.tenant || foreignAdapter c s a),
    exhausted (decide (65536 ≤ (tkeys s.model.adapters).length) || decide (4 ≤ (residents s a).length)),
    inUse (tget none s.model.adapters (a * 256 + fld b 8 4 / 2 ^ 24)).isSome ]

/-- An adapter version is stored and becomes pending (R270). A retirement that has not taken effect falls away. -/
def storeAdapter (raw : Bytes) (s : State) : State :=
  let a := adapterId (fld raw 4 4)
  let v := fld raw 4 4 / 2 ^ 24
  let x : Adapter := { tenant := fld raw 12 2, image := fld raw 8 4, rank := rankOf raw, kind := (byteAt raw 16).toNat
                       exp := signed 8 (byteAt raw 17).toNat, raw := raw.take (fld raw 20 8), damaged := false }
  makePending a v { s with model := { s.model with
    adapters := tset none s.model.adapters (a * 256 + v) (some x), retiring := s.model.retiring.filter (· != a) } }

/-- ADAPTER_LOAD. -/
def adapterLoad (c : Cmd) (s : State) : Ran :=
  match adapterImage c s with
  | none => .ok s 0
  | some raw => .ok (storeAdapter raw s) (fld raw 4 4)

/-- ADAPTER_LOAD. -/
def execAdapterLoad (c : CmdIn) (s : State) : Result := .next (runCommand 0x0401 adapterLoadChecks adapterLoad c s)

/-! ### ADAPTER_RETIRE and ADAPTER_QUERY -/

/-- Checks of a command that names an adapter inline. On the physical function it may name any tenant's adapter. -/
def adapterNameChecks (c : Cmd) (s : State) : List Check :=
  headChecks c .none .none 1 ++ [inlineZero c 43 21, unauthorised 4 (c.f.fn != 0 && foreignAdapter c s (c.at 40 3))]

/-- ADAPTER_RETIRE: no current version from the next boundary (R270). -/
def adapterRetire (c : Cmd) (s : State) : Ran :=
  let a := c.at 40 3
  .ok { s with model := { s.model with
    upcoming := tset none s.model.upcoming a none
    retiring := if (tget none s.model.current a).isSome && !s.model.retiring.contains a then s.model.retiring ++ [a]
                else s.model.retiring } } 0

/-- ADAPTER_RETIRE. -/
def execAdapterRetire (c : CmdIn) (s : State) : Result := .next (runCommand 0x0402 adapterNameChecks adapterRetire c s)

/-- Sessions pinned to some version of an adapter. -/
def adapterPins (s : State) (a : Nat) : Nat :=
  ((tvals s.serve.sessions).filter fun x => x.2.admitted && x.2.pinned.any fun p => p / 256 == a).length

/-- ADAPTER_QUERY's result. -/
def adapterQuery (c : Cmd) (s : State) : Ran :=
  let a := c.at 40 3
  let part := fun (o : Option Nat) => o.getD 0 + 256 * b2n o.isSome
  .ok s (part (tget none s.model.current a) + 2 ^ 16 * part (tget none s.model.upcoming a) + 2 ^ 32 * satBits 32 (adapterPins s a))

/-- ADAPTER_QUERY. -/
def execAdapterQuery (c : CmdIn) (s : State) : Result := .next (runCommand 0x0403 adapterNameChecks adapterQuery c s)

end Sys2Proof.Machine
end

