-- ==== Sys2Proof/Machine/Probes.lean ====
section
/-!
DEFINITION. Program loops (R113, R235, R253, R254), probe reads (R146, R235, R240, R247, R255), the verification and
binding of decks (R252, R268, R413), and the honing tests (R415).
-/

namespace Sys2Proof.Machine

/-! ### Program loops -/

/-- Loops that may run at once in a power mode (R30). -/
def loopCap (mode : Nat) : Nat := if mode = 0 then 8192 else if mode = 1 then 6144 else 3072

/-- The next loop of an engine: a row of its lowest Writing deck, else a row of a spare column under repair. -/
def nextLoop (s : State) (e : Nat) : Option LoopRun :=
  let ws := sortBy (fun a b : DeckWrite => decide (a.deck ≤ b.deck))
    (s.model.writes.filter fun w => w.engine == e && w.writing && !w.entry.isEmpty && decide (w.row < 1024))
  match ws.head? with
  | some w => some ⟨w.deck, w.row, none, s.spin.tick⟩
  | none =>
    (s.cal.repairs.find? fun r => r.engine == e && !r.left.isEmpty).bind fun r =>
      r.left.head?.map fun (d, row) => ⟨d, row, some r.spare, s.spin.tick⟩

/-- PROGRAM_LOOP_START: a loop and its two deck switches fit the span, the cap allows it, and no hold defers it (R113, R153,
R254). The cap is that of the module's mode, which changes once every partition has adopted a new one (DESIGN CHOICE, log 63:
R254 says "the current mode"). -/
def loopStart (e : Nat) (s : State) : State :=
  if !engineIdle s e || stackHeld s (engineStack e) || decide (loopCap s.spin.power ≤ (tvals s.model.loops).length) ||
      !engineQuiet s e 2 25002 then s else
  match nextLoop s e with
  | none => s
  | some r => { s with model := { s.model with loops := tset none s.model.loops e (some r) } }

/-- PROGRAM_LOOP_START. -/
def execProgramLoopStart (engine : Nat) (s : State) : Result := .next (loopStart engine s)

/-- The value stored for a logical data or check column in a row, in physical polarity (R92, R93, R250). -/
def storedValue (s : State) (entry : Bytes) (e d c r : Nat) : Int :=
  let v := fun c => 2 ^ formatShift entry * shadowWeight s entry c r
  if c < 512 then groupSign s e d (c / 64) * v c
  else groupSign s e d (c - 512) * divAway (((span (64 * (c - 512)) 64).map v).sum) 64

/-- The cells of a row: data, check, mapped spare and reference columns. -/
def rowCells (s : State) (entry : Bytes) (e d r : Nat) : Bytes :=
  let cols := engineMap s e
  (List.range 540).flatMap fun c =>
    if c < 520 then cellPair (storedValue s entry e d c r)
    else if c < 536 then
      let m := fld cols (2 * (c - 520)) 2
      if m.testBit 15 then cellPair (storedValue s entry e d (m % 1024) r) else [0#8, 0#8]
    else if c = 539 then [6#8, 6#8] else cellPair (refStored c)

/-- Replace a deck write. -/
def setWrite (old new : DeckWrite) (s : State) : State :=
  { s with model := { s.model with writes := s.model.writes.map fun y => if y = old then new else y } }

/-- A row of a Writing deck has been programmed; a cell at the wrong level makes its column Failing (R254). -/
def rowDone (e : Nat) (r : LoopRun) (unreached : List Nat) (s : State) : State :=
  match s.model.writes.find? fun w => w.engine == e && w.deck == r.deck && w.writing && w.row == r.row with
  | none => s
  | some w =>
    let k := e * 32 + r.deck
    let cells := rowCells s w.entry e r.deck (logicalRow s k r.row)
    let s := { s with arr := { s.arr with cells := tset [] s.arr.cells (k * 1024 + r.row) cells } }
    let s := setWrite w { w with row := r.row + 1 } s
    unreached.foldl (fun s c => failElement (elemKey e (mapColumn w.entry c)) 0 s) s

/-- A row of a spare column has been programmed (R235): once the last one is, its measurement begins, over 512 pairs. -/
def spareDone (e : Nat) (r : LoopRun) (spare : Nat) (s : State) : State :=
  let k := e * 32 + r.deck
  let entry := (deckEntryOf s e r.deck).getD []
  match s.cal.repairs.find? fun x => x.engine == e && x.spare == spare && x.left.head? == some (r.deck, r.row) with
  | none => s
  | some x =>
    let old := padTo 1080 (tget [] s.arr.cells (k * 1024 + r.row))
    let pair := cellPair (storedValue s entry e r.deck x.col (logicalRow s k r.row))
    let cells := old.take (2 * spare) ++ pair ++ old.drop (2 * spare + 2)
    let s := { s with arr := { s.arr with cells := tset [] s.arr.cells (k * 1024 + r.row) cells } }
    let y := { x with left := x.left.drop 1 }
    let s := { s with cal := { s.cal with repairs := s.cal.repairs.map fun z => if z = x then y else z } }
    if !y.left.isEmpty then s else
    setWindow (elemKey e spare) (some ⟨512, 0, 0, dzero, dzero, dzero, dzero, dzero⟩) s

/-- PROGRAM_LOOP_DONE: `unreached` lists the logical columns with a cell at the wrong level. -/
def loopDone (e : Nat) (unreached : List Nat) (s : State) : State :=
  match tget none s.model.loops e with
  | none => s
  | some r =>
    let s := { s with model := { s.model with loops := tset none s.model.loops e none } }
    match r.spare with
    | none => rowDone e r unreached s
    | some k => spareDone e r k s

/-- PROGRAM_LOOP_DONE. -/
def execProgramLoopDone (engine : Nat) (unreached : List Nat) (s : State) : Result := .next (loopDone engine unreached s)

/-! ### Binding and failing decks (R252, R255, R413) -/

/-- Remove a deck write from the list. -/
def dropWrite (w : DeckWrite) (s : State) : State :=
  { s with model := { s.model with writes := s.model.writes.filter (· != w) } }

/-- A verified deck becomes Bound (R251, R252). -/
def bindDeck (w : DeckWrite) (s : State) : State :=
  let k := w.engine * 32 + w.deck
  let dir := (tget none s.model.dir k).map fun d => { d with complete := true }
  let s := setDeck k 2 (setDir k dir (dropWrite w s))
  match w.install, w.hone with
  | some tag, _ =>
    match installAt s tag with
    | none => s
    | some x =>
      let l := (placeAt x.place w.index).1
      let entry := w.entry.take 64 ++ engineMap s w.engine ++ w.entry.drop 96
      let s := { s with model := { s.model with
        chuck := tset none s.model.chuck (chuckKey w.bank l w.planDeck) (some entry) } }
      tryEndInstall tag (setInstall { x with
        made := x.made + 1, written := x.written + b2n w.writing, restored := x.restored + b2n !w.writing } s)
  | none, some core =>
    match s.integ.hones.find? fun h => h.st * 640 + h.core == core with
    | none => s
    | some h =>
      let h' := { h with done := h.done + 1 }
      let s := setHone h h' s
      if honeDecks s h' ≤ h'.done then spareReady h' s else s
  | none, none => s

/-- Post MODEL_DECK_FAILED: causes fingerprint, program, restore. -/
def postDeckFailed (w : DeckWrite) (cause : Nat) (s : State) : State :=
  postEvent 6 0 0x0302 3 (le 2 w.engine ++ le 1 w.deck ++ le 4 w.index ++ le 1 cause) s

/-- The spare of a honing failed: its decks are Free again, and the next eligible spare is prepared, or none remains
(R413, core honing states). How HONE_DONE writes the cause "no spare" is a free value (log 8). -/
def nextSpare (h : Hone) (s : State) : State :=
  let core := h.st * 640 + h.core
  let decks := (List.range 4).flatMap fun j => (List.range 32).filterMap fun d =>
    let k := gea h.st h.spare j * 32 + d
    if deckState s k = 1 ∨ deckState s k = 2 then some k else none
  let s := { s with
    model := { s.model with writes := s.model.writes.filter fun w => w.hone != some core }
    integ := { s.integ with hones := s.integ.hones.filter (· != h) } }
  let s := (decks.filter fun k => !referenced s k).foldl (fun s k => freeDeck k s) s
  let tried := h.tried ++ [h.spare]
  match chooseSpare s h.st h.core none tried with
  | some p => prepare { h with spare := p, tried := tried, done := 0, bufferOn := none, staged := false } s
  | none =>
    let (cause, s) := freeBits 8 s
    let s := postHoneDone h.st h.core cause 3 (setCore core 1 (setMark core (max 1 (tget 0 s.integ.marks core)) s))
    match h.tag with
    | some tag => complete tag 9 0 0 s
    | none => s

/-- Write a deck afresh with its next write counter (R250, R255). -/
def rewriteDeck (w : DeckWrite) (s : State) : State :=
  let k := w.engine * 32 + w.deck
  let s := beginDeck k w.image w.version w.index (resetDrift k s)
  setWrite w { w with writing := true, row := 0, again := true, prints := 0, failed := false } s

/-- A claimed deck failed: the restore fails, or with REWRITE the entry is written afresh (R268). -/
def restoreFailed (w : DeckWrite) (x : Install) (s : State) : State :=
  let k := w.engine * 32 + w.deck
  let s := postDeckFailed w 2 (freeDeck k (dropWrite w s))
  if !x.rewrite then failInstall x ⟨7, w.index % 65536, w.index⟩ s else
  match manifestOf s x.image x.version with
  | none => failInstall x ⟨7, w.index % 65536, w.index⟩ s
  | some m =>
    match chooseDeck x m w.engine w.index w.planDeck s with
    | none => failInstall x ⟨9, 0, 0⟩ s
    | some s =>
      let o := 256 + 48 * w.index
      placeImage m x w.index (slice x.stream (fld m.raw o 8) (fld m.raw (o + 8) 4)) s

/-- A deck failed its verification (R252, R255). -/
def failDeck (w : DeckWrite) (s : State) : State :=
  if w.writing && !w.again then rewriteDeck w s else
  match w.install, w.hone with
  | some tag, _ =>
    match installAt s tag with
    | none => dropWrite w s
    | some x =>
      if !w.writing then restoreFailed w x s
      else failInstall x ⟨7, w.index % 65536, w.index⟩ (postDeckFailed w 0 s)
  | none, some core =>
    match s.integ.hones.find? fun h => h.st * 640 + h.core == core with
    | none => dropWrite w s
    | some h => nextSpare h (postDeckFailed w 0 s)
  | none, none => dropWrite w s

/-! ### Probe reads -/

/-- Whether an element is Valid or Failing. -/
def derived (s : State) (k : Nat) : Bool := elemValid s k || tget false s.cal.failing k

/-- Whether a deck's drift word and every data and check column word of its engine are derived (step 1 of R255). -/
def factorsReady (s : State) (e d : Nat) : Bool :=
  derived s (elemKey e (3000 + d)) && (List.range 520).all fun c => derived s (elemKey e c)

/-- What the next probe of an engine is for: verification of its lowest deck, a spare column, or warm-up on one of the
decks with a tag; which of them comes next the spec leaves open (log 8). -/
def nextProbe (s : State) (e : Nat) : Option (Nat × ProbeUse) :=
  let ws := sortBy (fun a b : DeckWrite => decide (a.deck ≤ b.deck))
    (s.model.writes.filter fun w => w.engine == e && !w.entry.isEmpty && w.row == 1024)
  match ws.head? with
  | some w => some (w.deck, if factorsReady s e w.deck then .print w.prints else .factors)
  | none =>
    match s.cal.repairs.find? fun r => r.engine == e && r.left.isEmpty && !r.staged with
    | some r =>
      let decks := (List.range 32).filter fun d => deckTag s e d != 0
      decks.head?.map fun d => (decks.getD (r.probes % decks.length) d, .spare r.spare)
    | none =>
      let decks := (List.range 32).filter fun d => deckTag s e d != 0
      if s.cal.warmups.any fun w => w.mask.testBit (engineStack e) then
        decks.head?.map fun d => (decks.getD ((Config.openWord s.free 0).toNat % decks.length) d, .factors)
      else none

/-- PROBE_READ_START: a span of 8 indices, strokes below the cap, and trims that are valid (R140, R146). -/
def probeStart (e : Nat) (s : State) : State :=
  if !engineIdle s e || !engineQuiet s e 0 8 || !strokesLow s (engineStack e) || !calibrated s (engineStack e) then s else
  match nextProbe s e with
  | none => s
  | some (d, use) =>
    let k := e * 32 + d
    let n := tget 0 s.cal.forward k
    let back := use == .factors && n == 8
    let t := if use == .factors then tset 0 s.cal.forward k (if back then 0 else n + 1) else s.cal.forward
    let s := { s with cal := { s.cal with forward := t } }
    { s with
      free := s.free + 1
      model := { s.model with probes := tset none s.model.probes e (some ⟨d, back, use, s.spin.tick, n⟩) } }

/-- PROBE_READ_START. -/
def execProbeReadStart (engine : Nat) (s : State) : Result := .next (probeStart engine s)

/-- The word that keys the inputs of a probe: the draw of R222 with bits [7:4] of the counter set to 3 (R235, R240). -/
def probeKey (s : State) (e : Nat) : Nat :=
  kmixN s.cal.policy.seed (tget 0 s.arr.ordinal e * 2 ^ 24 ||| e * 256 ||| 48)

/-- The keyed A4 inputs of a probe, −7 to 7. How one word becomes the inputs of all rows, and of the engine's later probes,
the spec leaves open: `Config.probeInput` (log 20). -/
def probeInputs (s : State) (e n : Nat) : List Int :=
  (List.range n).map fun r => ((Config.probeInput (probeKey s e) s.free r).toNat % 15 : Nat) - 7

/-- The input of fingerprint probe `p` at a row (R247). -/
def printInput (seed image p r : Nat) : Int :=
  (kmixN seed (image * 2 ^ 32 ||| r * 4096 ||| p * 256 ||| 64) % 16 % 15 : Nat) - 7

/-- What a probe drove. -/
def probeRecord (s : State) (e d kind : Nat) (xs : List Int) : ReadInputs :=
  { engine := logicalEngine s e, deck := d, kind := kind, a8 := false, burnish := 0, gain := 0, xs := xs,
    written := s.spin.tick, asked := [], exact := [] }

/-- The record of a probe as far as its reference columns are observed (R228): Wide A4 ×1. -/
def probeTrue (s : State) (e d : Nat) (h : HalfRead) : TrueJob :=
  { record := 0, written := 0, kind := h.kind, flags := 0, engine := logicalEngine s e, phys := e, deck := d, burnish := 0, q := 0,
    parts := [], signs := [], adds := [], exact := [], split := [], checks := [], exactChecks := [], splitChecks := [],
    residuals := [], compare := [], replay := [], chosen := [], got := [], overCap := false, added := 0,
    refs := (h.refs.zip h.clipRef).map fun x => if x.2 || uncovered s e 130 then none else some x.1,
    weight := h.weight, inputs := probeRecord s e d h.kind h.xs, left := [], opened := false }

/-- A probe that has read a deck is observed as every read is (R228). -/
def observeProbe (e deck : Nat) (h : HalfRead) (s : State) : State :=
  if h.zero then s else observe (probeTrue s e deck h) (probeRecord s e deck h.kind h.xs) s

/-- A probe that derives factors: it is observed as a read is, and offers one sample of an element the spec leaves open
(R240, log 20). -/
def factorProbe (e : Nat) (r : ProbeRun) (s : State) : State :=
  let kind := if r.reverse then 3 else 0
  let base := s.free
  let xs := probeInputs s e (if r.reverse then 512 else 1024)
  let el := (Config.openWord base 2000).toNat % (if r.reverse then 1024 else 520)
  let s := { s with free := s.free + 1 }
  let h := convertHalf s ⟨e, r.deck, (deckEntryOf s e r.deck).getD [], 0, kind, false, xs, base⟩ 0 1 false false
  if h.zero then s else
  let inp := probeRecord s e r.deck kind xs
  let s := observeProbe e r.deck h s
  match sampled h el with
  | none => s
  | some acc =>
    pushRequest
      { id := 0, part := 0, record := 0, engine := logicalEngine s e, phys := e, deck := r.deck,
        col := if 512 ≤ el && !r.reverse then el - 512 + 3000 else el, extra := false, paired := true, group := none,
        inputs := inp, acc := acc, weight := h.weight, queued := 0, counted := true, started := none } s

/-- The logical group sum of a fingerprint probe, in units of D (step 2 of R255). -/
def printSum (s : State) (entry : Bytes) (e d k : Nat) (h : HalfRead) (inp : ReadInputs) : Int :=
  let q := formatShift entry
  ((span (64 * k) 64).map fun c =>
    let key := elemKey e (mapColumn entry c)
    let exact := exactColumn s entry inp c
    let v := if !elemValid s key || h.redo.getD c true then exact
      else groupSign s e d k * partT (h.accs.getD c 0) h.weight (activeWord s key) (driftIn (driftWord s e d)) 0 q
    v * 2 ^ q).sum

/-- Φ(p, k): as the signed deck image holds it (R245); for a deck that a honing writes from the shadow, the sum that R247
defines over the weights there (log 20). -/
def fingerprint (s : State) (w : DeckWrite) (p k : Nat) (inp : ReadInputs) : Int :=
  if w.phi.isEmpty then ((span (64 * k) 64).map fun c => 2 ^ formatShift w.entry * exactColumn s w.entry inp c).sum
  else signed 32 (fld w.phi (32 * p + 4 * k) 4)

/-- A fingerprint probe: after the fourth the deck is bound, or fails (step 3 of R255: 486.4 units of D). -/
def printProbe (e p : Nat) (r : ProbeRun) (s : State) : State :=
  match s.model.writes.find? fun w => w.engine == e && w.deck == r.deck && w.row == 1024 with
  | none => s
  | some w =>
    let seed := ((manifestOf s w.image w.version).map fun m => fld m.raw 72 8).getD 0
    let xs := (List.range 1024).map (printInput seed w.index p)
    let base := s.free
    let s := { s with free := s.free + 1 }
    let h := convertHalf s ⟨e, r.deck, w.entry, 0, 0, false, xs, base⟩ 0 1 false false
    let inp := probeRecord s e r.deck 0 xs
    let off := (List.range 8).any fun k =>
      decide (4864 < 10 * (printSum s w.entry e r.deck k h inp - fingerprint s w p k inp).natAbs)
    let s := observeProbe e r.deck h s
    let w' := { w with prints := w.prints + 1, failed := w.failed || off }
    let s := setWrite w w' s
    if w'.prints < 4 then s else if w'.failed then failDeck w' s else bindDeck w' s

/-- A probe that measures a spare column: its pair joins the spare's window; once the factor word is in range, it is
staged with the column-map change, else another spare is tried (R235). -/
def spareProbe (e spare : Nat) (r : ProbeRun) (s : State) : State :=
  match s.cal.repairs.find? fun x => x.engine == e && x.spare == spare && x.left.isEmpty && !x.staged,
      deckEntryOf s e r.deck with
  | some x, some entry =>
    let base := s.free
    let xs := probeInputs s e 1024
    let s := { s with free := s.free + 1 }
    let strokes := converted (strokesOf false xs) 1
    let v : Drive := ⟨e, r.deck, mapEntry entry spare x.col, 0, 0, false, xs, base⟩
    let (acc, clip) := readCol s v strokes x.col
    let bare := uncovered s e (adcOf 0 x.col)
    let s := observeProbe e r.deck (convertHalf s v 0 1 false false) s
    if clip || strokes.isEmpty || bare then s else
    let inp := probeRecord s e r.deck 0 xs
    let k := elemKey e spare
    let el := if 512 ≤ x.col then x.col - 512 + 3000 else x.col
    let v := exactOf s (some entry) inp e el
    let v64 := if 512 ≤ x.col then v else 64 * (groupSign s e r.deck (x.col / 64) * v)
    let smp : Sample :=
      { key := k, q := formatShift entry, n := 1, p := 0, b2 := bound2 0 1 false false, acc := acc, weight := (strokes.map (·.2)).sum,
        drift := driftIn (driftWord s e r.deck), exact64 := v64, sure := true }
    let s := { s with cal := { s.cal with repairs := s.cal.repairs.map fun z =>
      if z = x then { z with probes := z.probes - 1 } else z } }
    let w := (windowOf s k).add smp.weight smp.acc smp.z
    if w.count < w.size then setWindow k (some w) s else
    let s := setWindow k none s
    let s := { s with cal := { s.cal with repairs := s.cal.repairs.filter fun z => z.engine != e || z.spare != spare } }
    match w.solve with
    | some v =>
      let s := { s with cal := { s.cal with
        staged := tset none s.cal.staged k (some ⟨fullWord k v, false⟩)
        stagedMaps := s.cal.stagedMaps ++ [(e, spare, x.col)] } }
      settle (engineStack e) s
    | none => repairColumn e x.col (failElement k 0 s)
  | _, _ => s

/-- PROBE_READ_DONE: 8 indices after its start (R146). -/
def probeDone (e : Nat) (s : State) : State :=
  match tget none s.model.probes e with
  | none => s
  | some r =>
    if s.spin.tick < r.start + 8 then s else
    let s := { s with model := { s.model with probes := tset none s.model.probes e none } }
    endWarmups (match r.use with
      | .factors => factorProbe e r s
      | .print p => printProbe e p r s
      | .spare c => spareProbe e c r s)

/-- PROBE_READ_DONE. -/
def execProbeReadDone (engine : Nat) (s : State) : Result := .next (probeDone engine s)

/-! ### Honing tests (R415) -/

/-- The array test of honing writes the lowest Free deck of each engine of a core with keyed values: its write counter advances,
and it stays Free (R250, R415). -/
def testArrays (st core : Nat) (s : State) : State :=
  (List.range 4).foldl (fun s j =>
    let e := gea st core j
    match (List.range 32).find? fun d => deckState s (e * 32 + d) == 0 with
    | none => s
    | some d => (nextCounter (e * 32 + d) s).2) s

/-- The store test of honing leaves words and full bits of a core's store that the spec does not state: free values (R415;
DESIGN CHOICE, log 67). -/
def testStore (st core : Nat) (s : State) : State :=
  let a := coreBase st core
  let base := s.free
  let full := s.stores.full.filter fun x => !(decide (a ≤ x.1) && decide (x.1 < a + 32768))
  let s := { s with free := base + 1, stores := { s.stores with
    full := (List.range 32768).foldl (fun t w => tset false t (a + w) ((Config.openWord base (9 * w)).getLsbD 0)) full } }
  putWords ((List.range 32768).map fun w =>
    (a + w, (List.range 8).flatMap fun k => le 4 (Config.openWord base (9 * w + k + 1)).toNat)) s

/-- HONE_TESTS_DONE: the core becomes Spare, or Retired with the failed test, 1 to 6. The tests run in the order of their table
and end with the first that fails; the array test is the fourth and the store test the fifth. The converter test writes no trim
word: only CAL_SELF does (R138). -/
def honeTests (st core failed : Nat) (s : State) : State :=
  let c := st * 640 + core
  if coreState s c ≠ 3 then s else
  let s := if failed = 0 ∨ 4 ≤ failed then testArrays st core s else s
  let s := if failed = 0 ∨ 5 ≤ failed then testStore st core s else s
  let s := { s with integ := { s.integ with failedTest := tset 0 s.integ.failedTest c failed } }
  postHoneDone st core failed (if failed = 0 then 1 else 3) (setCore c (if failed = 0 then 4 else 5) s)

/-- HONE_TESTS_DONE. -/
def execHoneTestsDone (st core failedTest : Nat) (s : State) : Result := .next (honeTests st core failedTest s)

end Sys2Proof.Machine
end

