-- ==== Sys2Proof/Machine/Integrity.lean ====
section
/-!
DEFINITION. The commands of integrity (R412, R415, R418, R422), the end of step replays (R406 to R409), fatal faults (R420,
R421) and the diagnostic snapshot (R465).
-/

namespace Sys2Proof.Machine

/-! ### The policy (R422) -/

/-- Partner `i` of the command's policy. -/
def partnerOf (c : Cmd) (i : Nat) : Nat := c.at (44 + 2 * i) 2

/-- INTEGRITY_POLICY_SET's checks. -/
def policyChecks (c : Cmd) (s : State) : List Check :=
  pfOnly c :: headChecks c .none .none 1 ++
  [badField 40 (decide (3 < c.at 40 1)), badField 41 (decide (4 < c.at 41 1)), inlineZero c 42 2] ++
  (List.range 4).map (fun i => badField (44 + 2 * i) (decide (1024 ≤ partnerOf c i) ||
    (decide (i < c.at 41 1) && (entryIn s.net.map (partnerOf c i)).isNone))) ++ [inlineZero c 56 8]

/-- INTEGRITY_POLICY_SET. -/
def policySet (c : Cmd) (s : State) : Ran :=
  .ok { s with integ := { s.integ with
    local_ := bit (c.at 40 1) 0, autoHone := bit (c.at 40 1) 1, partners := (List.range (c.at 41 1)).map (partnerOf c)
    wait := if c.at 52 4 = 0 then 256 else c.at 52 4 } } 0

/-- INTEGRITY_POLICY_SET. -/
def execIntegrityPolicySet (c : CmdIn) (s : State) : Result := .next (runCommand 0x0801 policyChecks policySet c s)

/-! ### Honing (R412, R415) -/

/-- The physical core that a HONE_REQUEST is about. -/
def honeCore (c : Cmd) (s : State) : Nat := physCore s (c.at 40 1) (c.at 42 2)

/-- The spare a HONE_REQUEST names. -/
def honeNamed (c : Cmd) : Option Nat := if c.at 46 2 = 0xFFFF then none else some (c.at 46 2)

/-- HONE_REQUEST's checks. A Retired core takes part in no transition of the core honing states (DEDUCED, log 53). -/
def honeChecks (c : Cmd) (s : State) : List Check :=
  let st := c.at 40 1
  let l := c.at 42 2
  let act := c.at 44 1
  let core := honeCore c s
  let state := coreState s (st * 640 + core)
  let wants := act != 2 && namedByPlan s st l
  let named := honeNamed c
  pfOnly c :: headChecks c .none .none 1 ++
  [ badField 40 (decide (15 < st)), inlineZero c 41 1, badField 42 (decide (639 < l)), badField 44 (decide (2 < act) || (act == 2 && state != 1)),
    inlineZero c 45 1, badField 46 (named.any fun p => decide (639 < p)), inlineZero c 48 16,
    exhausted (wants && named.isNone && (chooseSpare s st core none []).isNone), uncalibrated !calibrated s st,
    conflict (act != 2 && (state == 2 || state == 3 || state == 5)), conflict (wants && named.any fun p => !eligible s st core p) ]

/-- Clear a core's mark: at once where no running partition holds its stack, else at the next boundary. -/
def clearMark (c : Cmd) (core : Nat) (s : State) : Ran :=
  if idleStack s (core / 640) then
    .ok (setCore core 0 (unmark core s)) 0xFFFF
  else .later { s with integ := { s.integ with clearing := s.integ.clearing ++ [(c.tag, core)] } }

/-- HONE_REQUEST. A mark is cleared at once where no partition runs on the stack (DESIGN CHOICE, log 76). -/
def honeRequest (c : Cmd) (s : State) : Ran :=
  let st := c.at 40 1
  let core := st * 640 + honeCore c s
  if c.at 44 1 = 2 then clearMark c core s else
  match startHone (some c.tag) st (c.at 42 2) (c.at 44 1 == 1) (honeNamed c) s with
  | .noSpare => .err ⟨9, 0, 0⟩ s
  | .preparing s _ => .later s
  | .reached s => .ok { s with integ := { s.integ with intense := tset false s.integ.intense core false } } 0xFFFF

/-- HONE_REQUEST. -/
def execHoneRequest (c : CmdIn) (s : State) : Result := .next (runCommand 0x0802 honeChecks honeRequest c s)

/-- HONE_STATUS's checks. -/
def honeStatusChecks (c : Cmd) (_ : State) : List Check :=
  pfOnly c :: headChecks c .none .none 1 ++
  [badField 40 (decide (15 < c.at 40 1)), inlineZero c 41 1, badField 42 (decide (639 < c.at 42 2)), inlineZero c 44 20]

/-- HONE_STATUS's result; a logical core or spare where there is none is a free value (log 8). -/
def honeStatus (c : Cmd) (s : State) : Ran :=
  let st := c.at 40 1
  let p := c.at 42 2
  let core := st * 640 + p
  let h := s.integ.hones.find? fun h => h.st == st && h.core == p
  let (served, s) := match servedCore s st p with
    | some l => (l, s)
    | none => freeBits 10 s
  let (spare, s) := match h with
    | some h => (h.spare, s)
    | none => freeBits 10 s
  .ok s (coreState s core + 2 ^ 4 * served + 2 ^ 14 * spare + 2 ^ 24 * satBits 8 (tget 0 s.integ.failedTest core) +
    2 ^ 32 * satBits 32 ((h.map (·.done)).getD 0))

/-- HONE_STATUS. -/
def execHoneStatus (c : CmdIn) (s : State) : Result := .next (runCommand 0x0803 honeStatusChecks honeStatus c s)

/-- INTEGRITY_STATS's checks. -/
def integrityStatsChecks (c : Cmd) (_ : State) : List Check :=
  pfOnly c :: headChecks c .none .none 1 ++ [badField 40 (decide (15 < c.at 40 1)), inlineZero c 41 23]

/-- INTEGRITY_STATS. -/
def integrityStats (c : Cmd) (s : State) : Ran :=
  let n := fun (t : Tab Nat) => satBits 16 (tget 0 t (c.at 40 1))
  .ok s (n s.integ.readReplays + 2 ^ 16 * n s.integ.noise + 2 ^ 32 * n s.integ.suspects + 2 ^ 48 * n s.integ.replaced)

/-- INTEGRITY_STATS. -/
def execIntegrityStats (c : CmdIn) (s : State) : Result := .next (runCommand 0x0804 integrityStatsChecks integrityStats c s)

/-- BB_RELEASE: the black box records again. BB_DROPPED keeps its count (log 54). In Hold, R475's gate has refused the
command. -/
def bbRelease (_ : Cmd) (s : State) : Ran := .ok { s with ev := { s.ev with frozen := false, cause := 0 } } s.ev.dropped

/-- BB_RELEASE. -/
def execBbRelease (c : CmdIn) (s : State) : Result := .next (runCommand 0x0805 plainChecks bbRelease c s)

/-! ### Step replays (R406 to R409) -/

/-- Whether two decision records agree in `ENTRIES`, `ACCEPT`, `GEN`, `TOKENS`, `STOP_TOKEN` and `MAX_NEW` (R406). -/
def agrees (a b : Bytes) : Bool :=
  let x := readDecision a
  let y := readDecision b
  !a.isEmpty && x.entries == y.entries && x.accept == y.accept && x.gen == y.gen && x.tokens == y.tokens &&
    bits x.flags 2 1 == bits y.flags 2 1

/-- Post REPLAY_RESOLVED: slot, session, the host's partition or module. -/
def postResolved (r : Replay) (same : Bool) (s : State) : State :=
  let host := match r.partner with
    | some m => m
    | none => ((r.host.map (·.1)).getD 0) % 16
  postPlan r.part 0x0806 (if same then 1 else 2) (le 2 r.slot ++ le 4 r.step.sid ++ le 4 host) s

/-- A replay that did not agree, or was not tested: its result replaces the original, and the implicated cores are marked
(R407). -/
def replaceStep (n : Nat) (r : Replay) (out : Bytes × Tab Bytes) (s : State) : State :=
  let home := match partAt s r.part with
    | some p => homeOf p r.slot
    | none => 0
  let s := setReplay n { r with state := 3, result := out.1, own := out.2 } s
  let s := { s with integ := { s.integ with replaced := tset 0 s.integ.replaced home (tget 0 s.integ.replaced home + 1) } }
  r.cores.foldl (fun s c => markSuspect c 3 s) s

/-- A replay is resolved with its result: it agrees, or its result replaces the original. -/
def resolveReplayStep (n : Nat) (r : Replay) (out : Bytes × Tab Bytes) (s : State) : State :=
  let s := { s with net := { s.net with inbox := s.net.inbox.filter fun x => !(r.partner.any fun m => isPart m 5 3 n x) } }
  let same := !r.noTest && ((r.step.job == 2 && !r.decision.isEmpty) || agrees r.decision out.1)
  let s := if same then setReplay n { r with state := 2 } s else replaceStep n r out s
  postResolved r same s

/-- REPLAY_RESULT: the replay is placed again when a tile failed in it, is returned to the partner that asked for it, and
is resolved otherwise. -/
def replayResult (n : Nat) (tileOk : Bool) (s : State) : State :=
  match replayAt s n with
  | none => s
  | some r =>
    if r.state ≠ 1 then s else
    if !tileOk then setReplay n { r with state := 0, host := none, partner := none, result := [], own := [], updates := [] } s else
    match replayOutcome n r s, r.origin with
    | none, _ => s
    | some out, some (src, num, _) => returnResult n src num out s
    | some out, none => resolveReplayStep n r out s

/-- REPLAY_RESULT. -/
def execReplayResult (replay : Nat) (tileOk : Bool) (s : State) : Result := .next (replayResult replay tileOk s)

/-- REPLAY_WAIT_EXPIRY: after REPLAY_WAIT turns without placement the suspect step is discarded (R409). -/
def replayExpiry (n : Nat) (s : State) : State :=
  match replayAt s n with
  | none => s
  | some r =>
    let turn := s.spin.count / 8192
    if r.state ≠ 0 ∨ r.origin.isSome ∨ turn < r.turn + s.integ.wait then s else
    let s := { s with serve := { s.serve with replays := tset none s.serve.replays n none } }
    postPlan r.part 0x0807 2 (le 4 1 ++ le 4 (turn - r.turn) ++ le 1 1) (discardTail r.step s)

/-- REPLAY_WAIT_EXPIRY. -/
def execReplayWaitExpiry (replay : Nat) (s : State) : Result := .next (replayExpiry replay s)

/-! ### Fatal faults (R420, R421) -/

/-- Freeze the black box for a cause (R418). -/
def freezeBox (code : Nat) (s : State) : State :=
  { s with ev := { s.ev with frozen := true, cause := code, freezeCount := s.spin.count } }

/-- Every running pass is abandoned and every plan is Halted. -/
def haltAll (s : State) : State :=
  (plansOf s).foldl (fun s x =>
    if x.2.state = 1 ∨ x.2.state = 2 then abandonPlan x.1 (fun _ => 0) s else if x.2.state = 0 then haltPlan x.1 (x.2.d.parts.map (·.part)) s else s) s

/-- Every withheld step and pending replay is discarded. -/
def dropReplays (s : State) : State :=
  let rs := tvals s.serve.replays
  rs.foldl (fun s x => discardTail x.2.step s) (sweepServed { s with serve := { s.serve with replays := [] } })

/-- Content keys, the binding key, tenants' and partners' keys, cold keys, the module-memory key, SPDM and IDE keys are
zeroized (R421, R451). -/
def zeroize (s : State) : State :=
  { s with
    model := { s.model with bindKey := none, manifests := s.model.manifests.map fun m => { m with key := [] } }
    trust := { s.trust with tenants := [], memKey := zeros 64, spdm := [], ide := [] }
    host := { s.host with outqs := s.host.outqs.map fun (k, o) => (k, o.map fun q => { q with key := [] }) }
    serve := { s.serve with quotas := s.serve.quotas.map fun (k, o) => (k, o.map fun q => { q with coldKey := [] }) } }

/-- Every Dritar port goes into electrical idle: it is Disabled, and its partner's keys go. -/
def idlePorts (s : State) : State := { s with net := { s.net with conns := [], enables := [] } }

/-- A fatal fault, in the order of R421. No circuit of the module runs while it is without power or tripped (R512). -/
def fatalFault (code loc : Nat) (s : State) : State :=
  if code < 1 ∨ 5 < code ∨ s.phys.state = 4 ∨ !s.phys.pwrGood then s else
  let s := freezeBox code (postEvent 1 0 0x080B 4 (le 2 code ++ le 4 loc) s)
  let s := idlePorts (zeroize (dropReplays (settleHalts s (haltAll s))))
  { s with phys := { s.phys with state := 4, fatal := code } }

/-- FATAL_FAULT. -/
def execFatalFault (code loc : Nat) (s : State) : Result := .next (fatalFault code loc s)

/-! ### The diagnostic snapshot (R465) -/

/-- A 16-byte entry of the queue table. -/
def queueEntry (head tail : Nat) (faulted : Bool) (owner cq : Nat) : Bytes :=
  le 4 head ++ le 4 tail ++ le 1 (if faulted then 2 else 1) ++ le 1 owner ++ le 2 cq ++ zeros 4

/-- The queue table: submission, completion, event and output queues. -/
def queueTable (s : State) : Bytes :=
  let row := fun (o : Option Bytes) => o.getD (zeros 16)
  let h := s.host
  (List.range 64).flatMap (fun q => row ((tget none h.sqs q).map fun x => queueEntry x.head x.tail x.faulted x.owner x.cq)) ++
  (List.range 64).flatMap (fun q => row ((tget none h.cqs q).map fun x => queueEntry x.head x.tail x.faulted x.owner 0)) ++
  (List.range 8).flatMap (fun q => row ((tget none h.evqs q).map fun x => queueEntry x.head x.tail x.faulted 0 0)) ++
  (List.range 64).flatMap (fun q => row ((tget none h.outqs q).map fun x => queueEntry x.head x.tail false x.owner 0))

/-- DIAG_SNAPSHOT: the diagnostic regions are rewritten. -/
def diagSnapshot (_ : Cmd) (s : State) : Ran :=
  let n := s.ev.snapSeq + 1
  .ok { s with ev := { s.ev with
    snapSeq := n, snapCount := s.spin.count, snapSources := s.ev.seqs, snapQueues := queueTable s } } n

/-- DIAG_SNAPSHOT. -/
def execDiagSnapshot (c : CmdIn) (s : State) : Result := .next (runCommand 0x0B01 plainChecks diagSnapshot c s)

end Sys2Proof.Machine
end

