-- ==== Sys2Proof/Machine/Queues.lean ====
section
/-!
DEFINITION. Fetching commands (R468, R469, R491), queues and their commands (R466, R467, R471 to R473), and failed host
memory accesses (R470).
-/

namespace Sys2Proof.Machine

/-! ### Fetching -/

/-- Entries of a completion queue that fetched commands and waiting completions hold (R468, R456). -/
def cqHeld (s : State) (cq : Nat) : Nat :=
  ((tvals s.host.fetched).filter fun x => x.2.cq == cq && !x.2.lost).length + (s.host.waitCpl.filter fun x => x.1 == cq).length

/-- Whether a completion queue has a free entry that no fetched command holds. -/
def cqRoom (s : State) (cq : Nat) : Bool :=
  match tget none s.host.cqs cq with
  | none => false
  | some c => !c.faulted && decide (cqHeld s cq < ringFree c.exp c.head c.tail)

/-- Whether the module may fetch from a submission queue (R460, R468 to R470, R421, R503). -/
def mayFetch (s : State) (q : Nat) : Bool :=
  match tget none s.host.sqs q with
  | none => false
  | some r => !r.faulted && r.head != r.tail && cqRoom s r.cq && (q != 0 || s.bar.enable) && (q == 0 || s.phys.state != 4)

/-- The queue that fetching visits next: queue 0 between every two others, the others in rounds in ascending order
(R469). -/
def nextQueue (s : State) : Option Nat :=
  if s.host.zeroNext && mayFetch s 0 then some 0 else
  let l := s.host.lastSq
  match (span (l + 1) (63 - l) ++ span 1 l).find? (mayFetch s) with
  | some q => some q
  | none => if mayFetch s 0 then some 0 else none

/-- Whether the module fetches at all. -/
def fetching (s : State) : Bool :=
  s.phys.link && !s.phys.perst && !s.phys.resetDue && s.phys.pwrGood && decide ((tvals s.host.fetched).length < 4096)

/-- COMMAND_FETCH: the packet at the head of the queue whose turn it is. -/
def commandFetch (q : Nat) (raw : Bytes) (s : State) : State :=
  if !fetching s || nextQueue s != some q || raw.length != 64 then s else
  match tget none s.host.sqs q with
  | none => s
  | some r =>
    let h := ringNext r.exp r.head
    let f : Fetched := { sq := q, cq := r.cq, fn := r.owner, raw := raw, head := h, begun := false, lost := false }
    { s with host := { s.host with
        sqs := tset none s.host.sqs q (some { r with head := h })
        fetched := tset none s.host.fetched s.host.nextTag (some f)
        nextTag := s.host.nextTag + 1
        lastSq := if q = 0 then s.host.lastSq else q
        zeroNext := q != 0 } }

/-- COMMAND_FETCH. -/
def execCommandFetch (sq : Nat) (raw : Bytes) (s : State) : Result := .next (commandFetch sq raw s)

/-- UNKNOWN_OPCODE: a command whose opcode is in no table fails its fourth check, or an earlier one (R475, R491). -/
def unknownOpcode (c : CmdIn) (s : State) : State :=
  match tget none s.host.fetched c.tag with
  | none => s
  | some f =>
    if f.begun || opcodes.contains (opcodeOf f.raw) || !mayBegin s c.tag f then s else
    match gate f c (markBegun c.tag f s) with
    | (s, some e) => if e.status = 3 then complete c.tag 3 0 0 s else complete c.tag e.status e.sub e.result s
    | (s, none) => complete c.tag 3 0 0 s

/-- UNKNOWN_OPCODE. -/
def execUnknownOpcode (c : CmdIn) (s : State) : Result := .next (unknownOpcode c s)

/-! ### Creating queues (R472) -/

/-- Whether a function may own a queue: the physical function, or a bound virtual function. -/
def mayOwn (s : State) (fn : Nat) : Bool := fn == 0 || tget 0 s.trust.binds fn != 0

/-- The check of a ring's exponent. -/
def expCheck (c : Cmd) : Check := badField 42 (decide (c.at 42 1 < 4) || decide (16 < c.at 42 1))

/-- The check of a ring's length, with entries of `size` bytes. -/
def ringLength (c : Cmd) (size : Nat) : Check := badLength 32 (decide (c.at 42 1 ≤ 16) && c.dataLen != size * 2 ^ c.at 42 1)

/-- CQ_CREATE's checks. -/
def cqCreateChecks (c : Cmd) (s : State) : List Check :=
  let q := c.at 40 1
  pfOnly c :: headChecks c .none .some 4096 ++
  [ badField 40 (q == 0 || decide (63 < q)), badField 41 (decide (31 < c.at 41 1)), expCheck c, inlineZero c 43 21,
    ringLength c 32, conflict ((tget none s.host.cqs q).isSome || !mayOwn s (c.at 41 1)) ]

/-- CQ_CREATE: the ring is empty and its phase 1 (R467). -/
def cqCreate (c : Cmd) (s : State) : Ran :=
  let r : Cq := { base := c.dataPtr, exp := c.at 42 1, owner := c.at 41 1, head := 0, tail := 0, phase := true, faulted := false }
  .ok { s with host := { s.host with cqs := tset none s.host.cqs (c.at 40 1) (some r) } } 0

/-- CQ_CREATE. -/
def execCqCreate (c : CmdIn) (s : State) : Result := .next (runCommand 0x0101 cqCreateChecks cqCreate c s)

/-- SQ_CREATE's checks. -/
def sqCreateChecks (c : Cmd) (s : State) : List Check :=
  let q := c.at 40 1
  let cq := c.at 43 1
  pfOnly c :: headChecks c .none .some 4096 ++
  [ badField 40 (q == 0 || decide (63 < q)), badField 41 (decide (31 < c.at 41 1)), expCheck c,
    badField 43 (cq == 0 || decide (63 < cq)), inlineZero c 44 20, ringLength c 64,
    conflict ((tget none s.host.sqs q).isSome || s.host.deleting.any (fun x => x.2.1 == q) || !mayOwn s (c.at 41 1)),
    conflict !(tget none s.host.cqs cq).any fun x => x.owner == c.at 41 1 ]

/-- SQ_CREATE. -/
def sqCreate (c : Cmd) (s : State) : Ran :=
  let r : Sq :=
    { base := c.dataPtr, exp := c.at 42 1, owner := c.at 41 1, cq := c.at 43 1, head := 0, tail := 0, faulted := false }
  .ok { s with host := { s.host with sqs := tset none s.host.sqs (c.at 40 1) (some r) } } 0

/-- SQ_CREATE. -/
def execSqCreate (c : CmdIn) (s : State) : Result := .next (runCommand 0x0102 sqCreateChecks sqCreate c s)

/-- Source classes that exist, 1 to 13 (R487). -/
def classMask : Nat := 0x3FFE

/-- EVQ_CREATE's checks: a class is claimed by at most one queue (R489). -/
def evqCreateChecks (c : Cmd) (s : State) : List Check :=
  let q := c.at 40 1
  let m := c.at 48 8
  pfOnly c :: headChecks c .none .some 4096 ++
  [ badField 40 (decide (7 < q)), inlineZero c 41 1, expCheck c, inlineZero c 43 5,
    badField 48 ((m ||| classMask) != classMask), inlineZero c 56 8, ringLength c 32,
    conflict ((tget none s.host.evqs q).isSome || (tvals s.host.evqs).any fun x => (x.2.mask &&& m) != 0) ]

/-- EVQ_CREATE. -/
def evqCreate (c : Cmd) (s : State) : Ran :=
  let r : Evq :=
    { base := c.dataPtr, exp := c.at 42 1, mask := c.at 48 8, head := 0, tail := 0, phase := true, faulted := false }
  .ok { s with host := { s.host with evqs := tset none s.host.evqs (c.at 40 1) (some r) } } (c.at 48 8)

/-- EVQ_CREATE. -/
def execEvqCreate (c : CmdIn) (s : State) : Result := .next (runCommand 0x0103 evqCreateChecks evqCreate c s)

/-! ### QUEUE_DELETE (R471) -/

/-- Whether a completion queue is still used: by a submission queue, or by completions that are due to it. -/
def cqUsed (s : State) (q : Nat) : Bool :=
  (tvals s.host.sqs).any (fun x => x.2.cq == q) || (tvals s.host.fetched).any (fun x => x.2.cq == q && !x.2.lost) ||
    s.host.waitCpl.any fun x => x.1 == q

/-- QUEUE_DELETE's checks. -/
def queueDeleteChecks (c : Cmd) (s : State) : List Check :=
  let kind := c.at 40 1
  let q := c.at 41 1
  pfOnly c :: headChecks c .none .none 1 ++
  [ badField 40 (decide (2 < kind)), badField 41 (decide ((if kind = 2 then 7 else 63) < q)), inlineZero c 42 22,
    conflict (if kind = 0 then q == 0 || (tget none s.host.sqs q).isNone
      else if kind = 1 then q == 0 || (tget none s.host.cqs q).isNone || cqUsed s q
      else (tget none s.host.evqs q).isNone) ]

/-- A queue's doorbell value that was not consumed goes with it. -/
def dropBell (kind q : Nat) (s : State) : State :=
  { s with host := { s.host with bells := tset none s.host.bells (kind * 64 + q) none } }

/-- QUEUE_DELETE: a submission queue's unfetched entries are discarded, and the command completes after every fetched
command of it. -/
def queueDelete (c : Cmd) (s : State) : Ran :=
  let q := c.at 41 1
  if c.at 40 1 = 1 then .ok (dropBell 1 q { s with host := { s.host with cqs := tset none s.host.cqs q none } }) 0
  else if c.at 40 1 = 2 then .ok (dropBell 2 q { s with host := { s.host with evqs := tset none s.host.evqs q none } }) 0
  else
    let n := match tget none s.host.sqs q with
      | none => 0
      | some r => (r.tail + 2 ^ r.exp - r.head) % 2 ^ r.exp
    let s := dropBell 0 q { s with host := { s.host with sqs := tset none s.host.sqs q none } }
    if sqBusy s q then .later { s with host := { s.host with deleting := s.host.deleting ++ [(c.tag, q, n)] } } else .ok s n

/-- QUEUE_DELETE. -/
def execQueueDelete (c : CmdIn) (s : State) : Result := .next (runCommand 0x0104 queueDeleteChecks queueDelete c s)

/-! ### IDENTIFY (R473) -/

/-- The identify page. -/
def identifyPage (s : State) : Bytes :=
  padTo 4096 (le 4 0x4449394B ++ le 1 Config.part ++ le 1 Config.stepping.toNat ++ le 2 1 ++ le 4 ((s.phys.fw.map (·.version)).getD 0) ++
    le 1 (runningSvn s) ++ le 1 (fusedSvn s) ++ zeros 2 ++ identityBytes ++ le 8 moduleSize ++ le 8 (16 * packageSize) ++
    le 1 s.phys.rate ++ le 1 s.phys.width ++ le 1 s.spin.power ++ le 1 s.spin.state ++ le 4 s.cal.epoch ++
    le 4 (63 - ((tkeys s.host.sqs).filter (· != 0)).length))

/-- IDENTIFY's checks. -/
def identifyChecks (c : Cmd) (_ : State) : List Check :=
  pfOnly c :: headChecks c .none .some 64 ++ [inlineZero c 40 24, badLength 32 (decide (c.dataLen < 4096))]

/-- IDENTIFY. -/
def identify (c : Cmd) (s : State) : Ran := .ok (writeData c (identifyPage s) s) 0

/-- IDENTIFY. -/
def execIdentify (c : CmdIn) (s : State) : Result := .next (runCommand 0x0105 identifyChecks identify c s)

/-! ### Failed accesses (R470) -/

/-- Report a faulted queue: kind, queue, owner, address. -/
def postFault (kind q owner addr : Nat) (s : State) : State :=
  setHostFlag flagFault (postEvent 1 0 0x0101 3 (le 1 kind ++ le 4 q ++ le 4 owner ++ le 8 addr) s)

/-- A fault of an admin ring shows in AQ_CAUSE (R459). -/
def adminFault (q : Nat) (s : State) : State :=
  if q = 0 then { s with bar := { s.bar with error := true, cause := 3 } } else s

/-- A failed access to a ring makes its queue faulted. -/
def ringFault (kind q addr : Nat) (s : State) : State :=
  if kind = 0 then
    match tget none s.host.sqs q with
    | none => s
    | some r => if r.faulted then s else
      postFault 0 q r.owner addr (adminFault q { s with host := { s.host with
        sqs := tset none s.host.sqs q (some { r with faulted := true }) } })
  else if kind = 1 then
    match tget none s.host.cqs q with
    | none => s
    | some r => if r.faulted then s else
      postFault 1 q r.owner addr (adminFault q { s with host := { s.host with
        cqs := tset none s.host.cqs q (some { r with faulted := true }) } })
  else
    match tget none s.host.evqs q with
    | none => s
    | some r => if r.faulted then s else
      postFault 2 q 0 addr { s with host := { s.host with evqs := tset none s.host.evqs q (some { r with faulted := true }) } }

/-- The first check of R475 that a command fails before the module reads its block or data; the tag, which covers them, is not
among these (log 74). -/
def headFail (f : Fetched) (s : State) : Option Fail :=
  let op := opcodeOf f.raw
  let t := fld f.raw 8 2
  let own := tget 0 s.trust.binds f.fn
  firstFail ([ (decide (s.phys.state < 3), ⟨1, 1, 0⟩), conflict (s.phys.state == 4 && op != 0x0106),
    unauthorised 4 (f.fn != 0 && (own == 0 || own != t)), unauthorised 3 (f.fn != 0 && (tenantOf s t).isNone),
    badField 3 (fld f.raw 3 1 != 1) ] ++ (queueFail f).toList.map (fun e => (true, e)) ++
    [ (!opcodes.contains op, ⟨3, 0, 0⟩), unauthorised 6 (f.fn != 0 && pfCommand op) ] ++ headChecks ⟨0, f, [], [], false⟩ .any .any 1)

/-- A failed access for a command's parameters or data: it is ABORTED, unless it fails a check that comes first, and an install
whose chunks are not all read fails at that point (R259, R470). -/
def commandFault (tag : Nat) (s : State) : State :=
  match tget none s.host.fetched tag with
  | none => s
  | some f =>
    match installAt s tag with
    | some x => if x.copied || x.read.isSome then s else failInstall x ⟨0xA, 2, 0⟩ s
    | none =>
      if f.begun || !mayBegin s tag f || (fld f.raw 12 4 == 0 && fld f.raw 32 8 == 0) then s else
      let e := (headFail f s).getD ⟨0xA, 2, 0⟩
      complete tag e.status e.sub e.result s

/-- Whether an address lies in the last record of an output queue, which begins at `start`. -/
def inRecord (q : Outq) (start addr : Nat) : Bool :=
  decide (q.base + start ≤ addr) && decide (addr < q.base + (if q.tail ≤ start then q.size else q.tail))

/-- The writes of a list without the last two to the addresses that `p` names: a record's header and its body. -/
def dropLastTwo (p : HostWrite → Bool) (l : List HostWrite) : List HostWrite :=
  let n := (l.filter p).length
  (l.foldl (fun (acc : List HostWrite × Nat) w =>
    if p w then (if n ≤ acc.2 + 2 then (acc.1, acc.2 + 1) else (acc.1 ++ [w], acc.2 + 1)) else (acc.1 ++ [w], acc.2)) ([], 0)).1

/-- A failed write of a queue's last record discards the record: its writes and its place in the ring; the nonce it used is not
used again (R470, DESIGN CHOICE, log 73). -/
def recordFault (k addr : Nat) (s : State) : State :=
  match tget none s.host.outqs k with
  | none => s
  | some q =>
    let start := ((q.head :: q.marks).dropLast.getLast?).getD q.head
    if q.marks.isEmpty || !inRecord q start addr then s else
    let mine := fun (w : HostWrite) => w.fn == q.owner && inRecord q start w.addr
    let q' := { q with tail := start, marks := q.marks.dropLast, phase := if q.tail ≤ start then !q.phase else q.phase }
    postFault 3 k q.owner addr { s with
      out := { s.out with host := if s.host.waitOut.any mine then s.out.host else dropLastTwo mine s.out.host }
      host := { s.host with outqs := tset none s.host.outqs k (some q'), waitOut := dropLastTwo mine s.host.waitOut } }

/-- HOST_ACCESS_FAULT. -/
def accessFault (x : AccessFault) (s : State) : State :=
  match x with
  | .ring kind q addr => ringFault kind q addr s
  | .record q addr => recordFault q addr s
  | .command tag => commandFault tag s

/-- HOST_ACCESS_FAULT. -/
def execHostAccessFault (f : AccessFault) (s : State) : Result := .next (accessFault f s)

end Sys2Proof.Machine
end

