-- ==== Sys2Proof/Machine/Boot.lean ====
section
/-!
DEFINITION. Power, pins, resets, boot (R426, R429, R461, R495 to R506, R510 to R512) and configuration requests (R496).
-/

namespace Sys2Proof.Machine

/-! ### What a reset keeps (R502) -/

/-- Decks with a complete directory entry stay written: they are Persisted, every other deck is Free (R252). -/
def keptDir (t : Tab (Option DirEntry)) : Tab (Option DirEntry) := t.filter fun x => x.2.any (·.complete)

/-- What a cold and a warm reset both keep: fuses, deck contents, deck directories, and the write counters of R250. The
commands that wait, what has left the module and the counter of free values are the model's own. -/
def coldReset (s : State) : State :=
  let dir := keptDir s.model.dir
  { State.reset with
    pending := s.pending
    out := s.out
    free := s.free + 1
    phys := { Phys.reset with svnFuses := s.phys.svnFuses }
    arr := { Arr.reset with cells := s.arr.cells }
    model := { Model.reset with dir := dir, decks := dir.map fun x => (x.1, 3), counters := s.model.counters }
    trust := Trust.resetWith (Config.entropy s.free) }

/-- A warm reset keeps the black box and the diagnostic regions too; records are numbered from 0 again (R488). -/
def warmReset (s : State) : State := { coldReset s with ev := { s.ev with seqs := [], turnMarks := [] } }

/-- The mask ROM starts: it reconstructs the PUF root, or reports the failure (R426, R495). -/
def startRom (pufOk : Bool) (s : State) : State :=
  { s with phys := { s.phys with pufFailed := !pufOk, bootError := if pufOk then 0 else 1 } }

/-! ### Power and pins (R510 to R512) -/

/-- POWER_APPLY: the input rises with PERST# asserted, and PWR_GOOD rises. While the trip latch holds, the module stays
off. -/
def powerApply (s : State) : State :=
  if s.phys.powered || s.phys.trip then s else
  { s with phys := { s.phys with powered := true, pwrGood := true, perst := true, coldNext := true, link := false } }

/-- POWER_APPLY. -/
def execPowerApply (s : State) : Result := .next (powerApply s)

/-- RESET_RELEASE: PERST# is deasserted after power is good, a cold bring-up after power has come, else a warm one. -/
def resetRelease (pufOk : Bool) (s : State) : State :=
  if !s.phys.pwrGood || !s.phys.perst then s else
  startRom pufOk (if s.phys.coldNext then coldReset s else
    { s with phys := { s.phys with perst := false, link := true } })

/-- RESET_RELEASE. -/
def execResetRelease (pufOk : Bool) (s : State) : Result := .next (resetRelease pufOk s)

/-- PERST_ASSERT: a warm reset begins, and lasts until PERST# is released; asserted again, or while the module is off, it
changes nothing (R501, R506, R512). -/
def perstAssert (s : State) : State :=
  if !s.phys.pwrGood || s.phys.perst then s else
  let t := warmReset s
  { t with phys := { t.phys with perst := true, link := false } }

/-- PERST_ASSERT. -/
def execPerstAssert (s : State) : Result := .next (perstAssert s)

/-- Whether the module runs on power with PERST# released. -/
def alive (s : State) : Bool := s.phys.pwrGood && !s.phys.perst

/-- D3HOT_TO_D0: a warm reset, released at once (R495, R501). -/
def d3hotToD0 (pufOk : Bool) (s : State) : State :=
  if !alive s || !s.phys.link then s else startRom pufOk (warmReset s)

/-- D3HOT_TO_D0. -/
def execD3hotToD0 (pufOk : Bool) (s : State) : Result := .next (d3hotToD0 pufOk s)

/-- WARM_RESET_BEGIN: the internal reset after MODULE_RESET keeps the link (R501, R503). -/
def warmResetBegin (pufOk : Bool) (s : State) : State :=
  if !s.phys.resetDue then s else
  let t := startRom pufOk (warmReset s)
  { t with phys := { t.phys with link := s.phys.link, rate := s.phys.rate, width := s.phys.width } }

/-- WARM_RESET_BEGIN. -/
def execWarmResetBegin (pufOk : Bool) (s : State) : Result := .next (warmResetBegin pufOk s)

/-- ANALOGUE_TRIP: every rail goes off, PWR_GOOD falls, TRIP# latches with the first cause; volatile state is lost
(R511, R512). -/
def analogueTrip (cause : Nat) (s : State) : State :=
  if !s.phys.powered || s.phys.trip || 3 < cause then s else
  let t := coldReset s
  { t with phys := { t.phys with pwrGood := false, perst := true, link := false, trip := true, tripCause := cause, coldNext := true } }

/-- ANALOGUE_TRIP. -/
def execAnalogueTrip (cause : Nat) (s : State) : Result := .next (analogueTrip cause s)

/-- TRIP_LATCH_RELEASE: the input falls below 10 V; the latch opens, and the module is without power (R512). -/
def tripLatchRelease (s : State) : State :=
  if !s.phys.powered then s else
  let t := coldReset s
  { t with phys := { t.phys with powered := false, pwrGood := false, perst := true, link := false, trip := false, tripCause := 0, coldNext := true } }

/-- TRIP_LATCH_RELEASE. -/
def execTripLatchRelease (s : State) : Result := .next (tripLatchRelease s)

/-! ### Function-level reset (R505, R506) -/

/-- Whether a fetched command waits on its FENCE: a function-level reset discards it (R506). -/
def waitsOnFence (s : State) (tag : Nat) (f : Fetched) : Bool := !f.begun && fld f.raw 2 1 % 2 == 1 && !mayBegin s tag f

/-- The queues a function owns go: their doorbells, waiting completions and commands that wait on FENCE with
them; other fetched commands run on, and their completions are discarded. A QUEUE_DELETE that waited for them completes, and
with it a disabled admin pair may go out of use (R460). -/
def functionReset (fn : Nat) (s : State) : State :=
  if !offers fn .functionReset || !alive s then s else
  let sqs := ((tvals s.host.sqs).filter fun x => x.2.owner == fn).map (·.1)
  let cqs := ((tvals s.host.cqs).filter fun x => x.2.owner == fn).map (·.1)
  let outs := ((tvals s.host.outqs).filter fun x => x.2.owner == fn).map (·.1)
  let gone := (tvals s.host.fetched).filter fun x => x.2.fn == fn && waitsOnFence s x.1 x.2
  let h := s.host
  let lose := fun (o : Option Fetched) => o.map fun f => if f.fn = fn then { f with lost := true } else f
  finishAdmin <| finishDeletes { s with host := { h with
    sqs := h.sqs.filter fun x => !sqs.contains x.1
    cqs := h.cqs.filter fun x => !cqs.contains x.1
    outqs := h.outqs.filter fun x => !outs.contains x.1
    bells := h.bells.filter fun x => !(sqs.contains x.1 || (cqs.map (· + 64)).contains x.1 || (outs.map (· + 192)).contains x.1)
    fetched := (h.fetched.filter fun x => !(gone.map (·.1)).contains x.1).map fun x => (x.1, lose x.2)
    waitCpl := h.waitCpl.filter fun x => !cqs.contains x.1 } }

/-- FUNCTION_LEVEL_RESET. -/
def execFunctionLevelReset (fn : Nat) (s : State) : Result := .next (functionReset fn s)

/-! ### Boot (R429, R461, R496 to R498) -/

/-- MASK_ROM_READY: STATE and BOOT_STATE become 1 (R496). After a failed reconstruction no LOAD is accepted (log 55). -/
def maskRomReady (s : State) : State :=
  if !alive s || s.phys.state != 0 || s.phys.bootState != 0 then s else
  { s with phys := { s.phys with state := 1, bootState := 1 } }

/-- MASK_ROM_READY. -/
def execMaskRomReady (s : State) : Result := .next (maskRomReady s)

/-- CONFIG_REQUEST: answered once the mask ROM is ready, retried until then (R496). -/
def configRequest (fn : Nat) (s : State) : State :=
  if !alive s || !s.phys.link || !present fn then s else
  { s with out := { s.out with config := s.out.config ++ [(fn, s.phys.state != 0)] } }

/-- CONFIG_REQUEST. -/
def execConfigRequest (fn : Nat) (s : State) : Result := .next (configRequest fn s)

/-- A write to BOOT_CMD: LOAD in BOOT_STATE 1 starts a fetch; any other value, or another state, sets BOOT_ERROR 2
(R461). BOOT_ATTEMPTS counts writes of LOAD. -/
def bootLoad (value : BitVec 32) (s : State) : State :=
  if !alive s || !s.phys.link then s else
  let p := s.phys
  if value.toNat % 256 ≠ 1 then { s with phys := { p with bootError := if p.pufFailed then 1 else 2 } } else
  let p := { p with bootAttempts := min 65535 (p.bootAttempts + 1) }
  if p.pufFailed then { s with phys := { p with bootError := 1 } }
  else if p.bootState ≠ 1 then { s with phys := { p with bootError := 2 } }
  else { s with phys := { p with bootState := 2, bootError := 0, image := none } }

/-- LOAD. -/
def execLoad (value : BitVec 32) (s : State) : Result := .next (bootLoad value s)

/-- The image is discarded: BOOT_STATE returns to 1 with the failed check. -/
def bootFails (cause : Nat) (s : State) : State :=
  { s with phys := { s.phys with bootState := 1, bootError := cause, image := none } }

/-- BOOT_FETCH_DONE: the image is fetched and verifying begins, unless the length is out of range or an access failed. While the
link is down the fetch waits (R456). -/
def bootFetchDone (image : Bytes) (accessOk : Bool) (s : State) : State :=
  if s.phys.bootState ≠ 2 ∨ !alive s ∨ !s.phys.link then s else
  let n := s.phys.bootLength
  if n < 1025 ∨ 1024 + 67108864 < n then bootFails 3 s
  else if !accessOk then bootFails 4 s
  else { s with phys := { s.phys with bootState := 3, image := some (padTo n image) } }

/-- BOOT_FETCH_DONE. -/
def execBootFetchDone (image : Bytes) (accessOk : Bool) (s : State) : Result := .next (bootFetchDone image accessOk s)

/-- The fuse map (R427). What was programmed before the module left its maker is configuration; SVN_FUSES is state. -/
def fuseMap (s : State) : Bytes :=
  le 512 Config.pufHelper.toNat ++ le 12 Config.idNonce.toNat ++ le 968 Config.idWrapped.toNat ++ le 16 Config.idTag.toNat ++
    le 2 (Config.deviceCert.take 2000).length ++ padTo 2000 Config.deviceCert ++ zeros 74 ++
    b256 Config.rootHash ++ le 4 s.phys.svnFuses.toNat ++ zeros 476

/-- The first check of R429 and R461 that an image fails against the fuses, 0 for none. -/
def imageFault (fuses b : Bytes) : Nat :=
  let svn := ((List.range 32).filter (fld fuses 3616 4).testBit).length
  if b.length ≠ 1024 + fld b 12 4 then 3
  else if fld b 0 4 ≠ 0x5746394B ∨ fld b 4 2 ≠ 1 ∨ !zeroAt b 436 12 ∨ !zeroAt b 832 192 then 5
  else if sha256 (slice b 48 388) ≠ slice fuses 3584 32 then 6
  else if !verifies (slice b 48 388) (b.take 448) (slice b 448 384) then 7
  else if sha256 (b.drop 1024) ≠ slice b 16 32 then 8
  else if fld b 6 2 < svn then 9
  else 0

/-- BOOT_VERIFY_DONE: a passing image is handed to firmware. Hold ends at a reset only (R421). -/
def bootVerifyDone (s : State) : State :=
  if s.phys.bootState ≠ 3 ∨ !alive s then s else
  match s.phys.image with
  | none => s
  | some b =>
    let cause := imageFault (fuseMap s) b
    if cause ≠ 0 then bootFails cause s else
    let body := b.drop 1024
    let fw : Firmware :=
      ⟨fld b 8 4, fld b 6 2, sha256 (b.take 448), body.length, Config.rootCert body, Config.intermediateCert body⟩
    { s with phys := { s.phys with bootState := 4, state := if s.phys.state = 4 then 4 else 2, fw := some fw, image := none } }

/-- BOOT_VERIFY_DONE. -/
def execBootVerifyDone (s : State) : Result := .next (bootVerifyDone s)

/-- Monitor converters of a list run their default tables (R154). -/
def startMonitors (mons : List Nat) (s : State) : State := mons.foldl (fun s m => setMon m (defaultMon m) s) s

/-- FIRMWARE_RUNNING: training ends; after three failed attempts STATE stays 2 (R497, R498). -/
def firmwareRunning (trainOk : Bool) (s : State) : State :=
  if s.phys.state ≠ 2 ∨ s.phys.trainFailed ∨ !alive s then s else
  if trainOk then startMonitors (List.range 34) { s with phys := { s.phys with state := 3 } }
  else
    let n := s.phys.trainings + 1
    { s with phys := { s.phys with trainings := n, trainFailed := decide (3 ≤ n) } }

/-- FIRMWARE_RUNNING. -/
def execFirmwareRunning (trainOk : Bool) (s : State) : Result := .next (firmwareRunning trainOk s)

/-! ### MODULE_RESET (R503) -/

/-- MODULE_RESET: its completion is written, then nothing more is fetched. -/
def moduleReset (c : Cmd) (s : State) : Ran :=
  let s := complete c.tag 0 0 0 s
  .later { s with phys := { s.phys with resetDue := true } }

/-- MODULE_RESET. -/
def execModuleReset (c : CmdIn) (s : State) : Result := .next (runCommand 0x0106 plainChecks moduleReset c s)

/-! ### STACK_RESET (R502, R504) -/

/-- STACK_RESET's checks. -/
def stackResetChecks (c : Cmd) (s : State) : List Check :=
  let mask := c.at 40 2
  pfOnly c :: headChecks c .none .none 1 ++
  [ badField 40 (mask == 0), inlineZero c 42 22,
    conflict ((stacksOf mask).any fun st => stackPlanned s st || arraysBusy s st || s.conv.runs.any (fun r => r.mask.testBit st) ||
      s.host.stackResets.any fun r => r.2.testBit st) ]

/-- Entries of a table by physical engine that a stack does not own; `size` keys belong to one engine. -/
def offStack {α : Type} (st size : Nat) (t : Tab α) : Tab α := t.filter fun x => x.1 / size / 4096 != st

/-- The factor memory of a stack returns to its reset values with everything that derives it. The banks are kept, so its decks
stay bound with the sign masks that R250 gives them (DESIGN CHOICE, log 16). -/
def resetFactors (st : Nat) (c : Cal) : Cal :=
  { c with
    words := offStack st 4096 c.words, drifts := offStack st 4096 c.drifts, stamps := offStack st 1 c.stamps
    staged := offStack st 4096 c.staged, glides := offStack st 4096 c.glides, cands := offStack st 4096 c.cands
    failing := offStack st 4096 c.failing, windows := offStack st 4096 c.windows, drift := offStack st 32 c.drift
    leak := offStack st 32 c.leak, stats := offStack st 4096 c.stats, swaps := offStack st 1 c.swaps
    stagedSwaps := offStack st 1 c.stagedSwaps, refSel := c.refSel.filter fun x => x.1 / 640 != st
    stagedRefs := c.stagedRefs.filter fun x => x.1 / 640 != st, stagedMaps := c.stagedMaps.filter fun x => engineStack x.1 != st
    dropped := tset 0 c.dropped st 0, repairs := c.repairs.filter fun x => engineStack x.engine != st
    restores := tset none c.restores st none, forward := offStack st 32 c.forward }

/-- Substitutions, honing states and intensified checking of a stack return to their reset values; statistics since reset
begin anew. -/
def resetCores (st : Nat) (i : Integ) : Integ :=
  let off := fun (n : Nat) => n / 640 != st
  { i with
    subst := i.subst.filter fun x => off x.1
    cores := i.cores.filter fun x => off x.1
    marks := i.marks.filter fun x => off x.1
    intense := i.intense.filter fun x => off x.1
    failedTest := i.failedTest.filter fun x => off x.1
    sums := offStack st 256 i.sums, vars := offStack st 256 i.vars
    readReplays := tset 0 i.readReplays st 0, noise := tset 0 i.noise st 0
    suspects := tset 0 i.suspects st 0, replaced := tset 0 i.replaced st 0 }

/-- The converters of a stack: no trim, no spare, not calibrated; its two monitors are idle until its management cores run
again (R138, R154). -/
def resetConv (st : Nat) (c : Conv) : Conv :=
  let mine := fun (m : Nat) => m / 2 == st
  { c with
    trims := offStack st 132 c.trims, spare := offStack st 1 c.spare, valid := c.valid.filter (· != st)
    calCount := tset 0 c.calCount st 0
    mons := c.mons.filter fun x => !mine x.1
    holds := c.holds.filter fun x => !mine x.mon
    acts := c.acts.filter fun x => !mine x.mon, marked := c.marked.filter fun x => !mine x }

/-- Tables that wait on a monitor of a stack: their commands end. -/
def endTables (st : Nat) (s : State) : State :=
  [2 * st, 2 * st + 1].foldl (fun s m => match (monAt s m).next with
    | some (tag, _) => complete tag 0xA 0 0 s
    | none => s) s

/-- Mark clears that wait on a stack take effect: the core is Serving. -/
def endClears (st : Nat) (s : State) : State :=
  let mine := s.integ.clearing.filter fun x => x.2 / 640 == st
  mine.foldl (fun s x => complete x.1 0 0 0xFFFF s)
    { s with integ := { s.integ with clearing := s.integ.clearing.filter fun x => x.2 / 640 != st } }

/-- Reset the logic die of one stack. -/
def resetStack (s : State) (st : Nat) : State :=
  let s := clearStack st (endClears st (endTables st s))
  { s with
    arr := { s.arr with
      active := offStack st 1 s.arr.active, noDeck := offStack st 1 s.arr.noDeck
      refs := s.arr.refs.filter fun x => x.1 / 640 != st, refOn := s.arr.refOn.filter fun x => x.1 / 640 != st
      ordinal := offStack st 1 s.arr.ordinal }
    conv := resetConv st s.conv
    cal := resetFactors st s.cal
    integ := resetCores st s.integ
    plans := { s.plans with queues := tset [] s.plans.queues st [] } }

/-- STACK_RESET: the named stacks are reset; the command completes when their management cores run again. -/
def stackReset (c : Cmd) (s : State) : Ran :=
  let mask := c.at 40 2
  let s := (stacksOf mask).foldl resetStack s
  .later { s with host := { s.host with stackResets := s.host.stackResets ++ [(c.tag, mask)] } }

/-- STACK_RESET. -/
def execStackReset (c : CmdIn) (s : State) : Result := .next (runCommand 0x0107 stackResetChecks stackReset c s)

/-- STACK_RESET_DONE: the oldest STACK_RESET in progress completes with its mask; its stacks' monitors run their default
tables. -/
def stackResetDone (s : State) : State :=
  match s.host.stackResets with
  | [] => s
  | (tag, mask) :: rest =>
    let s := startMonitors ((stacksOf mask).flatMap fun st => [2 * st, 2 * st + 1]) { s with host := { s.host with stackResets := rest } }
    complete tag 0 0 mask s

/-- STACK_RESET_DONE. -/
def execStackResetDone (s : State) : Result := .next (stackResetDone s)

end Sys2Proof.Machine
end

