-- ==== Sys2Proof/Machine/Sessions.lean ====
section
/-!
DEFINITION. The commands of sessions and output queues (R310 to R312, R332, R336).
-/

namespace Sys2Proof.Machine

/-! ### Overload (R336, R337) -/

/-- Sessions that the admission queue holds at most. -/
def queueRoom : Nat := 4096

/-- Pending input tokens of one session at most. -/
def inputRoom : Nat := 65536

/-- Retry-after in turns (R336). -/
def retryAfter (s : State) : Nat :=
  let turn := s.spin.count / 8192
  let a := (s.serve.admits.filter fun t => decide (turn < t + 64)).length
  if a = 0 then 64 else min 65535 (max 1 (ceilDiv (64 * s.serve.queue.length) a))

/-- A refusal under R336 is counted for SESSION_OVERLOAD. -/
def refuseBusy (s : State) : Ran :=
  .err ⟨2, 0, retryAfter s⟩ { s with serve := { s.serve with refused := s.serve.refused + 1 } }

/-- The input tokens of a command's data. -/
def inputTokens (c : Cmd) : List Nat := (List.range (c.dataLen / 4)).map fun i => fld c.data (4 * i) 4

/-- Checks of a data buffer of input tokens. -/
def tokenChecks (c : Cmd) : List Check :=
  badField 32 (decide (262144 < c.dataLen) || c.dataLen % 4 != 0) ::
  if c.dataLen ≤ 262144 then (inputTokens c).zipIdx.map fun (t, i) => badData (4 * i) (decide (2 ^ 20 ≤ t)) else []

/-- Queue a session at the end of the admission queue. -/
def queueSession (id : Nat) (s : State) : State := { s with serve := { s.serve with queue := s.serve.queue ++ [id] } }

/-! ### SESSION_OPEN -/

/-- TREE_NODES. -/
def paramNodes (b : Bytes) : Nat := fld b 18 1

/-- The tree nodes of a parameter block: parent, source, rank. -/
def paramTree (b : Bytes) : List (Nat × Nat × Nat) :=
  (List.range (paramNodes b)).map fun i => (fld b (128 + 4 * i) 1, fld b (129 + 4 * i) 1, fld b (130 + 4 * i) 1)

/-- Whether node `e` of a tree lies at a depth its source allows (R312). -/
def depthBad (tree : List (Nat × Nat × Nat)) (e src : Nat) : Bool :=
  let d := depthOf tree 33 e
  decide (8 < d) || decide (src < 1) || decide (5 < src) || (decide (src ≤ 4) && src != d)

/-- The checks of tree node `e`, counted from 1 (R312). -/
def nodeChecks (b : Bytes) (tree : List (Nat × Nat × Nat)) (e : Nat) : List Check :=
  let off := 124 + 4 * e
  let n := tree.getD (e - 1) (0, 0, 0)
  [ badParam off (decide (e ≤ n.1) || (tree.take (e - 1)).contains n), badParam (off + 1) (depthBad tree e n.2.1),
    badParam (off + 2) (decide (n.2.2 < 1) || decide ((if n.2.1 = 5 then 4 else 64) < n.2.2)), badParam (off + 3) (fld b (off + 3) 1 != 0) ]

/-- Whether an FP32 code lies outside a range of values: at least `lo` (above it where `strict`), and within a bound. -/
def fpBad (code : Nat) (lo : Int) (strict : Bool) (top : Dyad → Bool) : Bool :=
  let v := (read32 code).v
  notFinite32 code || dlt v (dint lo) || (strict && !dlt (dint lo) v) || !top v

/-- The checks of the parameter block of SESSION_OPEN. -/
def sessionBlockChecks (b : Bytes) : List Check :=
  let tree := paramTree b
  [ badParam 0 (fld b 0 4 == 0), badParam 4 (fld b 4 4 == 0), badParam 16 (decide (3 < fld b 16 1)), badParam 17 (decide (63 < fld b 17 1)),
    badParam 18 (decide (32 < paramNodes b)), badParam 19 (fld b 19 1 != 0), badParam 20 (bits (fld b 20 4) 30 24 != 0),
    badParam 24 (fpBad (fld b 24 4) 0 false fun _ => true), badParam 28 (decide (1024 < fld b 28 2)),
    badParam 30 (decide (4096 < fld b 30 2)), badParam 32 (fpBad (fld b 32 4) 0 true fun v => dle v (dint 1)),
    badParam 36 (fpBad (fld b 36 4) 0 false fun v => dlt v (dint 1)), badParam 40 (fpBad (fld b 40 4) 1 false fun _ => true),
    badParam 44 (fpBad (fld b 44 4) 0 false fun _ => true) ] ++
  (List.range 4).map (fun i => badParam (52 + 4 * i) (decide (2 ^ 20 ≤ fld b (52 + 4 * i) 4) && fld b (52 + 4 * i) 4 != 0xFFFFFFFF)) ++
  [ badParam 68 (!zeroAt b 68 60) ] ++
  if paramNodes b ≤ 32 then (span 1 (paramNodes b)).flatMap (nodeChecks b tree) else []

/-- The adapter a parameter block names. -/
def paramAdapter (b : Bytes) : Option Nat := if bit (fld b 20 4) 31 then some (fld b 20 3) else none

/-- The context a command's tenant names by an ID. -/
def ctxKey (tenant id : Nat) : Nat := tenant * 2 ^ 32 + id

/-- Whether an output queue belongs to another tenant. -/
def foreignQueue (c : Cmd) (s : State) (q : Nat) : Bool := (tget none s.host.outqs q).any fun x => x.tenant != c.tenant

/-- Whether an adapter that a session names belongs to another tenant. -/
def othersAdapter (c : Cmd) (s : State) (a : Option Nat) : Bool :=
  a.any fun a => (tvals s.model.adapters).any fun x => x.1 / 256 == a && x.2.tenant != c.tenant

/-- SESSION_OPEN's checks before R336. -/
def sessionOpenChecks (c : Cmd) (s : State) : List Check :=
  let b := c.param
  headChecks c .some .any 64 ++ [badTenant c, inlineZero c 40 24] ++ tokenChecks c ++ sessionBlockChecks b ++
  [ badLength 12 (c.paramLen != 128 + 4 * paramNodes b),
    unauthorised 4 (othersAdapter c s (paramAdapter b) || foreignQueue c s (fld b 17 1)) ]

/-- SESSION_OPEN's checks after R336. -/
def sessionStateChecks (c : Cmd) (s : State) : List Check :=
  let b := c.param
  let k := ctxKey c.tenant (fld b 4 4)
  [ exhausted (decide (65536 ≤ (tkeys s.serve.sessions).length)),
    conflict ((sessionAt s (fld b 0 4)).isSome || (ctxAt s k).isNone || (ctxSession s k).isSome ||
      (tget none s.host.outqs (fld b 17 1)).isNone || ((paramAdapter b).isSome && (currentAdapter s (paramAdapter b)).isNone)) ]

/-- The session that a parameter block describes. -/
def newSession (c : Cmd) : Session :=
  let b := c.param
  let input := inputTokens c
  { id := fld b 0 4, tenant := c.tenant, ctx := ctxKey c.tenant (fld b 4 4), seed := fld b 8 8, follow := bit (fld b 16 1) 0
    digref := bit (fld b 16 1) 1, outq := fld b 17 1, tree := paramTree b, adapter := paramAdapter b, temp := fld b 24 4
    topK := fld b 28 2, window := fld b 30 2, topP := fld b 32 4, minP := fld b 36 4, repPen := fld b 40 4, presPen := fld b 44 4
    maxNew := fld b 48 4
    stops := ((List.range 4).map fun i => fld b (52 + 4 * i) 4).filter (· != 0xFFFFFFFF)
    state := if input.isEmpty then 3 else 0, part := 0, slot := 0, pending := input, run := 0, total := 0, bank := 0
    pinned := none, drafts := [], stop := none, requeue := false, moving := false, closing := none }

/-- SESSION_OPEN (R310, R311). -/
def sessionOpen (c : Cmd) (s : State) : Ran :=
  let x := newSession c
  if !x.pending.isEmpty && decide (queueRoom ≤ s.serve.queue.length) then refuseBusy s else
  match firstFail (sessionStateChecks c s) with
  | some e => .err e s
  | none =>
    let s := setSession x.id (some x) s
    .ok (if x.state = 0 then queueSession x.id s else s) 0

/-- SESSION_OPEN. -/
def execSessionOpen (c : CmdIn) (s : State) : Result := .next (runCommand 0x0501 sessionOpenChecks sessionOpen c s)

/-! ### SESSION_FEED, SESSION_CLOSE, SESSION_QUERY -/

/-- Checks of the session a command names inline: another tenant's, or unknown. -/
def sessionNameChecks (c : Cmd) (s : State) : List Check :=
  [unauthorised 4 ((sessionAt s (c.at 40 4)).any fun x => x.tenant != c.tenant)]

/-- SESSION_FEED's checks before R336. -/
def sessionFeedChecks (c : Cmd) (s : State) : List Check :=
  headChecks c .none .some 64 ++ [badTenant c, badField 40 (c.at 40 4 == 0), inlineZero c 44 20] ++ tokenChecks c ++
  sessionNameChecks c s

/-- SESSION_FEED: input becomes pending; an Idle session is queued and a new run begins (R311). -/
def sessionFeed (c : Cmd) (s : State) : Ran :=
  match sessionAt s (c.at 40 4) with
  | none => .err ⟨0xD, 0, 0⟩ s
  | some x =>
    let input := inputTokens c
    if decide (inputRoom < x.pending.length + input.length) || (x.state == 3 && decide (queueRoom ≤ s.serve.queue.length)) then
      refuseBusy s
    else
      let y := { x with pending := x.pending ++ input }
      let n := y.pending.length
      if x.state = 3 then .ok (queueSession x.id (setSession x.id (some { y with state := 0, run := 0 }) s)) n
      else .ok (setSession x.id (some y) s) n

/-- SESSION_FEED. -/
def execSessionFeed (c : CmdIn) (s : State) : Result := .next (runCommand 0x0502 sessionFeedChecks sessionFeed c s)

/-- Checks of a command that names a session and carries nothing else. -/
def sessionChecks (c : Cmd) (s : State) : List Check :=
  headChecks c .none .none 1 ++ [badTenant c, badField 40 (c.at 40 4 == 0), inlineZero c 44 20] ++ sessionNameChecks c s ++
  [conflict (sessionAt s (c.at 40 4)).isNone]

/-- SESSION_CLOSE: a Queued or Idle session is removed; an admitted one departs at a boundary (R311). A later close of
the same session takes the earlier one's place (log 51). -/
def sessionClose (c : Cmd) (s : State) : Ran :=
  match sessionAt s (c.at 40 4) with
  | none => .err ⟨0xD, 0, 0⟩ s
  | some x =>
    if x.admitted then
      let t := setSession x.id (some { x with closing := some c.tag }) s
      match x.closing with
      | some old => .later (complete old 0xA 1 0 t)
      | none => .later t
    else
      let s := setSession x.id none s
      .ok { s with serve := { s.serve with queue := s.serve.queue.filter (· != x.id) } } x.total

/-- SESSION_CLOSE. -/
def execSessionClose (c : CmdIn) (s : State) : Result := .next (runCommand 0x0503 sessionChecks sessionClose c s)

/-- SESSION_QUERY's result; slot and partition are free values while the session holds no slot (log 8). -/
def sessionQuery (c : Cmd) (s : State) : Ran :=
  match sessionAt s (c.at 40 4) with
  | none => .err ⟨0xD, 0, 0⟩ s
  | some x =>
    let (place, s) := if x.admitted then (2 ^ 4 * x.slot + 2 ^ 18 * (x.part % 16), s) else
      ((freeBits 18 s).1 * 2 ^ 4, (freeBits 18 s).2)
    .ok s (x.state + 8 * b2n (withheld s x.id) + place + 2 ^ 22 * satBits 20 x.pending.length + 2 ^ 42 * satBits 22 x.run)

/-- SESSION_QUERY. -/
def execSessionQuery (c : CmdIn) (s : State) : Result := .next (runCommand 0x0504 sessionChecks sessionQuery c s)

/-! ### Output queues (R332) -/

/-- Whether a ring size is none of the powers of two from 64 KiB to 1 GiB. -/
def ringSizeBad (n : Nat) : Bool := !(List.range 15).any fun k => n == 2 ^ (16 + k)

/-- OUTQ_CREATE's checks. -/
def outqCreateChecks (c : Cmd) (s : State) : List Check :=
  headChecks c .none .some 4096 ++
  [ badTenant c, badField 40 (decide (63 < c.at 40 1)), badField 41 (decide (1 < c.at 41 1)), inlineZero c 42 22,
    badField 32 (ringSizeBad c.dataLen), unauthorised 3 (c.at 41 1 == 1 && (tenantOf s c.tenant).isNone),
    conflict (tget none s.host.outqs (c.at 40 1)).isSome ]

/-- Bytes that a record of `n` entries takes in a ring, with the pad record before it (R332). -/
def Outq.takes (q : Outq) (n : Nat) : Nat :=
  let len := recordLength n
  if q.tail + len ≤ q.size then len else q.size - q.tail + len

/-- Records that waited for a queue of the tenant and number are written as far as the ring has room (R506). -/
def flushOrphans (key : Nat) (s : State) : State :=
  let mine := s.host.orphans.filter fun o => o.key == key
  let s := { s with host := { s.host with orphans := s.host.orphans.filter fun o => o.key != key } }
  mine.foldl (fun s o =>
    let fits := (queueOf s (key / 64) (key % 64)).any fun q => decide (q.takes o.entries.length ≤ q.size - q.used)
    if fits then writeRecord key o.part o.epoch o.count o.entries s
    else { s with host := { s.host with orphans := s.host.orphans ++ [o] } }) s

/-- OUTQ_CREATE: the ring is empty, its phase is 1, and its nonce counter begins at 1 (R332, R334). -/
def outqCreate (c : Cmd) (s : State) : Ran :=
  let enc := c.at 41 1 == 1
  let key := if enc then ((tenantOf s c.tenant).map fun n => outputKey c.tenant n (c.at 40 1) (c.at 4 4)).getD [] else []
  let q : Outq :=
    { owner := c.f.fn, tenant := c.tenant, base := c.dataPtr, size := c.dataLen, head := 0, tail := 0, phase := true, marks := []
      encrypt := enc, key := key, nonce := 1 }
  .ok (flushOrphans (c.tenant * 64 + c.at 40 1)
    { s with host := { s.host with outqs := tset none s.host.outqs (c.at 40 1) (some q) } }) 0

/-- OUTQ_CREATE. -/
def execOutqCreate (c : CmdIn) (s : State) : Result := .next (runCommand 0x0505 outqCreateChecks outqCreate c s)

/-- OUTQ_DELETE's checks. -/
def outqDeleteChecks (c : Cmd) (s : State) : List Check :=
  let q := c.at 40 1
  headChecks c .none .none 1 ++
  [ badTenant c, badField 40 (decide (63 < q)), inlineZero c 41 23, unauthorised 4 (foreignQueue c s q),
    conflict ((tget none s.host.outqs q).isNone || (tvals s.serve.sessions).any fun x => x.2.outq == q) ]

/-- OUTQ_DELETE. Doorbells of the queue that were not consumed fall away. -/
def outqDelete (c : Cmd) (s : State) : Ran :=
  let q := c.at 40 1
  .ok { s with host := { s.host with outqs := tset none s.host.outqs q none, bells := tset none s.host.bells (192 + q) none } } 0

/-- OUTQ_DELETE. -/
def execOutqDelete (c : CmdIn) (s : State) : Result := .next (runCommand 0x0506 outqDeleteChecks outqDelete c s)

end Sys2Proof.Machine
end

