-- ==== Sys2Proof/Machine/Contexts.lean ====
section
/-!
DEFINITION. The commands of memory contexts (R273 to R276, R295, R297, R302, R306, R308).
-/

namespace Sys2Proof.Machine

/-! ### Quotas (R295) -/

/-- Bytes of one stack's KV pool: package memory less plan area, chuck area, model areas and scratch (R295, log 31). -/
def kvPool (s : State) (st : Nat) : Nat :=
  packageSize - 7537164288 - 268435456 - (s.model.manifests.map fun m => if m.region.isSome then mfArea m.raw st else 0).sum

/-- Bytes of module memory less the model regions and the scratch of 16 partitions (R295, log 31). -/
def warmPool (s : State) : Nat :=
  moduleSize - 16 * 4294967296 - (s.model.manifests.map fun m => if m.region.isSome then mfRegion m.raw else 0).sum

/-- The other tenants' quotas. -/
def otherQuotas (s : State) (t : Nat) : List Quota := ((tvals s.serve.quotas).filter fun x => x.1 != t).map (·.2)

/-- CTX_TENANT_QUOTA's checks. -/
def quotaChecks (c : Cmd) (s : State) : List Check :=
  let rest := otherQuotas s c.tenant
  let hot := c.at 44 4 + (rest.map (·.hot)).sum
  let far := c.at 48 4 + c.at 56 4 + (rest.map fun q => q.warm + q.log).sum
  pfOnly c :: headChecks c .none .none 1 ++
  [ badTenant c, inlineZero c 40 4, inlineZero c 60 4,
    exhausted ((List.range 16).any (fun st => decide (kvPool s st < 4096 * hot)) || decide (warmPool s < 4096 * far)) ]

/-- CTX_TENANT_QUOTA: a tenant's cold key is made afresh when its quota is first set (R297). -/
def tenantQuota (c : Cmd) (s : State) : Ran :=
  let q := quotaOf s c.tenant
  let (key, s) := if q.coldKey.isEmpty then randomBytes 32 s else (q.coldKey, s)
  .ok (setQuota c.tenant { q with
    hot := c.at 44 4, warm := c.at 48 4, cold := c.at 52 4, log := c.at 56 4, coldKey := key } s) 0

/-- CTX_TENANT_QUOTA. -/
def execCtxTenantQuota (c : CmdIn) (s : State) : Result := .next (runCommand 0x0601 quotaChecks tenantQuota c s)

/-- CTX_COLD_AREA's checks: an area stays while the tenant has Cold pages. -/
def coldAreaChecks (c : Cmd) (s : State) : List Check :=
  headChecks c .none .any 4096 ++
  [ badTenant c, inlineZero c 40 24, badField 32 (c.dataLen % 4096 != 0),
    conflict ((tenantPages s c.tenant).any fun r => (pageHome s r.1 r.2.1 r.2.2).1 == 2) ]

/-- CTX_COLD_AREA. -/
def coldArea (c : Cmd) (s : State) : Ran :=
  let area := if c.dataLen = 0 then none else some (c.f.fn, c.dataPtr, c.dataLen)
  .ok (setQuota c.tenant { quotaOf s c.tenant with area := area } s) (c.dataLen / 4096)

/-- CTX_COLD_AREA. -/
def execCtxColdArea (c : CmdIn) (s : State) : Result := .next (runCommand 0x0602 coldAreaChecks coldArea c s)

/-! ### The parameter block (R276) -/

/-- GROUP_COUNT. -/
def groupCount (b : Bytes) : Nat := fld b 12 1

/-- Layer group `i` of a parameter block. -/
def groupAt (b : Bytes) (i : Nat) : KvGroup :=
  let o := 64 + 32 * i
  { first := fld b o 2, layers := fld b (o + 2) 2, heads := fld b (o + 4) 1, dim := 32 * fld b (o + 5) 1, kind := fld b (o + 6) 1
    pageExp := fld b (o + 7) 1, kScale := fld b (o + 8) 4, vScale := fld b (o + 12) 4 }

/-- The layer groups of a parameter block. -/
def groupsOf (b : Bytes) : List KvGroup := (List.range (groupCount b)).map (groupAt b)

/-- Layers that the groups before group `i` cover. -/
def groupStart (b : Bytes) (i : Nat) : Nat := (((groupsOf b).take i).map (·.layers)).sum

/-- What is wrong with layer group `i`: byte and verdict. -/
def groupFaults (b : Bytes) (i : Nat) : List (Nat × Bool) :=
  let o := 64 + 32 * i
  let g := groupAt b i
  [ (o, g.first != groupStart b i), (o + 2, g.layers == 0), (o + 4, decide (g.heads < 1) || decide (64 < g.heads)),
    (o + 5, decide (g.dim < 32) || decide (512 < g.dim) || decide (16384 < g.len)), (o + 6, decide (g.kind < 1) || decide (3 < g.kind)),
    (o + 7, decide (g.pageExp < 4) || decide (12 < g.pageExp)), (o + 8, !posFinite32 g.kScale), (o + 12, !posFinite32 g.vScale),
    (o + 16, !zeroAt b (o + 16) 16) ]

/-- What is wrong with a parameter block of a context. -/
def blockFaults (b : Bytes) (id : Nat) : List (Nat × Bool) :=
  let n := groupCount b
  let max := fld b 8 4
  [ (0, fld b 0 4 != id), (4, fld b 4 4 == 0), (8, decide (max < 16) || decide (4194304 < max)), (12, decide (n < 1) || decide (16 < n)),
    (13, decide (1 < fld b 13 1)), (14, decide (fld b 14 2 < 1) || decide (1024 < fld b 14 2)), (16, !zeroAt b 16 48) ] ++
  if n ≤ 16 then (List.range n).flatMap (groupFaults b) ++ [(14, groupStart b n != fld b 14 2)] else []

/-- Bytes of a parameter block. -/
def blockLength (b : Bytes) : Nat := 64 + 32 * groupCount b

/-- A context as its parameter block and token log give it. -/
def newCtx (tenant : Nat) (b : Bytes) (log : List Nat) : Ctx :=
  { tenant := tenant, id := fld b 0 4, image := fld b 4 4, maxTokens := fld b 8 4, droppable := bit (fld b 13 1) 0
    layers := fld b 14 2, groups := groupsOf b, param := b.take (blockLength b), log := log, mark := 0, pages := []
    damaged := false, imported := false, full := false, dropped := 0, recompute := none, job := none }

/-- Tiles of a token log of `n` records. -/
def logTiles (n : Nat) : Nat := ceilDiv (4 * n) 4096

/-- Tiles of token logs that a tenant holds. -/
def logHeld (s : State) (t : Nat) : Nat :=
  (((tvals s.serve.ctxs).filter fun x => x.2.tenant == t).map fun x => logTiles x.2.log.length).sum

/-- The contexts that tenants hold: those of keys from 2^48 on belong to replays for partners (R408). -/
def ctxCount (s : State) : Nat := ((tkeys s.serve.ctxs).filter fun k => decide (k < 2 ^ 48)).length

/-- Whether a context of `n` logged tokens finds no room: 1,048,576 contexts, a quota of 0, or a full log quota (R273,
R295). -/
def noCtxRoom (s : State) (t n : Nat) : Bool :=
  let q := quotaOf s t
  decide (1048576 ≤ ctxCount s) || q.hot == 0 || q.log == 0 || decide (q.log ≤ logHeld s t) ||
    decide (q.log < logHeld s t + logTiles n)

/-! ### CTX_CREATE, CTX_DELETE, CTX_QUERY -/

/-- The context a command names inline. -/
def Cmd.ctx (c : Cmd) : Nat := ctxKey c.tenant (c.at 40 4)

/-- Checks of the context ID in the packet. -/
def ctxIdChecks (c : Cmd) : List Check := [badTenant c, badField 40 (c.at 40 4 == 0), inlineZero c 44 20]

/-- CTX_CREATE's checks. -/
def ctxCreateChecks (c : Cmd) (s : State) : List Check :=
  let b := c.param
  headChecks c .some .none 1 ++ ctxIdChecks c ++ (blockFaults b (c.at 40 4)).map (fun x => badParam x.1 x.2) ++
  [ badLength 12 (c.paramLen != blockLength b), exhausted (noCtxRoom s c.tenant 0), conflict (ctxAt s c.ctx).isSome ]

/-- CTX_CREATE: an empty context. -/
def ctxCreate (c : Cmd) (s : State) : Ran := .ok (setCtx c.ctx (some (newCtx c.tenant c.param [])) s) 0

/-- CTX_CREATE. -/
def execCtxCreate (c : CmdIn) (s : State) : Result := .next (runCommand 0x0603 ctxCreateChecks ctxCreate c s)

/-- Whether a context has a session or a job. -/
def ctxHeld (s : State) (k : Nat) : Bool :=
  (ctxSession s k).isSome || (ctxAt s k).any fun c => c.job.isSome || c.recompute.isSome

/-- CTX_DELETE's checks. -/
def ctxDeleteChecks (c : Cmd) (s : State) : List Check :=
  headChecks c .none .none 1 ++ ctxIdChecks c ++ [conflict ((ctxAt s c.ctx).isNone || ctxHeld s c.ctx)]

/-- CTX_DELETE: every page and the log are released at once. -/
def ctxDelete (c : Cmd) (s : State) : Ran :=
  match ctxAt s c.ctx with
  | none => .err ⟨0xD, 0, 0⟩ s
  | some x =>
    let tiles := (((tvals x.pages).filter fun p => p.2.tier != 3).map fun p => pageTiles x p.1).sum + logTiles x.log.length
    let s := setCtx c.ctx none s
    .ok { s with serve := { s.serve with moves := s.serve.moves.filter fun m => m.ctx != c.ctx } } tiles

/-- CTX_DELETE. -/
def execCtxDelete (c : CmdIn) (s : State) : Result := .next (runCommand 0x0604 ctxDeleteChecks ctxDelete c s)

/-- CTX_QUERY's checks. -/
def ctxQueryChecks (c : Cmd) (s : State) : List Check :=
  headChecks c .none .none 1 ++ ctxIdChecks c ++ [conflict (ctxAt s c.ctx).isNone]

/-- CTX_QUERY's result. -/
def ctxQuery (c : Cmd) (s : State) : Ran :=
  match ctxAt s c.ctx with
  | none => .err ⟨0xD, 0, 0⟩ s
  | some x =>
    let used := (ctxSession s c.ctx).any fun y => y.2.state != 3
    .ok s (x.log.length + 2 ^ 23 * x.mark + 2 ^ 46 * b2n (incomplete x || x.imported) + 2 ^ 47 * b2n used + 2 ^ 48 * b2n x.job.isSome +
      2 ^ 49 * satBits 15 x.dropped)

/-- CTX_QUERY. -/
def execCtxQuery (c : CmdIn) (s : State) : Result := .next (runCommand 0x0605 ctxQueryChecks ctxQuery c s)

/-! ### CTX_EXPORT and CTX_IMPORT -/

/-- Bytes of a context's export blob. -/
def exportLength (x : Ctx) : Nat := 64 + x.param.length + 4 * x.log.length

/-- CTX_EXPORT's checks. -/
def ctxExportChecks (c : Cmd) (s : State) : List Check :=
  headChecks c .none .some 64 ++ ctxIdChecks c ++
  [ badLength 32 ((ctxAt s c.ctx).any fun x => decide (c.dataLen < exportLength x)), unauthorised 3 (tenantOf s c.tenant).isNone,
    conflict ((ctxAt s c.ctx).isNone || (ctxAt s c.ctx).any (·.damaged) || ctxHeld s c.ctx) ]

/-- The first 32 bytes of an export blob's header, which are its additional data. -/
def exportHead (x : Ctx) (nonce : Bytes) : Bytes :=
  le 4 0x5843394B ++ le 2 1 ++ le 2 x.tenant ++ le 4 x.id ++ le 4 x.log.length ++ padTo 12 nonce ++ zeros 4

/-- CTX_EXPORT: the parameter block and the token log under the tenant's export key, with a random nonce (R445). -/
def ctxExport (c : Cmd) (s : State) : Ran :=
  match ctxAt s c.ctx, tenantOf s c.tenant with
  | some x, some n =>
    let (nonce, s) := randomBytes 12 s
    let head := exportHead x nonce
    let (body, tag) := gcmSeal (exportKey c.tenant n) nonce head (x.param ++ x.log.flatMap (le 4))
    .ok (writeData c (head ++ padTo 16 tag ++ zeros 16 ++ body) s) (exportLength x)
  | _, _ => .err ⟨0xD, 0, 0⟩ s

/-- CTX_EXPORT. -/
def execCtxExport (c : CmdIn) (s : State) : Result := .next (runCommand 0x0606 ctxExportChecks ctxExport c s)

/-- The contents of an export blob, decrypted: all data after the header is its ciphertext (log 52). -/
def openExport (c : Cmd) (s : State) : Option Bytes :=
  (tenantOf s c.tenant).bind fun n =>
    gcmOpen (exportKey c.tenant n) (slice c.data 16 12) (slice c.data 0 32) (c.data.drop 64) (slice c.data 32 16)

/-- TOKENS of an export blob. -/
def blobTokens (c : Cmd) : Nat := fld c.data 12 4

/-- The token log of a decrypted blob. -/
def blobLog (b : Bytes) (n : Nat) : List Nat := (List.range n).map fun i => fld b (blockLength b + 4 * i) 4

/-- The checks of a decrypted blob, at their bytes of the data. -/
def blobChecks (c : Cmd) (b : Bytes) : List Check :=
  let n := blobTokens c
  (blockFaults b (fld c.data 8 4)).map (fun x => badData (64 + x.1) x.2) ++
  [ badData 12 (decide (fld b 8 4 < n)),
    badData (64 + blockLength b) (decide (blockLength b + 4 * n ≤ b.length) && (blobLog b n).any fun r => decide (2 ^ 21 ≤ r)),
    badLength 32 (decide (b.length < blockLength b + 4 * n)) ]

/-- CTX_IMPORT's checks. -/
def ctxImportChecks (c : Cmd) (s : State) : List Check :=
  let d := c.data
  let b := openExport c s
  headChecks c .none .some 64 ++
  [ badTenant c, inlineZero c 40 24, badData 0 (fld d 0 4 != 0x5843394B), badData 4 (fld d 4 2 != 1), badData 6 (noTenant (fld d 6 2)), badData 8 (fld d 8 4 == 0),
    badData 12 (decide (4194304 < blobTokens c)), badData 28 (!zeroAt d 28 4), badData 48 (!zeroAt d 48 16) ] ++
  (b.map (blobChecks c)).getD [] ++
  [ badLength 32 (decide (c.dataLen < 160 + 4 * blobTokens c)), integrity 0 ((tenantOf s c.tenant).isSome && b.isNone),
    unauthorised 3 (tenantOf s c.tenant).isNone, unauthorised 4 (fld d 6 2 != c.tenant),
    exhausted (noCtxRoom s c.tenant (blobTokens c)), conflict (ctxAt s (ctxKey c.tenant (fld d 8 4))).isSome ]

/-- Every page that holds a position below `n`, Dropped. -/
def droppedPages (c : Ctx) (n : Nat) : Tab (Option Page) :=
  if n = 0 then [] else
  c.groups.foldl (fun t g => (span g.first g.layers).foldl (fun t layer =>
    (List.range (g.pageOf (n - 1) + 1)).foldl (fun t k => tset none t (pageKey layer k) (some ⟨3, 0, [], 0, 0, 0, []⟩)) t) t) []

/-- CTX_IMPORT: the context under the blob's ID with M = 0 and every span Dropped that holds a position below C − 1
(R302). -/
def ctxImport (c : Cmd) (s : State) : Ran :=
  match openExport c s with
  | none => .err ⟨7, 0, 0⟩ s
  | some b =>
    let n := blobTokens c
    let x := newCtx c.tenant b (blobLog b n)
    .ok (setCtx (ctxKey c.tenant (fld c.data 8 4))
      (some { x with pages := droppedPages x (n - 1), imported := decide (1 < n) }) s) n

/-- CTX_IMPORT. -/
def execCtxImport (c : CmdIn) (s : State) : Result := .next (runCommand 0x0607 ctxImportChecks ctxImport c s)

/-! ### Consolidation (R306, R308) -/

/-- Whether an adapter's current version is for another image than the context's. -/
def wrongImage (s : State) (k a : Nat) : Bool :=
  match ctxAt s k, (currentAdapter s (some a)).bind fun v => tget none s.model.adapters v with
  | some x, some v => v.image != x.image
  | _, _ => true

/-- CTX_CONSOLIDATE's checks. -/
def consolidateChecks (c : Cmd) (s : State) : List Check :=
  let b := c.param
  let a := fld b 0 3
  let chunk := fld b 12 2
  let momentum := fld b 20 4
  headChecks c .some .none 1 ++ ctxIdChecks c ++
  [ badParam 3 (fld b 3 1 != 0), badParam 8 (decide (fld b 8 4 ≤ fld b 4 4) || (ctxAt s c.ctx).any fun x => decide (x.mark < fld b 8 4)),
    badParam 12 (!(List.range 9).any fun k => chunk == 2 ^ (4 + k)), badParam 14 (fld b 14 1 == 0), badParam 15 (fld b 15 1 != 0),
    badParam 16 (!posFinite32 (fld b 16 4)), badParam 20 (fpBad momentum 0 false fun v => dlt v (dint 1)), badParam 24 (!zeroAt b 24 40),
    badLength 12 (c.paramLen != 64), unauthorised 4 (othersAdapter c s (some a)),
    conflict ((ctxAt s c.ctx).any (fun x => x.job.isSome || x.damaged) || (currentAdapter s (some a)).isNone || wrongImage s c.ctx a) ]

/-- The job a parameter block describes. -/
def newJob (b : Bytes) : Job :=
  { adapter := fld b 0 3, version := 0, first := fld b 4 4, last := fld b 8 4, chunk := fld b 12 2, epochs := fld b 14 1
    lr := fld b 16 4, momentum := fld b 20 4, place := none, sweep := 0, next := 0, steps := 0, masters := [], momenta := []
    form := [], staged := [], cancel := none }

/-- CTX_CONSOLIDATE queues a job (R306). -/
def consolidate (c : Cmd) (s : State) : Ran :=
  match ctxAt s c.ctx with
  | none => .err ⟨0xD, 0, 0⟩ s
  | some x =>
    let j := newJob c.param
    let s := setCtx c.ctx (some { x with job := some j }) s
    .ok { s with serve := { s.serve with jobs := s.serve.jobs ++ [c.ctx] } } (j.epochs * jobChunks j)

/-- CTX_CONSOLIDATE. -/
def execCtxConsolidate (c : CmdIn) (s : State) : Result := .next (runCommand 0x0608 consolidateChecks consolidate c s)

/-- CTX_JOB_CANCEL's checks: a context without a job is refused (DEDUCED, log 51). -/
def jobCancelChecks (c : Cmd) (s : State) : List Check :=
  headChecks c .none .none 1 ++ ctxIdChecks c ++ [conflict !(ctxAt s c.ctx).any fun x => x.job.isSome]

/-- CTX_JOB_CANCEL: the job ends at the next boundary, which completes the command (R308). -/
def jobCancel (c : Cmd) (s : State) : Ran :=
  match ctxAt s c.ctx with
  | none => .err ⟨0xD, 0, 0⟩ s
  | some x =>
    let t := setCtx c.ctx (some { x with job := x.job.map fun j => { j with cancel := some c.tag } }) s
    match x.job.bind (·.cancel) with
    | some old => .later (complete old 0xA 1 0 t)
    | none => .later t

/-- CTX_JOB_CANCEL. -/
def execCtxJobCancel (c : CmdIn) (s : State) : Result := .next (runCommand 0x0609 jobCancelChecks jobCancel c s)

end Sys2Proof.Machine
end

