-- ==== Sys2Proof/Machine/Spindle.lean ====
section
/-!
DEFINITION. The spindle unit: sources, lock, stutter, slip, stop and return (R41 to R57), and the power modes (R32 to
R39).
-/

namespace Sys2Proof.Machine

/-! ### Power modes -/

/-- Partitions without a running plan adopt a pending mode, once its turn has come and unless the spindle is Coasting
(R36, R37). -/
def idleMode (s : State) : State :=
  match s.spin.pend with
  | none => s
  | some m =>
    if s.spin.state == 3 || (s.spin.state == 2 && decide (turnOf s < m.turn)) then s else
    finishMode { s with spin := { s.spin with pend := some { m with idle := true } } }

/-- POWER_MODE_EFFECT_TURN: the turn of a pending mode has come. -/
def execPowerModeEffectTurn (s : State) : Result := .next (idleMode s)

/-- PWR_MODE_SET's checks. -/
def pwrModeChecks (c : Cmd) (s : State) : List Check :=
  let turn := c.at 48 8
  pfOnly c :: headChecks c .none .none 1 ++
  [ badField 40 (decide (2 < c.at 40 1)), inlineZero c 41 7,
    badField 48 (decide (2 ^ 51 ≤ turn) || (turn != 0 && decide (turn ≤ turnOf s))), inlineZero c 56 8,
    conflict ((plansOf s).any fun x => (x.2.state == 1 || x.2.state == 2) && decide (x.2.d.mode < c.at 40 1)),
    conflict (turn != 0 && decide (s.spin.state < 2)) ]

/-- PWR_MODE_SET: the mode is pending until every partition has adopted it; a later one replaces it (R36 to R39). -/
def pwrModeSet (c : Cmd) (s : State) : Ran :=
  let s := match s.spin.pend with
    | none => s
    | some m => complete m.tag 0xA 1 0 s
  let m : PendMode := { mode := c.at 40 1, turn := c.at 48 8, tag := c.tag, idle := false, left := (parts s).map (·.1) }
  .later (idleMode { s with spin := { s.spin with pend := some m } })

/-- PWR_MODE_SET. -/
def execPwrModeSet (c : CmdIn) (s : State) : Result := .next (runCommand 0x0120 pwrModeChecks pwrModeSet c s)

/-! ### SPINDLE_SOURCE_SET and SPINDLE_STATUS -/

/-- Whether a command names the source and port in use. -/
def sameSource (c : Cmd) (s : State) : Bool := c.at 40 1 == s.spin.source && c.at 41 1 == s.spin.port

/-- SPINDLE_SOURCE_SET's checks (R41, R55, R56). -/
def sourceSetChecks (c : Cmd) (s : State) : List Check :=
  let src := c.at 40 1
  pfOnly c :: headChecks c .none .none 1 ++
  [ badField 40 (decide (3 < src)), badField 41 (if src = 2 then decide (22 < c.at 41 1) else c.at 41 1 != 0),
    badField 42 (decide (3 < c.at 42 1)), inlineZero c 43 5,
    badField 48 (if src = 3 then c.at 48 8 % 8192 != 0 else c.at 48 8 != 0), inlineZero c 56 8,
    conflict (!sameSource c s && (plansOf s).any fun x => x.2.state != 0),
    conflict (src == 2 && (connAt s (c.at 41 1)).state != 4) ]

/-- SPINDLE_SOURCE_SET: the source in use changes only OUT_ENABLE; source 0 drops the source; another one drops any lock, with
SPINDLE_STOPPED on leaving Locked, and begins its acquisition (R46, R47, R55, R56). -/
def sourceSet (c : Cmd) (s : State) : Ran :=
  let s' := { s with spin := { s.spin with outEnable := c.at 42 1 } }
  if sameSource c s then .ok s' 0 else
  let src := c.at 40 1
  let s := if s.spin.state = 2 ∧ src ≠ 0 then postEvent 2 0 0x0202 2 (le 8 s.spin.count) s' else s'
  let s := { s with spin := { s.spin with
    state := if src = 0 then 0 else 1, source := src, port := c.at 41 1, lastTurn := none
    selfStart := if src = 3 then some (c.at 48 8, s.spin.tick) else none
    count := if src = 3 then c.at 48 8 else s.spin.count
    badRun := 0, held := false, atTurn := false, hops := 0 } }
  .ok (idleMode s) 0

/-- SPINDLE_SOURCE_SET. -/
def execSpindleSourceSet (c : CmdIn) (s : State) : Result := .next (runCommand 0x0201 sourceSetChecks sourceSet c s)

/-- The result field of SPINDLE_STATUS (R57). -/
def spindleResult (s : State) : Nat :=
  s.spin.state + 2 ^ 8 * s.spin.source + 2 ^ 16 * s.spin.port + 2 ^ 24 * s.spin.invalid + 2 ^ 40 * s.spin.stutters +
    2 ^ 56 * s.spin.slips

/-- SPINDLE_STATUS's checks. -/
def spindleStatusChecks (c : Cmd) (_ : State) : List Check :=
  pfOnly c :: headChecks c .none .none 1 ++ [inlineZero c 40 24]

/-- SPINDLE_STATUS. -/
def execSpindleStatus (c : CmdIn) (s : State) : Result :=
  .next (runCommand 0x0202 spindleStatusChecks (fun _ s => .ok s (spindleResult s)) c s)

/-! ### Lock -/

/-- The spindle is Locked at a count (R46): SPINDLE_LOCKED with source and count. -/
def lockAt (count : Nat) (s : State) : State :=
  postEvent 2 0 0x0201 1 (le 1 s.spin.source ++ le 8 count) { s with spin := { s.spin with
    state := 2, count := count, lastTurn := none, selfStart := none, held := false, atTurn := false, everLocked := true } }

/-- SELF_SPINDLE_LOCK: a self spindle is Locked 2 indices after its selection. -/
def selfLock (s : State) : State :=
  match s.spin.selfStart with
  | none => s
  | some (_, t) => if s.spin.state == 1 && decide (t + 2 ≤ s.spin.tick) then lockAt s.spin.count s else s

/-- SELF_SPINDLE_LOCK. -/
def execSelfSpindleLock (s : State) : Result := .next (selfLock s)

/-! ### Comparison with a received count (R52, R53) -/

/-- Every running pass loses an index to a stutter that moved the count forward. -/
def loseIndex (s : State) : State :=
  { s with plans := { s.plans with parts := s.plans.parts.map fun (k, o) => (k, o.map fun p =>
      { p with causes := p.causes ||| 32, lost := if p.p < p.d.work then p.lost + 1 else p.lost }) } }

/-- The count has moved onto `received` within an index: where that is index 0 of a turn, the turn before it ends, its
markers go out (R48), and passes may end (R81). -/
def enterTurn (received : Nat) (s : State) : State :=
  let s := { s with spin := { s.spin with count := received, atTurn := received % 8192 == 0 } }
  if received % 8192 = 0 then judgePasses (sendMarkers (endTurn s)) else s

/-- A stutter: the count is held at the next edge, or moves forward by one at once (R52). -/
def stutter (received : Nat) (s : State) : State :=
  let own := s.spin.count
  let s := { s with spin := { s.spin with stutters := min 65535 (s.spin.stutters + 1) } }
  let s := if received < own then { s with spin := { s.spin with held := true } }
    else enterTurn received (loseIndex s)
  postEvent 2 0 0x0204 2 (le 8 received ++ le 8 own) s

/-- A slip: every running or armed plan is halted, and the received count is adopted (R53). -/
def slip (received : Nat) (s : State) : State :=
  let own := s.spin.count
  let old := s
  let s := { s with spin := { s.spin with
    slips := min 255 (s.spin.slips + 1), count := received, held := false, atTurn := false } }
  let s := postEvent 2 0 0x0205 3 (le 8 received ++ le 8 own) s
  let s := ((plansOf s).filter fun x => x.2.state == 1 || x.2.state == 2).foldl (fun s x => abandonPlan x.1 (fun _ => 0) s) s
  enterTurn received (settleHalts old s)

/-- A valid frame or marker of turn `turn`, `into` indices after its first index (R46, R52, R53). A frame of SPINDLE_IN is
whole at index 66 of its turn, and the counts compared and posted are those of that index (DESIGN CHOICE, log 63). -/
def validCount (turn into : Nat) (s : State) : State :=
  let s := { s with spin := { s.spin with badRun := 0 } }
  let received := turn * 8192 + into
  if s.spin.state = 1 then
    if s.spin.lastTurn.any fun t => t + 1 == turn then lockAt received s
    else { s with spin := { s.spin with lastTurn := some turn } }
  else if s.spin.state = 2 then
    let own := s.spin.count
    if own = received then s
    else if own = received + 1 ∨ received = own + 1 then stutter received s
    else slip received s
  else s

/-- A frame or marker that is not valid: counted, and SPINDLE_FRAME_ERROR after every eighth in a row (R54). -/
def badCount (s : State) : State :=
  let s := { s with spin := { s.spin with badRun := s.spin.badRun + 1, invalid := min 65535 (s.spin.invalid + 1) } }
  if s.spin.badRun % 8 = 0 then postEvent 2 0 0x0206 2 (le 4 s.spin.invalid) s else s

/-- The first 67 bits of a turn's count frame, first bit most significant: sync pattern, turn, CRC-8 (R43, R44). -/
def spindleFrame (bits : BitVec 67) (bitError : Bool) (s : State) : State :=
  if s.spin.source != 1 || s.spin.state == 0 then s else
  let n := bits.toNat
  let turn := n / 256 % 2 ^ 51
  let word := (List.range 51).map fun k => turn.testBit (50 - k)
  if !bitError && n / 2 ^ 59 == 0xD2 && crc8 word == n % 256 then validCount turn 66 s else badCount s

/-- SPINDLE_FRAME. -/
def execSpindleFrame (bits : BitVec 67) (bitError : Bool) (s : State) : Result := .next (spindleFrame bits bitError s)

/-- A marker block on the named port (R42, R387); its sender's hops plus 1 are this module's. -/
def dritarMarker (port : Nat) (b : Bytes) (s : State) : State :=
  if s.spin.source != 2 || s.spin.state == 0 || port != s.spin.port || (connAt s port).state != 4 then s else
  if b.length == 16 && fld b 0 2 == 0xD25A && crc16 (b.take 14) == fld b 14 2 then
    validCount (fld b 2 7 % 2 ^ 51) 0 { s with spin := { s.spin with hops := min 255 (fld b 9 1 + 1) } }
  else badCount s

/-- DRITAR_MARKER. -/
def execDritarMarker (port : Nat) (block : Bytes) (s : State) : Result := .next (dritarMarker port block s)

/-! ### Stop and return (R49, R51) -/

/-- The spindle stops: the index in progress completes, and the count holds. A self spindle does not stop. -/
def spindleStop (s : State) : State :=
  if s.spin.state != 2 || s.spin.source == 3 then s else
  postEvent 2 0 0x0202 2 (le 8 s.spin.count) { s with spin := { s.spin with
    state := 3, held := false, stopTick := s.spin.tick } }

/-- SPINDLE_STOP. -/
def execSpindleStop (s : State) : Result := .next (spindleStop s)

/-- The indices of the run that brings the spindle back are frozen indices of each running pass (R51). -/
def loseRun (s : State) : State :=
  { s with plans := { s.plans with parts := s.plans.parts.map fun (k, o) => (k, o.map fun p =>
      { p with causes := p.causes ||| 16, lost := if p.p < p.d.work then p.lost + 64 else p.lost }) } }

/-- The 64th edge of a qualifying run: the count advances by 64, and the spindle is Locked again. -/
def spindleResume (s : State) : State :=
  if s.spin.state != 3 then s else
  let held := s.spin.tick - s.spin.stopTick
  let s := loseRun { s with spin := { s.spin with
    state := 2, count := (s.spin.count + 64) % 2 ^ 64, held := false, atTurn := false } }
  idleMode (postEvent 2 0 0x0203 1 (le 4 held) s)

/-- SPINDLE_RESUME. -/
def execSpindleResume (s : State) : Result := .next (spindleResume s)

end Sys2Proof.Machine
end

