-- ==== Sys2Proof/Machine/PlanCmds.lean ====
section
/-!
DEFINITION. PLAN_LOAD, PLAN_ARM, PLAN_STOP, PLAN_UNLOAD and PLAN_QUERY (R58 to R77, R522, R523).
-/

namespace Sys2Proof.Machine

/-! ### Signatures and manifests (R71, R72) -/

/-- The signature entries of a plan under held keys, each with whether it verifies. -/
def judged (s : State) (d : PlanDef) : List (PlanSig × Bool) :=
  d.sigs.filterMap fun g => (heldKey s g.role g.key).map fun k => (g, verifies k d.signed g.sig)

/-- Whether a role 1 entry verifies under the owner key of a manifest. -/
def ownerSigned (s : State) (d : PlanDef) (m : Manifest) : Bool :=
  (judged s d).any fun x => x.2 && x.1.role == 1 && x.1.key == slice m.raw 96 32

/-- Whether a role 1 entry under the owner key of a manifest fails. -/
def ownerFailed (s : State) (d : PlanDef) (m : Manifest) : Bool :=
  (judged s d).any fun x => !x.2 && x.1.role == 1 && x.1.key == slice m.raw 96 32

/-- The manifest of a plan's model, where it has one and it is held. -/
def planManifest (s : State) (d : PlanDef) : Option Manifest :=
  if d.model = 0 then none else manifestOf s d.model d.modelVersion

/-- The reduction records of a manifest, KIND, COUNT and LAYER (R242). -/
def reductionRecords (raw : Bytes) : List (Nat × Nat × Nat) :=
  let n := fld raw 28 4
  let o := raw.length - 772 - 80 * n
  (List.range n).map fun k => (fld raw (o + 80 * k) 1, fld raw (o + 80 * k + 1) 1, fld raw (o + 80 * k + 2) 2)

/-- Whether an operation is a reduction that no record of the manifest can stand for: a CORE_REDUCE is a core group of as
many members as it has sources, a STACK_REDUCE is a list of its layer, a stochastic one of as many members in mode 0, a
chunked one in mode 1 (R205 to R207, R242). `records` gives KIND, COUNT and LAYER. -/
def reductionStray (records : List (Nat × Nat × Nat)) (op : PlanOp) : Bool :=
  if op.code = 0x21 then !records.any fun r => r.1 == 0 && r.2.1 == popcount (opBits op 47 44)
  else if op.code = 0x22 then !records.any fun r => r.2.2 == opBits op 9 0 &&
    if opBits op 10 10 = 0 then r.1 == 1 && r.2.1 == opBits op 15 11 else r.1 == 2
  else false

/-- Whether a plan breaks the comparison with its manifest (R72). What the records fix by themselves is compared here; which
slices an operation adds is fixed by no field of the image (log 47). -/
def reductionBad (d : PlanDef) (m : Manifest) : Bool :=
  d.reduction != reductionOf m.raw ||
  (d.parts.any fun p => p.cuts.any fun x => x.2.any (reductionStray (reductionRecords m.raw))) ||
  !Config.reductionsMatch d.signed m.raw

/-! ### PLAN_LOAD -/

/-- PLAN_ID of an inline field and the version of an image. -/
def imageKey (b : Bytes) : Nat := planKey (fld b 8 4) (fld b 12 2)

/-- Loaded plans that include a stack. -/
def plansOn (s : State) (st : Nat) : Nat := ((plansOf s).filter fun x => x.2.d.parts.any fun d => d.mask.testBit st).length

/-- PLAN_LOAD's checks. -/
def planLoadChecks (c : Cmd) (s : State) : List Check :=
  let b := c.data
  let d := parsePlan b
  let m := planManifest s d
  let js := judged s d
  headChecks c .none .some 64 ++ [inlineZero c 44 20] ++ imageChecks b c.dataLen (c.at 40 4) ++
  [ badImage 8 (planAt s (imageKey b)).isSome, badImage 48 (m.any (reductionBad d)),
    integrity 0 (js.any fun x => !x.2),
    unauthorised 4 (c.f.fn != 0 && !m.any fun m => m.tenant == c.tenant),
    unauthorised 0 (!js.any (·.2)), unauthorised 0 (m.any fun m => encrypted m.raw && !ownerSigned s d m),
    exhausted (d.parts.any fun p => p.stacks.any fun st => decide (4 ≤ plansOn s st)), exhausted (logFull s) ]

/-- A plan as it is loaded. -/
def loadedPlan (d : PlanDef) (unchecked : Bool) : Plan :=
  { d := d, state := 0, startTurn := 0, stop := none, haltCount := 0, unchecked := unchecked, tileFail := false
    waiting := [], released := [], lastSlack := 0, passes := 0, replaces := [], barriers := [], arrivals := [] }

/-- PLAN_LOAD. -/
def planLoad (c : Cmd) (s : State) : Ran :=
  let d := parsePlan c.data
  let later := d.model != 0 && (planManifest s d).isNone
  let s := setPlan (imageKey c.data) (some (loadedPlan d later)) s
  .ok (addLog 1 d.id d.version (sha256 d.signed) s) (d.id + 2 ^ 32 * d.version)

/-- PLAN_LOAD. -/
def execPlanLoad (c : CmdIn) (s : State) : Result := .next (runCommand 0x0210 planLoadChecks planLoad c s)

/-! ### PLAN_ARM -/

/-- The plan that inline bytes 40 to 45 name. -/
def namedPlan (c : Cmd) : Nat := planKey (c.at 40 4) (c.at 44 2)

/-- The stacks of a plan. -/
def PlanDef.mask (d : PlanDef) : Nat := d.parts.foldl (fun m p => m ||| p.mask) 0

/-- Partitions that hold stacks of a plan to be armed, running or of a Halted plan: those it replaces (R75). -/
def replacedParts (s : State) (k : Nat) (d : PlanDef) : List Nat :=
  ((plansOf s).filter fun x => x.1 != k && x.2.state != 0).flatMap fun (h, q) =>
    (q.d.parts.filter fun e => (e.mask &&& d.mask) != 0 &&
      (if q.state = 3 then !q.released.contains e.part else (partAt s (partKey h e.part)).isSome)).map fun e => partKey h e.part

/-- Whether R73 refuses the arming: a stack belongs to a partition of an armed plan that has not begun, or, for a
Halted plan, to a running successor. -/
def stackTaken (s : State) (k : Nat) (q : Plan) : Bool :=
  (plansOf s).any (fun x => x.1 != k && (x.2.state == 1 || x.2.state == 2) && x.2.d.parts.any fun e =>
    x.2.waiting.contains e.part && (e.mask &&& q.d.mask) != 0) ||
  (q.state == 3 && (parts s).any fun x => x.1 / 16 != k && (x.2.d.mask &&& q.d.mask) != 0)

/-- Whether a plan keeps a slot of a partition it replaces: an entry of the same number and kind, and for a decode slot
a `MAX_COMMIT` for the session's tree (R76). -/
def keepsSlot (s : State) (d : PlanDef) (pk : Nat) (x : SlotDef) : Bool :=
  slotFree s pk x.slot ||
  d.parts.any fun e => e.slots.any fun y => y.slot == x.slot && y.kind == x.kind &&
    (x.kind != 0 || (slotSession s pk x.slot).all fun z => decide (treeDepth z.2.tree + 1 ≤ y.maxCommit))

/-- Sessions of the plan's model image and `DIGREF` that hold slots of partitions that have come to their end: a plan takes
them over with their slot numbers, whichever stacks it is armed for (DESIGN CHOICE, log 66). -/
def orphans (s : State) (d : PlanDef) : List Session :=
  ((tvals s.serve.sessions).map (·.2)).filter fun x => x.admitted && orphaned s x.part && x.digref == d.digref &&
    (ctxAt s x.ctx).any fun c => c.image == d.model

/-- Whether a plan has an entry for the slot of a session: same KIND, and for a decode slot room for its tree (R76). -/
def hasSlotFor (d : PlanDef) (x : Session) : Bool :=
  d.parts.any fun e => e.slots.any fun y => y.slot == x.slot && y.kind == b2n (x.state == 1) &&
    (y.kind != 0 || decide (treeDepth x.tree + 1 ≤ y.maxCommit))

/-- Whether an occupied slot has no place in the new plan. -/
def slotLost (s : State) (k : Nat) (d : PlanDef) : Bool :=
  ((replacedParts s k d).any fun pk => ((partDefOf s pk).map (·.slots)).any fun l => l.any fun x => !keepsSlot s d pk x) ||
  (orphans s d).any fun x => !hasSlotFor d x

/-- The digest of the bank to which a session is pinned. -/
def sessionDigest (s : State) (x : Session) : Option Bytes :=
  (ctxAt s x.ctx).bind fun c => (bankVersion s c.image x.bank).bind fun v =>
    (manifestOf s c.image v).map fun m => reductionOf m.raw

/-- Whether the plan would give the slot of a Pinned session to another reduction order (R263). -/
def pinLost (s : State) (k : Nat) (d : PlanDef) : Bool :=
  let taken := ((tvals s.serve.sessions).map (·.2)).filter fun x => x.admitted && (replacedParts s k d).contains x.part
  (taken ++ orphans s d).any fun x => !x.follow &&
    (d.parts.any fun e => e.slots.any fun y => y.slot == x.slot) && (sessionDigest s x).any fun g => g != d.reduction

/-- Whether a version of an image is bound in one of its banks. -/
def versionBound (s : State) (image version : Nat) : Bool :=
  (List.range 2).any fun b => (bankAt s image b).any fun x => x.bound && x.version == version

/-- Whether two sets of reservations hold one slot of one link twice. -/
def linksMeet (a b : List LinkRes) : Bool := a.any fun x => b.any fun y => x.link == y.link && (x.mask &&& y.mask) != 0

/-- Whether arming a plan would overcommit a slot of a link (R77). -/
def overcommit (s : State) (k : Nat) (d : PlanDef) : Bool :=
  let gone := replacedParts s k d
  (plansOf s).any fun (h, q) => h != k && (q.state == 1 || q.state == 2) && q.d.parts.any fun e =>
    (q.waiting.contains e.part || (partAt s (partKey h e.part)).isSome) && !gone.contains (partKey h e.part) &&
      d.parts.any fun x => linksMeet x.links e.links

/-- Whether a plan defines a barrier ID that an armed, running or halted plan also defines which it does not replace (R349). -/
def barrierTaken (s : State) (k : Nat) (d : PlanDef) : Bool :=
  let ids := fun (q : PlanDef) => q.parts.flatMap fun p => p.barriers.map (·.id)
  let gone := (replacedParts s k d).map (· / 16)
  (plansOf s).any fun x => x.1 != k && x.2.state != 0 && !gone.contains x.1 && (ids x.2.d).any (ids d).contains

/-- Whether a plan reads arrays of a stack whose trims are not valid (R140). -/
def untrimmed (s : State) (d : PlanDef) : Bool :=
  d.parts.any fun p => p.cuts.any fun x => (x.2.any isRead) && !s.conv.valid.contains x.1

/-- PLAN_LINK_OVERCOMMIT. -/
def linkConflict (bad : Bool) : Check := (bad, ⟨8, 0, 0⟩)

/-- PLAN_ARM's checks on a plan. -/
def armChecks (s : State) (k : Nat) (q : Plan) : List Check :=
  let d := q.d
  let m := planManifest s d
  let late := fun (b : Bool) => q.unchecked && b
  let power := max s.spin.power ((s.spin.pend.map (·.mode)).getD 0)
  [ badField 40 (late (m.any (reductionBad d))),
    conflict (q.state == 1 || q.state == 2), conflict (s.spin.state != 2), conflict (decide (d.mode < power)),
    conflict (stackTaken s k q), conflict (slotLost s k d), conflict (barrierTaken s k d),
    conflict (d.model != 0 && !versionBound s d.model d.modelVersion), conflict (d.model != 0 && m.isNone),
    conflict (fabricRefuses s.net.map d),
    linkConflict (overcommit s k d),
    integrity 0 (late (m.any fun m => ownerFailed s d m)),
    integrity 0 (q.tileFail || s.model.broken.contains (d.model * 65536 + d.modelVersion)),
    unauthorised 0 (late (m.any fun m => encrypted m.raw && !ownerSigned s d m)),
    (pinLost s k d, ⟨0xC, 0, 0⟩), uncalibrated (untrimmed s d) ]

/-- PLAN_ARM's checks. -/
def planArmChecks (c : Cmd) (s : State) : List Check :=
  let k := namedPlan c
  let turn := c.at 48 8
  pfOnly c :: headChecks c .none .none 1 ++
  [ badField 40 (planAt s k).isNone, inlineZero c 46 2,
    badField 48 (decide (2 ^ 51 ≤ turn) || decide (turn < turnOf s + 2)), inlineZero c 56 8 ] ++
  (match planAt s k with
    | none => []
    | some q => armChecks s k q)

/-- A plan that is armed again is replaced by none any longer. -/
def forgetReplaced (k : Nat) (s : State) : State :=
  { s with plans := { s.plans with loaded := s.plans.loaded.map fun (h, o) =>
      (h, o.map fun (q : Plan) => { q with replaces := q.replaces.filter (· != k) }) } }

/-- Whether a byte of scratch belongs to a partition: 256 MiB on each of its stacks, and its 4 GiB of module memory (R265). -/
def ownsScratch (d : PartDef) (a : Nat) : Bool :=
  if a < 2 ^ 32 then d.mask.testBit (a / 2 ^ 28) else a / 2 ^ 32 == 1 + d.stacks.headD 0

/-- The scratch of a partition whose first plan since reset is armed is zeroed; a partition is known by its stacks (R265,
DEDUCED, log 31). -/
def zeroScratch (s : State) (d : PartDef) : State :=
  if s.plans.scratched.contains d.mask then s else
  { s with
    mem := { s.mem with scratch := s.mem.scratch.filter fun x => !ownsScratch d x.1 }
    plans := { s.plans with scratched := s.plans.scratched ++ [d.mask] } }

/-- PLAN_ARM: every partition waits for its start; barriers have their initial state (R75, R356). -/
def planArm (c : Cmd) (s : State) : Ran :=
  let k := namedPlan c
  match planAt s k with
  | none => .ok s 0
  | some q =>
    let q := { q with
      state := 1, startTurn := c.at 48 8, stop := none, waiting := q.d.parts.map (fun (e : PartDef) => e.part), released := []
      replaces := ((replacedParts s k q.d).map (· / 16)).eraseDups, barriers := [], arrivals := [] }
    .ok (q.d.parts.foldl zeroScratch (setPlan k (some q) (forgetReplaced k s))) (c.at 48 8)

/-- PLAN_ARM. -/
def execPlanArm (c : CmdIn) (s : State) : Result := .next (runCommand 0x0211 planArmChecks planArm c s)

/-! ### PLAN_STOP -/

/-- PLAN_STOP's checks. -/
def planStopChecks (c : Cmd) (s : State) : List Check :=
  let k := namedPlan c
  pfOnly c :: headChecks c .none .none 1 ++
  [ badField 40 (planAt s k).isNone, inlineZero c 46 2, badField 48 (decide (2 ^ 51 ≤ c.at 48 8)), inlineZero c 56 8,
    conflict ((planAt s k).any fun q => q.state == 0) ]

/-- A plan that runs no partition releases its stacks: the reference buffers that it left on go off, but for those of stacks
of a running partition, and a bank switch or a deck that waited for the plan goes on (R114, R260). -/
def releaseStacks (q : Plan) (s : State) : State :=
  settleEnded ((q.d.parts.filter fun e => !q.released.contains e.part).foldl
    (fun s e => dropRefs e (fun st => (partOfStack s st).isSome) s) s)

/-- PLAN_STOP: an Armed or Halted plan is Loaded at once; a running one stops at its partitions' boundaries, and a later
PLAN_STOP replaces an earlier one (R523). For an Armed plan, which has had no boundary, the present count is answered
(DESIGN CHOICE, log 48). -/
def planStop (c : Cmd) (s : State) : Ran :=
  let k := namedPlan c
  match planAt s k with
  | none => .ok s 0
  | some q =>
    let idle := { q with state := 0, stop := none, waiting := [], released := [], barriers := [], arrivals := [] }
    if q.state = 1 then .ok (releaseStacks q (setPlan k (some idle) s)) s.spin.count
    else if q.state = 3 then .ok (releaseStacks q (setPlan k (some idle) s)) q.haltCount
    else
      let s := match q.stop with
        | none => s
        | some (tag, _) => complete tag 0xA 1 0 s
      .later (closePlan k (setPlan k (some { q with stop := some (c.tag, c.at 48 8) }) s))

/-- PLAN_STOP. -/
def execPlanStop (c : CmdIn) (s : State) : Result := .next (runCommand 0x0212 planStopChecks planStop c s)

/-! ### PLAN_UNLOAD and PLAN_QUERY -/

/-- PLAN_UNLOAD's checks. -/
def planUnloadChecks (c : Cmd) (s : State) : List Check :=
  let k := namedPlan c
  pfOnly c :: headChecks c .none .none 1 ++
  [ badField 40 (planAt s k).isNone, inlineZero c 46 18, exhausted (logFull s),
    conflict ((planAt s k).any fun q => q.state != 0) ]

/-- PLAN_UNLOAD. -/
def planUnload (c : Cmd) (s : State) : Ran :=
  let k := namedPlan c
  match planAt s k with
  | none => .ok s 0
  | some q => .ok (addLog 2 q.d.id q.d.version (sha256 q.d.signed) (setPlan k none s)) 0

/-- PLAN_UNLOAD. -/
def execPlanUnload (c : CmdIn) (s : State) : Result := .next (runCommand 0x0213 planUnloadChecks planUnload c s)

/-- The result field of PLAN_QUERY. -/
def planResult (q : Plan) : Nat := q.state + 2 ^ 8 * satBits 20 q.lastSlack + 2 ^ 28 * satBits 36 q.passes

/-- PLAN_QUERY's checks. -/
def planQueryChecks (c : Cmd) (s : State) : List Check :=
  pfOnly c :: headChecks c .none .none 1 ++ [badField 40 (planAt s (namedPlan c)).isNone, inlineZero c 46 18]

/-- PLAN_QUERY. -/
def planQuery (c : Cmd) (s : State) : Ran := .ok s (((planAt s (namedPlan c)).map planResult).getD 0)

/-- PLAN_QUERY. -/
def execPlanQuery (c : CmdIn) (s : State) : Result := .next (runCommand 0x0214 planQueryChecks planQuery c s)

end Sys2Proof.Machine
end

