-- ==== Sys2Proof/Machine/Spdm.lean ====
section
/-!
DEFINITION. Attestation to the host over SPDM, and IDE key management (R434, R435, R437). The manual names SPDM 1.3 and 1.2
and the IDE key management of PCI Express; message layouts and what else those specifications fix are PRESUMED (log 24).
A request that travels in a secured session carries that session's ID in its first 4 bytes, then the request.
-/

namespace Sys2Proof.Machine

/-! ### Measurements (R435) -/

/-- The 24 inline bytes of the calibration policy in force (R238). -/
def calPolicyBytes (p : Policy) : Bytes :=
  le 1 p.rate ++ le 1 (b2n p.glide) ++ le 2 p.window ++ le 2 p.gainStep ++ le 2 p.offsetStep ++ le 8 p.seed ++ zeros 8

/-- The 24 inline bytes of the integrity policy in force (R422). -/
def integrityPolicyBytes (p : Integ) : Bytes :=
  le 1 (b2n p.local_ + 2 * b2n p.autoHone) ++ le 1 p.partners.length ++ zeros 2 ++ padTo 8 (p.partners.flatMap (le 2)) ++
    le 4 p.wait ++ zeros 8

/-- The tenant IDs bound to virtual functions 1 to 31, 0xFFFF for unbound. -/
def bindingBytes (s : State) : Bytes :=
  (span 1 31).flatMap fun fn => let t := tget 0 s.trust.binds fn; le 2 (if t = 0 then 0xFFFF else t)

/-- A measurement by its index. -/
def measurement (s : State) (i : Nat) : Bytes :=
  if i = 1 then b256 Config.romDigest
  else if i = 2 then firmwareDigest s
  else if i = 3 then le 1 (fusedSvn s) ++ le 1 (runningSvn s) ++ zeros 2
  else if i = 4 then sha256 (calPolicyBytes s.cal.policy)
  else if i = 5 then sha256 (integrityPolicyBytes s.integ)
  else if i = 6 then (if s.net.applied.isEmpty then zeros 32 else sha256 s.net.applied)
  else if i = 7 then sha256 (bindingBytes s)
  else s.trust.digest

/-- What SPDM calls the kinds of the measurements: ROM 0, firmware 1, the versions raw firmware configuration 0x83, the rest firmware
configuration 3. -/
def measuredKind (i : Nat) : Nat := if i ≤ 2 then i - 1 else if i = 3 then 0x83 else 3

/-- A block of a measurement: index, specification, size, kind and size of the value, value (PRESUMED, log 24). -/
def measuredBlock (s : State) (i : Nat) : Bytes :=
  let m := measurement s i
  le 1 i ++ le 1 1 ++ le 2 (m.length + 3) ++ le 1 (measuredKind i) ++ le 2 m.length ++ m

/-- MEASUREMENTS up to its record: how many there are where the request asks for that, else the blocks of one index or of all. -/
def measured (s : State) (op : Nat) : Bytes :=
  let is := if op = 0 then [] else if op = 0xFF then span 1 8 else [op]
  let blocks := is.flatMap (measuredBlock s)
  le 1 (if op = 0 then 8 else 0) ++ zeros 1 ++ le 1 is.length ++ le 3 blocks.length ++ blocks

/-! ### The mailbox -/

/-- The SPDM connection of a function's mailbox. -/
def spdmAt (s : State) (fn : Nat) : Spdm := (tget none s.trust.spdm fn).getD ⟨0, 0, []⟩

/-- Replace a connection. -/
def setSpdm (fn : Nat) (x : Spdm) (s : State) : State :=
  { s with trust := { s.trust with spdm := tset none s.trust.spdm fn (some x) } }

/-- A message on a function's mailbox: version, response code and the rest. -/
def spdmSend (fn code : Nat) (rest : Bytes) (s : State) : State :=
  { s with out := { s.out with spdm := s.out.spdm ++ [(fn, le 1 (spdmAt s fn).version ++ le 1 code ++ rest)] } }

/-- Answer on a function's mailbox: what this manual fixes, and what else the SPDM specification puts into the message. -/
def spdmAnswer (fn code : Nat) (req own : Bytes) (s : State) : State :=
  let r := fresh s
  spdmSend fn code (own ++ Config.spdmBody code req r.1) r.2

/-- An ERROR response. -/
def spdmError (fn cause : Nat) (s : State) : State := spdmSend fn 0x7F (le 1 cause ++ zeros 1) s

/-- Whether a function's mailbox answers: the module's firmware runs and the link is up. -/
def mailboxUp (s : State) (fn : Nat) : Bool := offers fn .dataExchange && s.phys.state == 3 && s.phys.link

/-- The error of a request, if any: another code than that of its row, a stage of the connection that is not reached, or another
version than that in force, which is 1.0 for GET_VERSION (PRESUMED, log 24). -/
def spdmFault (x : Spdm) (code stage : Nat) (b : Bytes) : Option Nat :=
  if fld b 1 1 ≠ code then some 1
  else if x.stage < stage then some 4
  else if code ≠ 0xE1 ∧ fld b 0 1 ≠ (if code = 0x84 then 0x10 else x.version) then some 0x41
  else none

/-- A request that needs a stage of the connection. -/
def spdmRequest (code stage fn : Nat) (req : Bytes) (act : Spdm → State → State) (s : State) : State :=
  if !mailboxUp s fn then s else
  match spdmFault (spdmAt s fn) code stage req with
  | some e => spdmError fn e s
  | none => act (spdmAt s fn) s

/-- SPDM_GET_VERSION: versions 1.2 and 1.3; the connection begins anew and its sessions end. -/
def execSpdmGetVersion (fn : Nat) (req : Bytes) (s : State) : Result :=
  .next (spdmRequest 0x84 0 fn req (fun _ s =>
    spdmAnswer fn 0x04 req (zeros 3 ++ le 1 2 ++ le 2 0x1200 ++ le 2 0x1300) (setSpdm fn ⟨1, 0x10, []⟩ s)) s)

/-- The capabilities of R434 by their bits in SPDM: certificates 1, challenge 2, measurements with signature 4, encryption 6 and
authentication 7 of messages, key exchange 9, heartbeat 13, key update 14. There is no pre-shared key, bits 11 and 10, no mutual
authentication, bit 8, and no provisioning (PRESUMED, log 24). -/
def spdmCapabilities : Nat := 0x62D6

/-- What ALGORITHMS selects (R434): DMTF measurements, SHA-256 for them, RSASSA-PSS 3072, SHA-256 for hashes, then FFDHE3072,
AES-256-GCM and the key schedule, each by its bit in SPDM (PRESUMED, log 24). -/
def spdmAlgorithms : Bytes :=
  le 1 3 ++ zeros 1 ++ le 2 48 ++ le 1 1 ++ le 1 2 ++ le 4 2 ++ le 4 8 ++ le 4 1 ++ zeros 16 ++
    ([2, 3].flatMap fun (kind : Nat) => le 1 kind ++ le 1 0x20 ++ le 2 2) ++ le 1 5 ++ le 1 0x20 ++ le 2 1

/-- SPDM_GET_CAPABILITIES: the version of the request is in force from here on. The time that cryptography takes is a free
value. -/
def execSpdmGetCapabilities (fn : Nat) (req : Bytes) (s : State) : Result :=
  .next (spdmRequest 0xE1 1 fn req (fun x s =>
    let v := fld req 0 1
    if v ≠ 0x12 ∧ v ≠ 0x13 then spdmError fn 0x41 s
    else
      let (time, s) := freeBits 8 s
      spdmAnswer fn 0x61 req (zeros 3 ++ le 1 time ++ zeros 2 ++ le 4 spdmCapabilities)
        (setSpdm fn { x with stage := 2, version := v } s)) s)

/-- SPDM_NEGOTIATE_ALGORITHMS: RSASSA-PSS 3072, SHA-256, FFDHE3072, AES-256-GCM. -/
def execSpdmNegotiateAlgorithms (fn : Nat) (req : Bytes) (s : State) : Result :=
  .next (spdmRequest 0xE3 2 fn req (fun x s => spdmSend fn 0x63 spdmAlgorithms (setSpdm fn { x with stage := 3 } s)) s)

/-- SPDM_GET_DIGESTS: slot 0 holds the chain of R428. -/
def execSpdmGetDigests (fn : Nat) (req : Bytes) (s : State) : Result :=
  .next (spdmRequest 0x81 3 fn req (fun _ s => spdmAnswer fn 0x01 req (zeros 1 ++ le 1 1 ++ sha256 (certChain s)) s) s)

/-- SPDM_GET_CERTIFICATE: a portion of the chain in slot 0. -/
def execSpdmGetCertificate (fn : Nat) (req : Bytes) (s : State) : Result :=
  .next (spdmRequest 0x82 3 fn req (fun _ s =>
    if fld req 2 1 ≠ 0 then spdmError fn 1 s
    else
      let rest := (certChain s).drop (fld req 4 2)
      let part := rest.take (fld req 6 2)
      spdmSend fn 0x02 (zeros 2 ++ le 2 part.length ++ le 2 (rest.length - part.length) ++ part) s) s)

/-- SPDM_CHALLENGE: signed with the identity key, over slot 0. -/
def execSpdmChallenge (fn : Nat) (req : Bytes) (s : State) : Result :=
  .next (spdmRequest 0x83 3 fn req (fun _ s =>
    if fld req 2 1 ≠ 0 then spdmError fn 1 s
    else spdmAnswer fn 0x03 req (zeros 1 ++ le 1 1 ++ sha256 (certChain s)) s) s)

/-- SPDM_GET_MEASUREMENTS, with signature: the measurements of R435. -/
def execSpdmGetMeasurements (fn : Nat) (req : Bytes) (s : State) : Result :=
  .next (spdmRequest 0xE0 3 fn req (fun _ s =>
    let op := fld req 3 1
    if 8 < op ∧ op ≠ 0xFF then spdmError fn 1 s else spdmAnswer fn 0x60 req (measured s op) s) s)

/-! ### Secured sessions -/

/-- SPDM_KEY_EXCHANGE: only on the physical function's mailbox, at most 2 sessions at once. The session's keys come from
the exchange: a free value (log 24). -/
def execSpdmKeyExchange (fn : Nat) (req : Bytes) (s : State) : Result :=
  .next (spdmRequest 0xE4 3 fn req (fun x s =>
    if fn ≠ 0 then spdmError fn 7 s
    else if 2 ≤ x.sessions.length then spdmError fn 0x0A s
    else
      let (half, s) := freeBits 16 s
      let (keys, s) := fresh s
      let id := fld req 4 2 + 2 ^ 16 * half
      spdmAnswer fn 0x64 req (zeros 2 ++ le 2 half) (setSpdm fn { x with sessions := x.sessions ++ [(id, false, keys)] } s)) s)

/-- The request inside a secured message. -/
def inner (req : Bytes) : Bytes := req.drop 4

/-- A request within a secured session: `done` says whether the session must have finished its handshake. -/
def securedRequest (code fn : Nat) (done : Bool) (req : Bytes) (act : Nat → Spdm → State → State) (s : State) : State :=
  if !mailboxUp s fn then s else
  let x := spdmAt s fn
  match x.sessions.find? fun y => y.1 == fld req 0 4 with
  | none => spdmError fn 2 s
  | some y =>
    if !Config.spdmSecured y.2.2 req then spdmError fn 6 s else
    match spdmFault x code 3 (inner req) with
    | some e => spdmError fn e s
    | none => if y.2.1 != done then spdmError fn 4 s else act y.1 x s

/-- SPDM_FINISH: the session is established. -/
def execSpdmFinish (fn : Nat) (req : Bytes) (s : State) : Result :=
  .next (securedRequest 0xE5 fn false req (fun id x s =>
    spdmAnswer fn 0x65 req (zeros 2) (setSpdm fn { x with sessions := x.sessions.map fun y => if y.1 = id then (id, true, y.2.2) else y } s)) s)

/-- SPDM_HEARTBEAT keeps a session alive. -/
def execSpdmHeartbeat (fn : Nat) (req : Bytes) (s : State) : Result :=
  .next (securedRequest 0xE8 fn true req (fun _ _ s => spdmAnswer fn 0x68 req (zeros 2) s) s)

/-- SPDM_KEY_UPDATE: the session's keys are replaced. -/
def execSpdmKeyUpdate (fn : Nat) (req : Bytes) (s : State) : Result :=
  .next (securedRequest 0xE9 fn true req (fun id x s =>
    let (keys, s) := fresh s
    spdmAnswer fn 0x69 req (slice (inner req) 2 2)
      (setSpdm fn { x with sessions := x.sessions.map fun y => if y.1 = id then (id, y.2.1, keys) else y } s)) s)

/-- SPDM_END_SESSION. -/
def execSpdmEndSession (fn : Nat) (req : Bytes) (s : State) : Result :=
  .next (securedRequest 0xEC fn true req (fun id x s =>
    spdmAnswer fn 0x6C req (zeros 2) (setSpdm fn { x with sessions := x.sessions.filter fun y => y.1 != id } s)) s)

/-- What an IDE key management object does to a stream's keys, by key set, direction and sub-stream: 2 programs a key with its
initial value, 4 puts it into use, 5 stops it, and the key is gone. -/
def Ide.after (x : Ide) (obj sub : Nat) (key : Bytes) : Ide :=
  let others := x.keys.filter fun y => y.1 != sub
  let going := x.go.filter (· != sub)
  if obj = 2 then { x with keys := others ++ [(sub, key)] }
  else if obj = 4 ∧ others ≠ x.keys then { x with go := going ++ [sub] }
  else if obj = 5 then ⟨others, going⟩
  else x

/-- An IDE key management request takes effect on its stream (R437, PRESUMED, log 24). -/
def ideRequest (req : Bytes) (s : State) : State :=
  let b := inner req
  let stream := fld b 15 1
  if 4 < stream then s else
  let x := ((tget none s.trust.ide stream).getD ⟨[], []⟩).after (fld b 12 1) (fld b 17 1) (slice b 19 40)
  { s with trust := { s.trust with ide := tset none s.trust.ide stream (if x.keys.isEmpty then none else some x) } }

/-- SPDM_VENDOR_DEFINED_REQUEST: IDE key management only, over a secured session. -/
def execSpdmVendorDefinedRequest (fn : Nat) (req : Bytes) (s : State) : Result :=
  .next (securedRequest 0xFE fn true req (fun _ _ s =>
    if fld (inner req) 11 1 ≠ 0 then spdmError fn 7 s else spdmAnswer fn 0x7E req (zeros 2 ++ slice (inner req) 4 5) (ideRequest req s)) s)

end Sys2Proof.Machine
end

