-- ==== Sys2Proof/Machine/Dispatch.lean ====
section
/-!
DEFINITION. One arm for each command: a direct call of its meaning.
-/

namespace Sys2Proof.Machine

/-- The effect of a command on everything but the queue. -/
def exec (i : Instr) (s : State) : Host.Outcome State Fault Refusal :=
  match i with
  | .powerApply => Sys2Proof.Machine.execPowerApply s
  | .resetRelease pufOk => Sys2Proof.Machine.execResetRelease pufOk s
  | .perstAssert => Sys2Proof.Machine.execPerstAssert s
  | .d3hotToD0 pufOk => Sys2Proof.Machine.execD3hotToD0 pufOk s
  | .warmResetBegin pufOk => Sys2Proof.Machine.execWarmResetBegin pufOk s
  | .functionLevelReset fn => Sys2Proof.Machine.execFunctionLevelReset fn s
  | .maskRomReady => Sys2Proof.Machine.execMaskRomReady s
  | .configRequest fn => Sys2Proof.Machine.execConfigRequest fn s
  | .load value => Sys2Proof.Machine.execLoad value s
  | .bootFetchDone image accessOk => Sys2Proof.Machine.execBootFetchDone image accessOk s
  | .bootVerifyDone => Sys2Proof.Machine.execBootVerifyDone s
  | .firmwareRunning trainOk => Sys2Proof.Machine.execFirmwareRunning trainOk s
  | .analogueTrip cause => Sys2Proof.Machine.execAnalogueTrip cause s
  | .tripLatchRelease => Sys2Proof.Machine.execTripLatchRelease s
  | .linkDown => Sys2Proof.Machine.execLinkDown s
  | .linkReturn rate width => Sys2Proof.Machine.execLinkReturn rate width s
  | .linkRateChange rate width => Sys2Proof.Machine.execLinkRateChange rate width s
  | .hostAccessFault f => Sys2Proof.Machine.execHostAccessFault f s
  | .aqEnable => Sys2Proof.Machine.execAqEnable s
  | .aqDisable => Sys2Proof.Machine.execAqDisable s
  | .hostFlagsClear value raced => Sys2Proof.Machine.execHostFlagsClear value raced s
  | .syncFlagsClear value raced => Sys2Proof.Machine.execSyncFlagsClear value raced s
  | .sqTail fn page value => Sys2Proof.Machine.execSqTail fn page value s
  | .cqHead fn page value => Sys2Proof.Machine.execCqHead fn page value s
  | .evqHead fn page value => Sys2Proof.Machine.execEvqHead fn page value s
  | .outqHead fn page value => Sys2Proof.Machine.execOutqHead fn page value s
  | .doorbellConsume => Sys2Proof.Machine.execDoorbellConsume s
  | .lowWordRead fn offset => Sys2Proof.Machine.execLowWordRead fn offset s
  | .registerWrite fn bar offset size value => Sys2Proof.Machine.execRegisterWrite fn bar offset size value s
  | .commandFetch sq raw => Sys2Proof.Machine.execCommandFetch sq raw s
  | .unknownOpcode c => Sys2Proof.Machine.execUnknownOpcode c s
  | .cqCreate c => Sys2Proof.Machine.execCqCreate c s
  | .sqCreate c => Sys2Proof.Machine.execSqCreate c s
  | .evqCreate c => Sys2Proof.Machine.execEvqCreate c s
  | .queueDelete c => Sys2Proof.Machine.execQueueDelete c s
  | .identify c => Sys2Proof.Machine.execIdentify c s
  | .moduleReset c => Sys2Proof.Machine.execModuleReset c s
  | .stackReset c => Sys2Proof.Machine.execStackReset c s
  | .stackResetDone => Sys2Proof.Machine.execStackResetDone s
  | .pwrModeSet c => Sys2Proof.Machine.execPwrModeSet c s
  | .powerModeEffectTurn => Sys2Proof.Machine.execPowerModeEffectTurn s
  | .spindleSourceSet c => Sys2Proof.Machine.execSpindleSourceSet c s
  | .spindleStatus c => Sys2Proof.Machine.execSpindleStatus c s
  | .planLoad c => Sys2Proof.Machine.execPlanLoad c s
  | .planArm c => Sys2Proof.Machine.execPlanArm c s
  | .planStop c => Sys2Proof.Machine.execPlanStop c s
  | .planUnload c => Sys2Proof.Machine.execPlanUnload c s
  | .planQuery c => Sys2Proof.Machine.execPlanQuery c s
  | .syncQuery c => Sys2Proof.Machine.execSyncQuery c s
  | .modelManifestLoad c => Sys2Proof.Machine.execModelManifestLoad c s
  | .modelInstall c => Sys2Proof.Machine.execModelInstall c s
  | .modelChunkRead chunk => Sys2Proof.Machine.execModelChunkRead chunk s
  | .chuckSwitch c => Sys2Proof.Machine.execChuckSwitch c s
  | .modelRelease c => Sys2Proof.Machine.execModelRelease c s
  | .bindKeyCreate c => Sys2Proof.Machine.execBindKeyCreate c s
  | .bindKeySupply c => Sys2Proof.Machine.execBindKeySupply c s
  | .chuckRead c => Sys2Proof.Machine.execChuckRead c s
  | .modelStatus c => Sys2Proof.Machine.execModelStatus c s
  | .adapterLoad c => Sys2Proof.Machine.execAdapterLoad c s
  | .adapterRetire c => Sys2Proof.Machine.execAdapterRetire c s
  | .adapterQuery c => Sys2Proof.Machine.execAdapterQuery c s
  | .sessionOpen c => Sys2Proof.Machine.execSessionOpen c s
  | .sessionFeed c => Sys2Proof.Machine.execSessionFeed c s
  | .sessionClose c => Sys2Proof.Machine.execSessionClose c s
  | .sessionQuery c => Sys2Proof.Machine.execSessionQuery c s
  | .outqCreate c => Sys2Proof.Machine.execOutqCreate c s
  | .outqDelete c => Sys2Proof.Machine.execOutqDelete c s
  | .ctxTenantQuota c => Sys2Proof.Machine.execCtxTenantQuota c s
  | .ctxColdArea c => Sys2Proof.Machine.execCtxColdArea c s
  | .ctxCreate c => Sys2Proof.Machine.execCtxCreate c s
  | .ctxDelete c => Sys2Proof.Machine.execCtxDelete c s
  | .ctxQuery c => Sys2Proof.Machine.execCtxQuery c s
  | .ctxExport c => Sys2Proof.Machine.execCtxExport c s
  | .ctxImport c => Sys2Proof.Machine.execCtxImport c s
  | .ctxConsolidate c => Sys2Proof.Machine.execCtxConsolidate c s
  | .ctxJobCancel c => Sys2Proof.Machine.execCtxJobCancel c s
  | .calSelf c => Sys2Proof.Machine.execCalSelf c s
  | .calSelfDone refFail results => Sys2Proof.Machine.execCalSelfDone refFail results s
  | .adcTrimRead c => Sys2Proof.Machine.execAdcTrimRead c s
  | .monTableSet c => Sys2Proof.Machine.execMonTableSet c s
  | .monConvertNow c => Sys2Proof.Machine.execMonConvertNow c s
  | .monRingRead c => Sys2Proof.Machine.execMonRingRead c s
  | .trueStats c => Sys2Proof.Machine.execTrueStats c s
  | .calPolicySet c => Sys2Proof.Machine.execCalPolicySet c s
  | .calFactorsRead c => Sys2Proof.Machine.execCalFactorsRead c s
  | .calFactorsWrite c => Sys2Proof.Machine.execCalFactorsWrite c s
  | .calWarmup c => Sys2Proof.Machine.execCalWarmup c s
  | .calStatus c => Sys2Proof.Machine.execCalStatus c s
  | .integrityPolicySet c => Sys2Proof.Machine.execIntegrityPolicySet c s
  | .honeRequest c => Sys2Proof.Machine.execHoneRequest c s
  | .honeStatus c => Sys2Proof.Machine.execHoneStatus c s
  | .integrityStats c => Sys2Proof.Machine.execIntegrityStats c s
  | .bbRelease c => Sys2Proof.Machine.execBbRelease c s
  | .dritarPortEnable c => Sys2Proof.Machine.execDritarPortEnable c s
  | .fabricMapSet c => Sys2Proof.Machine.execFabricMapSet c s
  | .dritarPortStatus c => Sys2Proof.Machine.execDritarPortStatus c s
  | .tenantKeySet c => Sys2Proof.Machine.execTenantKeySet c s
  | .tenantKeyClear c => Sys2Proof.Machine.execTenantKeyClear c s
  | .vfBind c => Sys2Proof.Machine.execVfBind c s
  | .planKeyRegister c => Sys2Proof.Machine.execPlanKeyRegister c s
  | .planKeyRemove c => Sys2Proof.Machine.execPlanKeyRemove c s
  | .svnCommit c => Sys2Proof.Machine.execSvnCommit c s
  | .identityRead c => Sys2Proof.Machine.execIdentityRead c s
  | .loadLogRead c => Sys2Proof.Machine.execLoadLogRead c s
  | .diagSnapshot c => Sys2Proof.Machine.execDiagSnapshot c s
  | .spdmGetVersion fn req => Sys2Proof.Machine.execSpdmGetVersion fn req s
  | .spdmGetCapabilities fn req => Sys2Proof.Machine.execSpdmGetCapabilities fn req s
  | .spdmNegotiateAlgorithms fn req => Sys2Proof.Machine.execSpdmNegotiateAlgorithms fn req s
  | .spdmGetDigests fn req => Sys2Proof.Machine.execSpdmGetDigests fn req s
  | .spdmGetCertificate fn req => Sys2Proof.Machine.execSpdmGetCertificate fn req s
  | .spdmChallenge fn req => Sys2Proof.Machine.execSpdmChallenge fn req s
  | .spdmGetMeasurements fn req => Sys2Proof.Machine.execSpdmGetMeasurements fn req s
  | .spdmKeyExchange fn req => Sys2Proof.Machine.execSpdmKeyExchange fn req s
  | .spdmFinish fn req => Sys2Proof.Machine.execSpdmFinish fn req s
  | .spdmHeartbeat fn req => Sys2Proof.Machine.execSpdmHeartbeat fn req s
  | .spdmKeyUpdate fn req => Sys2Proof.Machine.execSpdmKeyUpdate fn req s
  | .spdmEndSession fn req => Sys2Proof.Machine.execSpdmEndSession fn req s
  | .spdmVendorDefinedRequest fn req => Sys2Proof.Machine.execSpdmVendorDefinedRequest fn req s
  | .indexBoundary fails => Sys2Proof.Machine.execIndexBoundary fails s
  | .spindleFrame bits bitError => Sys2Proof.Machine.execSpindleFrame bits bitError s
  | .dritarMarker port block => Sys2Proof.Machine.execDritarMarker port block s
  | .selfSpindleLock => Sys2Proof.Machine.execSelfSpindleLock s
  | .spindleStop => Sys2Proof.Machine.execSpindleStop s
  | .spindleResume => Sys2Proof.Machine.execSpindleResume s
  | .planStart p => Sys2Proof.Machine.execPlanStart p s
  | .passBoundary p => Sys2Proof.Machine.execPassBoundary p s
  | .stallLimit p => Sys2Proof.Machine.execStallLimit p s
  | .waitingOperationResume id => Sys2Proof.Machine.execWaitingOperationResume id s
  | .nop st op => Sys2Proof.Machine.execNop st op s
  | .refOn st op => Sys2Proof.Machine.execRefOn st op s
  | .refOff st op => Sys2Proof.Machine.execRefOff st op s
  | .deckSel st op => Sys2Proof.Machine.execDeckSel st op s
  | .stroke st op => Sys2Proof.Machine.execStroke st op s
  | .strokeRecordWrite id => Sys2Proof.Machine.execStrokeRecordWrite id s
  | .rangeSplitReread id => Sys2Proof.Machine.execRangeSplitReread id s
  | .reverseRead st op => Sys2Proof.Machine.execReverseRead st op s
  | .reverseReadRecordWrite id => Sys2Proof.Machine.execReverseReadRecordWrite id s
  | .move st op => Sys2Proof.Machine.execMove st op s
  | .trueOp st op => Sys2Proof.Machine.execTrueOp st op s
  | .trueOutputWrite id => Sys2Proof.Machine.execTrueOutputWrite id s
  | .recomputeResult st req tileOk => Sys2Proof.Machine.execRecomputeResult st req tileOk s
  | .readReplayResolve id group => Sys2Proof.Machine.execReadReplayResolve id group s
  | .pairedSampleResult st req => Sys2Proof.Machine.execPairedSampleResult st req s
  | .coreReduce st op => Sys2Proof.Machine.execCoreReduce st op s
  | .coreReduceWrite id => Sys2Proof.Machine.execCoreReduceWrite id s
  | .stackReduce st op => Sys2Proof.Machine.execStackReduce st op s
  | .stackReduceWrite id => Sys2Proof.Machine.execStackReduceWrite id s
  | .fuse st op => Sys2Proof.Machine.execFuse st op s
  | .fuseWrite id => Sys2Proof.Machine.execFuseWrite id s
  | .grainSend st op => Sys2Proof.Machine.execGrainSend st op s
  | .grainFrameArrival frame crcOk => Sys2Proof.Machine.execGrainFrameArrival frame crcOk s
  | .dritarSend st op => Sys2Proof.Machine.execDritarSend st op s
  | .memRead st op => Sys2Proof.Machine.execMemRead st op s
  | .memReadArrival id tileOk => Sys2Proof.Machine.execMemReadArrival id tileOk s
  | .memWrite st op => Sys2Proof.Machine.execMemWrite st op s
  | .memWriteDone id => Sys2Proof.Machine.execMemWriteDone id s
  | .clusterMatmul st op => Sys2Proof.Machine.execClusterMatmul st op s
  | .clusterMatmulWrite id => Sys2Proof.Machine.execClusterMatmulWrite id s
  | .attend st op => Sys2Proof.Machine.execAttend st op s
  | .attendWrite id => Sys2Proof.Machine.execAttendWrite id s
  | .kvAppend st op => Sys2Proof.Machine.execKvAppend st op s
  | .kvAppendWrite id => Sys2Proof.Machine.execKvAppendWrite id s
  | .sample st op => Sys2Proof.Machine.execSample st op s
  | .sampleWrite id => Sys2Proof.Machine.execSampleWrite id s
  | .finish st op => Sys2Proof.Machine.execFinish st op s
  | .finishDecisionWrite id => Sys2Proof.Machine.execFinishDecisionWrite id s
  | .barrierArrive st op => Sys2Proof.Machine.execBarrierArrive st op s
  | .barrierWait st op => Sys2Proof.Machine.execBarrierWait st op s
  | .barrierReleaseReach id => Sys2Proof.Machine.execBarrierReleaseReach id s
  | .feWait st op => Sys2Proof.Machine.execFeWait st op s
  | .feEmpty st op => Sys2Proof.Machine.execFeEmpty st op s
  | .gatherTask st op => Sys2Proof.Machine.execGatherTask st op s
  | .gatherTaskWrite id => Sys2Proof.Machine.execGatherTaskWrite id s
  | .adapterUpdateTask st op => Sys2Proof.Machine.execAdapterUpdateTask st op s
  | .probeReadStart engine => Sys2Proof.Machine.execProbeReadStart engine s
  | .probeReadDone engine => Sys2Proof.Machine.execProbeReadDone engine s
  | .programLoopStart engine => Sys2Proof.Machine.execProgramLoopStart engine s
  | .programLoopDone engine unreached => Sys2Proof.Machine.execProgramLoopDone engine unreached s
  | .honeTestsDone st core failedTest => Sys2Proof.Machine.execHoneTestsDone st core failedTest s
  | .monitorConversionEnd mon code skipped => Sys2Proof.Machine.execMonitorConversionEnd mon code skipped s
  | .monitorDelayEnd mon => Sys2Proof.Machine.execMonitorDelayEnd mon s
  | .pageMoveDone ctx layer page tileOk => Sys2Proof.Machine.execPageMoveDone ctx layer page tileOk s
  | .coldPageFetchDone ctx layer page cipher => Sys2Proof.Machine.execColdPageFetchDone ctx layer page cipher s
  | .replayResult replay tileOk => Sys2Proof.Machine.execReplayResult replay tileOk s
  | .replayWaitExpiry replay => Sys2Proof.Machine.execReplayWaitExpiry replay s
  | .fatalFault code location => Sys2Proof.Machine.execFatalFault code location s
  | .portTrainingStart => Sys2Proof.Machine.execPortTrainingStart s
  | .fecLock port roundTrips => Sys2Proof.Machine.execFecLock port roundTrips s
  | .trainingTimeout port => Sys2Proof.Machine.execTrainingTimeout port s
  | .fecLockLoss port => Sys2Proof.Machine.execFecLockLoss port s
  | .helloTimer port => Sys2Proof.Machine.execHelloTimer port s
  | .helloTimeout port => Sys2Proof.Machine.execHelloTimeout port s
  | .dritarHello port frame => Sys2Proof.Machine.execDritarHello port frame s
  | .attCert port frame => Sys2Proof.Machine.execAttCert port frame s
  | .attOffer port frame => Sys2Proof.Machine.execAttOffer port frame s
  | .attSign port frame => Sys2Proof.Machine.execAttSign port frame s
  | .attAbort port frame => Sys2Proof.Machine.execAttAbort port frame s
  | .attestTimeout port => Sys2Proof.Machine.execAttestTimeout port s
  | .attestRetry port => Sys2Proof.Machine.execAttestRetry port s
  | .dritarNack port frame => Sys2Proof.Machine.execDritarNack port frame s
  | .dritarPlanData port frame => Sys2Proof.Machine.execDritarPlanData port frame s
  | .dritarBarrierArrival port frame => Sys2Proof.Machine.execDritarBarrierArrival port frame s
  | .dritarManagement port frame => Sys2Proof.Machine.execDritarManagement port frame s
  | .dritarBulk port frame => Sys2Proof.Machine.execDritarBulk port frame s

end Sys2Proof.Machine
end

