-- ==== Sys2Proof/Machine/Step.lean ====
section
/-!
DEFINITION. One step of the block: the command at the front of the queue takes effect (log 2).
-/

namespace Sys2Proof.Machine

/-- The state with a command that waits in front of all others. -/
def State.push (c : Instr) (s : State) : State := { s with pending := c :: s.pending }

/-- Take the command at the front of the queue and run it with the queue's rest; a block without
waiting commands idles (log 2). -/
def step (s : State) : Host.Outcome State Fault Refusal :=
  match s.pending with
  | [] => .next s
  | c :: rest => exec c { s with pending := rest }

/-- The state with the command that a word spells at the front of its queue. No row of the table has
bits (log 1), so no word spells a command. -/
def State.withFetchWord (s : State) (nbits w : Nat) : State :=
  match decodeTableWord nbits w with
  | some c => s.push c
  | none => s

end Sys2Proof.Machine
end

