-- ==== Sys2Proof/Safety.lean ====
section
/-!
DEFINITION. What a safe run of the block is, and the words the statements use: canonical memories, the
legal values of the boot and fault registers, and a command the checks of R475 let through.
-/

namespace Sys2Proof.Machine

/-! ### Canonical memories -/

/-- The canonical form of a memory: addresses strictly rising, no entry equal to 0, which an unlisted
address reads as (log 5). -/
def Memory.wf (m : Tab Byte) : Bool := twf 0#8 m

/-- All memories of the module have the canonical form: stores, package, module memory and scratch. -/
def State.memOk (s : State) : Bool :=
  Memory.wf s.stores.mem && Memory.wf s.mem.package && Memory.wf s.mem.module && Memory.wf s.mem.scratch

/-! ### Legal values of the boot and fault registers -/

/-- Programmed bits of `SVN_FUSES` form a thermometer code (R427): the `k` lowest ones. -/
def thermometer (f : BitVec 32) : Prop := ∃ k, k ≤ 32 ∧ f = BitVec.ofNat 32 (2 ^ k - 1)

/-- The values that R459 and R461 give for STATE, FATAL_CODE, BOOT_STATE, BOOT_ERROR and BOOT_ATTEMPTS: a fatal
code exactly in Hold, no firmware before an image has passed; and the code of R427. -/
structure Phys.Legal (p : Phys) : Prop where
  state : p.state ≤ 4
  fatal : p.fatal ≤ 5
  hold : p.state = 4 ↔ p.fatal ≠ 0
  bootState : p.bootState ≤ 4
  bootError : p.bootError ≤ 9
  attempts : p.bootAttempts ≤ 65535
  busy : p.state = 0 → p.bootState = 0
  handed : p.state = 2 ∨ p.state = 3 → p.bootState = 4
  fuses : thermometer p.svnFuses

/-- What every step keeps: memories in canonical form, boot and fault registers at legal values. -/
structure State.Inv (s : State) : Prop where
  memory : s.memOk = true
  legal : s.phys.Legal

/-! ### Safe steps -/

/-- The block takes its next step: it neither faults nor refuses. -/
def Safe (s : State) : Prop := ∃ t, step s = .next t

/-! ### Host commands -/

/-- The fetched command of `c` may run as opcode `op` in `s`: it has not begun, its turn has come (R469), and steps 1
to 4 of R475 let it pass; `cmd` is the command as its meaning sees it, `t` the state once it has begun and its tag is
consumed. -/
def Begins (op : Nat) (c : CmdIn) (s : State) (cmd : Cmd) (t : State) : Prop :=
  tget none s.host.fetched c.tag = some cmd.f ∧ cmd.f.begun = false ∧ opcodeOf cmd.f.raw = op ∧
  mayBegin s c.tag cmd.f = true ∧ gate cmd.f c (markBegun c.tag cmd.f s) = (t, none) ∧
  cmd = ⟨c.tag, cmd.f, c.param, c.data, needsTag cmd.f.raw cmd.f.fn t⟩

/-- A command that begins and passes every check of its own. -/
def Accepted (op : Nat) (checks : Cmd → State → List Check) (c : CmdIn) (s : State) (cmd : Cmd) (t : State) : Prop :=
  Begins op c s cmd t ∧ firstFail (checks cmd t) = none

/-- A command that begins and passes every check of its own but those that answer INTEGRITY_FAIL: whether these pass
rests on a cipher, a signature or a digest. -/
def AcceptedBut (op : Nat) (checks : Cmd → State → List Check) (c : CmdIn) (s : State) (cmd : Cmd) (t : State) : Prop :=
  Begins op c s cmd t ∧ firstFail ((checks cmd t).filter fun x => x.2.status != 7) = none

/-- Every accepted command of a constructor completes with SUCCESS, its result and its effect. -/
def Succeeds (mk : CmdIn → Instr) (op : Nat) (checks : Cmd → State → List Check) (result : Cmd → State → Nat)
    (effect : Cmd → State → State) : Prop :=
  ∀ c s cmd t, Accepted op checks c s cmd t → exec (mk c) s = .next (complete c.tag 0 0 (result cmd t) (effect cmd t))

/-- Every accepted command of a constructor has an effect and completes at a later command. -/
def Proceeds (mk : CmdIn → Instr) (op : Nat) (checks : Cmd → State → List Check) (effect : Cmd → State → State) : Prop :=
  ∀ c s cmd t, Accepted op checks c s cmd t → exec (mk c) s = .next (effect cmd t)

/-- The host commands of the opcode table with their opcode, their own checks in the order of R475 (R491) and their effect, but
DRITAR_PORT_ENABLE, whose completion may follow that of an earlier one. -/
def hostRows : List ((CmdIn → Instr) × Nat × (Cmd → State → List Check) × (Cmd → State → Ran)) :=
  [ (.cqCreate, 0x0101, cqCreateChecks, cqCreate), (.sqCreate, 0x0102, sqCreateChecks, sqCreate),
    (.evqCreate, 0x0103, evqCreateChecks, evqCreate), (.queueDelete, 0x0104, queueDeleteChecks, queueDelete),
    (.identify, 0x0105, identifyChecks, identify), (.moduleReset, 0x0106, plainChecks, moduleReset),
    (.stackReset, 0x0107, stackResetChecks, stackReset), (.pwrModeSet, 0x0120, pwrModeChecks, pwrModeSet),
    (.spindleSourceSet, 0x0201, sourceSetChecks, sourceSet),
    (.spindleStatus, 0x0202, spindleStatusChecks, (fun _ s => .ok s (spindleResult s))),
    (.planLoad, 0x0210, planLoadChecks, planLoad), (.planArm, 0x0211, planArmChecks, planArm),
    (.planStop, 0x0212, planStopChecks, planStop), (.planUnload, 0x0213, planUnloadChecks, planUnload),
    (.planQuery, 0x0214, planQueryChecks, planQuery),
    (.syncQuery, 0x0220, syncQueryChecks, (fun c s => .ok s (syncResult s (c.at 40 2)))),
    (.modelManifestLoad, 0x0301, manifestChecks, manifestLoad), (.modelInstall, 0x0302, installChecks, install),
    (.chuckSwitch, 0x0303, switchChecks, chuckSwitch), (.modelRelease, 0x0304, releaseChecks, modelRelease) ] ++
  [ (.bindKeyCreate, 0x0305, keyCreateChecks, keyCreate), (.bindKeySupply, 0x0306, keySupplyChecks, keySupply),
    (.chuckRead, 0x0307, chuckReadChecks, chuckRead), (.modelStatus, 0x0308, modelStatusChecks, modelStatus),
    (.adapterLoad, 0x0401, adapterLoadChecks, adapterLoad),
    (.adapterRetire, 0x0402, adapterNameChecks, adapterRetire),
    (.adapterQuery, 0x0403, adapterNameChecks, adapterQuery),
    (.sessionOpen, 0x0501, sessionOpenChecks, sessionOpen),
    (.sessionFeed, 0x0502, sessionFeedChecks, sessionFeed), (.sessionClose, 0x0503, sessionChecks, sessionClose),
    (.sessionQuery, 0x0504, sessionChecks, sessionQuery), (.outqCreate, 0x0505, outqCreateChecks, outqCreate),
    (.outqDelete, 0x0506, outqDeleteChecks, outqDelete), (.ctxTenantQuota, 0x0601, quotaChecks, tenantQuota),
    (.ctxColdArea, 0x0602, coldAreaChecks, coldArea), (.ctxCreate, 0x0603, ctxCreateChecks, ctxCreate),
    (.ctxDelete, 0x0604, ctxDeleteChecks, ctxDelete), (.ctxQuery, 0x0605, ctxQueryChecks, ctxQuery),
    (.ctxExport, 0x0606, ctxExportChecks, ctxExport), (.ctxImport, 0x0607, ctxImportChecks, ctxImport) ] ++
  [ (.ctxConsolidate, 0x0608, consolidateChecks, consolidate),
    (.ctxJobCancel, 0x0609, jobCancelChecks, jobCancel), (.calSelf, 0x0701, calSelfChecks, calSelf),
    (.adcTrimRead, 0x0702, trimReadChecks, trimRead), (.monTableSet, 0x0710, tableSetChecks, tableSet),
    (.monConvertNow, 0x0711, convertNowChecks, convertNow), (.monRingRead, 0x0712, ringReadChecks, ringRead),
    (.trueStats, 0x0720, trueStatsChecks, trueStats), (.calPolicySet, 0x0730, calPolicyChecks, calPolicy),
    (.calFactorsRead, 0x0731, factorsReadChecks, factorsRead),
    (.calFactorsWrite, 0x0732, factorsWriteChecks, factorsWrite), (.calWarmup, 0x0733, warmupChecks, warmup),
    (.calStatus, 0x0734, calStatusChecks, calStatus), (.integrityPolicySet, 0x0801, policyChecks, policySet),
    (.honeRequest, 0x0802, honeChecks, honeRequest), (.honeStatus, 0x0803, honeStatusChecks, honeStatus),
    (.integrityStats, 0x0804, integrityStatsChecks, integrityStats),
    (.bbRelease, 0x0805, plainChecks, bbRelease), (.fabricMapSet, 0x0902, fabricChecks, fabricSet),
    (.dritarPortStatus, 0x0903, portStatusChecks, portStatus) ] ++
  [ (.tenantKeySet, 0x0A01, keySetChecks, keySet), (.tenantKeyClear, 0x0A02, keyClearChecks, keyClear),
    (.vfBind, 0x0A03, vfBindChecks, vfBind), (.planKeyRegister, 0x0A04, keyRegisterChecks, keyRegister),
    (.planKeyRemove, 0x0A05, keyRemoveChecks, keyRemove), (.svnCommit, 0x0A06, plainChecks, svnCommit),
    (.identityRead, 0x0A07, identityChecks, identityRead), (.loadLogRead, 0x0A08, logReadChecks, logRead),
    (.diagSnapshot, 0x0B01, plainChecks, diagSnapshot) ]

/-- Nothing but queues, BAR0 and what leaves the module differs: what a completion may change. -/
structure HostOnly (s t : State) : Prop where
  pending : t.pending = s.pending
  phys : t.phys = s.phys
  ev : t.ev = s.ev
  spin : t.spin = s.spin
  stores : t.stores = s.stores
  mem : t.mem = s.mem
  arr : t.arr = s.arr
  conv : t.conv = s.conv
  plans : t.plans = s.plans
  cal : t.cal = s.cal
  model : t.model = s.model
  integ : t.integ = s.integ
  serve : t.serve = s.serve
  trust : t.trust = s.trust
  net : t.net = s.net
  free : t.free = s.free

/-! ### Plan operations -/

/-- Operation `op` of stack `st`, of code `code`, is due in this index in the running partition `pk`. -/
structure Due (code st : Nat) (op : PlanOp) (s : State) (pk : Nat) (p : Part) : Prop where
  part : partOfStack s st = some (pk, p)
  code : op.code = code
  due : (st, op) ∈ p.due

/-- A due operation has left its partition's list, and the next number in flight has been taken. -/
def taken (st : Nat) (op : PlanOp) (pk : Nat) (p : Part) (s : State) : State :=
  setPart pk (some { p with due := p.due.erase (st, op) }) { s with plans := { s.plans with nextFly := s.plans.nextFly + 1 } }

/-- An operation in flight as it is at its issue. -/
def freshFly (st : Nat) (op : PlanOp) (pk : Nat) (s : State) : Fly :=
  { st := st, part := pk, op := op, issue := s.spin.tick, due := s.spin.tick, wait := .none, stall := 0
    count := s.spin.count, gain := 0, settle := none, on := false, rate := 0, seed := 0, body := .fresh }

/-- The plan operations but MGMT_TASK with their codes (R63) and what each does in its issue index. -/
def opRows : List ((Nat → PlanOp → Instr) × Nat × (Nat → Fly → State → State)) :=
  [ (.nop, 0x00, fun _ _ s => s), (.refOn, 0x01, startRefOn), (.refOff, 0x02, startRefOff), (.deckSel, 0x03, startDeckSel),
    (.stroke, 0x10, issueRead), (.reverseRead, 0x11, issueRead), (.move, 0x20, startMove),
    (.coreReduce, 0x21, startCoreReduce), (.stackReduce, 0x22, startStackReduce), (.fuse, 0x23, startFuse),
    (.trueOp, 0x24, startTrue), (.grainSend, 0x30, startGrain), (.dritarSend, 0x31, startDritar),
    (.memRead, 0x32, startMemRead), (.memWrite, 0x33, startMemWrite), (.clusterMatmul, 0x40, startMatmul),
    (.attend, 0x41, startAttend), (.kvAppend, 0x42, startKv), (.sample, 0x43, startSample),
    (.finish, 0x44, startFinish), (.barrierArrive, 0x50, startArrive), (.barrierWait, 0x51, startWait),
    (.feWait, 0x52, startFeWait), (.feEmpty, 0x53, startFeEmpty) ]

/-- The write that operation `id` makes of `ws` at the end of the index. -/
def queuedWrite (id : Nat) (f : Fly) (ws : List (Nat × Bytes)) (s : State) : State :=
  { s with stores := { s.stores with
      writes := s.stores.writes ++ [⟨id, unitPos f.st f.op, f.issue, f.op.pos, f.op.fill, ws⟩] } }

end Sys2Proof.Machine
end

