-- ==== Sys2Proof/WellFormed.lean ====
section
/-!
DEFINITION. Well-formed commands: each operand in the range that the spec gives the thing it names. The meanings are
total; a command that is not well-formed names nothing the module has, and changes nothing or is refused there.
-/

namespace Sys2Proof

/-- A function: the physical function 0 or a virtual function 1 to 31 (R454). -/
def fnOk (n : Nat) : Bool := decide (n ≤ 31)
/-- A compute stack (R20). -/
def stackOk (n : Nat) : Bool := decide (n < 16)
/-- A Dritar port: 15 board and 8 rack ports (R371). -/
def portOk (n : Nat) : Bool := decide (n < 23)
/-- A global engine address: stack, core and engine (R18). -/
def engineOk (n : Nat) : Bool := decide (n < 65536) && decide (n / 4 % 1024 < 640)
/-- A monitor converter (R143). -/
def monOk (n : Nat) : Bool := decide (n < 34)
/-- A queue number: 64 submission, completion and output queues, 8 event queues (R466, R489, R332). -/
def queueOk (n : Nat) : Bool := decide (n < 64)
/-- A 64-byte command packet (R474). -/
def packetOk (b : Bytes) : Bool := b.length == 64
/-- What one command reads from host memory: a parameter block of a 32-bit length and data of a 64-bit length
(R476). -/
def CmdIn.wf (c : CmdIn) : Bool := decide (c.param.length < 2 ^ 32) && decide (c.data.length < 2 ^ 64)
/-- A cut-list operation word: each field within its bits (R61). -/
def PlanOp.wf (o : PlanOp) : Bool :=
  decide (o.offset < 2 ^ 20) && decide (o.kind < 16) && decide (o.unit < 4096) && decide (o.code < 256)
/-- A partition of a loaded plan: 32-bit ID, 16-bit version, 16 partitions (plan image header). -/
def PartRef.wf (p : PartRef) : Bool := decide (p.plan < 2 ^ 32) && decide (p.version < 2 ^ 16) && decide (p.part < 16)
/-- A failed tile: a word, context or version there can be, one of the regions 5 to 9 (R399). -/
def CrcFail.wf : CrcFail → Bool
  | .store g => decide (g < 436207616)
  | .kv k layer page => decide (k < 2 ^ 49) && decide (layer < 2 ^ 16) && decide (page < 2 ^ 20)
  | .log k => decide (k < 2 ^ 48)
  | .adapter v => decide (v < 2 ^ 32)
  | .area region readers place _ =>
    decide (5 ≤ region) && decide (region ≤ 9) && readers.all (·.wf) && decide (place < 32)
  | .hub k => (decide (4096 ≤ k) && decide (k < 4112)) || (decide (8192 ≤ k) && decide (k < 8208))

/-- A failed access: a ring, a record or a command (R470). -/
def AccessFault.wf : AccessFault → Bool
  | .ring kind q a => decide (kind < 3) && queueOk q && (kind != 2 || decide (q < 8)) && decide (a < 2 ^ 64)
  | .record q a => queueOk q && decide (a < 2 ^ 64)
  | .command _ => true
/-- What CAL_SELF measured on an ADC: 132 ADCs in an engine (R132). -/
def AdcResult.wf (r : AdcResult) : Bool := engineOk r.engine && decide (r.adc < 132)
/-- A Dritar frame: a 16-byte header, whole 32-byte blocks, a 16-byte trailer (R372). -/
def frameOk (b : Bytes) : Bool := decide (32 ≤ b.length)
/-- A stack and an operation of its cut list. -/
def opOk (st : Nat) (o : PlanOp) : Bool := stackOk st && o.wf
/-- A context page: context, layer and page index (R277). -/
def pageOk (layer page : Nat) : Bool := decide (layer < 4096) && decide (page < 2 ^ 20)
/-- An SPDM request on a function's mailbox: at least its header (R434). -/
def spdmOk (fn : Nat) (b : Bytes) : Bool := fnOk fn && decide (4 ≤ b.length)

/-- A well-formed command. -/
def Instr.wf : Instr → Bool
  | .powerApply => true
  | .resetRelease _ => true
  | .perstAssert => true
  | .d3hotToD0 _ => true
  | .warmResetBegin _ => true
  | .functionLevelReset fn => fnOk fn && fn != 0
  | .maskRomReady => true
  | .configRequest fn => fnOk fn
  | .load _ => true
  | .bootFetchDone b _ => decide (b.length < 2 ^ 32)
  | .bootVerifyDone => true
  | .firmwareRunning _ => true
  | .analogueTrip cause => decide (cause < 4)
  | .tripLatchRelease => true
  | .linkDown => true
  | .linkReturn r w => decide (r < 256) && decide (w < 256)
  | .linkRateChange r w => decide (r < 256) && decide (w < 256)
  | .hostAccessFault f => f.wf
  | .aqEnable => true
  | .aqDisable => true
  | .hostFlagsClear _ _ => true
  | .syncFlagsClear _ _ => true
  | .sqTail fn q v => fnOk fn && queueOk q && decide (v < 2 ^ 32)
  | .cqHead fn q v => fnOk fn && queueOk q && decide (v < 2 ^ 32)
  | .evqHead fn q v => fnOk fn && queueOk q && decide (v < 2 ^ 32)
  | .outqHead fn q v => fnOk fn && queueOk q && decide (v < 2 ^ 32)
  | .doorbellConsume => true
  | .lowWordRead fn o => fnOk fn && o % 8 == 0
  | .registerWrite fn bar o n _ => fnOk fn && decide (bar < 6) && decide (o < 2 ^ 32) && decide (n ≤ 8)
  | .commandFetch q b => queueOk q && packetOk b
  | .unknownOpcode c => c.wf
  | .cqCreate c => c.wf
  | .sqCreate c => c.wf
  | .evqCreate c => c.wf
  | .queueDelete c => c.wf
  | .identify c => c.wf
  | .moduleReset c => c.wf
  | .stackReset c => c.wf
  | .stackResetDone => true
  | .pwrModeSet c => c.wf
  | .powerModeEffectTurn => true
  | .spindleSourceSet c => c.wf
  | .spindleStatus c => c.wf
  | .planLoad c => c.wf
  | .planArm c => c.wf
  | .planStop c => c.wf
  | .planUnload c => c.wf
  | .planQuery c => c.wf
  | .syncQuery c => c.wf
  | .modelManifestLoad c => c.wf
  | .modelInstall c => c.wf
  | .modelChunkRead b => decide (b.length ≤ 4194304)
  | .chuckSwitch c => c.wf
  | .modelRelease c => c.wf
  | .bindKeyCreate c => c.wf
  | .bindKeySupply c => c.wf
  | .chuckRead c => c.wf
  | .modelStatus c => c.wf
  | .adapterLoad c => c.wf
  | .adapterRetire c => c.wf
  | .adapterQuery c => c.wf
  | .sessionOpen c => c.wf
  | .sessionFeed c => c.wf
  | .sessionClose c => c.wf
  | .sessionQuery c => c.wf
  | .outqCreate c => c.wf
  | .outqDelete c => c.wf
  | .ctxTenantQuota c => c.wf
  | .ctxColdArea c => c.wf
  | .ctxCreate c => c.wf
  | .ctxDelete c => c.wf
  | .ctxQuery c => c.wf
  | .ctxExport c => c.wf
  | .ctxImport c => c.wf
  | .ctxConsolidate c => c.wf
  | .ctxJobCancel c => c.wf
  | .calSelf c => c.wf
  | .calSelfDone _ rs => rs.all AdcResult.wf
  | .adcTrimRead c => c.wf
  | .monTableSet c => c.wf
  | .monConvertNow c => c.wf
  | .monRingRead c => c.wf
  | .trueStats c => c.wf
  | .calPolicySet c => c.wf
  | .calFactorsRead c => c.wf
  | .calFactorsWrite c => c.wf
  | .calWarmup c => c.wf
  | .calStatus c => c.wf
  | .integrityPolicySet c => c.wf
  | .honeRequest c => c.wf
  | .honeStatus c => c.wf
  | .integrityStats c => c.wf
  | .bbRelease c => c.wf
  | .dritarPortEnable c => c.wf
  | .fabricMapSet c => c.wf
  | .dritarPortStatus c => c.wf
  | .tenantKeySet c => c.wf
  | .tenantKeyClear c => c.wf
  | .vfBind c => c.wf
  | .planKeyRegister c => c.wf
  | .planKeyRemove c => c.wf
  | .svnCommit c => c.wf
  | .identityRead c => c.wf
  | .loadLogRead c => c.wf
  | .diagSnapshot c => c.wf
  | .spdmGetVersion fn b => spdmOk fn b
  | .spdmGetCapabilities fn b => spdmOk fn b
  | .spdmNegotiateAlgorithms fn b => spdmOk fn b
  | .spdmGetDigests fn b => spdmOk fn b
  | .spdmGetCertificate fn b => spdmOk fn b
  | .spdmChallenge fn b => spdmOk fn b
  | .spdmGetMeasurements fn b => spdmOk fn b
  | .spdmKeyExchange fn b => spdmOk fn b
  | .spdmFinish fn b => spdmOk fn b
  | .spdmHeartbeat fn b => spdmOk fn b
  | .spdmKeyUpdate fn b => spdmOk fn b
  | .spdmEndSession fn b => spdmOk fn b
  | .spdmVendorDefinedRequest fn b => spdmOk fn b
  | .indexBoundary l => l.all (·.wf)
  | .spindleFrame _ _ => true
  | .dritarMarker p b => portOk p && b.length == 16
  | .selfSpindleLock => true
  | .spindleStop => true
  | .spindleResume => true
  | .planStart p => p.wf
  | .passBoundary p => p.wf
  | .stallLimit p => p.wf
  | .waitingOperationResume _ => true
  | .nop st o => opOk st o
  | .refOn st o => opOk st o
  | .refOff st o => opOk st o
  | .deckSel st o => opOk st o
  | .stroke st o => opOk st o
  | .strokeRecordWrite _ => true
  | .rangeSplitReread _ => true
  | .reverseRead st o => opOk st o
  | .reverseReadRecordWrite _ => true
  | .move st o => opOk st o
  | .trueOp st o => opOk st o
  | .trueOutputWrite _ => true
  | .recomputeResult st _ _ => stackOk st
  | .readReplayResolve _ g => decide (g < 8)
  | .pairedSampleResult st _ => stackOk st
  | .coreReduce st o => opOk st o
  | .coreReduceWrite _ => true
  | .stackReduce st o => opOk st o
  | .stackReduceWrite _ => true
  | .fuse st o => opOk st o
  | .fuseWrite _ => true
  | .grainSend st o => opOk st o
  | .grainFrameArrival _ _ => true
  | .dritarSend st o => opOk st o
  | .memRead st o => opOk st o
  | .memReadArrival _ _ => true
  | .memWrite st o => opOk st o
  | .memWriteDone _ => true
  | .clusterMatmul st o => opOk st o
  | .clusterMatmulWrite _ => true
  | .attend st o => opOk st o
  | .attendWrite _ => true
  | .kvAppend st o => opOk st o
  | .kvAppendWrite _ => true
  | .sample st o => opOk st o
  | .sampleWrite _ => true
  | .finish st o => opOk st o
  | .finishDecisionWrite _ => true
  | .barrierArrive st o => opOk st o
  | .barrierWait st o => opOk st o
  | .barrierReleaseReach _ => true
  | .feWait st o => opOk st o
  | .feEmpty st o => opOk st o
  | .gatherTask st o => opOk st o
  | .gatherTaskWrite _ => true
  | .adapterUpdateTask st o => opOk st o
  | .probeReadStart e => engineOk e
  | .probeReadDone e => engineOk e
  | .programLoopStart e => engineOk e
  | .programLoopDone e _ => engineOk e
  | .honeTestsDone st core _ => stackOk st && decide (core < 640)
  | .monitorConversionEnd m code _ => monOk m && decide (code < 4096)
  | .monitorDelayEnd m => monOk m
  | .pageMoveDone _ l p _ => pageOk l p
  | .coldPageFetchDone _ l p _ => pageOk l p
  | .replayResult _ _ => true
  | .replayWaitExpiry _ => true
  | .fatalFault code _ => decide (1 ≤ code) && decide (code ≤ 5)
  | .portTrainingStart => true
  | .fecLock p ts => portOk p && ts.length == 64
  | .trainingTimeout p => portOk p
  | .fecLockLoss p => portOk p
  | .helloTimer p => portOk p
  | .helloTimeout p => portOk p
  | .dritarHello p b => portOk p && frameOk b
  | .attCert p b => portOk p && frameOk b
  | .attOffer p b => portOk p && frameOk b
  | .attSign p b => portOk p && frameOk b
  | .attAbort p b => portOk p && frameOk b
  | .attestTimeout p => portOk p || decide (64 ≤ p)
  | .attestRetry p => portOk p || decide (64 ≤ p)
  | .dritarNack p b => portOk p && frameOk b
  | .dritarPlanData p b => portOk p && frameOk b
  | .dritarBarrierArrival p b => portOk p && frameOk b
  | .dritarManagement p b => portOk p && frameOk b
  | .dritarBulk p b => portOk p && frameOk b

end Sys2Proof
end

