-- ==== Sys2Proof/Certificates/Slice0/Obligations.lean ====
section
/-!
DEFINITION. The statements for the provers: what the spec's rules say of the block and its commands.
-/

open Sys2Proof Sys2Proof.Machine

/-! ### The queue of commands -/

/-- A step takes the command at the front of the queue and runs it with the queue's rest (the model's form of a block,
log 2). Without a waiting command the block idles (DESIGN CHOICE, log 2). -/
def Obligations.StepRunsTheFrontCommand : Prop :=
  (∀ (c : Instr) (rest : List Instr) (s : State), step { s with pending := c :: rest } = exec c { s with pending := rest }) ∧
  (∀ s : State, s.pending = [] → step s = .next s)

/-- No command ends in a fault or a refusal, and none touches the commands that wait behind it. -/
def Obligations.EveryCommandKeepsTheQueue : Prop :=
  ∀ (c : Instr) (s : State), ∃ t, exec c s = .next t ∧ t.pending = s.pending

/-! ### Invariants -/

/-- The state after reset has canonical memories and legal boot and fault registers. -/
def Obligations.ResetIsLegal : Prop := State.reset.Inv

/-- Every step keeps the memories canonical, STATE, FATAL_CODE, BOOT_STATE, BOOT_ERROR and BOOT_ATTEMPTS at values
that R459 and R461 give, a fatal code exactly in Hold, firmware states only after an image has passed, and the
programmed bits of SVN_FUSES a thermometer code (R427). -/
def Obligations.StepKeepsTheInvariant : Prop :=
  ∀ s t : State, s.Inv → step s = .next t → t.Inv

/-- No step clears a programmed fuse of SVN_FUSES. -/
def Obligations.FusesAreNeverCleared : Prop :=
  ∀ s t : State, step s = .next t → ∀ k, s.phys.svnFuses.getLsbD k = true → t.phys.svnFuses.getLsbD k = true

/-! ### Reset and register reads -/

/-- The physical function's BAR0 after reset (R459): 64-bit registers by their two words, then 32-bit ones. MM_UNITS
is that of the modelled part, log 7. -/
def Obligations.RegistersAfterReset : Prop :=
  (∀ off ∈ [0x08, 0x0C, 0x10, 0x18, 0x1C, 0x20, 0x40, 0x44, 0x48, 0x4C, 0x50, 0x54, 0x58, 0x80, 0x84, 0x88, 0x90, 0x94, 0x98,
      0x100, 0x104, 0x108, 0x10C, 0x110], readWord State.reset 0 off = 0) ∧
  readWord State.reset 0 0x24 = 2 ∧ readWord State.reset 0 0x00 / 2 ^ 16 = 1 ∧ readWord State.reset 0 0x04 % 2 ^ 8 = 16 ∧
  readWord State.reset 0 0x04 / 2 ^ 16 = 31

/-- VF BAR0 (R462): PART, STEPPING and HIF_VERSION, STATE and SPINDLE_NOW read as in BAR0, VF_TENANT gives the bound
tenant or 0xFFFF and whether it is protected, every other offset reads 0, and writes change nothing. -/
def Obligations.VirtualFunctionRegisters : Prop :=
  ∀ (s : State) (fn : Nat), fn ≠ 0 →
    readWord s fn 0x00 = readWord s 0 0x00 ∧
    readWord s fn 0x10 = s.phys.state ∧
    readWord s fn 0x18 = s.spin.count % 2 ^ 32 ∧
    (∀ t, exec (.lowWordRead fn 0x18) s = .next t → s.phys.link = true → readWord t fn 0x1C = s.spin.count / 2 ^ 32) ∧
    readWord s fn 0x40 =
      (if tget 0 s.trust.binds fn = 0 then 0xFFFF
       else tget 0 s.trust.binds fn + if (tenantOf s (tget 0 s.trust.binds fn)).isSome then 0x10000 else 0) ∧
    (∀ off, off % 4 = 0 → off ∉ [0x00, 0x10, 0x18, 0x1C, 0x40] → readWord s fn off = 0) ∧
    (∀ bar off size v, exec (.registerWrite fn bar off size v) s = .next s)

/-! ### Flags and doorbells -/

/-- The two W1C flag registers (R359): a setting sets the flag and advances its saturating counter, whether the flag
was clear or set; a write of 1 clears flag and counter, unless hardware sets the flag in that cycle; nothing else
changes. They are read at 0x80 and 0x90, their counters of eight bits after them. -/
def Obligations.FlagsCountTheirSettings : Prop :=
  (∀ (s : State) (k : Nat), k < 6 →
    let t := setHostFlag k s
    let u := setSyncFlag k s
    (∀ j, t.bar.hostFlags.getLsbD j = (decide (j = k) || s.bar.hostFlags.getLsbD j)) ∧
    (∀ j, tget 0 t.bar.hostSets j = if j = k then min 255 (tget 0 s.bar.hostSets k + 1) else tget 0 s.bar.hostSets j) ∧
    (∀ j, u.bar.syncFlags.getLsbD j = (decide (j = k) || s.bar.syncFlags.getLsbD j)) ∧
    (∀ j, tget 0 u.bar.syncSets j = if j = k then min 255 (tget 0 s.bar.syncSets k + 1) else tget 0 s.bar.syncSets j) ∧
    t = { s with bar := { s.bar with hostFlags := t.bar.hostFlags, hostSets := t.bar.hostSets } } ∧
    u = { s with bar := { s.bar with syncFlags := u.bar.syncFlags, syncSets := u.bar.syncSets } }) ∧
  (∀ (s : State) (v : BitVec 32) (raced : BitVec 6), s.phys.link = true →
    ∃ t, exec (.hostFlagsClear v raced) s = .next t ∧
      t = { s with bar := { s.bar with hostFlags := t.bar.hostFlags, hostSets := t.bar.hostSets } } ∧
      ∀ j, j < 6 →
        t.bar.hostFlags.getLsbD j = (raced.getLsbD j || (s.bar.hostFlags.getLsbD j && !v.getLsbD j)) ∧
        tget 0 t.bar.hostSets j =
          if raced.getLsbD j then min 255 (tget 0 s.bar.hostSets j + 1) else if v.getLsbD j then 0 else tget 0 s.bar.hostSets j) ∧
  (∀ (s : State) (v : BitVec 32) (raced : BitVec 6), s.phys.link = true →
    ∃ t, exec (.syncFlagsClear v raced) s = .next t ∧
      t = { s with bar := { s.bar with syncFlags := t.bar.syncFlags, syncSets := t.bar.syncSets } } ∧
      ∀ j, j < 6 →
        t.bar.syncFlags.getLsbD j = (raced.getLsbD j || (s.bar.syncFlags.getLsbD j && !v.getLsbD j)) ∧
        tget 0 t.bar.syncSets j =
          if raced.getLsbD j then min 255 (tget 0 s.bar.syncSets j + 1) else if v.getLsbD j then 0 else tget 0 s.bar.syncSets j) ∧
  (∀ s : State, (∀ j, tget 0 s.bar.hostSets j ≤ 255 ∧ tget 0 s.bar.syncSets j ≤ 255) →
    let four := fun (t : Tab Nat) => tget 0 t 0 + 2 ^ 8 * tget 0 t 1 + 2 ^ 16 * tget 0 t 2 + 2 ^ 24 * tget 0 t 3
    let two := fun (t : Tab Nat) => tget 0 t 4 + 2 ^ 8 * tget 0 t 5
    readWord s 0 0x80 = s.bar.hostFlags.toNat ∧ readWord s 0 0x84 = four s.bar.hostSets ∧ readWord s 0 0x88 = two s.bar.hostSets ∧
    readWord s 0 0x90 = s.bar.syncFlags.toNat ∧ readWord s 0 0x94 = four s.bar.syncSets ∧ readWord s 0 0x98 = two s.bar.syncSets)

/-- Doorbell writes while the link is up (R358, R464): a write to a queue that does not exist or that another function
owns sets DOORBELL_STRAY; a value out of range sets DOORBELL_INVALID and posts DOORBELL_REJECTED once per queue and
turn; any other value is held in place of an earlier one. A tail is in range below the entry count, a head on the arc
from head to tail, the head of an output queue on a record boundary of 64 bytes. DOORBELL_CONSUME (R358): each queue
takes the latest value its doorbell holds, and no doorbell holds a value any more. -/
def Obligations.DoorbellsAreJudgedAndConsumed : Prop :=
  (∀ (s : State) (fn q v : Nat), s.phys.link = true →
    let stray := setHostFlag 3 s
    let invalid := fun kind => postOncePerTurn 1 0 0x0103 2 (kind * 64 + q) (le 1 kind ++ le 4 q ++ le 4 v) (setHostFlag 2 s)
    let held := fun kind => { s with host := { s.host with bells := tset none s.host.bells (kind * 64 + q) (some v) } }
    let arc := fun (exp head tail : Nat) => v < 2 ^ exp ∧ (v + 2 ^ exp - head) % 2 ^ exp ≤ (tail + 2 ^ exp - head) % 2 ^ exp
    exec (.sqTail fn q v) s = .next (match tget none s.host.sqs q with
      | none => stray
      | some r => if r.owner ≠ fn then stray else if v < 2 ^ r.exp then held 0 else invalid 0) ∧
    exec (.cqHead fn q v) s = .next (match tget none s.host.cqs q with
      | none => stray
      | some r => if r.owner ≠ fn then stray else if arc r.exp r.head r.tail then held 1 else invalid 1) ∧
    exec (.evqHead fn q v) s = .next (match tget none s.host.evqs q with
      | none => stray
      | some r => if fn ≠ 0 then stray else if arc r.exp r.head r.tail then held 2 else invalid 2) ∧
    exec (.outqHead fn q v) s = .next (match tget none s.host.outqs q with
      | none => stray
      | some r => if r.owner ≠ fn then stray else if v % 64 = 0 ∧ (v = r.head ∨ v ∈ r.marks) then held 3 else invalid 3)) ∧
  (∀ s : State, ∃ t, exec .doorbellConsume s = .next t ∧ t.host.bells = [] ∧
    (∀ q, tget none t.host.sqs q =
      (tget none s.host.sqs q).map fun r => { r with tail := (tget none s.host.bells q).getD r.tail }) ∧
    (∀ q, tget none t.host.cqs q =
      (tget none s.host.cqs q).map fun r => { r with head := (tget none s.host.bells (64 + q)).getD r.head }) ∧
    (∀ q, tget none t.host.evqs q =
      (tget none s.host.evqs q).map fun r => { r with head := (tget none s.host.bells (128 + q)).getD r.head }) ∧
    (∀ q, (tget none t.host.outqs q).map (fun r => (r.head, r.tail, r.phase, r.owner)) =
      (tget none s.host.outqs q).map fun r => ((tget none s.host.bells (192 + q)).getD r.head, r.tail, r.phase, r.owner)) ∧
    t = { s with host := { s.host with
      bells := [], sqs := t.host.sqs, cqs := t.host.cqs, evqs := t.host.evqs, outqs := t.host.outqs } })

/-- A write of 1 to AQ_ENABLE (R460): ignored while the pair is in use (the model's choice, log 75), refused with its
cause for an exponent or a base out of range, else both rings start at 0 with phase 1. A write of 0 stops fetching,
and the pair goes out of use at once where no admin command is fetched and no admin completion waits. -/
def Obligations.AdminPairEnableAndDisable : Prop :=
  ∀ s : State, s.phys.link = true →
    let b := s.bar
    let bad := fun cause => { s with bar := { b with enable := false, error := true, cause := cause } }
    exec .aqEnable s = .next (
      if b.active then s
      else if b.asqExp < 4 ∨ 16 < b.asqExp ∨ b.acqExp < 4 ∨ 16 < b.acqExp then bad 1
      else if b.asqBase % 4096 ≠ 0 ∨ b.acqBase % 4096 ≠ 0 then bad 2
      else { s with
        bar := { b with enable := true, active := true, error := false, cause := 0 }
        host := { s.host with
          sqs := tset none s.host.sqs 0 (some { base := b.asqBase, exp := b.asqExp, owner := 0, cq := 0, head := 0, tail := 0, faulted := false })
          cqs := tset none s.host.cqs 0 (some { base := b.acqBase, exp := b.acqExp, owner := 0, head := 0, tail := 0, phase := true, faulted := false }) } }) ∧
    exec .aqDisable s = .next (
      if b.active ∧ (∀ x ∈ tvals s.host.fetched, x.2.sq = 0 → x.2.lost = true) ∧ (∀ x ∈ s.host.waitCpl, x.1 ≠ 0) then
        { s with
          bar := { b with enable := false, active := false }
          host := { s.host with sqs := tdel s.host.sqs 0, cqs := tdel s.host.cqs 0 } }
      else { s with bar := { b with enable := false } })

/-- A write to a register of BAR0 (R458 to R460, R465): of four bytes at an aligned offset it reaches BOOT_ADDR and
BOOT_LENGTH, and the bases and exponents of the admin pair while that is not in use; every other one changes nothing.
LOW_WORD_READ of the spindle count (R458): it returns the low word, and the function's next read of the high word
gives the high word of that moment, whatever the count is by then. Reads of the memory windows (R419, R457, R458,
R462, R463, R465): a register of BAR0 answers an aligned read of four bytes, any other size or alignment reads 0 (what
such a read gives at an offset that is not aligned is the model's choice, log 70); doorbells read 0, and so does BAR4
of a virtual function. BAR4 of the physical function is memory: the header of the black box with its magic number,
flags and counts, record n at 0x1000 + 32n, and the snapshot's header, source table and queue table, which read 0
while no snapshot has been taken. -/
def Obligations.RegisterAccesses : Prop :=
  (∀ (s : State) (fn bar off size : Nat) (v : BitVec 32), exec (.registerWrite fn bar off size v) s = .next (
    let n := v.toNat
    let low := fun old => old / 2 ^ 32 * 2 ^ 32 + n
    let high := fun old => old % 2 ^ 32 + n * 2 ^ 32
    if s.phys.link = false ∨ size ≠ 4 ∨ off % 4 ≠ 0 ∨ fn ≠ 0 ∨ bar ≠ 0 then s
    else if off = 0x100 then { s with phys := { s.phys with bootAddr := low s.phys.bootAddr } }
    else if off = 0x104 then { s with phys := { s.phys with bootAddr := high s.phys.bootAddr } }
    else if off = 0x108 then { s with phys := { s.phys with bootLength := n } }
    else if s.bar.active then s
    else if off = 0x40 then { s with bar := { s.bar with asqBase := low s.bar.asqBase } }
    else if off = 0x44 then { s with bar := { s.bar with asqBase := high s.bar.asqBase } }
    else if off = 0x48 then { s with bar := { s.bar with acqBase := low s.bar.acqBase } }
    else if off = 0x4C then { s with bar := { s.bar with acqBase := high s.bar.acqBase } }
    else if off = 0x50 then { s with bar := { s.bar with asqExp := n % 2 ^ 5, acqExp := n / 2 ^ 8 % 2 ^ 5 } }
    else s)) ∧
  (∀ (s : State) (fn : Nat), s.phys.link = true →
    ∃ t, exec (.lowWordRead fn 0x18) s = .next t ∧ t.out.reads = s.out.reads ++ [(fn, 0x18, s.spin.count % 2 ^ 32)] ∧
      (∀ n, readWord { t with spin := { t.spin with count := n } } fn 0x1C = s.spin.count / 2 ^ 32) ∧
      t = { s with bar := { s.bar with latches := t.bar.latches }, out := { s.out with reads := t.out.reads } }) ∧
  (∀ (s : State) (fn off size : Nat),
    barRead s fn 0 off size = (if size = 4 ∧ off % 4 = 0 then readWord s fn off else 0) ∧
    barRead s fn 2 off size = 0 ∧
    (fn ≠ 0 → barRead s fn 4 off size = 0) ∧
    barRead s 0 4 0x00 4 = 0x4242394B ∧
    barRead s 0 4 0x04 4 = ((if s.ev.frozen then 1 else 0) + 16 * s.ev.cause) % 2 ^ 32 ∧
    barRead s 0 4 0x08 4 = s.ev.written % 2 ^ 16 ∧
    barRead s 0 4 0x10 8 = s.ev.written % 2 ^ 64 ∧
    barRead s 0 4 0x18 4 = s.ev.dropped % 2 ^ 32 ∧
    barRead s 0 4 0x20 8 = s.ev.freezeCount % 2 ^ 64 ∧
    (∀ n, n < 65536 → (tget [] s.ev.box n).length = 32 →
      barRead s 0 4 (0x1000 + 32 * n) 32 = leNat (tget [] s.ev.box n)) ∧
    (s.ev.snapSeq = 0 → 0x201000 ≤ off → barRead s 0 4 off size = 0) ∧
    (s.ev.snapSeq ≠ 0 →
      barRead s 0 4 0x800000 4 = 0x4E53394B ∧ barRead s 0 4 0x800004 4 = s.ev.snapSeq % 2 ^ 32 ∧
      barRead s 0 4 0x800008 8 = s.ev.snapCount % 2 ^ 64 ∧
      (∀ i, i < 65536 → barRead s 0 4 (0x801000 + 4 * i) 4 = ((tget none s.ev.snapSources i).getD 0xFFFFFFFF) % 2 ^ 32) ∧
      (∀ a, a < 0x1000 → barRead s 0 4 (0x841000 + a) 1 = (byteAt s.ev.snapQueues a).toNat)))

/-- Link events (R454, R456, R494): a loss, a return and a change of rate or width each post LINK_CHANGED; a return
first writes what waited; a rate or width other than 64 GT/s on 16 lanes sets LINK_CHANGE. A failed host memory access
(R470): a ring's queue is faulted once and reported; a failed write of a queue's last record is reported and discards
the record, its two writes and its place, and the queue stays (log 73); a command whose parameters or data fail ends
ABORTED, sub-status 2, unless it fails a check that comes first (log 74), and an install fails there. A failed access
of a command already begun, or that may not begin or has no buffer, changes nothing (the model's choice, log 3). -/
def Obligations.LinkEventsAndAccessFaults : Prop :=
  (∀ (s : State) (rate width : Nat),
    let flag := fun u : State => if rate = 32 ∧ width = 16 then u else setHostFlag 5 u
    let post := fun (r w kind : Nat) => postEvent 1 0 0x0102 2 (le 4 r ++ le 4 w ++ le 1 kind)
    (s.phys.link = true →
      exec .linkDown s = .next (post s.phys.rate s.phys.width 1 { s with phys := { s.phys with link := false } })) ∧
    (s.phys.link = true → (s.phys.rate, s.phys.width) ≠ (rate, width) →
      exec (.linkRateChange rate width) s =
        .next (post rate width 0 (flag { s with phys := { s.phys with rate := rate, width := width } }))) ∧
    (s.phys.link = false → s.phys.perst = false → s.phys.pwrGood = true →
      exec (.linkReturn rate width) s = .next (
        let u := { s with phys := { s.phys with link := true, rate := rate, width := width } }
        let u := { u with
          out := { u.out with host := u.out.host ++ u.host.waitOut }
          host := { u.host with waitCpl := [], waitEv := [], waitOut := [] } }
        let u := s.host.waitCpl.foldl (fun u x => cqPut x.1 x.2 u) u
        let u := s.host.waitEv.foldl (fun u x => evqDeliver x.1 x.2 u) u
        post rate width 2 (flag (finishAdmin u))))) ∧
  ((∀ (s : State) (q a : Nat) (r : Sq), tget none s.host.sqs q = some r → r.faulted = false →
    exec (.hostAccessFault (.ring 0 q a)) s = .next (
      let u := { s with host := { s.host with sqs := tset none s.host.sqs q (some { r with faulted := true }) } }
      let u := if q = 0 then { u with bar := { u.bar with error := true, cause := 3 } } else u
      setHostFlag 4 (postEvent 1 0 0x0101 3 (le 1 0 ++ le 4 q ++ le 4 r.owner ++ le 8 a) u))) ∧
  (∀ (s : State) (q a : Nat) (r : Cq), tget none s.host.cqs q = some r → r.faulted = false →
    exec (.hostAccessFault (.ring 1 q a)) s = .next (
      let u := { s with host := { s.host with cqs := tset none s.host.cqs q (some { r with faulted := true }) } }
      let u := if q = 0 then { u with bar := { u.bar with error := true, cause := 3 } } else u
      setHostFlag 4 (postEvent 1 0 0x0101 3 (le 1 1 ++ le 4 q ++ le 4 r.owner ++ le 8 a) u))) ∧
  (∀ (s : State) (q a : Nat) (r : Evq), tget none s.host.evqs q = some r → r.faulted = false →
    exec (.hostAccessFault (.ring 2 q a)) s = .next (setHostFlag 4 (postEvent 1 0 0x0101 3 (le 1 2 ++ le 4 q ++ le 4 0 ++ le 8 a)
      { s with host := { s.host with evqs := tset none s.host.evqs q (some { r with faulted := true }) } }))) ∧
  (∀ (s : State) (q a : Nat) (r : Outq), tget none s.host.outqs q = some r → r.marks = [] →
    exec (.hostAccessFault (.record q a)) s = .next s) ∧
  (∀ (s : State) (q a : Nat) (r : Outq) (ms : List Nat) (m : Nat), tget none s.host.outqs q = some r → r.marks = ms ++ [m] →
    let start := ms.getLast?.getD r.head
    let inside := fun x : Nat => r.base + start ≤ x ∧ x < r.base + (if r.tail ≤ start then r.size else r.tail)
    (¬inside a → exec (.hostAccessFault (.record q a)) s = .next s) ∧
    (∀ pre x y, inside a → s.host.waitOut = [] → s.out.host = pre ++ [x, y] → x.fn = r.owner → y.fn = r.owner →
      inside x.addr → inside y.addr → exec (.hostAccessFault (.record q a)) s = .next (
        setHostFlag 4 (postEvent 1 0 0x0101 3 (le 1 3 ++ le 4 q ++ le 4 r.owner ++ le 8 a) { s with
          out := { s.out with host := pre }
          host := { s.host with outqs := tset none s.host.outqs q (some { r with
            tail := start, marks := ms, phase := if r.tail ≤ start then !r.phase else r.phase }) } })))) ∧
  (∀ (s : State) (tag : Nat) (f : Fetched), tget none s.host.fetched tag = some f →
    (∀ x, installAt s tag = some x → exec (.hostAccessFault (.command tag)) s =
      .next (if x.copied = true ∨ x.read ≠ none then s else failInstall x ⟨0xA, 2, 0⟩ s)) ∧
    (installAt s tag = none →
      (f.begun = true ∨ mayBegin s tag f = false ∨ (fld f.raw 12 4 = 0 ∧ fld f.raw 32 8 = 0) →
        exec (.hostAccessFault (.command tag)) s = .next s) ∧
      (f.begun = false → mayBegin s tag f = true → fld f.raw 12 4 ≠ 0 ∨ fld f.raw 32 8 ≠ 0 →
        exec (.hostAccessFault (.command tag)) s = .next (match headFail f s with
          | some e => complete tag e.status e.sub e.result s
          | none => complete tag 0xA 2 0 s) ∧
        (s.phys.state < 3 → headFail f s = some ⟨1, 1, 0⟩)))))

/-! ### How a host command runs -/

/-- Host commands that fail a check (R469, R475): one that begins and fails step 1 to 4 completes with that status;
one that passes them and fails a check of its own completes with the status of the first such check. Nothing else of
it takes effect, but what the tag of R448 has consumed or reported. One that passes every check, of each of the
constructors that hostRows names, cqCreate to diagSnapshot, answers a next state with its effect: it completes with
SUCCESS and its result, or with the status its effect finds, or it goes on and completes at a later command. Steps 1
to 4 of R475 on the physical function for a tenant without protection (R421, R446, R472): firmware running, Hold,
header version, admin class on queue 0 only; they change nothing. A command with an opcode outside the table completes
with INVALID_OPCODE, sub-status 0, unless an earlier check fails (R475, R491). -/
def Obligations.FailedChecksCompleteCommands : Prop :=
  (∀ row ∈ hostRows, ∀ (c : CmdIn) (s : State) (f : Fetched), tget none s.host.fetched c.tag = some f → f.begun = false →
    opcodeOf f.raw = row.2.1 → mayBegin s c.tag f = true →
    let g := gate f c (markBegun c.tag f s)
    (∀ e, g.2 = some e → exec (row.1 c) s = .next (complete c.tag e.status e.sub e.result g.1)) ∧
    (g.2 = none → ∀ e, firstFail (row.2.2.1 ⟨c.tag, f, c.param, c.data, needsTag f.raw f.fn g.1⟩ g.1) = some e →
      exec (row.1 c) s = .next (complete c.tag e.status e.sub e.result g.1)) ∧
    (∀ cmd t, Accepted row.2.1 row.2.2.1 c s cmd t → exec (row.1 c) s = .next (match row.2.2.2 cmd t with
      | .ok u result => complete c.tag 0 0 result u
      | .err e u => complete c.tag e.status e.sub e.result u
      | .later u => u))) ∧
  (∀ (f : Fetched) (c : CmdIn) (s : State), f.fn = 0 → tget none s.trust.tenants (fld f.raw 8 2) = none →
    gate f c s = (s,
      if s.phys.state < 3 then some ⟨1, 1, 0⟩
      else if s.phys.state = 4 ∧ opcodeOf f.raw ≠ 0x0106 then some ⟨0xD, 0, 0⟩
      else if fld f.raw 3 1 ≠ 1 then some ⟨4, 3, 0⟩
      else if opcodeOf f.raw / 256 = 1 ∧ f.sq ≠ 0 then some ⟨3, 1, 0⟩
      else none)) ∧
  (∀ (c : CmdIn) (s : State) (f : Fetched), tget none s.host.fetched c.tag = some f → f.begun = false →
    opcodeOf f.raw ∉ opcodes → mayBegin s c.tag f = true →
    let g := gate f c (markBegun c.tag f s)
    (g.2 = none → exec (.unknownOpcode c) s = .next (complete c.tag 3 0 0 g.1)) ∧
    (∀ e, g.2 = some e → exec (.unknownOpcode c) s =
      .next (if e.status = 3 then complete c.tag 3 0 0 g.1 else complete c.tag e.status e.sub e.result g.1)))

/-- Tags on a virtual function (R442, R446 to R448): in running firmware a command of another tenant than the bound
one, or of a tenant without protection, is refused; a wrong tag, then a sequence that is 0, too old or accepted
before, is refused and reported; a command that passes consumes its sequence, whatever becomes of it then. -/
def Obligations.TagsOfVirtualFunctions : Prop :=
  ∀ (f : Fetched) (c : CmdIn) (s : State), s.phys.state = 3 → f.fn ≠ 0 →
    let t := fld f.raw 8 2
    let q := fld f.raw 4 4
    let bound := tget 0 s.trust.binds f.fn
    (bound = 0 ∨ bound ≠ t → gate f c s = (s, some ⟨6, 4, 0⟩)) ∧
    (bound = t → t ≠ 0 → tget none s.trust.tenants t = none → gate f c s = (s, some ⟨6, 3, 0⟩)) ∧
    (∀ n, bound = t → t ≠ 0 → tget none s.trust.tenants t = some n →
      let tag := commandTag (macKey t n) f.raw c.param c.data
      let rejected := fun sub => postOncePerTurn 0xD 0 0x0A01 2 t (le 2 t ++ le 4 f.fn ++ le 4 sub ++ le 4 1) s
      let stale := q = 0 ∨ (q ≤ n.high ∧ (q + 1024 ≤ n.high ∨ q ∈ n.seen))
      (tag ≠ (f.raw.drop 48).take 16 → gate f c s = (rejected 1, some ⟨6, 1, 0⟩)) ∧
      (tag = (f.raw.drop 48).take 16 → stale → gate f c s = (rejected 2, some ⟨6, 2, 0⟩)) ∧
      (tag = (f.raw.drop 48).take 16 → ¬stale → (gate f c s).1 = { s with trust := { s.trust with tenants := tset none s.trust.tenants t (some { n with
        high := max n.high q, seen := (q :: n.seen).filter fun x => decide (max n.high q < x + 1024) }) } }))

/-- A completion entry (R467, R479): of the 32 bytes at the tail of the command's completion queue, each field as the
table gives it; the tail advances, the phase toggles at a wrap, the command is no longer held, and nothing else
changes. A completion, and what it lets end, changes queues, BAR0 and what leaves the module only. -/
def Obligations.CompletionEntryLayout : Prop :=
  (∀ (s : State) (tag : Nat) (f : Fetched) (r : Cq) (status sub result : Nat),
    tget none s.host.fetched tag = some f → f.lost = false → f.raw.length = 64 → s.phys.link = true →
    tget none s.host.cqs f.cq = some r → r.faulted = false →
    status < 2 ^ 16 → sub < 2 ^ 16 → result < 2 ^ 64 → s.spin.count < 2 ^ 64 → f.head < 2 ^ 16 → f.sq < 2 ^ 8 →
    ∃ e : Bytes, e.length = 32 ∧ e.take 4 = (f.raw.drop 4).take 4 ∧ fld e 4 2 = status ∧ fld e 6 2 = sub ∧ fld e 8 8 = result ∧
      fld e 16 8 = (if s.spin.everLocked then s.spin.count else 0) ∧ fld e 24 2 = f.head ∧ fld e 26 1 = f.sq ∧
      fld e 27 4 = 0 ∧ fld e 31 1 = (if r.phase then 128 else 0) ∧
      completeOne tag status sub result s = { s with
        out := { s.out with host := s.out.host ++ [{ fn := r.owner, addr := r.base + 32 * r.tail, bytes := e }] }
        host := { s.host with
          fetched := tdel s.host.fetched tag
          cqs := tset none s.host.cqs f.cq (some { r with
            tail := (r.tail + 1) % 2 ^ r.exp, phase := if (r.tail + 1) % 2 ^ r.exp = 0 then !r.phase else r.phase }) } }) ∧
  (∀ (tag status sub result : Nat) (s : State), HostOnly s (complete tag status sub result s))

/-- COMMAND_FETCH (R467 to R469): with firmware out of Hold, the link up and fewer than 4,096 commands held, the
packet at the head of the queue whose turn it is is held under the next tag, and the head advances; of the queues
above 0 it is the first after the last visited one that is not empty, not faulted, and whose completion queue has an
entry that no fetched command holds; queue 0 comes between every two others. -/
def Obligations.CommandFetchTakesTheNextPacket : Prop :=
  ∀ (s : State) (q : Nat) (raw : Bytes) (r : Sq), fetching s = true → raw.length = 64 → tget none s.host.sqs q = some r →
    mayFetch s q = true →
    s.host.lastSq < 64 →
    (q = 0 ∧ (s.host.zeroNext = true ∨ ∀ p, 0 < p → p < 64 → mayFetch s p = false) ∨
      0 < q ∧ q < 64 ∧ (s.host.zeroNext = false ∨ mayFetch s 0 = false) ∧
        ∀ p, 0 < p → p < 64 → mayFetch s p = true → (q + 62 - s.host.lastSq) % 63 ≤ (p + 62 - s.host.lastSq) % 63) →
    exec (.commandFetch q raw) s = .next { s with host := { s.host with
      sqs := tset none s.host.sqs q (some { r with head := (r.head + 1) % 2 ^ r.exp })
      fetched := tset none s.host.fetched s.host.nextTag (some { sq := q, cq := r.cq, fn := r.owner, raw := raw, head := (r.head + 1) % 2 ^ r.exp, begun := false, lost := false })
      nextTag := s.host.nextTag + 1
      lastSq := if q = 0 then s.host.lastSq else q
      zeroNext := decide (q ≠ 0) } }

/-! ### Events -/

/-- An event record (R482, R483): fields as the table gives them; a payload over 15 bytes takes a second record of the
same source and severity, with the next number. Posting an event (R416 to R418, R488 to R490): its records take the
source's next numbers, 0 for the first; each is recorded in the black box at the next ring index, or counted as
dropped while the box is frozen; then they go to the event queue that claims the class, or set EVENT_UNROUTED once for
each record. -/
def Obligations.EventRecordsArePosted : Prop :=
  (∀ (src code seq count sev : Nat) (pay : Bytes), src < 2 ^ 16 → code < 2 ^ 16 → seq + 1 < 2 ^ 32 → count < 2 ^ 64 → sev < 16 →
    pay.length ≤ 38 →
    let head := fun (r : Bytes) => r.length = 32 ∧ fld r 0 2 = src ∧ fld r 2 2 = code ∧ fld r 4 4 = seq ∧ fld r 8 8 = count
    if pay.length ≤ 15 then
      ∃ r, eventRecords src code seq count sev pay = [r] ∧ head r ∧ (r.drop 16).take 15 = padTo 15 pay ∧ fld r 31 1 = sev
    else
      ∃ r c, eventRecords src code seq count sev pay = [r, c] ∧ head r ∧ (r.drop 16).take 15 = pay.take 15 ∧
        fld r 31 1 = sev + 16 ∧ c.length = 32 ∧ fld c 0 2 = src ∧ fld c 2 2 = 0xFFFF ∧ fld c 4 4 = seq + 1 ∧
        (c.drop 8).take 23 = padTo 23 (pay.drop 15) ∧ fld c 31 1 = sev) ∧
  (∀ (cls inst code sev : Nat) (pay : Bytes) (s : State),
    let src := cls * 1024 + inst
    let seq := match tget none s.ev.seqs src with
      | none => 0
      | some n => (n + 1) % 2 ^ 32
    let rs := eventRecords src code seq s.spin.count sev pay
    let t := postEvent cls inst code sev pay s
    tget none t.ev.seqs src = some ((seq + rs.length - 1) % 2 ^ 32) ∧
    (∀ j, j ≠ src → tget none t.ev.seqs j = tget none s.ev.seqs j) ∧
    t.ev.frozen = s.ev.frozen ∧
    (s.ev.frozen = false →
      t.ev.written = s.ev.written + rs.length ∧ t.ev.dropped = s.ev.dropped ∧
      (∀ i r, rs[i]? = some r → tget [] t.ev.box ((s.ev.written + i) % 65536) = r) ∧
      (∀ j, (∀ i, i < rs.length → (s.ev.written + i) % 65536 ≠ j) → tget [] t.ev.box j = tget [] s.ev.box j)) ∧
    (s.ev.frozen = true →
      t.ev.written = s.ev.written ∧ t.ev.box = s.ev.box ∧
      t.ev.dropped = min (2 ^ 32 - 1) (s.ev.dropped + rs.length)) ∧
    (evqOf s cls = none → t.host = s.host ∧ t.out = s.out ∧ t.bar.hostFlags.getLsbD 1 = true ∧
      tget 0 t.bar.hostSets 1 = min 255 (tget 0 s.bar.hostSets 1 + rs.length)) ∧
    (∀ q e, evqOf s cls = some q → tget none s.host.evqs q = some e → s.phys.link = true →
      (e.faulted = true ∨ ringFree e.exp e.head e.tail < rs.length →
        t.host = s.host ∧ t.out = s.out ∧ t.bar.hostFlags.getLsbD 0 = true) ∧
      (e.faulted = false → rs.length ≤ ringFree e.exp e.head e.tail →
        t.bar = s.bar ∧ t.out.host.length = s.out.host.length + rs.length ∧
        (tget none t.host.evqs q).map (·.tail) = some ((e.tail + rs.length) % 2 ^ e.exp))))

/-! ### Queue, reset, power and diagnostic commands -/

/-- CQ_CREATE, SQ_CREATE, EVQ_CREATE, IDENTIFY and QUEUE_DELETE that pass their checks answer a next state (R471 to
R473): a new queue is empty with phase 1; a deleted one is gone with its doorbell value; QUEUE_DELETE of a submission
queue answers its unfetched entries, once every fetched command of it has completed. The identify page of R473 at its
fixed places: magic, part, interface version, firmware version, running and fused security versions, identity digest,
memory sizes, link, power mode, spindle state, calibration epoch and free submission queues; 4,096 bytes in all. Part
3 and the memory sizes are those of the modelled part (log 7). -/
def Obligations.QueueCommandsComplete : Prop :=
  (Succeeds .cqCreate 0x0101 cqCreateChecks (fun _ _ => 0) (fun c s => { s with host := { s.host with
    cqs := tset none s.host.cqs (c.at 40 1) (some { base := c.at 24 8, exp := c.at 42 1, owner := c.at 41 1, head := 0, tail := 0, phase := true, faulted := false }) } }) ∧
  Succeeds .sqCreate 0x0102 sqCreateChecks (fun _ _ => 0) (fun c s => { s with host := { s.host with
    sqs := tset none s.host.sqs (c.at 40 1) (some { base := c.at 24 8, exp := c.at 42 1, owner := c.at 41 1, cq := c.at 43 1, head := 0, tail := 0, faulted := false }) } }) ∧
  Succeeds .evqCreate 0x0103 evqCreateChecks (fun c _ => c.at 48 8) (fun c s => { s with host := { s.host with
    evqs := tset none s.host.evqs (c.at 40 1) (some { base := c.at 24 8, exp := c.at 42 1, mask := c.at 48 8, head := 0, tail := 0, phase := true, faulted := false }) } }) ∧
  Succeeds .identify 0x0105 identifyChecks (fun _ _ => 0) (fun c s => hostWrite c.f.fn (c.at 24 8) (identifyPage s) s) ∧
  (∀ c s cmd t, Accepted 0x0104 queueDeleteChecks c s cmd t →
    let kind := cmd.at 40 1
    let q := cmd.at 41 1
    let h := t.host
    let bells := tset none h.bells (kind * 64 + q) none
    (kind = 1 → exec (.queueDelete c) s =
      .next (complete c.tag 0 0 0 { t with host := { h with cqs := tset none h.cqs q none, bells := bells } })) ∧
    (kind = 2 → exec (.queueDelete c) s =
      .next (complete c.tag 0 0 0 { t with host := { h with evqs := tset none h.evqs q none, bells := bells } })) ∧
    (∀ r, kind = 0 → tget none h.sqs q = some r → exec (.queueDelete c) s = .next (
      let n := (r.tail + 2 ^ r.exp - r.head) % 2 ^ r.exp
      let u := { t with host := { h with sqs := tset none h.sqs q none, bells := bells } }
      if (tvals h.fetched).any (fun x => x.2.sq == q && !x.2.lost) then
        { u with host := { u.host with deleting := h.deleting ++ [(c.tag, q, n)] } }
      else complete c.tag 0 0 n u)))) ∧
  (∀ s : State, s.phys.rate < 256 → s.phys.width < 256 → s.spin.power < 256 → s.spin.state < 256 → s.cal.epoch < 2 ^ 32 →
    let p := identifyPage s
    p.length = 4096 ∧ fld p 0 4 = 0x4449394B ∧ fld p 4 1 = 3 ∧ fld p 5 1 = Config.stepping.toNat % 256 ∧ fld p 6 2 = 1 ∧
      fld p 8 4 = ((s.phys.fw.map fun x => x.version).getD 0) % 2 ^ 32 ∧
      fld p 12 1 = ((s.phys.fw.map fun x => x.svn).getD 0) % 256 ∧
      fld p 13 1 = ((List.range 32).filter fun k => s.phys.svnFuses.getLsbD k).length ∧ fld p 14 2 = 0 ∧
      slice p 16 32 = b256 Config.identity ∧ fld p 48 8 = 2 ^ 41 ∧ fld p 56 8 = 16 * 48 * 2 ^ 30 ∧
      fld p 64 1 = s.phys.rate ∧ fld p 65 1 = s.phys.width ∧ fld p 66 1 = s.spin.power ∧ fld p 67 1 = s.spin.state ∧
      fld p 68 4 = s.cal.epoch ∧ fld p 72 4 = 63 - ((tkeys s.host.sqs).filter fun q => q != 0).length ∧
      ∀ k, 76 ≤ k → byteAt p k = 0#8)

/-- MODULE_RESET completes, and the warm reset it asks for is due (R503). STACK_RESET resets its stacks and completes
with its mask at STACK_RESET_DONE, the oldest first, when their monitors run again (R504). A reset stack (R502, R504),
which its command resets at once (the model's choice, log 16): its stores read 0 and are empty; its engines select
deck 0, have no trim, no spare converter, no calibration and the factor and drift words of reset; its cores stand for
themselves, Serving, unmarked, with no failed test and with their reference buffers off; stores, active decks, trims
and factors of every other stack are as before, and so are module memory and the decks. -/
def Obligations.ResetCommandsComplete : Prop :=
  ((∀ c s cmd t, Accepted 0x0106 plainChecks c s cmd t → exec (.moduleReset c) s = .next (
    let u := complete c.tag 0 0 0 t
    { u with phys := { u.phys with resetDue := true } })) ∧
  Proceeds .stackReset 0x0107 stackResetChecks (fun c s =>
    let u := ((List.range 16).filter fun st => (c.at 40 2).testBit st).foldl resetStack s
    { u with host := { u.host with stackResets := u.host.stackResets ++ [(c.tag, c.at 40 2)] } }) ∧
  (∀ s tag mask rest, s.host.stackResets = (tag, mask) :: rest → exec .stackResetDone s = .next (complete tag 0 0 mask (
    startMonitors (((List.range 16).filter fun st => mask.testBit st).flatMap fun st => [2 * st, 2 * st + 1])
      { s with host := { s.host with stackResets := rest } })))) ∧
  (∀ (s : State) (st : Nat), st < 16 →
    let t := resetStack s st
    (∀ g, wordStack g = st → fullAt t g = false ∧ wordAt t g = zeros 32) ∧
    (∀ g, wordStack g ≠ st → fullAt t g = fullAt s g ∧ wordAt t g = wordAt s g) ∧
    (∀ e, e / 4096 = st →
      tget 0 t.arr.active e = 0 ∧ tget false t.arr.noDeck e = false ∧ tget 0 t.arr.ordinal e = 0 ∧
      tget none t.conv.spare e = none ∧ tget none t.cal.swaps e = none ∧
      (∀ a, a < 132 → tget 0 t.conv.trims (e * 132 + a) = 0) ∧
      (∀ k, k < 4096 → tget 0x8000 t.cal.words (e * 4096 + k) = 0x8000 ∧ tget 0x4000 t.cal.drifts (e * 4096 + k) = 0x4000)) ∧
    tget 0 t.conv.calCount st = 0 ∧ st ∉ t.conv.valid ∧
    (∀ p, p < 640 →
      let c := st * 640 + p
      tget none t.integ.subst c = none ∧ tget 0 t.integ.cores c = 0 ∧ tget 0 t.integ.marks c = 0 ∧
      tget false t.integ.intense c = false ∧ tget 0 t.integ.failedTest c = 0 ∧
      tget none t.arr.refs c = none ∧ tget false t.arr.refOn c = false ∧ tget 0 t.cal.refSel c = 0) ∧
    (∀ e, e / 4096 ≠ st →
      tget 0 t.arr.active e = tget 0 s.arr.active e ∧ tget none t.conv.spare e = tget none s.conv.spare e ∧
      (∀ a, a < 132 → tget 0 t.conv.trims (e * 132 + a) = tget 0 s.conv.trims (e * 132 + a)) ∧
      (∀ k, k < 4096 → tget 0x8000 t.cal.words (e * 4096 + k) = tget 0x8000 s.cal.words (e * 4096 + k) ∧
        tget 0x4000 t.cal.drifts (e * 4096 + k) = tget 0x4000 s.cal.drifts (e * 4096 + k))) ∧
    (∀ c, c / 640 ≠ st → tget 0 t.integ.cores c = tget 0 s.integ.cores c ∧
      tget none t.integ.subst c = tget none s.integ.subst c ∧ tget none t.arr.refs c = tget none s.arr.refs c) ∧
    t.mem = s.mem ∧ t.model.decks = s.model.decks ∧ t.phys = s.phys)

/-- PWR_MODE_SET (R36 to R39): a mode that still pended is ABORTED, sub-status 1; the new one waits for every running
partition, and is adopted at once where none runs. At its turn partitions without a running plan adopt it.
SPINDLE_SOURCE_SET (R41, R46, R55, R56): the source in use changes only OUT_ENABLE; source 0 drops the source; another
one is posted as a lost lock, and acquired anew, a self spindle from its own start count. SPINDLE_STATUS and
SYNC_QUERY answer their result fields (R57, R360) and change nothing. -/
def Obligations.SpindleCommandsComplete : Prop :=
  (Proceeds .pwrModeSet 0x0120 pwrModeChecks (fun c s =>
    let u := match s.spin.pend with
      | none => s
      | some m => complete m.tag 0xA 1 0 s
    idleMode { u with spin := { u.spin with
      pend := some { mode := c.at 40 1, turn := c.at 48 8, tag := c.tag, idle := false, left := (parts u).map (·.1) } } }) ∧
  (∀ s m, s.spin.pend = some m → m.idle = false → m.left = [] → s.spin.state ≠ 3 →
    (s.spin.state = 2 → m.turn ≤ s.spin.count / 8192) →
    ∃ t, exec .powerModeEffectTurn s = .next t ∧ t.spin.power = m.mode ∧ t.spin.pend = none ∧ t.plans = s.plans)) ∧
  (Succeeds .spindleSourceSet 0x0201 sourceSetChecks (fun _ _ => 0) (fun c s =>
    let src := c.at 40 1
    let u := { s with spin := { s.spin with outEnable := c.at 42 1 } }
    if src = s.spin.source ∧ c.at 41 1 = s.spin.port then u else
    let v := if s.spin.state = 2 ∧ src ≠ 0 then postEvent 2 0 0x0202 2 (le 8 s.spin.count) u else u
    idleMode { v with spin := { v.spin with
      state := if src = 0 then 0 else 1, source := src, port := c.at 41 1, lastTurn := none
      selfStart := if src = 3 then some (c.at 48 8, v.spin.tick) else none
      count := if src = 3 then c.at 48 8 else v.spin.count
      badRun := 0, held := false, atTurn := false, hops := 0 } }) ∧
  Succeeds .spindleStatus 0x0202 spindleStatusChecks (fun _ s =>
    s.spin.state + 2 ^ 8 * s.spin.source + 2 ^ 16 * s.spin.port + 2 ^ 24 * s.spin.invalid + 2 ^ 40 * s.spin.stutters +
      2 ^ 56 * s.spin.slips) (fun _ s => s) ∧
  Succeeds .syncQuery 0x0220 syncQueryChecks (fun c s => match barrierPlan s (c.at 40 2) with
    | none => 0
    | some (key, p) =>
      let b := barrierAt p (c.at 40 2)
      b.g + 2 ^ 16 * (b.c0 % 2 ^ 13) + 2 ^ 29 * (b.c1 % 2 ^ 13) + 2 ^ 42 + 2 ^ 43 * (if lapWaiting s key (c.at 40 2) then 1 else 0) +
        2 ^ 44 * ((barrierDef p (c.at 40 2)).map (·.scope)).getD 0 + 2 ^ 48 * min b.refused (2 ^ 16 - 1)) (fun _ s => s))

/-- Integrity commands complete (R418, R422, R465): the policy as given, 256 for a wait of 0; statistics saturate at
16 bits; BB_RELEASE answers the records dropped, a count that it leaves as it is (log 54), and unfreezes the box;
DIAG_SNAPSHOT numbers and takes a snapshot. Honing commands (R412, R415, R422): HONE_STATUS answers the core's state,
logical core, spare, failed test and decks, open values where it serves or prepares none; HONE_REQUEST clears a mark
at once on a stack without running partition (the model's choice, log 76), else at the boundary, and begins honing or
retiring, completing where the core reaches that state. -/
def Obligations.IntegrityCommandsComplete : Prop :=
  (Succeeds .integrityPolicySet 0x0801 policyChecks (fun _ _ => 0) (fun c s => { s with integ := { s.integ with
    local_ := (c.at 40 1).testBit 0, autoHone := (c.at 40 1).testBit 1
    partners := (List.range (c.at 41 1)).map fun i => c.at (44 + 2 * i) 2
    wait := if c.at 52 4 = 0 then 256 else c.at 52 4 } }) ∧
  Succeeds .integrityStats 0x0804 integrityStatsChecks (fun c s =>
    let n := fun (t : Tab Nat) => min (tget 0 t (c.at 40 1)) 65535
    n s.integ.readReplays + 2 ^ 16 * n s.integ.noise + 2 ^ 32 * n s.integ.suspects + 2 ^ 48 * n s.integ.replaced) (fun _ s => s) ∧
  Succeeds .bbRelease 0x0805 plainChecks (fun _ s => s.ev.dropped) (fun _ s => { s with ev := { s.ev with frozen := false, cause := 0 } }) ∧
  Succeeds .diagSnapshot 0x0B01 plainChecks (fun _ s => s.ev.snapSeq + 1) (fun _ s => { s with ev := { s.ev with
    snapSeq := s.ev.snapSeq + 1, snapCount := s.spin.count, snapSources := s.ev.seqs, snapQueues := queueTable s } })) ∧
  ((∀ c s cmd t, Accepted 0x0803 honeStatusChecks c s cmd t →
    let st := cmd.at 40 1
    let p := cmd.at 42 2
    let core := st * 640 + p
    ∃ served spare u, exec (.honeStatus c) s = .next (complete c.tag 0 0 (coreState t core + 2 ^ 4 * served + 2 ^ 14 * spare +
        2 ^ 24 * min (tget 0 t.integ.failedTest core) 255 +
        2 ^ 32 * min (((t.integ.hones.find? fun h => h.st == st && h.core == p).map (·.done)).getD 0) (2 ^ 32 - 1)) u) ∧
      (∀ l, servedCore t st p = some l → served = l) ∧
      (∀ h, (t.integ.hones.find? fun h => h.st == st && h.core == p) = some h → spare = h.spare) ∧
      u = { t with free := u.free }) ∧
  (∀ c s cmd t, Accepted 0x0802 honeChecks c s cmd t →
    let st := cmd.at 40 1
    let core := st * 640 + physCore t st (cmd.at 42 2)
    let unmark := fun (u : State) => { u with integ := { u.integ with
      marks := tset 0 u.integ.marks core 0, intense := tset false u.integ.intense core false } }
    (cmd.at 44 1 = 2 → idleStack t (core / 640) = true →
      exec (.honeRequest c) s = .next (complete c.tag 0 0 0xFFFF (setCore core 0 (unmark t)))) ∧
    (cmd.at 44 1 = 2 → idleStack t (core / 640) = false →
      exec (.honeRequest c) s = .next { t with integ := { t.integ with clearing := t.integ.clearing ++ [(c.tag, core)] } }) ∧
    (cmd.at 44 1 ≠ 2 → exec (.honeRequest c) s = .next (
      match startHone (some c.tag) st (cmd.at 42 2) (cmd.at 44 1 == 1) (if cmd.at 46 2 = 0xFFFF then none else some (cmd.at 46 2)) t with
      | .noSpare => complete c.tag 9 0 0 t
      | .preparing u _ => u
      | .reached u => complete c.tag 0 0 0xFFFF { u with integ := { u.integ with
          intense := tset false u.integ.intense core false } }))))

/-! ### Plans, trust, models and adapters -/

/-- Plan commands (R73 to R75, R114, R523): PLAN_ARM makes the plan Armed with every partition waiting, zeroes the
scratch of a partition that no plan has had since reset (log 31) and lets the plan be replaced by none any longer;
PLAN_STOP of an Armed or a Halted plan makes it Loaded at once, and the reference buffers of its stacks go off where
no running plan has them; of a Running one it waits, a later one in place of an earlier; neither of the first two
posts PLAN_STOPPED, and for an Armed plan, which has had no boundary, the present count is answered (the model's
choices, log 48); PLAN_UNLOAD removes and logs the plan; PLAN_QUERY answers state, slack and passes. -/
def Obligations.PlanCommandsComplete : Prop :=
  (∀ c s cmd t q, Accepted 0x0211 planArmChecks c s cmd t → planAt t (planKey (cmd.at 40 4) (cmd.at 44 2)) = some q →
    exec (.planArm c) s = .next (complete c.tag 0 0 (cmd.at 48 8) (q.d.parts.foldl zeroScratch (setPlan (planKey (cmd.at 40 4) (cmd.at 44 2)) (some { q with
      state := 1, startTurn := cmd.at 48 8, stop := none, waiting := q.d.parts.map (·.part), released := []
      replaces := ((replacedParts t (planKey (cmd.at 40 4) (cmd.at 44 2)) q.d).map (· / 16)).eraseDups
      barriers := [], arrivals := [] }) (forgetReplaced (planKey (cmd.at 40 4) (cmd.at 44 2)) t))))) ∧
  (∀ c s cmd t q, Accepted 0x0212 planStopChecks c s cmd t → planAt t (planKey (cmd.at 40 4) (cmd.at 44 2)) = some q →
    let k := planKey (cmd.at 40 4) (cmd.at 44 2)
    let loaded := some { q with state := 0, stop := none, waiting := [], released := [], barriers := [], arrivals := [] }
    (q.state = 1 → exec (.planStop c) s = .next (complete c.tag 0 0 t.spin.count (releaseStacks q (setPlan k loaded t)))) ∧
    (q.state = 3 → exec (.planStop c) s = .next (complete c.tag 0 0 q.haltCount (releaseStacks q (setPlan k loaded t)))) ∧
    (q.state = 2 → exec (.planStop c) s = .next (closePlan k (setPlan k (some { q with stop := some (c.tag, cmd.at 48 8) })
      (match q.stop with
        | none => t
        | some (old, _) => complete old 0xA 1 0 t))))) ∧
  (∀ c s cmd t q, Accepted 0x0213 planUnloadChecks c s cmd t → planAt t (planKey (cmd.at 40 4) (cmd.at 44 2)) = some q →
    exec (.planUnload c) s = .next (complete c.tag 0 0 0 (addLog 2 q.d.id q.d.version (sha256 q.d.signed)
      (setPlan (planKey (cmd.at 40 4) (cmd.at 44 2)) none t)))) ∧
  (∀ c s cmd t q, Accepted 0x0214 planQueryChecks c s cmd t → planAt t (planKey (cmd.at 40 4) (cmd.at 44 2)) = some q →
    exec (.planQuery c) s = .next (complete c.tag 0 0
      (q.state + 2 ^ 8 * min q.lastSlack (2 ^ 20 - 1) + 2 ^ 28 * min q.passes (2 ^ 36 - 1)) t))

/-- PLAN_LOAD (R71, R72, R436): with its form, its manifest and the resources as required, a plan none of whose
entries under held keys fails, one of which passes, and whose owner has signed it where the model is encrypted, is
Loaded and logged; a failed entry is INTEGRITY_FAIL, the lack of one NOT_AUTHORISED. -/
def Obligations.PlanLoadJudgesSignatures : Prop :=
  ∀ c s cmd t, Begins 0x0210 c s cmd t →
    let b := cmd.data
    let d := parsePlan b
    let m := planManifest t d
    firstFail (headChecks cmd .none .some 64 ++ [inlineZero cmd 44 20] ++ imageChecks b cmd.dataLen (cmd.at 40 4) ++
      [badImage 8 (planAt t (imageKey b)).isSome, badImage 48 (m.any (reductionBad d))]) = none →
    (cmd.f.fn = 0 ∨ (m.any fun m => m.tenant == cmd.tenant) = true) →
    (∀ p ∈ d.parts, ∀ st ∈ p.stacks, plansOn t st < 4) → t.trust.log.length < 16384 →
    exec (.planLoad c) s = .next (
      if (judged t d).any fun x => !x.2 then complete c.tag 7 0 0 t
      else if !((judged t d).any fun x => x.2) ∨ (m.any fun m => encrypted m.raw && !ownerSigned t d m) then complete c.tag 6 0 0 t
      else complete c.tag 0 0 (d.id + 2 ^ 32 * d.version) (addLog 1 d.id d.version (sha256 d.signed)
        (setPlan (imageKey b) (some (loadedPlan d (d.model != 0 && m.isNone))) t)))

/-- Commands of "Trust and keys" (R428, R430, R436, R442, R443, R445, R450, R451): keys, bindings and tenants are kept
or removed and logged; SVN_COMMIT raises the fused version to the running one; IDENTITY_READ writes the certificate
chain, root first, and LOAD_LOG_READ fills its buffer as far as that reaches. That only a new secret gains an entry of
kind 7, and that a read beyond the end of the log writes nothing, are the model's choices (log 19). The load log
(R436): an entry holds kind, ID, version, digest and spindle count, and the running digest goes on over its first 48
bytes; the 16,384th entry posts LOAD_LOG_FULL. SVN_COMMIT on a thermometer code (R430): setting the lowest clear bits
gives the next code, so the fused version is the larger of the two versions. -/
def Obligations.TrustCommandsComplete : Prop :=
  ((∀ c s cmd t, AcceptedBut 0x0A01 keySetChecks c s cmd t → exec (.tenantKeySet c) s = .next (
    match if cmd.param.take 32 = identityBytes then openBlock cmd else none with
    | none => complete c.tag 7 0 0 t
    | some b =>
      let again := (tget none t.trust.tenants cmd.tenant).isSome
      let mn := (randomBytes 32 t).1
      let r := (randomBytes 32 t).2
      let n : Tenant := { ts := b.take 32, rs := slice b 32 32, mn := mn, high := 0, seen := [] }
      let u := { r with trust := { r.trust with tenants := tset none r.trust.tenants cmd.tenant (some n) } }
      let u := if again then u else addLog 7 cmd.tenant 0 (sha256 (exportKey cmd.tenant n)) u
      complete c.tag 0 0 (if again then 2 else 1)
        (postEvent 0xD 0 0x0A02 1 (le 2 cmd.tenant ++ le 1 (if again then 1 else 0)) (hostWrite cmd.f.fn (cmd.at 24 8) mn u)))) ∧
  (∀ c s cmd t n, Accepted 0x0A02 keyClearChecks c s cmd t → tget none t.trust.tenants cmd.tenant = some n →
    exec (.tenantKeyClear c) s = .next (complete c.tag 0 0 0 (addLog 8 cmd.tenant 0 (sha256 (exportKey cmd.tenant n))
      { t with trust := { t.trust with tenants := tset none t.trust.tenants cmd.tenant none } }))) ∧
  Succeeds .vfBind 0x0A03 vfBindChecks (fun _ _ => 0) (fun c s => { s with trust := { s.trust with
    binds := tset 0 s.trust.binds (c.at 40 1) (if c.at 42 2 = 0xFFFF then 0 else c.at 42 2) } }) ∧
  Succeeds .planKeyRegister 0x0A04 keyRegisterChecks (fun _ _ => 0) (fun c s => addLog 5 (c.at 40 1) 0 (sha256 (slice c.data 0 388))
    { s with trust := { s.trust with planKeys := tset none s.trust.planKeys (c.at 40 1) (some (slice c.data 0 388)) } }) ∧
  (∀ c s cmd t k, Accepted 0x0A05 keyRemoveChecks c s cmd t → tget none t.trust.planKeys (cmd.at 40 1) = some k →
    exec (.planKeyRemove c) s = .next (complete c.tag 0 0 0 (addLog 6 (cmd.at 40 1) 0 (sha256 k)
      { t with trust := { t.trust with planKeys := tset none t.trust.planKeys (cmd.at 40 1) none } }))) ∧
  (∀ c s cmd t, Accepted 0x0A06 plainChecks c s cmd t → exec (.svnCommit c) s = .next (
    if runningSvn t ≤ fusedSvn t then complete c.tag 0 0 (fusedSvn t) t else
    let u := { t with phys := { t.phys with svnFuses := burnFuses (runningSvn t - fusedSvn t) t.phys.svnFuses } }
    complete c.tag 0 0 (fusedSvn u) (postEvent 0xD 0 0x0A03 1 (le 4 (fusedSvn t) ++ le 4 (fusedSvn u)) u))) ∧
  (∀ c s cmd t, Begins 0x0A07 c s cmd t →
    firstFail (pfOnly cmd :: headChecks cmd .none .some 64 ++ [inlineZero cmd 40 24]) = none →
    exec (.identityRead c) s = .next (
      if cmd.at 32 8 < (certChain t).length then complete c.tag 5 32 0 t
      else complete c.tag 0 0 (fld identityBytes 0 8) (hostWrite cmd.f.fn (cmd.at 24 8) (certChain t) t))) ∧
  Succeeds .loadLogRead 0x0A08 logReadChecks (fun _ s => s.trust.log.length) (fun c s =>
    let es := (s.trust.log.drop (c.at 40 4)).take (c.at 32 8 / 64)
    if es = [] then s else hostWrite c.f.fn (c.at 24 8) es.flatten s)) ∧
  (∀ (kind id version : Nat) (digest : Bytes) (s : State), kind < 2 ^ 8 → id < 2 ^ 32 → version < 2 ^ 16 → digest.length = 32 →
    s.spin.count < 2 ^ 64 →
    ∃ e : Bytes, e.length = 64 ∧ fld e 0 1 = kind ∧ fld e 4 4 = id ∧ fld e 8 2 = version ∧ slice e 16 32 = digest ∧
      fld e 48 8 = s.spin.count ∧ zeroAt e 1 3 = true ∧ zeroAt e 10 6 = true ∧ zeroAt e 56 8 = true ∧
      let t := { s with trust := { s.trust with log := s.trust.log ++ [e], digest := sha256 (s.trust.digest ++ sha256 (e.take 48)) } }
      addLog kind id version digest s = if s.trust.log.length = 16383 then postEvent 0xD 0 0x0A04 3 (le 8 s.spin.count) t else t) ∧
  (∀ (k n : Nat), k + n ≤ 32 → burnFuses n (BitVec.ofNat 32 (2 ^ k - 1)) = BitVec.ofNat 32 (2 ^ (k + n) - 1))

/-- Manifest and key commands (R242 to R249, R252): a manifest whose signature and key block check is held with its
content key and logged; a binding key is made under a new serial number and every Persisted deck becomes Free, or it
is taken from the blob of this module. -/
def Obligations.ManifestAndKeyCommandsComplete : Prop :=
  (∀ c s cmd t, AcceptedBut 0x0301 manifestChecks c s cmd t →
    let n := manifestLength cmd.data
    let raw := cmd.data.take n
    exec (.modelManifestLoad c) s = .next (
      if !Config.pssVerify ((ownerKey raw).take 384) (slice (ownerKey raw) 384 4) (raw.take (n - 384)) (raw.drop (n - 384)) ∨
          (encrypted cmd.data ∧ contentKey cmd.param = none) then complete c.tag 7 0 0 t
      else
        let id := fld raw 8 4
        let v := fld raw 12 2
        let m : Manifest := ⟨id, v, cmd.tenant, raw, if encrypted raw then (contentKey cmd.param).getD [] else [], none, []⟩
        complete c.tag 0 0 (id + 2 ^ 32 * v)
          (addLog 3 id v (sha256 raw) { t with model := { t.model with manifests := t.model.manifests ++ [m] } }))) ∧
  (∀ c s cmd t, Accepted 0x0305 keyCreateChecks c s cmd t →
    let r := (randomBytes 32 t).2
    let key := (randomBytes 32 t).1
    let nonce := (randomBytes 12 r).1
    let head := blobHead (t.model.serial + 1) nonce
    let sealed' := gcmSeal wrapKey nonce head key
    let u := (t.model.decks.filter fun x => x.2 == 3).foldl (fun u x => freeDeck x.1 u) (randomBytes 12 r).2
    exec (.bindKeyCreate c) s = .next (complete c.tag 0 0 (t.model.serial + 1) (hostWrite cmd.f.fn (cmd.at 24 8)
      (padTo 128 (head ++ padTo 32 sealed'.1 ++ padTo 16 sealed'.2))
      { u with model := { u.model with bindKey := some key, serial := t.model.serial + 1 } }))) ∧
  (∀ c s cmd t, AcceptedBut 0x0306 keySupplyChecks c s cmd t → exec (.bindKeySupply c) s = .next (
    match openBlob cmd.data with
    | none => complete c.tag 7 0 0 t
    | some k => complete c.tag 0 0 (fld cmd.data 24 8) { t with model := { t.model with bindKey := some k } }))

/-- Install, switch, release, read and status of a model (R256 to R264, R271): an accepted install begins and
completes later, as a switch does; a standby bank is cleared, or a manifest that no bank holds is dropped and logged;
CHUCK_READ writes the 128-byte entries of every deck of a stack; MODEL_STATUS answers the state of both banks. -/
def Obligations.ModelCommandsComplete : Prop :=
  (∀ c s cmd t u x, Accepted 0x0302 installChecks c s cmd t → startInstall cmd t = some (u, x) →
    exec (.modelInstall c) s = .next { u with model := { u.model with installs := u.model.installs ++ [x] } } ∧ x.tag = c.tag) ∧
  Proceeds .chuckSwitch 0x0303 switchChecks (fun c s => endSwitches { s with model := { s.model with switches := s.model.switches ++
    [{ tag := c.tag, image := c.at 40 4, bank := c.at 44 1, turn := fld c.param 0 8, limit := fld c.param 8 4, action := c.at 45 1,
       left := imageParts s (c.at 40 4), begun := false, last := 0 }] } }) ∧
  Succeeds .modelRelease 0x0304 releaseChecks (fun _ _ => 0) (fun c s =>
    let image := c.at 40 4
    let v := c.at 44 2
    if c.at 46 1 ≠ 0xFF then (clearBank none image (c.at 46 1) s).1 else
    addLog 4 image v (sha256 (((manifestOf s image v).map (·.raw)).getD [])) { s with model := { s.model with
      manifests := s.model.manifests.filter fun m => m.id != image || m.version != v } }) ∧
  Succeeds .chuckRead 0x0307 chuckReadChecks (fun _ _ => 0) (fun c s => hostWrite c.f.fn (c.at 24 8)
    ((enginesOf (c.at 41 1)).flatMap fun e => (List.range 32).flatMap fun d =>
      padTo 128 ((tget none s.model.chuck (chuckKey (c.at 40 1) e d)).getD [])) s) ∧
  Succeeds .modelStatus 0x0308 modelStatusChecks (fun c s =>
    let image := c.at 40 4
    let state := fun b => match bankAt s image b with
      | none => 0
      | some x => if x.bound then 2 else 1
    let kept := (List.range 2).find? fun b => (bankAt s image b).any fun x => x.role == 2
    state 0 + 4 * state 1 + (if currentBank s image = some 1 then 16 else 0) + (if kept.isSome then 32 else 0) +
      256 * min ((kept.map fun b => (pinnedTo s image b).length).getD 0) (2 ^ 24 - 1)) (fun _ s => s)

/-- Adapter commands (R269, R270, R449): an envelope that opens under the tenant's adapter key and names the tenant
and the adapter its image does, of a model whose manifest is held (log 72), is stored, pending, in place of a
retirement that has not taken effect (DEDUCED, log 27); a retired one has no pending version and loses its current one
at the next boundary; ADAPTER_QUERY answers both versions and the pins. -/
def Obligations.AdapterCommandsComplete : Prop :=
  (∀ c s cmd t, Begins 0x0401 c s cmd t →
    let b := cmd.data
    let a := fld b 8 4 % 2 ^ 24
    firstFail (headChecks cmd .none .some 64 ++
      [ badTenant cmd, inlineZero cmd 40 24, badData 0 (fld b 0 4 != 0x4541394B), badData 4 (noTenant (fld b 4 2)), badData 6 (fld b 6 2 != 0),
        badData 40 (!zeroAt b 40 8),
        badLength 32 (decide (cmd.dataLen < 112)), unauthorised 3 (tenantOf t cmd.tenant).isNone,
        unauthorised 4 (fld b 4 2 != cmd.tenant || foreignAdapter cmd t a),
        exhausted (decide (65536 ≤ (tkeys t.model.adapters).length) || decide (4 ≤ (residents t a).length)),
        inUse (tget none t.model.adapters (a * 256 + fld b 8 4 / 2 ^ 24)).isSome ]) = none →
    exec (.adapterLoad c) s = .next (
      match adapterImage cmd t with
      | none => complete c.tag 7 0 0 t
      | some raw =>
        match firstFail (adapterImageChecks t raw ++
          [ badLength 32 (decide (raw.length < fld raw 20 8) || decide (fld raw 20 8 < 64)),
            integrity 0 (fld raw 4 4 != fld b 8 4 || fld raw 12 2 != fld b 4 2) ]) with
        | some e => complete c.tag e.status e.sub e.result t
        | none => complete c.tag 0 0 (fld b 8 4) (
            let v := fld b 8 4 / 2 ^ 24
            makePending a v { t with model := { t.model with
              adapters := tset none t.model.adapters (a * 256 + v) (some { tenant := cmd.tenant, image := fld raw 8 4, rank := rankOf raw, kind := (byteAt raw 16).toNat, exp := signed 8 (byteAt raw 17).toNat, raw := raw.take (fld raw 20 8), damaged := false })
              retiring := t.model.retiring.filter (· != a) } }))) ∧
  Succeeds .adapterRetire 0x0402 adapterNameChecks (fun _ _ => 0) (fun c s =>
    let a := c.at 40 3
    { s with model := { s.model with
      upcoming := tset none s.model.upcoming a none
      retiring := if (tget none s.model.current a).isSome ∧ a ∉ s.model.retiring then s.model.retiring ++ [a] else s.model.retiring } }) ∧
  Succeeds .adapterQuery 0x0403 adapterNameChecks (fun c s =>
    let part := fun (o : Option Nat) => match o with
      | none => 0
      | some v => v + 256
    part (tget none s.model.current (c.at 40 3)) + 2 ^ 16 * part (tget none s.model.upcoming (c.at 40 3)) +
      2 ^ 32 * min ((tvals s.serve.sessions).filter fun x => x.2.admitted && x.2.pinned.any fun p => p / 256 == c.at 40 3).length
        (2 ^ 32 - 1)) (fun _ s => s)

/-! ### Sessions, output queues and contexts -/

/-- SESSION_OPEN and SESSION_FEED (R310, R311, R336): with input and a full admission queue they are BUSY with a
retry-after and counted; otherwise a new session is Queued with its input, or Idle without; a fed session's input
grows, and an Idle one is queued for a new run. The retry-after of R336: 64 turns where no session was admitted in the
last 64 turns, else the time in which the queue would drain at that rate, rounded up, from 1 to 65,535. -/
def Obligations.SessionOpenAndFeed : Prop :=
  ((∀ c s cmd t, Accepted 0x0501 sessionOpenChecks c s cmd t →
    let x := newSession cmd
    let refused := { t with serve := { t.serve with refused := t.serve.refused + 1 } }
    (x.pending ≠ [] ∧ 4096 ≤ t.serve.queue.length →
      exec (.sessionOpen c) s = .next (complete c.tag 2 0 (retryAfter t) refused)) ∧
    (x.pending = [] ∨ t.serve.queue.length < 4096 → ∀ e, firstFail (sessionStateChecks cmd t) = some e →
      exec (.sessionOpen c) s = .next (complete c.tag e.status e.sub e.result t)) ∧
    (x.pending = [] ∨ t.serve.queue.length < 4096 → firstFail (sessionStateChecks cmd t) = none →
      exec (.sessionOpen c) s = .next (complete c.tag 0 0 0 { t with serve := { t.serve with
        sessions := tset none t.serve.sessions x.id (some x)
        queue := if x.pending = [] then t.serve.queue else t.serve.queue ++ [x.id] } }) ∧
      x.state = (if x.pending = [] then 3 else 0) ∧ x.tenant = cmd.tenant)) ∧
  (∀ c s cmd t x, Accepted 0x0502 sessionFeedChecks c s cmd t → tget none t.serve.sessions (cmd.at 40 4) = some x → x.id = cmd.at 40 4 →
    let input := x.pending ++ (List.range (cmd.at 32 8 / 4)).map fun i => fld cmd.data (4 * i) 4
    let full := 65536 < input.length ∨ (x.state = 3 ∧ 4096 ≤ t.serve.queue.length)
    (full → exec (.sessionFeed c) s = .next (complete c.tag 2 0 (retryAfter t)
      { t with serve := { t.serve with refused := t.serve.refused + 1 } })) ∧
    (¬full → exec (.sessionFeed c) s = .next (complete c.tag 0 0 input.length { t with serve := { t.serve with
      sessions := tset none t.serve.sessions x.id (some { x with
        pending := input, state := if x.state = 3 then 0 else x.state, run := if x.state = 3 then 0 else x.run })
      queue := if x.state = 3 then t.serve.queue ++ [x.id] else t.serve.queue } })))) ∧
  (∀ s : State,
    let n := (s.serve.admits.filter fun t => decide (s.spin.count / 8192 < t + 64)).length
    (n = 0 → retryAfter s = 64) ∧
    (0 < n → 1 ≤ retryAfter s ∧ retryAfter s ≤ 65535 ∧
      (s.serve.queue.length ≠ 0 → 64 * s.serve.queue.length ≤ 65535 * n →
        64 * s.serve.queue.length ≤ retryAfter s * n ∧ (retryAfter s - 1) * n < 64 * s.serve.queue.length)))

/-- SESSION_CLOSE and SESSION_QUERY (R310, R311): a Queued or Idle session is removed and its tokens answered; an
admitted one departs at a boundary, where the command completes, and an earlier close of it is ABORTED (the model's
choice, log 51); SESSION_QUERY answers state, place, pending input and run, an open place for a session without slot.
Output queue commands (R332, R334, R506): a new ring is empty with phase 1 and nonce counter 1, encrypted under the
tenant's output key where asked, and takes records that waited for it; a deleted one is gone with its doorbell value.
-/
def Obligations.SessionCloseAndOutputQueues : Prop :=
  ((∀ c s cmd t x, Accepted 0x0503 sessionChecks c s cmd t → tget none t.serve.sessions (cmd.at 40 4) = some x → x.id = cmd.at 40 4 →
    (x.admitted = false → exec (.sessionClose c) s = .next (complete c.tag 0 0 x.total { t with serve := { t.serve with
      sessions := tset none t.serve.sessions x.id none, queue := t.serve.queue.filter (· != x.id) } })) ∧
    (x.admitted = true → exec (.sessionClose c) s = .next (
      let u := { t with serve := { t.serve with sessions := tset none t.serve.sessions x.id (some { x with closing := some c.tag }) } }
      match x.closing with
      | none => u
      | some old => complete old 0xA 1 0 u))) ∧
  (∀ c s cmd t x, Accepted 0x0504 sessionChecks c s cmd t → tget none t.serve.sessions (cmd.at 40 4) = some x →
    ∃ place u, exec (.sessionQuery c) s = .next (complete c.tag 0 0 (x.state + 8 * (if withheld t x.id then 1 else 0) +
        2 ^ 4 * place + 2 ^ 22 * min x.pending.length (2 ^ 20 - 1) + 2 ^ 42 * min x.run (2 ^ 22 - 1)) u) ∧
      u = { t with free := u.free } ∧ (x.admitted = true → place = x.slot + 2 ^ 14 * (x.part % 16)) ∧
      (x.admitted = false → place < 2 ^ 18))) ∧
  (Succeeds .outqCreate 0x0505 outqCreateChecks (fun _ _ => 0) (fun c s =>
    let enc := c.at 41 1 == 1
    flushOrphans (c.tenant * 64 + c.at 40 1) { s with host := { s.host with outqs := tset none s.host.outqs (c.at 40 1) (some
      { owner := c.f.fn, tenant := c.tenant, base := c.at 24 8, size := c.at 32 8, head := 0, tail := 0, phase := true, marks := [], encrypt := enc, nonce := 1
        key := if enc then ((tget none s.trust.tenants c.tenant).map fun n => outputKey c.tenant n (c.at 40 1) (c.at 4 4)).getD [] else [] }) } }) ∧
  Succeeds .outqDelete 0x0506 outqDeleteChecks (fun _ _ => 0) (fun c s => { s with host := { s.host with
    outqs := tset none s.host.outqs (c.at 40 1) none, bells := tset none s.host.bells (192 + c.at 40 1) none } }))

/-- Quotas and cold areas (R295, R297): a tenant's quota is set in tiles of 4 KiB, with a fresh cold key the first
time; a cold area is set, or removed by a length of 0, and answers its tiles. CTX_CREATE, CTX_DELETE, CTX_QUERY and
CTX_EXPORT (R273 to R276, R302, R445): an empty context; every tile of a context released at once and counted; length,
mark and state of a context; and the blob of parameter block and token log under the tenant's export key. -/
def Obligations.ContextCommandsComplete : Prop :=
  (Succeeds .ctxTenantQuota 0x0601 quotaChecks (fun _ _ => 0) (fun c s =>
    let q := quotaOf s c.tenant
    let r := if q.coldKey == [] then randomBytes 32 s else (q.coldKey, s)
    setQuota c.tenant { q with hot := c.at 44 4, warm := c.at 48 4, cold := c.at 52 4, log := c.at 56 4
                               coldKey := r.1 } r.2) ∧
  Succeeds .ctxColdArea 0x0602 coldAreaChecks (fun c _ => c.at 32 8 / 4096) (fun c s =>
    setQuota c.tenant { quotaOf s c.tenant with area := if c.at 32 8 = 0 then none else some (c.f.fn, c.at 24 8, c.at 32 8) } s)) ∧
  (Succeeds .ctxCreate 0x0603 ctxCreateChecks (fun _ _ => 0) (fun c s => setCtx (c.tenant * 2 ^ 32 + c.at 40 4)
    (some { tenant := c.tenant, id := fld c.param 0 4, image := fld c.param 4 4, maxTokens := fld c.param 8 4, droppable := (fld c.param 13 1).testBit 0, layers := fld c.param 14 2, groups := (List.range (fld c.param 12 1)).map (groupAt c.param), param := c.param.take (64 + 32 * fld c.param 12 1), log := [], mark := 0, pages := [], damaged := false, imported := false, full := false, dropped := 0, recompute := none, job := none }) s) ∧
  (∀ c s cmd t x, Accepted 0x0604 ctxDeleteChecks c s cmd t → ctxAt t (cmd.tenant * 2 ^ 32 + cmd.at 40 4) = some x →
    exec (.ctxDelete c) s = .next (complete c.tag 0 0
      ((((tvals x.pages).filter fun p => p.2.tier != 3).map fun p => pageTiles x p.1).sum + (4 * x.log.length + 4095) / 4096)
      { t with serve := { t.serve with
        ctxs := tset none t.serve.ctxs (cmd.tenant * 2 ^ 32 + cmd.at 40 4) none
        moves := t.serve.moves.filter fun m => m.ctx != cmd.tenant * 2 ^ 32 + cmd.at 40 4 } })) ∧
  (∀ c s cmd t x, Accepted 0x0605 ctxQueryChecks c s cmd t → ctxAt t (cmd.tenant * 2 ^ 32 + cmd.at 40 4) = some x →
    let flag := fun (b : Bool) (k : Nat) => if b then 2 ^ k else 0
    exec (.ctxQuery c) s = .next (complete c.tag 0 0 (x.log.length + 2 ^ 23 * x.mark + flag (incomplete x || x.imported) 46 +
      flag ((ctxSession t (cmd.tenant * 2 ^ 32 + cmd.at 40 4)).any fun y => y.2.state != 3) 47 + flag x.job.isSome 48 +
      2 ^ 49 * min x.dropped (2 ^ 15 - 1)) t)) ∧
  (∀ c s cmd t x n, Accepted 0x0606 ctxExportChecks c s cmd t → ctxAt t (cmd.tenant * 2 ^ 32 + cmd.at 40 4) = some x →
    tget none t.trust.tenants cmd.tenant = some n →
    let nonce := (randomBytes 12 t).1
    let head := le 4 0x5843394B ++ le 2 1 ++ le 2 x.tenant ++ le 4 x.id ++ le 4 x.log.length ++ padTo 12 nonce ++ zeros 4
    let sealed' := gcmSeal (exportKey cmd.tenant n) nonce head (x.param ++ x.log.flatMap (le 4))
    exec (.ctxExport c) s = .next (complete c.tag 0 0 (64 + x.param.length + 4 * x.log.length)
      (hostWrite cmd.f.fn (cmd.at 24 8) (head ++ padTo 16 sealed'.2 ++ zeros 16 ++ sealed'.1) (randomBytes 12 t).2))))

/-- CTX_IMPORT (R302, R445): a blob that opens under the tenant's export key and whose contents check becomes a
context with M = 0, every span Dropped that holds a position below C − 1; otherwise it is INTEGRITY_FAIL or the first
failed check of the contents. That all data after the header is ciphertext (log 52), and that a context of more than
one token is one to be rebuilt (log 25), are the model's choices. Consolidation commands (R306, R308): a job queues
behind the others and answers its steps; CTX_JOB_CANCEL completes at the next boundary, and an earlier cancel of the
job is ABORTED (the model's choice, log 51). -/
def Obligations.ContextImportAndConsolidation : Prop :=
  (∀ c s cmd t, Begins 0x0607 c s cmd t →
    let d := cmd.data
    let k := cmd.tenant * 2 ^ 32 + fld d 8 4
    firstFail (headChecks cmd .none .some 64 ++
      [ badTenant cmd, inlineZero cmd 40 24, badData 0 (fld d 0 4 != 0x5843394B), badData 4 (fld d 4 2 != 1), badData 6 (noTenant (fld d 6 2)),
        badData 8 (fld d 8 4 == 0),
        badData 12 (decide (4194304 < fld d 12 4)), badData 28 (!zeroAt d 28 4), badData 48 (!zeroAt d 48 16),
        badLength 32 (decide (cmd.dataLen < 160 + 4 * fld d 12 4)), unauthorised 3 (tenantOf t cmd.tenant).isNone,
        unauthorised 4 (fld d 6 2 != cmd.tenant), exhausted (noCtxRoom t cmd.tenant (fld d 12 4)), conflict (ctxAt t k).isSome ]) = none →
    exec (.ctxImport c) s = .next (
      match openExport cmd t with
      | none => complete c.tag 7 0 0 t
      | some b =>
        match firstFail (blobChecks cmd b) with
        | some e => complete c.tag e.status e.sub e.result t
        | none =>
          let n := fld d 12 4
          let x := newCtx cmd.tenant b (blobLog b n)
          complete c.tag 0 0 n (setCtx k (some { x with pages := droppedPages x (n - 1), imported := decide (1 < n) }) t))) ∧
  ((∀ c s cmd t x, Accepted 0x0608 consolidateChecks c s cmd t → ctxAt t (cmd.tenant * 2 ^ 32 + cmd.at 40 4) = some x →
    let k := cmd.tenant * 2 ^ 32 + cmd.at 40 4
    let j := newJob cmd.param
    exec (.ctxConsolidate c) s = .next (complete c.tag 0 0 (j.epochs * jobChunks j) { t with serve := { t.serve with
      ctxs := tset none t.serve.ctxs k (some { x with job := some j }), jobs := t.serve.jobs ++ [k] } })) ∧
  (∀ c s cmd t x j, Accepted 0x0609 jobCancelChecks c s cmd t → ctxAt t (cmd.tenant * 2 ^ 32 + cmd.at 40 4) = some x → x.job = some j →
    let u := setCtx (cmd.tenant * 2 ^ 32 + cmd.at 40 4) (some { x with job := some { j with cancel := some c.tag } }) t
    exec (.ctxJobCancel c) s = .next (match j.cancel with
      | none => u
      | some old => complete old 0xA 1 0 u)))

/-! ### Converters, calibration, fabric and attestation commands -/

/-- Converter commands (R138 to R142, R154 to R158): CAL_SELF makes the trims of its stacks 0 and not valid until it
ends; ADC_TRIM_READ and MON_RING_READ write 560 and 1,024 bytes; a new monitor table begins at once where no
conversion of the converter is in progress, else when it ends, and a table that it overtakes completes as one begun
(the model's choice, log 21); an urgent request queues, and goes before a conversion that still waits for its probe
span. That CAL_SELF clears the trims at its start is the model's choice (log 22). -/
def Obligations.ConverterCommandsComplete : Prop :=
  Proceeds .calSelf 0x0701 calSelfChecks (fun c s =>
    let mine := fun (st : Nat) => decide (st < 16) && (c.at 40 2).testBit st
    { s with conv := { s.conv with
      trims := s.conv.trims.filter fun x => !mine (x.1 / 132 / 4096), spare := s.conv.spare.filter fun x => !mine (x.1 / 4096)
      valid := s.conv.valid.filter fun st => !mine st, runs := s.conv.runs ++ [⟨c.tag, c.at 40 2⟩] } }) ∧
  Succeeds .adcTrimRead 0x0702 trimReadChecks (fun _ _ => 0) (fun c s => hostWrite c.f.fn (c.at 24 8) (trimBytes s (c.at 40 2)) s) ∧
  (∀ s e, (trimBytes s e).length = 560) ∧
  (∀ c s cmd t, Accepted 0x0710 tableSetChecks c s cmd t →
    let mon := cmd.at 40 1
    let u := overtake mon t
    exec (.monTableSet c) s = .next (
      if (monAt u mon).suspended = false ∧ underway u mon = true then
        setMon mon { monAt u mon with next := some (c.tag, newTable cmd, (cmd.at 42 1).testBit 0) } u
      else complete c.tag 0 0 (if u.spin.state = 2 then u.spin.count else 0) (beginTable mon (newTable cmd) ((cmd.at 42 1).testBit 0) u))) ∧
  Proceeds .monConvertNow 0x0711 convertNowChecks (fun c s =>
    let mon := c.at 40 1
    setMon mon { monAt s mon with
      urgent := (monAt s mon).urgent ++ [⟨c.tag, c.at 44 4, c.at 41 1, [], false, false, false, false⟩]
      urgentNow := (monAt s mon).urgentNow || !underway s mon
      asked := if (monAt s mon).urgentNow = false ∧ underway s mon = false then none else (monAt s mon).asked } s) ∧
  Succeeds .monRingRead 0x0712 ringReadChecks (fun c s => (monAt s (c.at 40 1)).written % 2 ^ 32) (fun c s =>
    hostWrite c.f.fn (c.at 24 8) (zeros (16 * (64 - (monAt s (c.at 40 1)).ring.length)) ++ (monAt s (c.at 40 1)).ring.flatten) s)

/-- Calibration commands (R188, R237 to R240): a policy field of 0 takes its default; CAL_FACTORS_READ writes the blob
and its tag; CAL_WARMUP ends when its columns are Valid or Failing; CAL_STATUS answers epoch, Provisional and Failing
columns; TRUE_STATS answers the last completed pass. -/
def Obligations.CalibrationCommandsComplete : Prop :=
  Succeeds .calPolicySet 0x0730 calPolicyChecks (fun _ _ => 0) (fun c s =>
    let get := fun (off len d : Nat) => if c.at off len = 0 then d else c.at off len
    { s with cal := { s.cal with policy :=
      { rate := get 40 1 12, glide := c.at 41 1 == 1, window := get 42 2 512, gainStep := get 44 2 16, offsetStep := get 46 2 16, seed := c.at 48 8 } } }) ∧
  Succeeds .calFactorsRead 0x0731 factorsReadChecks (fun _ _ => 0) (fun c s =>
    let b := blobBody s (c.at 40 1)
    hostWrite c.f.fn (c.at 24 8) (b ++ hmac factorKey b) s) ∧
  (∀ c s cmd t, AcceptedBut 0x0732 factorsWriteChecks c s cmd t → ∃ u n,
    loadFactors (cmd.at 40 1) ((List.range 2560).map fun j => (cmd.at 40 1 * 4096 + j, slice cmd.data (64 + 6336 * j) 6336)) t = .ok u n ∧
    exec (.calFactorsWrite c) s = .next (
      if hmac factorKey (cmd.data.take 16220224) ≠ slice cmd.data 16220224 32 ∨ slice cmd.data 8 16 ≠ identityBytes.take 16 then
        complete c.tag 7 0 0 t
      else complete c.tag 0 0 n u)) ∧
  Proceeds .calWarmup 0x0733 warmupChecks (fun c s =>
    endWarmups { s with cal := { s.cal with warmups := s.cal.warmups ++ [⟨c.tag, c.at 40 2, s.spin.tick⟩] } }) ∧
  Succeeds .calStatus 0x0734 calStatusChecks (fun c s =>
    let ks := stackColumns (c.at 40 1)
    let failing := fun k => tget false s.cal.failing k
    s.cal.epoch + 2 ^ 32 * (ks.filter fun k => !elemValid s k && !failing k).length + 2 ^ 53 * min (ks.filter failing).length 2047)
    (fun _ s => s) ∧
  (∀ c s cmd t x, Accepted 0x0720 trueStatsChecks c s cmd t → lastPass t (cmd.at 40 1) = some x →
    exec (.trueStats c) s = .next (complete c.tag 0 0
      (min x.1 (2 ^ 24 - 1) + 2 ^ 24 * min x.2.1 (2 ^ 24 - 1) + 2 ^ 48 * min x.2.2 (2 ^ 16 - 1)) t))

/-- Fabric commands (R380, R390, R391): ports that are Disabled wait to train, and the command completes with their
number once none waits; a disable takes its ports down at once; a map replaces one not yet applied, whose command is
ABORTED, and is applied at once where no partition runs; a port's status answers state, reach, latency and counters;
how many codewords could not be corrected beside those at a lost lock is open (log 61). -/
def Obligations.FabricCommandsComplete : Prop :=
  (∀ c s cmd t, Accepted 0x0901 portEnableChecks c s cmd t →
    let ps := (List.range 23).filter fun p => (cmd.at 40 4).testBit p
    (cmd.at 44 1 = 0 → exec (.dritarPortEnable c) s = .next (finishEnables (
      let todo := ps.filter fun p => (connAt t p).state == 0
      let u := todo.foldl (fun u p => setConn p { connAt u p with waiting := true } u) t
      if todo = [] then complete c.tag 0 0 0 t
      else { u with net := { u.net with enables := u.net.enables ++ [(c.tag, todo, (todo.filter fun p => !(connAt t p).waiting).length)] } }))) ∧
    (cmd.at 44 1 ≠ 0 → exec (.dritarPortEnable c) s = .next (finishEnables (
      let todo := ps.filter fun p => (connAt t p).state != 0 || (connAt t p).waiting
      let down := fun (u : State) (p : Nat) =>
        let v := dropConn p 4 0 ((if (connAt u p).state = 5 then peersOn u p else []).foldl (fun v q => dropConn q 4 0 v) u)
        setConn p { connAt v p with waiting := false } v
      complete c.tag 0 0 todo.length (todo.foldl down t))))) ∧
  (∀ c s cmd t, Accepted 0x0902 fabricChecks c s cmd t →
    let run := (parts t).map (·.1)
    exec (.fabricMapSet c) s = .next (
      let u := match t.net.staged with
        | none => t
        | some (old, _) => complete old 0xA 1 0 t
      let v := { u with net := { u.net with
        map := some (parseMap cmd.param), staged := some (c.tag, run)
        old := run.foldl (fun x pk => tset none x pk (some (mapFor u pk))) u.net.old } }
      if run = [] then mapApplied c.tag 0 v else v)) ∧
  (∀ c s cmd t, Accepted 0x0903 portStatusChecks c s cmd t →
    let p := cmd.at 40 1
    let n := connAt t p
    ∃ lost, lost < 2 ^ 16 ∧
      let fec := if n.state = 0 then n.fec else min (n.fec + lost) 65535
      let u := setConn p { n with fec := fec } { t with free := t.free + 1 }
      exec (.dritarPortStatus c) s = .next (complete c.tag 0 0
      (n.state + 8 * (if connMapped t p then 1 else 0) + 16 * reachClass p n.latency + 2 ^ 8 * (n.latency % 2 ^ 18) +
        2 ^ 26 * min n.resent 65535 + 2 ^ 42 * min fec 65535 + 2 ^ 58 * min n.detaches 63)
      (if cmd.at 32 8 = 0 then u else hostWrite cmd.f.fn (cmd.at 24 8) (padTo 64 n.hello) u)))

/-- Requests on a mailbox before a session (R434, R435; message forms and error codes PRESUMED, log 24): with firmware
running and the link up, a request of its code and of the version in force is answered at or after its stage of the
negotiation, which steps forward; the chain of R428 and the measurements of R435 are what is answered, the algorithms
are those of R434, and a key exchange on the physical function opens at most two sessions, with keys that are a free
value. Another code, a stage that is not reached and another version are answered by an error and change nothing else;
a mailbox that is not up answers nothing. Requests in a secured session (R434, R437; message forms and error codes
PRESUMED, log 24): one that a session's keys open is answered where it has its code, the version in force and a
session in the state it needs: FINISH establishes the session, and heartbeats, key updates and IDE key management run
in an established one, which END_SESSION removes. A request for an absent session, one that the keys do not open, and
one out of order are errors. -/
def Obligations.SpdmRequestsAreAnswered : Prop :=
  (∀ (s : State) (fn : Nat) (req : Bytes),
    let x := spdmAt s fn
    let up := fn ≤ 31 ∧ s.phys.state = 3 ∧ s.phys.link = true
    let named := fun code : Nat => up ∧ fld req 1 1 = code ∧ fld req 0 1 = (if code = 0x84 then 0x10 else x.version)
    let rows : List ((Nat → Bytes → Instr) × Nat × Nat) :=
      [(.spdmGetVersion, 0x84, 0), (.spdmGetCapabilities, 0xE1, 1), (.spdmNegotiateAlgorithms, 0xE3, 2), (.spdmGetDigests, 0x81, 3),
        (.spdmGetCertificate, 0x82, 3), (.spdmChallenge, 0x83, 3), (.spdmGetMeasurements, 0xE0, 3), (.spdmKeyExchange, 0xE4, 3)]
    (∀ r ∈ rows,
      (¬up → exec (r.1 fn req) s = .next s) ∧
      (up → fld req 1 1 ≠ r.2.1 → exec (r.1 fn req) s = .next (spdmError fn 1 s)) ∧
      (up → fld req 1 1 = r.2.1 → x.stage < r.2.2 → exec (r.1 fn req) s = .next (spdmError fn 4 s)) ∧
      (up → fld req 1 1 = r.2.1 → r.2.2 ≤ x.stage → r.2.1 ≠ 0xE1 → fld req 0 1 ≠ (if r.2.1 = 0x84 then 0x10 else x.version) →
        exec (r.1 fn req) s = .next (spdmError fn 0x41 s))) ∧
    (named 0x84 → exec (.spdmGetVersion fn req) s = .next
      (spdmAnswer fn 0x04 req ([0, 0, 0, 2, 0, 0x12, 0, 0x13] : List Byte) (setSpdm fn ⟨1, 0x10, []⟩ s))) ∧
    (up → fld req 1 1 = 0xE1 → 1 ≤ x.stage → exec (.spdmGetCapabilities fn req) s = .next (
      if fld req 0 1 = 0x12 ∨ fld req 0 1 = 0x13 then
        spdmAnswer fn 0x61 req (zeros 3 ++ le 1 ((Config.fresh s.free).toNat % 2 ^ 8) ++ zeros 2 ++ le 4 0x62D6)
          (setSpdm fn { x with stage := 2, version := fld req 0 1 } { s with free := s.free + 1 })
      else spdmError fn 0x41 s)) ∧
    (named 0xE3 → 2 ≤ x.stage → exec (.spdmNegotiateAlgorithms fn req) s = .next (spdmSend fn 0x63 spdmAlgorithms
      (setSpdm fn { x with stage := 3 } s))) ∧
    (3 ≤ x.stage →
      (named 0x81 → exec (.spdmGetDigests fn req) s = .next (spdmAnswer fn 0x01 req ([0, 1] ++ sha256 (certChain s)) s)) ∧
      (named 0x82 → exec (.spdmGetCertificate fn req) s = .next (if fld req 2 1 ≠ 0 then spdmError fn 1 s else
        let part := ((certChain s).drop (fld req 4 2)).take (fld req 6 2)
        spdmSend fn 0x02 ([0, 0] ++ le 2 part.length ++ le 2 ((certChain s).length - fld req 4 2 - part.length) ++ part) s)) ∧
      (named 0x83 → exec (.spdmChallenge fn req) s = .next (if fld req 2 1 ≠ 0 then spdmError fn 1 s
        else spdmAnswer fn 0x03 req ([0, 1] ++ sha256 (certChain s)) s)) ∧
      (named 0xE0 → exec (.spdmGetMeasurements fn req) s = .next (if 8 < fld req 3 1 ∧ fld req 3 1 ≠ 0xFF then spdmError fn 1 s
        else spdmAnswer fn 0x60 req (measured s (fld req 3 1)) s)) ∧
      (named 0xE4 → fn = 0 → exec (.spdmKeyExchange fn req) s = .next (if 2 ≤ x.sessions.length then spdmError fn 0x0A s else
        let half := (Config.fresh s.free).toNat % 2 ^ 16
        spdmAnswer fn 0x64 req ([0, 0] ++ le 2 half)
          (setSpdm fn { x with sessions := x.sessions ++ [(fld req 4 2 + 2 ^ 16 * half, false, Config.fresh (s.free + 1))] }
            { s with free := s.free + 2 }))) ∧
      (named 0xE4 → fn ≠ 0 → exec (.spdmKeyExchange fn req) s = .next (spdmError fn 7 s)))) ∧
  (∀ (s : State) (fn : Nat) (req : Bytes), fn ≤ 31 → s.phys.state = 3 → s.phys.link = true →
    let x := spdmAt s fn
    let id := fld req 0 4
    let found := x.sessions.find? (fun y => y.1 == id)
    let rows : List ((Nat → Bytes → Instr) × Nat × Bool) :=
      [(.spdmFinish, 0xE5, false), (.spdmHeartbeat, 0xE8, true), (.spdmKeyUpdate, 0xE9, true), (.spdmEndSession, 0xEC, true),
        (.spdmVendorDefinedRequest, 0xFE, true)]
    (∀ r ∈ rows,
      (found = none → exec (r.1 fn req) s = .next (spdmError fn 2 s)) ∧
      (∀ done keys, found = some (id, done, keys) →
        (Config.spdmSecured keys req = false → exec (r.1 fn req) s = .next (spdmError fn 6 s)) ∧
        (Config.spdmSecured keys req = true →
          (fld req 5 1 ≠ r.2.1 → exec (r.1 fn req) s = .next (spdmError fn 1 s)) ∧
          (fld req 5 1 = r.2.1 → x.stage < 3 → exec (r.1 fn req) s = .next (spdmError fn 4 s)) ∧
          (fld req 5 1 = r.2.1 → 3 ≤ x.stage → fld req 4 1 ≠ x.version → exec (r.1 fn req) s = .next (spdmError fn 0x41 s)) ∧
          (fld req 5 1 = r.2.1 → 3 ≤ x.stage → fld req 4 1 = x.version → done ≠ r.2.2 →
            exec (r.1 fn req) s = .next (spdmError fn 4 s))))) ∧
    (∀ done keys, found = some (id, done, keys) → 3 ≤ x.stage → fld req 4 1 = x.version →
      let opened := fun (code : Nat) (c : Instr) (u : State) => fld req 5 1 = code →
        exec c s = .next (if Config.spdmSecured keys req then u else spdmError fn 6 s)
      (done = false → opened 0xE5 (.spdmFinish fn req) (spdmAnswer fn 0x65 req [0, 0]
        (setSpdm fn { x with sessions := x.sessions.map fun y => if y.1 = id then (id, true, y.2.2) else y } s))) ∧
      (done = true →
        opened 0xE8 (.spdmHeartbeat fn req) (spdmAnswer fn 0x68 req [0, 0] s) ∧
        opened 0xE9 (.spdmKeyUpdate fn req) (spdmAnswer fn 0x69 req (slice req 6 2) (setSpdm fn { x with
          sessions := x.sessions.map fun y => if y.1 = id then (id, y.2.1, Config.fresh s.free) else y } { s with free := s.free + 1 })) ∧
        opened 0xEC (.spdmEndSession fn req) (spdmAnswer fn 0x6C req [0, 0]
          (setSpdm fn { x with sessions := x.sessions.filter fun y => y.1 != id } s)) ∧
        opened 0xFE (.spdmVendorDefinedRequest fn req) (
          let stream := fld req 19 1
          let old := (tget none s.trust.ide stream).getD ⟨[], []⟩
          let sub := fld req 21 1
          let rest := old.keys.filter fun y => y.1 != sub
          let going := old.go.filter (· != sub)
          let ide : Ide :=
            if fld req 16 1 = 2 then ⟨rest ++ [(sub, slice req 23 40)], old.go⟩
            else if fld req 16 1 = 4 then (if rest = old.keys then old else ⟨old.keys, going ++ [sub]⟩)
            else if fld req 16 1 = 5 then ⟨rest, going⟩ else old
          if fld req 15 1 ≠ 0 then spdmError fn 7 s
          else spdmAnswer fn 0x7E req ([0, 0] ++ slice req 8 5) (if 4 < stream then s else
            { s with trust := { s.trust with ide := tset none s.trust.ide stream (if ide.keys = [] then none else some ide) } })))))

/-! ### Power, resets and boot -/

/-- Power and pins (R510 to R512): power good follows the rise of the input, with PERST# asserted; a trip takes every
rail off and latches its first cause until the input falls below 10 V. That a trip or the input's rise changes nothing
in a tripped module is the model's choice (log 3). How resets come about (R495, R501, R503, R510): release of PERST#
ends a cold reset after power has come, a warm one otherwise; its assertion, a return from D3hot and MODULE_RESET's
end are warm resets; afterwards the mask ROM is busy, with BOOT_ERROR 1 where the PUF root could not be reconstructed.
That the link is up at the release is the model's choice (log 15). -/
def Obligations.PowerAndResetEvents : Prop :=
  ((∀ s : State, s.phys.powered = false → s.phys.trip = false → exec .powerApply s = .next { s with phys := { s.phys with
    powered := true, pwrGood := true, perst := true, coldNext := true, link := false } }) ∧
  (∀ (s : State) (cause : Nat), s.phys.powered = true → s.phys.trip = false → cause ≤ 3 →
    ∃ t, exec (.analogueTrip cause) s = .next t ∧ t.phys.trip = true ∧ t.phys.tripCause = cause ∧ t.phys.pwrGood = false ∧
      t.phys.powered = true ∧ t.phys.svnFuses = s.phys.svnFuses ∧ t.arr.cells = s.arr.cells ∧ t.serve = Serve.reset) ∧
  (∀ (s : State) (cause : Nat), s.phys.trip = true → exec (.analogueTrip cause) s = .next s ∧ exec .powerApply s = .next s) ∧
  (∀ s : State, s.phys.powered = true → ∃ t, exec .tripLatchRelease s = .next t ∧ t.phys.trip = false ∧ t.phys.powered = false ∧
    t.phys.pwrGood = false ∧ t.phys.svnFuses = s.phys.svnFuses ∧ t.arr.cells = s.arr.cells)) ∧
  (∀ (s : State) (ok : Bool),
    let rom := fun (u : State) => { u with phys := { u.phys with pufFailed := !ok, bootError := if ok then 0 else 1 } }
    (s.phys.pwrGood = true → s.phys.perst = true → exec (.resetRelease ok) s = .next (rom (
      if s.phys.coldNext then coldReset s else { s with phys := { s.phys with perst := false, link := true } }))) ∧
    (s.phys.pwrGood = true → s.phys.perst = false →
      exec .perstAssert s = .next { warmReset s with phys := { (warmReset s).phys with perst := true, link := false } }) ∧
    (s.phys.pwrGood = true → s.phys.perst = false → s.phys.link = true → exec (.d3hotToD0 ok) s = .next (rom (warmReset s))) ∧
    (s.phys.resetDue = true → exec (.warmResetBegin ok) s = .next (
      let u := rom (warmReset s)
      { u with phys := { u.phys with link := s.phys.link, rate := s.phys.rate, width := s.phys.width } })))

/-- What a reset keeps (R502, R506): every reset keeps fuses, cells, complete directory entries, whose decks are
Persisted, and write counters (which R502 does not name: DEDUCED, log 13), and leaves registers, stores, factors,
sessions, contexts, plans, tenants and manifests as after a cold reset; a warm one keeps the black box and the
snapshot too. -/
def Obligations.WhatAResetKeeps : Prop :=
  ∀ s : State,
    let c := coldReset s
    let w := warmReset s
    c.phys = { Phys.reset with svnFuses := s.phys.svnFuses } ∧ w.phys = c.phys ∧
    c.arr.cells = s.arr.cells ∧ c.arr.active = [] ∧ c.arr.refs = [] ∧ c.arr.refOn = [] ∧ c.arr.ordinal = [] ∧
    c.cal = Cal.reset ∧
    (∀ k d, tget none s.model.dir k = some d → d.complete = true → tget none c.model.dir k = some d) ∧
    (∀ k d, (k, some d) ∈ c.model.dir → d.complete = true ∧ (k, some d) ∈ s.model.dir ∧ (k, 3) ∈ c.model.decks) ∧
    (∀ x ∈ c.model.decks, x.2 = 3) ∧
    c.model.counters = s.model.counters ∧ c.model.bindKey = none ∧ c.model.manifests = [] ∧ c.model.banks = [] ∧
    c.stores = Stores.reset ∧ c.mem = Mem.reset ∧ c.plans = Plans.reset ∧ c.serve = Serve.reset ∧ c.bar = Bar.reset ∧
    c.host = Queues.reset ∧ c.spin = Spin.reset ∧ c.net = Net.reset ∧ c.conv = Conv.reset ∧ c.integ = Integ.reset ∧
    c.trust.tenants = [] ∧ c.trust.binds = [] ∧ c.trust.planKeys = [] ∧ c.trust.log = [] ∧ c.trust.digest = zeros 32 ∧
    c.ev = Ev.reset ∧
    w.ev = { s.ev with seqs := [], turnMarks := [] } ∧ w = { c with ev := w.ev }

/-- Boot (R426, R461, R496 to R498): configuration requests are retried until the mask ROM is ready; LOAD in
BOOT_STATE 1 starts a fetch, elsewhere it is an error, and every LOAD is counted, also after a failed reconstruction
of the PUF root, where none is accepted (the model's choice, log 55); a fetched image is verified, unless its length
is out of range or an access failed, and nothing is fetched while the link is down (R456); after three failed
trainings STATE stays 2. The checks of a firmware image (R429, R461): the first failed one, in the order of the table
of boot errors, returns the ROM to BOOT_STATE 1; an image that passes runs, and STATE becomes 2, or stays 4 where the
verification ends in Hold (the model's choice, log 17). The certificates of R428 that its body carries are open values
of the body (log 7). -/
def Obligations.BootAndVerification : Prop :=
  (∀ s : State, s.phys.pwrGood = true → s.phys.perst = false →
    let p := s.phys
    (p.state = 0 → p.bootState = 0 → exec .maskRomReady s = .next { s with phys := { p with state := 1, bootState := 1 } }) ∧
    (∀ fn, fn ≤ 31 → p.link = true →
      exec (.configRequest fn) s = .next { s with out := { s.out with config := s.out.config ++ [(fn, decide (p.state ≠ 0))] } }) ∧
    (∀ v : BitVec 32, p.link = true → p.pufFailed = false → exec (.load v) s = .next { s with phys := (
      let q := { p with bootAttempts := min 65535 (p.bootAttempts + 1) }
      if v.toNat % 256 ≠ 1 then { p with bootError := 2 }
      else if p.bootState ≠ 1 then { q with bootError := 2 }
      else { q with bootState := 2, bootError := 0, image := none }) }) ∧
    (∀ v : BitVec 32, p.link = true → p.pufFailed = true → v.toNat % 256 = 1 → exec (.load v) s = .next { s with phys :=
      { p with bootAttempts := min 65535 (p.bootAttempts + 1), bootError := 1 } }) ∧
    (∀ image ok, p.link = false → exec (.bootFetchDone image ok) s = .next s) ∧
    (∀ image ok, p.bootState = 2 → p.link = true → exec (.bootFetchDone image ok) s = .next { s with phys := (
      if p.bootLength < 1025 ∨ 1024 + 67108864 < p.bootLength then { p with bootState := 1, bootError := 3, image := none }
      else if ok = false then { p with bootState := 1, bootError := 4, image := none }
      else { p with bootState := 3, image := some (padTo p.bootLength image) }) }) ∧
    (p.state = 2 → p.trainFailed = false →
      exec (.firmwareRunning true) s = .next (startMonitors (List.range 34) { s with phys := { p with state := 3 } }) ∧
      exec (.firmwareRunning false) s = .next { s with phys := { p with trainings := p.trainings + 1, trainFailed := decide (2 ≤ p.trainings) } })) ∧
  (∀ (s : State) (b : Bytes), s.phys.pwrGood = true → s.phys.perst = false → s.phys.bootState = 3 → s.phys.image = some b →
    let fail := fun cause => { s with phys := { s.phys with bootState := 1, bootError := cause, image := none } }
    exec .bootVerifyDone s = .next (
      if b.length ≠ 1024 + fld b 12 4 then fail 3
      else if fld b 0 4 ≠ 0x5746394B ∨ fld b 4 2 ≠ 1 ∨ !zeroAt b 436 12 ∨ !zeroAt b 832 192 then fail 5
      else if sha256 (slice b 48 388) ≠ b256 Config.rootHash then fail 6
      else if Config.pssVerify ((slice b 48 388).take 384) (slice (slice b 48 388) 384 4) (b.take 448) (slice b 448 384) = false then fail 7
      else if sha256 (b.drop 1024) ≠ slice b 16 32 then fail 8
      else if fld b 6 2 < fusedSvn s then fail 9
      else { s with phys := { s.phys with
        bootState := 4, state := if s.phys.state = 4 then 4 else 2, image := none
        fw := some
          { version := fld b 8 4, svn := fld b 6 2, digest := sha256 (b.take 448), length := b.length - 1024
            root := Config.rootCert (b.drop 1024), intermediate := Config.intermediateCert (b.drop 1024) } } }))

/-- A fatal fault (R420, R421): recorded and the box frozen, then every plan halted, withheld steps dropped, keys
zeroized, ports idle, and Hold entered, in this order; what waited for the halted partitions goes on. A further one,
another code, and a fault in a module that is off or tripped (R512) change nothing (log 3), and SPDM and IDE keys go
with the others: these are the model's choices (log 17). -/
def Obligations.FatalFaultEntersHold : Prop :=
  ∀ (s : State) (code loc : Nat),
    (1 ≤ code → code ≤ 5 → s.phys.state ≠ 4 → s.phys.pwrGood = true →
      let u := postEvent 1 0 0x080B 4 (le 2 code ++ le 4 loc) s
      let u := { u with ev := { u.ev with frozen := true, cause := code, freezeCount := u.spin.count } }
      let v := dropReplays (settleHalts u (haltAll u))
      ∃ t, exec (.fatalFault code loc) s = .next t ∧
        t.phys = { s.phys with state := 4, fatal := code } ∧ t.ev = v.ev ∧ t.plans = v.plans ∧ t.serve.replays = v.serve.replays ∧
        t.model.bindKey = none ∧ t.model.manifests = v.model.manifests.map (fun m => { m with key := [] }) ∧
        t.trust = { v.trust with tenants := [], memKey := zeros 64, spdm := [], ide := [] } ∧
        t.net = { v.net with conns := [], enables := [] }) ∧
    (code = 0 ∨ 5 < code ∨ s.phys.state = 4 ∨ s.phys.pwrGood = false → exec (.fatalFault code loc) s = .next s)

/-- A function-level reset of a virtual function of a powered module completes (R505, R506): the virtual function's
queues are gone, its commands complete nowhere, and the queues and commands of the other functions stay, but a
QUEUE_DELETE that waited for its commands completes, and with it a disabled admin pair may go out of use (R460). -/
def Obligations.FunctionLevelResetEndsOneFunction : Prop :=
  ∀ (s : State) (fn : Nat), 1 ≤ fn → fn ≤ 31 → s.phys.pwrGood = true → s.phys.perst = false →
    ∃ t, exec (.functionLevelReset fn) s = .next t ∧
      (∀ q r, (q, some r) ∈ t.host.sqs → r.owner ≠ fn ∧ (q, some r) ∈ s.host.sqs) ∧
      (∀ q r, (q, some r) ∈ t.host.cqs → r.owner ≠ fn ∧
        ∃ r0, (q, some r0) ∈ s.host.cqs ∧ r0.owner = r.owner ∧ r0.base = r.base ∧ r0.exp = r.exp) ∧
      (∀ q r, (q, some r) ∈ t.host.outqs → r.owner ≠ fn ∧ (q, some r) ∈ s.host.outqs) ∧
      (∀ q r, (q ≠ 0 ∨ s.bar.enable = true) → (q, some r) ∈ s.host.sqs → (∀ r', (q, some r') ∈ s.host.sqs → r'.owner ≠ fn) → (q, some r) ∈ t.host.sqs) ∧
      (∀ q r, (q, some r) ∈ s.host.outqs → (∀ r', (q, some r') ∈ s.host.outqs → r'.owner ≠ fn) → (q, some r) ∈ t.host.outqs) ∧
      (∀ q r, (q ≠ 0 ∨ s.bar.enable = true) → tget none s.host.cqs q = some r → (∀ r', (q, some r') ∈ s.host.cqs → r'.owner ≠ fn) →
        ∃ r', tget none t.host.cqs q = some r' ∧ r'.owner = r.owner ∧ r'.base = r.base ∧ r'.exp = r.exp) ∧
      (∀ tag f, (tag, some f) ∈ t.host.fetched → f.fn = fn → f.lost = true) ∧
      (∀ tag f, (tag, some f) ∈ s.host.fetched → f.fn ≠ fn → tag ∉ s.host.deleting.map (·.1) →
        (∀ g, (tag, some g) ∈ s.host.fetched → g.fn ≠ fn) → (tag, some f) ∈ t.host.fetched) ∧
      t.trust = s.trust ∧ t.serve = s.serve ∧ t.phys = s.phys ∧ t.host.evqs = s.host.evqs

/-- An operation that is due leaves its partition's list and runs its issue index (R63, R78, R80) under the next
number in flight; one that is not due changes nothing (log 3). A MGMT_TASK is an adapter update or a gather task by
its descriptor. What the short operations do when due: NOP nothing; REF_ON turns a core's buffer on, its settle
distance counted from this offset, and REF_OFF turns it off and leaves that distance (R114, R115); DECK_SEL makes the
deck of the bank in force active or, without a valid entry, every later read unbound (R108, R257); FE_WAIT ends at a
full word and waits at an empty one, FE_EMPTY empties its words at the end of the index (R346); MOVE writes what it
reads at the end of the index (R63, R340), or waits on an empty source word under GUARD_SRC or a full destination word
under FILL_DST (R341, R343). What the long operations do when due, each where its descriptor, list or header breaks no
rule and, under GUARD_SRC, its source words are full (R63, R78, R100, R129, R201, R205, R215, R265 to R267, R279,
R288, R322, R367): STROKE and REVERSE_READ, CORE_REDUCE and STACK_REDUCE, FUSE, TRUE, CLUSTER_MATMUL, ATTEND,
KV_APPEND, SAMPLE, FINISH and MGMT_TASK hold what they read or computed, and write it no earlier than the index their
rules give; GRAIN_SEND, DRITAR_SEND, MEM_READ and MEM_WRITE begin their transfers. DRAIN_SRC empties the source words.
-/
def Obligations.PlanOperationsIssue : Prop :=
  (∀ (st : Nat) (op : PlanOp) (s : State),
    (∀ row ∈ opRows,
      (∀ pk p, Due row.2.1 st op s pk p →
        exec (row.1 st op) s = .next (row.2.2 s.plans.nextFly (freshFly st op pk s) (taken st op pk p s))) ∧
      ((∀ pk p, ¬Due row.2.1 st op s pk p) → exec (row.1 st op) s = .next s)) ∧
    (∀ pk p, Due 0x60 st op s pk p →
      let update := byteAt (wordAt s (wordOf s st none p.d.descBase + 2 * opBits op 15 0)) 1 = 1#8
      let go := fun start : Nat → Fly → State → State => start s.plans.nextFly (freshFly st op pk s) (taken st op pk p s)
      exec (.gatherTask st op) s = .next (if update then s else go startGather) ∧
      exec (.adapterUpdateTask st op) s = .next (if update then go startUpdate else s)) ∧
    ((∀ pk p, ¬Due 0x60 st op s pk p) →
      exec (.gatherTask st op) s = .next s ∧ exec (.adapterUpdateTask st op) s = .next s)) ∧
  (∀ (st : Nat) (op : PlanOp) (s : State) (pk : Nat) (p : Part),
    let t := taken st op pk p s
    let id := s.plans.nextFly
    let f := freshFly st op pk s
    let core := st * 640 + physCore t st (opCore op)
    let g := srcWord t f
    let waits := fun ws : List Nat => setFly id (some { f with wait := .guard ws }) t
    let drained := fun ws : List Nat => if op.drain then { t with stores := { t.stores with empties := t.stores.empties ++ ws } } else t
    (Due 0x00 st op s pk p → exec (.nop st op) s = .next t) ∧
    (Due 0x01 st op s pk p → exec (.refOn st op) s =
      .next { t with arr := { t.arr with
        refs := tset none t.arr.refs core (some (-(op.offset : Int))), refOn := tset false t.arr.refOn core true } }) ∧
    (Due 0x02 st op s pk p → exec (.refOff st op) s =
      .next { t with arr := { t.arr with refOn := tset false t.arr.refOn core false } }) ∧
    (Due 0x03 st op s pk p → exec (.deckSel st op) s = .next (
      let l := gea st (opCore op) (op.unit % 4)
      let e := physEngine t l
      match chuckEntry t (bankOf t pk) l (opBits op 4 0) with
      | some c => { t with arr := { t.arr with
          active := tset 0 t.arr.active e (chuckPhys c), noDeck := tset false t.arr.noDeck e false } }
      | none => { t with arr := { t.arr with noDeck := tset false t.arr.noDeck e true } })) ∧
    (Due 0x52 st op s pk p → exec (.feWait st op) s = .next (
      if fullAt t g then setFly id none (drained [g]) else waits [g])) ∧
    (Due 0x53 st op s pk p → exec (.feEmpty st op) s = .next { t with stores := { t.stores with
      empties := t.stores.empties ++ span g (opBits op 47 32) } }) ∧
    (Due 0x20 st op s pk p → exec (.move st op) s = .next (
      let n := opBits op 15 0
      let ws := toWords (dstWord t f) (wordsAt t g n)
      if op.guard ∧ ∃ w ∈ span g n, fullAt t w = false then waits (span g n)
      else if op.fill ∧ ∃ w ∈ ws, fullAt t w.1 = true then
        setFly id (some { f with wait := .fill (ws.map (·.1)), body := .out ws }) (drained (span g n))
      else setFly id (some { f with body := .writing ws }) (queuedWrite id f ws (drained (span g n)))))) ∧
  (∀ (st : Nat) (op : PlanOp) (s : State) (pk : Nat) (p : Part),
    let t := taken st op pk p s
    let id := s.plans.nextFly
    let f := freshFly st op pk s
    let own := opOwn op
    let now := s.spin.tick
    let full := fun ws : List Nat => op.guard = true → ∀ w ∈ ws, fullAt t w = true
    let drained := fun ws : List Nat => if op.drain then drainWords ws t else t
    let holds := fun (r : Host.Outcome State Fault Refusal) (due : Nat) (body : Body) (ws : List Nat) =>
      ∃ u, r = .next u ∧ (flyAt u id).map (fun g => (g.due, g.wait, g.body)) = some (due, .none, body) ∧
        u.stores = (drained ws).stores
    let d := wordsAt t (descWord t f) 2
    let src := srcWord t f
    let h := wordAt t src
    let out := fun (v : State) (b : Bytes) => Body.out (toWords (dstWord v f) b)
    (let ws := span src (inputWords op)
     full ws →
      (Due 0x10 st op s pk p → ∃ j, holds (exec (.stroke st op) s) (now + busyOf op + 2) (.read j) ws ∧ j.done = false ∧
        j.count = s.spin.count ∧ j.gain = gainWord t f) ∧
      (Due 0x11 st op s pk p → ∃ j, holds (exec (.reverseRead st op) s) (now + 6) (.read j) ws ∧ j.done = false ∧
        j.count = s.spin.count)) ∧
    (Due 0x21 st op s pk p →
      let srcs := coreSources t f
      let ws := srcs.flatMap fun x => span x.2.1 (trueWords x.2.2)
      full ws → holds (exec (.coreReduce st op) s) (now + 3)
        (.out (toWords (wordOf t st own (opBits op 79 48)) (coreReduceBlock (drained ws) f srcs).1)) ws) ∧
    (Due 0x22 st op s pk p → ∀ gs,
      let l := wordsAt t src 3
      let hs := gs.map (wordAt t)
      let ws := span src 3 ++ (gs.zip hs).flatMap fun x => span x.1 (blockWords x.2)
      listBad t f l = false → contributions t f l = some gs → blocksBad t f l hs = false → full (span src 3) → full gs → full ws →
        holds (exec (.stackReduce st op) s) (now + 6)
          (out t (stackReduceBlock (drained ws) f l ((gs.zip hs).map fun x => wordsAt t x.1 (blockWords x.2))).1) ws) ∧
    (Due 0x23 st op s pk p →
      let hs := fuseIssue t f
      let d := hs.getD 0 []
      let gg := wordOf t st own (fld d 24 4)
      let hg := wordAt t gg
      let ws := span src (blockWords h) ++ if fuseGated d then span gg (blockWords hg) else []
      fuseBad t f d = false → fuseUnfit t f d h hg = false → full (src :: if fuseGated d then [gg] else []) → full ws →
        let vs := blockValues (wordsAt t src (blockWords h))
        let gs := if fuseGated d then blockValues (wordsAt t gg (blockWords hg)) else []
        let zs := (List.range (blockLen (byteAt h 2).toNat)).map (fuseValue d (hs.getD 2 []) (hs.getD 3 []) vs gs)
        let x := fuseOutput d (fld (hs.getD 1 []) 0 4) (zs.map (·.v))
        holds (exec (.fuse st op) s) (now + 6) (.out (toWords (dstWord t f + x.1) x.2.1)) ws) ∧
    (Due 0x24 st op s pk p →
      let kind := kindOf t f
      let ws := trueSources t f d kind
      let x := formTrue (drained ws) { f with body := .desc d kind } d kind
      let chuck := chuckOf (drained ws) (bankOf (drained ws) pk) x.engine x.deck
      trueBad t f d kind = false → full ws →
        (byteAt d 1).toNat = (if x.flags.testBit 6 = true ∨ kind = 3 then 0 else (chuck.map channelCount).getD 0) →
        holds (exec (.trueOp st op) s) (now + 8 + ceilDiv (fld d 2 2 + 16 * (byteAt d 1).toNat) 256) (.true x) ws) ∧
    (Due 0x30 st op s pk p →
      let n := opBits op 11 0
      let ws := toWords (wordOf t (opBits op 15 12) none (opBits op 47 16)) (wordsAt t src n)
      full (span src n) → holds (exec (.grainSend st op) s) now (.send (ceilDiv n 512)) (span src n) ∧
        ∀ u, exec (.grainSend st op) s = .next u → u.net.frames.map (·.words) =
          s.net.frames.map (·.words) ++ (List.range (ceilDiv n 512)).map fun k => (ws.drop (512 * k)).take 512) ∧
    (Due 0x31 st op s pk p →
      let n := opBits op 5 0
      full (span src (32 * n)) → holds (exec (.dritarSend st op) s) now (.send n) (span src (32 * n)) ∧
        ∀ u, exec (.dritarSend st op) s = .next u → u.net.sends.map (·.blocks) =
          s.net.sends.map (·.blocks) ++ [(List.range n).map fun k => wordsAt t (src + 32 * k) 32]) ∧
    (Due 0x32 st op s pk p →
      let n := 32 * opBits op 9 0
      (∀ region a, memPlace t f (memSpace op) (memAddr op) n = some (region, a) →
        holds (exec (.memRead st op) s) (now + memDelay op) (.memRead region a n (wordOf t st own (opBits op 41 10))) [] ∧
        ∀ u, exec (.memRead st op) s = .next u → tget [] u.mem.order (channelKey f) = tget [] s.mem.order (channelKey f) ++ [id]) ∧
      (memPlace t f (memSpace op) (memAddr op) n = none →
        exec (.memRead st op) s = .next (setFly id none (windowFault f (memAddr op) t)))) ∧
    (Due 0x33 st op s pk p →
      let n := opBits op 9 0
      let g := wordOf t st own (opBits op 41 10)
      ∀ a, full (span g n) → memPlace t f (memSpace op) (memAddr op) (32 * n) = some (3, a) →
        holds (exec (.memWrite st op) s) (now + memDelay op) (.memWrite 3 a (wordsAt t g n)) (span g n) ∧
        ∀ u, exec (.memWrite st op) s = .next u → tget [] u.mem.order (channelKey f) = tget [] s.mem.order (channelKey f) ++ [id]) ∧
    (Due 0x40 st op s pk p →
      let n := mmSource d h
      let tile := if mmKind d = 0 then span (wordOf t st own (fld d 8 4)) (tileWords d) else []
      let ws := span src n ++ tile
      let v := drained ws
      mmBad t f d = false → mmUnfit t f d h = false → (mmKind d = 3 → full [src]) → full ws →
        let acts := if fld d 24 4 = 0 then zeros 128 else wordsAt v (wordOf v st own (fld d 24 4)) 4
        let weights := if mmKind d = 0 then wordsAt v (wordOf t st own (fld d 8 4)) (tileWords d) else []
        holds (exec (.clusterMatmul st op) s) now
          (out t (mmResult v { f with body := .desc d 0 } d (wordsAt v src n) weights acts).1) ws) ∧
    (Due 0x41 st op s pk p → ∀ sd g,
      let a := askOf d h
      let f' := { f with body := .held [d] }
      let tree := if a.tree then wordsAt t (wordOf t st own a.treeAt) 2 else []
      let n := a.count * a.q * g.dim / 16
      let sw := wordOf t st own a.stats
      let sn := ceilDiv (8 * a.count * a.q) 32
      let gw := wordOf t st own a.grads
      let ws := span src (1 + n) ++ if a.back then span sw sn ++ span gw n else []
      full [src] → askBad d h = false → slotDefOf t pk a.slot = some sd → attendGroup t f' a = some g →
      askShapeBad t f' a g sd.kind = false → (a.tree = true → treeBad tree = false) →
      (slotEmpty t pk a.slot = false → ∀ e ∈ a.entries, pathOf a tree e ≠ none) → full ws →
        holds (exec (.attend st op) s) (now + 8) (.held [d, h, wordsAt t (src + 1) n, tree,
          if a.back then wordsAt t sw sn else [], if a.back then wordsAt t gw n else [], le 2 g.dim]) ws) ∧
    (Due 0x42 st op s pk p →
      let slot := kvSlot op
      let layer := fld d 2 2
      let n := kvWords h (groupFor t pk slot layer)
      full [src] → kvUnfit t f d h = false → full (span src n) →
        (slotEmpty t pk slot = true → exec (.kvAppend st op) s = .next (setFly id none (drained (span src n)))) ∧
        (∀ k x, slotEmpty t pk slot = false → groupFor t pk slot layer = some k → stepOf t pk slot = some x →
          holds (exec (.kvAppend st op) s) (now + 4)
            (.kv (x.ctx.getD 0) layer (kvEntries k (fld h 0 2) (fld h 2 2) (wordsAt t src n))) (span src n))) ∧
    (Due 0x43 st op s pk p →
      let slot := decideSlot op
      let v := nameSlot f slot t
      let cons := decide (slotKind t pk slot = some 2)
      let cnt := fld h 4 2
      let n := 1 + (if cons then cnt else 1) * ceilDiv (fld h 0 4) 8
      (slotKind t pk slot = some 1 ∨ slotKind t pk slot = some 2) → slotNamed t pk slot = false → full [src] →
      sampleUnfit v f h = false → full (span src n) →
        ∃ b, holds (exec (.sample st op) s) (now + 16) (out t b) (span src n) ∧
          (cons = false → (∀ x, stepOf v pk slot = some x → x.empty = true) → b = decisionBytes slot true emptyDecision) ∧
          (∀ x, cons = false → stepOf v pk slot = some x → x.empty = false → ∃ w, b = decisionBytes slot false
            (sampleDecision w (stepSession w x) x cnt (vec32 (wordsAt t (src + 1) (n - 1)) (fld h 0 4))) ∧ w.serve = s.serve)) ∧
    (Due 0x44 st op s pk p → ∀ g,
      let slot := decideSlot op
      let v := nameSlot f slot t
      let dir := wordsAt t g 22
      let used := (List.range 165).filter fun k => dirPtr dir k != 0
      let ws := (span g 22 ++ used.flatMap fun k => span (wordOf v st own (dirPtr dir k)) (ceilDiv (fld dir 0 4) 8)).eraseDups
      slotKind t pk slot = some 0 → slotNamed t pk slot = false → rangeOf v st own (opBits op 79 48) 22 = some g →
      full (span g 22) → dirBad v f dir (((stepOf v pk slot).map (·.tree)).getD []) = false → full ws →
        ∃ b, holds (exec (.finish st op) s) (now + 32) (out t b) ws ∧
          (stepRun v pk slot = none → b = decisionBytes slot true emptyDecision)) ∧
    (Due 0x60 st op s pk p →
      let n := if byteAt h 15 = 0#8 then 8 else 515
      let best := fld h 12 2
      let sel := if (byteAt d 2).toNat = 1 ∧ (byteAt h 14).toNat.testBit 1 ∧ 0 < best ∧ best ≤ fld d 6 2 then
          span (wordOf t st none (fld d 20 4) + (best - 1) * fld d 4 2) (fld d 4 2)
        else []
      let ws := span src n ++ sel
      gatherBad t f d = false → full [src] → rangeOf t st none (opBits op 79 48) n ≠ none → full ws →
        holds (exec (.gatherTask st op) s) (now + 16) (.out (toWords (wordOf t st none (fld d 16 4))
          (gatherRows (drained ws) { f with body := .desc d 2 } d (wordsAt t src n)))) ws) ∧
    (Due 0x60 st op s pk p →
      let ws := span src (blockWords h)
      byteAt d 0 = 0x60#8 → byteAt d 1 = 1#8 → (byteAt d 4).toNat ≤ 1 → zeroAt d 5 3 = true → fld d 8 4 % 256 = 0 → zeroAt d 12 52 = true →
      full [src] → byteAt h 2 = 0#8 → rangeOf t st none (opBits op 79 48) (blockWords h) ≠ none → full ws →
        (updateJob t pk = none → exec (.adapterUpdateTask st op) s = .next (setFly id none (drained ws))) ∧
        (∀ k c j n x, updateJob t pk = some (k, c, j, n) → siteAt j.form (fld d 2 2) = some x →
          fld d 8 4 < matrixRows j.form x (byteAt d 4 == 1#8) * rowElems j.form x (byteAt d 4 == 1#8) →
          exec (.adapterUpdateTask st op) s = .next (setFly id none
            (stageUpdates k c j n (updatesOf f j.form d x (blockValues (wordsAt t src (blockWords h)))) (drained ws))))))

/-! ### Plan operations -/

/-- Held results (R201, R205, R215, R267, R288, R319, R322, R329): once its index has come, an operation writes the
words it holds at the end of the index, or waits while one of them is full under FILL_DST (R341); before, and for an
operation of another code, nothing changes (the model's choice, log 3). ATTEND and KV_APPEND write (R278 to R280,
R288, R306): an ATTEND writes all its words once its earliest index has come and what it attends can be read, and
stamps the pages it read; a KV_APPEND records its tail entries in the partition of its slot, allocates the pages they
need in a session's own step, and ends. -/
def Obligations.HeldResultsAreWritten : Prop :=
  (∀ row ∈ ([(.coreReduceWrite, 0x21), (.stackReduceWrite, 0x22), (.fuseWrite, 0x23), (.clusterMatmulWrite, 0x40),
      (.gatherTaskWrite, 0x60), (.sampleWrite, 0x43), (.finishDecisionWrite, 0x44)] : List ((Nat → Instr) × Nat)),
    ∀ (id : Nat) (s : State) (f : Fly) (ws : List (Nat × Bytes)), flyAt s id = some f → f.body = .out ws →
      exec (row.1 id) s = .next (
        if f.op.code ≠ row.2 ∨ f.wait ≠ .none ∨ s.spin.tick < f.due then s
        else if f.op.fill ∧ ∃ w ∈ ws, fullAt s w.1 = true then setFly id (some { f with wait := .fill (ws.map (·.1)) }) s
        else setFly id (some { f with body := .writing ws }) (queuedWrite id f ws s))) ∧
  (∀ (id : Nat) (s : State) (f : Fly), flyAt s id = some f →
    (∀ hs, f.body = .held hs → f.op.code = 0x41 → f.wait = .none → hs.length = 7 →
      (s.spin.tick < f.due → exec (.attendWrite id) s = .next s) ∧
      (f.due ≤ s.spin.tick → attendOut s f hs = none → exec (.attendWrite id) s = .next s) ∧
      (∀ ws pages, f.due ≤ s.spin.tick → attendOut s f hs = some (ws, pages) →
        ∃ u : State, exec (.attendWrite id) s = .next (tryWrite id f ws { u with free := s.free + 1 }) ∧
          u.stores = s.stores ∧ u.plans.flies = s.plans.flies)) ∧
    (∀ k layer recs, f.body = .kv k layer recs → f.op.code = 0x42 →
      (s.spin.tick < f.due → exec (.kvAppendWrite id) s = .next s) ∧
      (∀ p c x, f.due ≤ s.spin.tick → partAt s (slotPart s f.part (opBits f.op 47 34)) = some p → ctxAt s k = some c →
        stepOf s f.part (opBits f.op 47 34) = some x →
        ∃ t, exec (.kvAppendWrite id) s = .next t ∧ flyAt t id = none ∧
          (∃ q, partAt t (slotPart s f.part (opBits f.op 47 34)) = some q ∧ q = { p with tails := q.tails } ∧
            (∀ n, (∀ e ∈ recs, tailKey (opBits f.op 47 34) layer e.1 ≠ n) → tget [] q.tails n = tget [] p.tails n) ∧
            (recs.Pairwise (fun a b => a.1 ≠ b.1) → (∀ e ∈ recs, e.1 < 4096) →
              ∀ e ∈ recs, tget [] q.tails (tailKey (opBits f.op 47 34) layer e.1) = e.2)) ∧
          (∃ d, ctxAt t k = some d ∧ d = { c with pages := d.pages } ∧
            (∀ n pg, tget none c.pages n = some pg → tget none d.pages n = some pg) ∧
            (x.job = 2 ∨ x.replay.isSome = true → d.pages = c.pages) ∧
            (∀ g, x.job ≠ 2 → x.replay = none → c.group layer = some g → ∀ e ∈ recs,
              (tget none d.pages (pageKey layer (g.pageOf (x.base + e.1)))).isSome = true)))))

/-- The record stages of a read (R100, R123, R129): a record without a re-read is written in its index; one with more
than 32 clips keeps it back, and its final record, with the columns of the sub-reads, is written once these are done.
FILL_DST makes the write wait (R101). -/
def Obligations.RecordsAreWritten : Prop :=
  ∀ (id : Nat) (s : State) (f : Fly) (j : ReadJob), flyAt s id = some f → f.body = .read j → f.wait = .none → j.done = false →
    let records := fun (j : ReadJob) (u : State) =>
      let ws := j.halves.flatMap fun h => recordWordsOf j h (2 ^ j.burnish)
      if f.op.fill ∧ ∃ w ∈ ws, fullAt u w.1 = true then
        setFly id (some { f with wait := .fill (ws.map (·.1)), body := .read j }) u
      else setFly id (some { f with body := .read { j with done := true } }) (queuedWrite id f ws u)
    ((∀ h ∈ j.halves, j.unsettled = true ∨ h.kind = 3 ∨ h.clips ≤ 32) → f.due ≤ s.spin.tick →
      (f.op.code = 0x10 → exec (.strokeRecordWrite id) s = .next (records j s)) ∧
      (f.op.code = 0x11 → exec (.reverseReadRecordWrite id) s = .next (records j s))) ∧
    ((∃ h ∈ j.halves, j.unsettled = false ∧ h.kind ≠ 3 ∧ 32 < h.clips) →
      exec (.strokeRecordWrite id) s = .next s ∧
      ∀ d, j.drive = some d → d + 4 * j.strokes + 1 ≤ s.spin.tick →
        let entry := (chuckOf s (bankOf s f.part) j.engine j.deck).getD []
        let drive := fun h : HalfRead => (⟨j.phys, j.deck, entry, j.gain, h.kind, j.a8, h.xs, s.free⟩ : Drive)
        let redone := { j with halves := j.halves.map fun h =>
          if j.unsettled = false ∧ h.kind ≠ 3 ∧ 32 < h.clips then rereadHalf s (drive h) (2 ^ j.burnish) h else h }
        let left := ((redone.halves.filter (·.split)).map fun h =>
          (h.redo.filter (· == true)).length + (h.redoCheck.filter (· == true)).length).sum
        exec (.rangeSplitReread id) s = .next (records redone
          (match partAt s f.part with
            | none => { s with free := s.free + 5 }
            | some p => setPart f.part (some { p with rereads := p.rereads + 1, rereadLeft := p.rereadLeft + left })
              { s with free := s.free + 5 })))

/-- The accumulator of a column (R105, R121): over the converted strokes, each with its coefficient and raw value, the
sum of coefficient times code, and 0 for a column of which any stroke clipped; a code is never outside −127 to 127,
and a raw value neither outside −143 to 143, at whose ends the conversion clips (R99). With no trims, code and raw
value agree. -/
def Obligations.AccumulatorsSumTheirCodes : Prop :=
  (∀ (trim : Nat) (raws : List (Nat × Int)),
    let code := fun x : Nat × Int => adcCode trim x.2
    ((∃ x ∈ raws, code x = none) → accumulate trim raws = (0, true)) ∧
    ((∀ x ∈ raws, code x ≠ none) →
      accumulate trim raws = ((raws.map fun x => (x.1 : Int) * (code x).getD 0).sum, false))) ∧
  (∀ trim u c, adcCode trim u = some c → -127 ≤ c ∧ c ≤ 127) ∧
  (∀ trim, adcCode trim 143 = none ∧ adcCode trim (-143) = none) ∧
  (∀ u, adcCode 0 u = if u < -127 ∨ 127 < u then none else some u) ∧
  (∀ kind base k elem path d, -143 ≤ rawValue kind base k elem path d ∧ rawValue kind base k elem path d ≤ 143)

/-- The driven values of an A8 block (R96): a value below −112 is driven as −112, one above 112 as 112, and either
sets INPUT_CLAMP; the high digit of an accepted value a is a ÷ 15 rounded half away from zero, the low digit what
remains, both in −7 to 7; the high digits form one A4 stroke, the low digits another. -/
def Obligations.DigitsOfA8Values : Prop :=
  (∀ (b : Bytes) (n : Nat),
    let v := fun r => (byteAt b r).toInt
    (driveA8 b n).1.length = n ∧
    (∀ r, r < n → (driveA8 b n).1[r]? = some (if v r < -112 then -112 else if 112 < v r then 112 else v r)) ∧
    ((driveA8 b n).2 = true ↔ ∃ r < n, v r < -112 ∨ 112 < v r)) ∧
  (∀ a : Int, -112 ≤ a → a ≤ 112 →
    highDigit a = (if 0 ≤ a then (2 * a + 15) / 30 else -((15 - 2 * a) / 30)) ∧ lowDigit a = a - 15 * highDigit a ∧
      -7 ≤ highDigit a ∧ highDigit a ≤ 7 ∧ -7 ≤ lowDigit a ∧ lowDigit a ≤ 7) ∧
  (∀ xs : List Int, ∃ h l : Bool, strokesOf true xs = [(15, h), (1, l)] ∧
    (h = true ↔ ∀ x ∈ xs, highDigit x = 0) ∧ (l = true ↔ ∀ x ∈ xs, lowDigit x = 0))

/-- The stages of a TRUE (R165, R178, R179, R223 to R227, R396, R397): at its output index the reference columns are
observed and what is final is compared and written; an exact value whose 12 indices have passed goes to its read and
to the TRUE that waits for it, and a failed tile that halts plans settles what waited for them; a paired sample is
used by the state of its element; a read replay is resolved once every member is exact: with a data column that
disagrees the core is suspect, and every column that disagrees, the check column too, is failed. That a resolution
before every member is exact changes nothing (log 3), that the stages come as commands of their own (log 4), and how a
paired sample is compared (log 56), are the model's choices. -/
def Obligations.TrueStages : Prop :=
  ∀ (id st req group : Nat) (s : State),
    (∀ f t, flyAt s id = some f → f.body = .true t → t.opened = false → f.due ≤ s.spin.tick → earlierTrue s f = false →
      exec (.trueOutputWrite id) s = .next (
        let x := compareAll id f { t with opened := true } (observe t t.inputs s)
        flushTrue id f x.1 x.2)) ∧
    (∀ q ∈ serviceOf s st, (∀ r ∈ serviceOf s st, r.id = req → r = q) → q.id = req →
      (∃ k, q.started = some k ∧ k + 12 ≤ s.spin.tick) →
      let u := setService st ((serviceOf s st).filter fun r => r.id != req) s
      (q.paired = false →
        exec (.recomputeResult st req true) s =
          .next (settleHalts s (deliverExact q (exactOf u (requestEntry u q) q.inputs q.phys q.col) u)) ∧
        exec (.recomputeResult st req false) s = .next (settleHalts s (shadowTile st q u))) ∧
      (q.paired = true → exec (.pairedSampleResult st req) s = .next (
        match requestEntry u q with
        | none => u
        | some e => endWarmups (takeSample (sampleOf u e q) u)))) ∧
    (∀ f t d, flyAt s id = some f → f.body = .true t → t.replay.find? (fun x => x.1 == group) = some (group, d) →
      (replayReady t group = false → exec (.readReplayResolve id group) s = .next s) ∧
      (replayReady t group = true →
        let bad := t.disagree group
        let out := if bad ≠ [] then 2 else if t.checkDisagrees group then 1 else 0
        let v := postOncePerPass f.part 0x0801 2 t.phys (le 2 t.phys ++ le 1 t.deck ++ le 1 group ++ leInt 4 d ++ le 1 out) s
        let u :=
          if out = 0 then { v with integ := { v.integ with
            noise := tset 0 v.integ.noise (engineStack t.phys) (tget 0 v.integ.noise (engineStack t.phys) + 1) } }
          else if out = 1 then v
          else markSuspect (coreOf t.phys) 0 (blame (coreOf t.phys) v)
        let u := (bad ++ if t.checkDisagrees group then [512 + group] else []).foldl
          (fun w c => failElement (elemKey t.phys (t.column w f c)) 0 w) u
        exec (.readReplayResolve id group) s = .next (advanceTrue id f { t with
          replay := t.replay.filter (fun x => x.1 != group), chosen := if out = 2 then t.chosen ++ [group] else t.chosen } u)))

/-- Memory transfers (R265, R266): at issue a transfer takes its place in its channel's order, or ends at the window's
edge; MEM_READ then writes the bytes it read, and MEM_WRITE puts its bytes into scratch, once the earliest index has
come and every earlier transfer of the channel is done. That an arrival before its index or out of its order, and a
frame that cannot cross, change nothing (log 3), and that all words of a transfer are written in one index (log 38),
are the model's choices. GRAIN_FRAME_ARRIVAL (R367, R368, R370): a frame that can cross its next link in this index
uses a slot of it and stands at the far end in the next; one whose CRC fails, or whose link retrains because a stack
at an end of it is being reset (R506), stays, the link's errors count, and its send waits on the link, which freezes
the partition, until a frame of it crosses again. -/
def Obligations.TransfersAndGrainFrames : Prop :=
  (∀ (id : Nat) (s : State) (f : Fly), flyAt s id = some f →
    let order := tget [] s.mem.order (channelKey f)
    let next := order.head? = some id
    let popped := { s with mem := { s.mem with order := tset [] s.mem.order (channelKey f) (order.filter (· != id)) } }
    (∀ region a n dest, f.body = .memRead region a n dest →
      (s.spin.tick < f.due ∨ ¬next → ∀ ok, exec (.memReadArrival id ok) s = .next s) ∧
      (f.due ≤ s.spin.tick → next →
        let ws := toWords dest (regionRead s f region a n)
        let u := if f.op.fill ∧ ∃ w ∈ ws, fullAt s w.1 = true then
            setFly id (some { f with wait := .fill (ws.map (·.1)), body := .out ws }) popped
          else setFly id (some { f with wait := .none, body := .writing ws }) (queuedWrite id f ws popped)
        exec (.memReadArrival id true) s = .next (settleHalts s u) ∧
        exec (.memReadArrival id false) s = .next (settleHalts s (readTile f region a u)))) ∧
    (∀ region a b, f.body = .memWrite region a b →
      (s.spin.tick < f.due ∨ ¬next → exec (.memWriteDone id) s = .next s) ∧
      (f.due ≤ s.spin.tick → next → exec (.memWriteDone id) s = .next (setFly id none { popped with
        mem := { popped.mem with scratch := mwrite s.mem.scratch a b } })))) ∧
  (∀ (id : Nat) (s : State) (g : GrainFrame) (link : Nat) (rest : List Nat),
    s.net.frames.find? (fun h => h.id == id) = some g → g.route = link :: rest →
    let used := { s with net := { s.net with used := s.net.used ++ [(⟨link, some g.part, false⟩ : SlotUse)] } }
    (grainCan s g = false → ∀ ok, exec (.grainFrameArrival id ok) s = .next s) ∧
    (grainCan s g = true →
      let failed := linkWait g.fly true { used with net := { used.net with
        errors := tset 0 s.net.errors link (tget 0 s.net.errors link + 1) } }
      exec (.grainFrameArrival id true) s = .next (if linkRetrains s link = true then failed else linkWait g.fly false { used with net := { used.net with frames := s.net.frames.map fun h =>
        if h.id = id then { h with at_ := linkEnd (h.route.headD 0), route := h.route.drop 1, ready := s.spin.tick + 1, landed := (h.route.drop 1).isEmpty }
        else h } }) ∧
      exec (.grainFrameArrival id false) s = .next failed) ∧
    (linkRetrains s link = true ↔ ∃ r ∈ s.host.stackResets, r.2.testBit (link / 4) = true ∨ r.2.testBit (linkEnd link) = true) ∧
    (∀ w f, flyAt s g.fly = some f → linkWait g.fly w s =
      if w = true ∧ f.wait = .none then setFly g.fly (some { f with wait := .link }) s
      else if w = false ∧ f.wait = .link then setFly g.fly (some { f with wait := .none }) s
      else s))

/-! ### Barriers, the end of an index -/

/-- Arrivals at a barrier (R350 to R352): a BARRIER_ARRIVE is for its unit's arrival number, which advances; at
distance 0 or 1 from the base generation it is counted and is over; at 2 to 32,767 it is refused and waits, one
refusal is counted and LAP_OVERRUN set; beyond, it is discarded and BARRIER_EXCESS set. Releases at the end of an
index (R351): while the count of the base generation has reached the number of participants, that generation is
released, the counts move down by one generation, and the release is remembered. -/
def Obligations.ArrivalsAndReleases : Prop :=
  (∀ (st : Nat) (op : PlanOp) (s : State) (pk : Nat) (p : Part) (q : Plan), Due 0x50 st op s pk p →
    tget none s.plans.loaded (pk / 16) = some q →
    let b := opBits op 11 0
    let key := unitPos st op * 4096 + b
    let a := tget 0 q.arrivals key
    let c := barrierAt q b
    let d := (a + 65536 - c.g % 65536) % 65536
    (∀ scope, (barrierDef q b).map (·.scope) = some scope → scope < 2 →
      ∃ t, exec (.barrierArrive st op) s = .next t ∧ t.stores = s.stores ∧
        (∃ r, tget none t.plans.loaded (pk / 16) = some r ∧ tget 0 r.arrivals key = (a + 1) % 65536 ∧
          (∀ k, k ≠ key → tget 0 r.arrivals k = tget 0 q.arrivals k) ∧
          r = { q with arrivals := r.arrivals, barriers := r.barriers } ∧
          (∀ x, x ≠ b → tget none r.barriers x = tget none q.barriers x) ∧
          barrierAt r b =
            if d = 0 then { c with c0 := c.c0 + 1 } else if d = 1 then { c with c1 := c.c1 + 1 }
            else if d ≤ 32767 then { c with refused := min 65535 (c.refused + 1) } else c) ∧
        (flyAt s s.plans.nextFly = none → (flyAt t s.plans.nextFly).map (fun f => (f.wait, f.body)) =
          if 2 ≤ d ∧ d ≤ 32767 then some (.arrival, .barrier b a) else none) ∧
        t.bar.syncFlags.getLsbD 0 = (s.bar.syncFlags.getLsbD 0 || decide (2 ≤ d ∧ d ≤ 32767)) ∧
        t.bar.syncFlags.getLsbD 1 = (s.bar.syncFlags.getLsbD 1 || decide (32768 ≤ d)))) ∧
  (∀ (need tick : Nat) (c : Barrier), 0 < need → c.g < 65536 → c.released.length ≤ 510 →
    let t := releaseAll need tick 3 c
    (c.c0 < need → t = c) ∧
    (need ≤ c.c0 → c.c1 < need →
      t = { c with g := (c.g + 1) % 65536, c0 := c.c1, c1 := 0, released := (c.g, tick) :: c.released }) ∧
    (need ≤ c.c0 → need ≤ c.c1 → t = { c with
      g := (c.g + 2) % 65536, c0 := 0, c1 := 0, released := ((c.g + 1) % 65536, tick) :: (c.g, tick) :: c.released }))

/-- BARRIER_WAIT (R350, R353): it waits for the generation of its unit's latest arrival; while that is not released it
stays in flight, and it completes once the release has reached the unit. A waiting operation tries again (R341, R343,
R347, R348, R352): once its source words are full, its destination words empty, or its arrival countable, its wait
ends and it goes on, unless the wait has lasted the stall limit; a TRUE that has written nothing waits also for an
earlier TRUE of its unit (R167); its stall count restarts where its source words are full and it waits on no others.
Otherwise nothing changes (the model's choice, log 3). -/
def Obligations.WaitingOperationsResume : Prop :=
  ((∀ (st : Nat) (op : PlanOp) (s : State) (pk : Nat) (p : Part) (q : Plan), Due 0x51 st op s pk p →
    tget none s.plans.loaded (pk / 16) = some q →
    let b := opBits op 11 0
    let gen := (tget 0 q.arrivals (unitPos st op * 4096 + b) + 65535) % 65536
    let t := taken st op pk p s
    let wait := setFly s.plans.nextFly (some { freshFly st op pk s with wait := .release gen, body := .barrier b gen }) t
    exec (.barrierWait st op) s = .next (match releaseOf (barrierAt q b) gen with
      | none => wait
      | some none => t
      | some (some k) => if k + releaseBound t pk (((barrierDef q b).map (·.scope)).getD 0) ≤ s.spin.tick then t else wait)) ∧
  (∀ (id : Nat) (s : State) (f : Fly) (q : Plan) (b gen : Nat), flyAt s id = some f → f.body = .barrier b gen →
    f.wait = .release gen → tget none s.plans.loaded (f.part / 16) = some q →
    exec (.barrierReleaseReach id) s = .next (match releaseOf (barrierAt q b) gen with
      | none => s
      | some none => setFly id none s
      | some (some k) => if k < s.spin.tick then setFly id none s else s))) ∧
  (∀ (id : Nat) (s : State) (f : Fly), flyAt s id = some f →
    let g := { f with wait := .none }
    (f.wait = .none ∨ stalledOut s f = true → exec (.waitingOperationResume id) s = .next s) ∧
    (stalledOut s f = true ↔ f.wait ≠ .none ∧ limitOf s f ≤ f.stall) ∧
    (stalledOut s f = false →
      (∀ ws, f.wait = .guard ws → exec (.waitingOperationResume id) s = .next (
        if ∀ w ∈ ws, fullAt s w = true then restartStall id (reread id g (setFly id (some g) s)) else s)) ∧
      (∀ ws out, f.wait = .fill ws → f.body = .out out → exec (.waitingOperationResume id) s = .next (
        if ∀ w ∈ ws, fullAt s w = false then tryWrite id g out (setFly id (some g) s) else s)) ∧
      (∀ ws j, f.wait = .fill ws → f.body = .read j → exec (.waitingOperationResume id) s = .next (
        if ∀ w ∈ ws, fullAt s w = false then tryRecord id g j (setFly id (some g) s) else s)) ∧
      (∀ ws t, f.wait = .fill ws → f.body = .true t → exec (.waitingOperationResume id) s = .next (
        if (∀ w ∈ ws, fullAt s w = false) ∧ ¬(0 ∈ t.left ∧ earlierTrue s f = true) then
          flushTrue id g t (setFly id (some g) s) else s)) ∧
      (∀ q b a, f.wait = .arrival → f.body = .barrier b a → tget none s.plans.loaded (f.part / 16) = some q →
        exec (.waitingOperationResume id) s = .next (
          let d := genDist a (barrierAt q b).g
          if 2 ≤ d ∧ d ≤ 32767 then s else retryArrive id g (setFly id (some g) s)))))

/-- Which writes of an index take effect (R167, R341, R342, R344): every write without FILL_DST; of the filling
writes, in the order of unit, issue and place in the cut list, each whose words are all empty at the start of the
index and not taken by one before it; but the first write of a TRUE does not while a filling one of an earlier TRUE of
its unit is refused. No write is lost: it takes effect or is refused. The stores at the end of an index (R340, R341):
a word is full that a filling write took, or that was full and has not been emptied; a byte that no write took keeps
its value, and nothing waits to be emptied or written any more. -/
def Obligations.StoresFillInOrder : Prop :=
  (∀ s : State,
    let l := landings s
    let r := judge s
    (r.won ++ r.refused).Perm l ∧
    let f := r.refused.filter fun x => x.2.fill
    (∀ x ∈ l, x.2.fill = false → (x ∈ r.won ↔ overtakes s f x = false)) ∧
    (∀ x ∈ r.won, x.2.fill = false → overtakes s f x = false) ∧
    (∀ x, overtakes s f x = true → ∃ y ∈ f, y.2.unit = x.2.unit ∧ y.2.issue < x.2.issue ∧
      ∃ g t, flyAt s x.2.fly = some g ∧ g.body = .true t ∧ 0 ∈ t.left) ∧
    (∀ x ∈ r.won, x.2.fill = true → ∀ w ∈ x.2.words, fullAt s w.1 = false) ∧
    (r.won.filter fun x => x.2.fill).Pairwise (fun x y => fillsBefore x y = true ∧ ∀ w ∈ x.2.words, ∀ v ∈ y.2.words, w.1 ≠ v.1) ∧
    (∀ x ∈ r.refused, overtakes s f x = true ∨ (∃ w ∈ x.2.words, fullAt s w.1 = true) ∨
      ∃ y ∈ r.won, y.2.fill = true ∧ fillsBefore y x = true ∧ ∃ w ∈ y.2.words, ∃ v ∈ x.2.words, w.1 = v.1)) ∧
  (∀ s : State,
    let t := landWrites s
    let won := (judge s).won
    (∀ g, fullAt t g = true ↔
      (∃ x ∈ won, x.2.fill = true ∧ ∃ w ∈ x.2.words, w.1 = g) ∨ (fullAt s g = true ∧ g ∉ s.stores.empties)) ∧
    (∀ a, (∀ x ∈ won, ∀ w ∈ x.2.words, a < 32 * w.1 ∨ 32 * w.1 + w.2.length ≤ a) →
      tget 0#8 t.stores.mem a = tget 0#8 s.stores.mem a) ∧
    t.stores.empties = [] ∧ t.stores.writes = [])

/-! ### The spindle -/

/-- INDEX_BOUNDARY (R17, R46, R52, R340): while something of the index is still to come it changes nothing (log 4),
nor in a module that is off or tripped (R512); else the CRC failures of the index take effect, a halt among them
settles what waited for the plan, the index ends, in which the hub crossings named fail (log 61), and the next begins,
and there the own clock advances by one, and the count while Locked and not held, or of a self spindle that acquires.
A failed tile (R399, the names of tiles are the model's choice, log 26) of a store makes the steps of its stack's
partition suspect; one of a token log makes its context Damaged; one of an adapter's image makes the version Damaged
and not current; one of another region is posted. Count frames and markers (R44, R46, R52 to R54, R387): a valid one
while Acquiring locks the spindle if it names the turn after the last; while Locked a difference of 1 is a stutter and
a larger one a slip; one that is not valid is counted, and every eighth in a row posts SPINDLE_FRAME_ERROR. That a
SPINDLE_IN frame is compared at index 66 (log 63) and a marker at index 0 (log 45) are the model's choices. -/
def Obligations.IndexesAndFrames : Prop :=
  (∀ s : State,
    (∀ fails, indexOpen s = true ∨ s.phys.pwrGood = false → exec (.indexBoundary fails) s = .next s) ∧
    (∀ fails, indexOpen s = false → s.phys.pwrGood = true → exec (.indexBoundary fails) s = .next (
      beginIndex (endIndex (settleHalts s (fails.foldl crcFailed s))))) ∧
    (∀ link, crcFailed s (.hub link) = { s with net := { s.net with failed := s.net.failed ++ [link] } }) ∧
    (∀ g pk p, partOfStack s (wordStack g) = some (pk, p) → partAt s pk = some p →
      partAt (crcFailed s (.store g)) pk = some { p with suspect := p.suspect ||| 8 }) ∧
    (∀ k c, ctxAt s k = some c → ctxAt (crcFailed s (.log k)) k = some { c with damaged := true }) ∧
    (∀ v a, tget none s.model.adapters v = some a →
      let t := crcFailed s (.adapter v)
      tget none t.model.adapters v = some { a with damaged := true } ∧
      tget none t.model.current (v / 256) ≠ some (v % 256)) ∧
    (let runs := (s.spin.state = 2 ∧ s.spin.held = false) ∨ (s.spin.state = 1 ∧ s.spin.selfStart ≠ none)
     let count := if runs then (s.spin.count + 1) % 2 ^ 64 else s.spin.count
     tickOver s = ({ s with spin := { s.spin with
       tick := s.spin.tick + 1, count := count, held := false
       atTurn := decide (s.spin.state = 2 ∧ s.spin.held = false ∧ count % 8192 = 0) } }, decide runs))) ∧
  (∀ (s : State) (turn : Nat), turn < 2 ^ 51 → s.spin.state ≠ 0 →
    let judged := fun (u : State) (into : Nat) =>
      let u := { u with spin := { u.spin with badRun := 0 } }
      let received := turn * 8192 + into
      if s.spin.state = 1 then
        if s.spin.lastTurn.any (fun t => t + 1 == turn) then postEvent 2 0 0x0201 1 (le 1 s.spin.source ++ le 8 received)
          { u with spin := { u.spin with state := 2, count := received, lastTurn := none, selfStart := none, held := false, atTurn := false, everLocked := true } }
        else { u with spin := { u.spin with lastTurn := some turn } }
      else if s.spin.state = 2 then
        if s.spin.count = received then u
        else if s.spin.count = received + 1 ∨ received = s.spin.count + 1 then stutter received u
        else slip received u
      else u
    let bad :=
      let u := { s with spin := { s.spin with badRun := s.spin.badRun + 1, invalid := min 65535 (s.spin.invalid + 1) } }
      if (s.spin.badRun + 1) % 8 = 0 then postEvent 2 0 0x0206 2 (le 4 u.spin.invalid) u else u
    (s.spin.source = 1 → ∀ sync crc, sync < 2 ^ 8 → crc < 2 ^ 8 → ∀ bitError,
      exec (.spindleFrame (BitVec.ofNat 67 (sync * 2 ^ 59 + turn * 2 ^ 8 + crc)) bitError) s = .next (
        if bitError = false ∧ sync = 0xD2 ∧ crc = crc8 ((List.range 51).map fun k => turn.testBit (50 - k)) then judged s 66
        else bad)) ∧
    (s.spin.source = 2 → (connAt s s.spin.port).state = 4 → ∀ hops sender, hops < 2 ^ 8 → sender < 2 ^ 16 →
      let head := le 2 0xD25A ++ le 7 turn ++ le 1 hops ++ le 2 sender ++ le 2 0
      exec (.dritarMarker s.spin.port (head ++ le 2 (crc16 head))) s =
        .next (judged { s with spin := { s.spin with hops := min 255 (hops + 1) } } 0) ∧
      ∀ crc, crc < 2 ^ 16 → crc ≠ crc16 head % 2 ^ 16 → exec (.dritarMarker s.spin.port (head ++ le 2 crc)) s = .next bad))

/-- Lock of a self spindle, stop and return (R46, R49, R51): a self spindle is Locked 2 indices after its selection; a
stop of another Locked spindle holds the count and makes it Coasting; the return advances the count by 64 and gives
each running pass 64 frozen indices, before the end of its work. Starts, boundaries and stall limits of passes (R75,
R81 to R83, R348): a partition starts at a turn boundary from START_TURN on with its stacks and engines free, in the
order of partitions (R83); a pass ends at a turn boundary at whose first index its turns were gone, its work done and
nothing in flight or to be recomputed; at a stall limit the faults of the waits of every partition that has reached it
are posted and every pass of the plan is abandoned. In every other state these commands change nothing (log 3). That a
pass lasts PASS_TURNS turns at least (log 62), and that a start waits for a loop or a probe that runs on its engines
(log 64), are the model's choices. -/
def Obligations.SpindleStopsAndPasses : Prop :=
  (∀ s : State,
    (∀ n k, s.spin.selfStart = some (n, k) → s.spin.state = 1 →
      exec .selfSpindleLock s = .next (if k + 2 ≤ s.spin.tick then
        postEvent 2 0 0x0201 1 (le 1 s.spin.source ++ le 8 s.spin.count) { s with spin := { s.spin with
          state := 2, lastTurn := none, selfStart := none, held := false, atTurn := false, everLocked := true } }
        else s)) ∧
    (s.spin.state = 2 → s.spin.source ≠ 3 → exec .spindleStop s = .next (
      postEvent 2 0 0x0202 2 (le 8 s.spin.count) { s with spin := { s.spin with
        state := 3, held := false, stopTick := s.spin.tick } })) ∧
    (s.spin.state ≠ 2 ∨ s.spin.source = 3 → exec .spindleStop s = .next s) ∧
    (s.spin.state ≠ 3 → exec .spindleResume s = .next s) ∧
    (s.spin.state = 3 → exec .spindleResume s = .next (
      let u := { s with
        spin := { s.spin with state := 2, count := (s.spin.count + 64) % 2 ^ 64, held := false, atTurn := false }
        plans := { s.plans with parts := s.plans.parts.map fun x => (x.1, x.2.map fun p => { p with
          causes := p.causes ||| 16, lost := if p.p < p.d.turns * 8192 - p.d.slack then p.lost + 64 else p.lost }) } }
      idleMode (postEvent 2 0 0x0203 1 (le 4 (s.spin.tick - s.spin.stopTick)) u)))) ∧
  (∀ (id version part : Nat) (s : State), part < 16 → version < 65536 →
    let key := id * 65536 + version
    let pk := key * 16 + part
    let r : PartRef := ⟨id, version, part⟩
    (∀ q d, tget none s.plans.loaded key = some q → q.d.parts.find? (fun d => d.part == part) = some d →
      ((q.state = 1 ∨ q.state = 2) ∧ part ∈ q.waiting ∧ (∀ x, q.stop = some x → s.spin.count / 8192 < x.2) ∧
          s.spin.atTurn = true ∧ s.spin.state = 2 ∧ q.startTurn ≤ s.spin.count / 8192 ∧
          (∀ x ∈ parts s, x.2.d.mask &&& d.mask = 0) ∧ partBusy s d = false ∧ nextBoundary s pk = true → d.part = part →
        exec (.planStart r) s = .next (
          let u := setPlan key (some { q with state := 2, waiting := q.waiting.filter (· != part) }) (releaseHalted key d s)
          let u := d.stacks.foldl (fun u st => emptyStack st u) (adoptSlots pk d q.d.digref u)
          let bank := firstBank u q.d
          let u := pinFollowers q.d.model bank pk (setPart pk (some (newPart u key d bank)) u)
          let u := { u with cal := { u.cal with released := u.cal.released.filter fun st => !d.mask.testBit st } }
          let u := joinMode pk (joinSwitches pk q.d.model u)
          enterPass pk d (postPlan pk 0x0210 1 (le 4 version ++ le 8 (u.spin.count / 8192)) u))) ∧
      (part ∉ q.waiting ∨ s.spin.atTurn = false ∨ s.spin.count / 8192 < q.startTurn ∨ (∃ x ∈ parts s, x.2.d.mask &&& d.mask ≠ 0) ∨
          partBusy s d = true ∨ nextBoundary s pk = false →
        d.part = part → exec (.planStart r) s = .next s)) ∧
    (∀ p, tget none s.plans.parts pk = some p →
      let ended := s.spin.atTurn = true ∧ s.spin.state = 2 ∧ p.ending = true ∧ nextBoundary s pk = true
      (¬ended → exec (.passBoundary r) s = .next s) ∧
      (ended → exec (.passBoundary r) s = .next (
        let u := checkSums pk p.d s
        let u := if intenseOn u p.d then suspectPass pk 4 u else u
        let u := shiftRefs p.d (commitPass pk (countPass pk p (noteStretch pk p (passReports pk u))))
        match partAt u pk, planAt u (pk / 16) with
        | some x, some q =>
          if stopDue u q ∨ takers u pk ≠ [] then stopPart pk x u
          else enterPass pk p.d (setPart pk (some (freshPass u { x with last := some (x.charges, x.overflow, x.overFrozen) })) u)
        | _, _ => u))) ∧
    (∀ p, tget none s.plans.parts pk = some p → s.spin.atTurn = true → s.spin.state = 2 →
      let done := p.due = [] ∧ p.d.turns * 8192 - p.d.slack ≤ p.p ∧ p.start + p.d.turns * 8192 ≤ s.spin.count ∧
        fliesOf s pk = [] ∧ ∀ x ∈ s.plans.queues, ∀ r ∈ x.2, r.part = pk → r.paired = true
      (done → partAt (judgePasses s) pk = some { p with ending := true }) ∧
      (¬done → partAt (judgePasses s) pk = some { p with ending := false })) ∧
    (exec (.stallLimit r) s = .next (settleHalts s (
      let hit := stalledParts s key
      if stalledFlies s pk = [] then s else
      abandonPlan key (fun k => if k ∈ hit then 1 else 2)
        (hit.foldl (fun u x => (stalledFlies s x).foldl (stallFault x) u) s)))))

/-! ### Passes -/

/-! ### Program loops, probes, tests, installs -/

/-- Program loops and probe reads (R30, R113, R146, R235, R240, R247, R252 to R255): each starts on an idle engine
with a span of the plan free for it and something to do, and ends: a programmed row is stored and the write goes on to
the next; a probe, not before 8 indices, is used for what it was made for. Otherwise nothing changes (log 3).
HONE_TESTS_DONE (R415, R423): a core in Testing becomes Spare when all tests passed and Retired with the failed test
otherwise, HONE_DONE is posted, and no other core changes its state. The tests run in the order of their table: the
array test writes the lowest Free deck of each engine, whose write counter advances, and the store test leaves open
values in the core's store (log 67); a test before these leaves all else as it was, and none touches another core. -/
def Obligations.LoopsProbesAndHoningTests : Prop :=
  (∀ (e : Nat) (s : State),
    (∀ r, engineIdle s e = true → stackHeld s (engineStack e) = false → (tvals s.model.loops).length < loopCap s.spin.power →
      engineQuiet s e 2 25002 = true → nextLoop s e = some r →
      exec (.programLoopStart e) s = .next { s with model := { s.model with loops := tset none s.model.loops e (some r) } }) ∧
    (engineIdle s e = false ∨ engineQuiet s e 2 25002 = false ∨ nextLoop s e = none → exec (.programLoopStart e) s = .next s) ∧
    (∀ d use, engineIdle s e = true → engineQuiet s e 0 8 = true → strokesLow s (engineStack e) = true →
      calibrated s (engineStack e) = true → nextProbe s e = some (d, use) →
      let n := tget 0 s.cal.forward (e * 32 + d)
      let back := decide (use = .factors ∧ n = 8)
      exec (.probeReadStart e) s = .next { s with
        cal := { s.cal with forward := if use = .factors then tset 0 s.cal.forward (e * 32 + d) (if n = 8 then 0 else n + 1) else s.cal.forward }
        free := s.free + 1
        model := { s.model with probes := tset none s.model.probes e (some ⟨d, back, use, s.spin.tick, n⟩) } }) ∧
    (engineIdle s e = false ∨ nextProbe s e = none → exec (.probeReadStart e) s = .next s) ∧
    (∀ unreached, tget none s.model.loops e = none → exec (.programLoopDone e unreached) s = .next s) ∧
    (∀ d row start w unreached, tget none s.model.loops e = some ⟨d, row, none, start⟩ → s.model.writes = [w] → w.engine = e → w.deck = d →
      w.writing = true → w.row = row →
      let k := e * 32 + d
      let u := { s with
        model := { s.model with loops := tdel s.model.loops e, writes := [{ w with row := row + 1 }] }
        arr := { s.arr with cells := tset [] s.arr.cells (k * 1024 + row) (rowCells s w.entry e d (logicalRow s k row)) } }
      exec (.programLoopDone e unreached) s =
        .next (unreached.foldl (fun u c => failElement (elemKey e (mapColumn w.entry c)) 0 u) u)) ∧
    (∀ d row spare start unreached, tget none s.model.loops e = some ⟨d, row, some spare, start⟩ → exec (.programLoopDone e unreached) s =
      .next (spareDone e ⟨d, row, some spare, start⟩ spare { s with model := { s.model with loops := tdel s.model.loops e } })) ∧
    (∀ r, tget none s.model.probes e = some r →
      (s.spin.tick < r.start + 8 → exec (.probeReadDone e) s = .next s) ∧
      (r.start + 8 ≤ s.spin.tick → exec (.probeReadDone e) s = .next (endWarmups (
        let u := { s with model := { s.model with probes := tdel s.model.probes e } }
        match r.use with
        | .factors => factorProbe e r u
        | .print p => printProbe e p r u
        | .spare c => spareProbe e c r u))))) ∧
  (∀ (st core failed : Nat) (s : State), core < 640 →
    let c := st * 640 + core
    (tget 0 s.integ.cores c ≠ 3 → exec (.honeTestsDone st core failed) s = .next s) ∧
    (tget 0 s.integ.cores c = 3 → ∃ t u, exec (.honeTestsDone st core failed) s = .next t ∧
      t.integ = { s.integ with cores := t.integ.cores, failedTest := t.integ.failedTest } ∧
      (∀ x, tget 0 t.integ.cores x = if x = c then (if failed = 0 then 4 else 5) else tget 0 s.integ.cores x) ∧
      (∀ x, tget 0 t.integ.failedTest x = if x = c then failed else tget 0 s.integ.failedTest x) ∧
      t = postEvent 4 st 0x080A (if failed = 0 then 1 else 3) (le 1 st ++ le 2 core ++ le 1 failed) { u with integ := t.integ } ∧
      u = { s with stores := u.stores, model := { s.model with counters := u.model.counters }, free := u.free } ∧
      (1 ≤ failed → failed ≤ 3 → u = s) ∧ (failed = 4 → u.stores = s.stores) ∧
      (∀ g, g / 32768 ≠ c → fullAt u g = fullAt s g ∧ wordAt u g = wordAt s g) ∧
      (∀ k, (∀ j, j < 4 → k / 32 ≠ gea st core j) → tget 0 u.model.counters k = tget 0 s.model.counters k) ∧
      (failed = 0 ∨ 4 ≤ failed → ∀ j d, j < 4 → d < 32 →
        let k := gea st core j * 32 + d
        deckState s k = 0 → (∀ e, e < d → deckState s (gea st core j * 32 + e) ≠ 0) →
          tget 0 u.model.counters k = tget 0 s.model.counters k + 1)))

/-- MODEL_CHUNK_READ (R248, R264, R268): the next chunk of the first install that needs one fails it when its length,
tag or digest, or a deck image it completes, is wrong; else it joins the stream, and after the last chunk the tier
parts are copied and the install may end. The chunks of a tagged install are those that its tag covers (R447), and
none is read while the link is down (R456). Whether a sealed chunk opens rests on the cipher (log 10); that a chunk
without an install that needs one changes nothing (log 3), and the sub-status 0 of a failed chunk (log 23), are the
model's choices. CAL_SELF_DONE (R136, R139, R140, R142, R221): the command completes; of the stacks whose references
passed the trims are valid, every trim word is what was measured, or 2^31 where nothing was, the calibration epoch
advances and every factor of theirs is discarded; failed references answer INTEGRITY_FAIL with their mask. Without a
CAL_SELF in progress nothing changes (the model's choice, log 3). -/
def Obligations.ChunksAndSelfCalibration : Prop :=
  (∀ (b : Bytes) (s : State),
    ((∀ x ∈ s.model.installs, ∀ m, manifestOf s x.image x.version = some m → mfChunks m.raw ≤ x.chunks) →
      exec (.modelChunkRead b) s = .next s) ∧
    (s.phys.link = false → exec (.modelChunkRead b) s = .next s) ∧
    (∀ x l m, s.phys.link = true → s.model.installs = x :: l → manifestOf s x.image x.version = some m → x.chunks < mfChunks m.raw →
      exec (.modelChunkRead b) s = .next (match openChunk m x.chunks ((x.read.map fun d => slice d (4194304 * x.chunks) 4194304).getD b) with
        | none => failInstall x ⟨7, 0, 0⟩ s
        | some p =>
          let y := { x with stream := x.stream ++ p, chunks := x.chunks + 1 }
          match takeImages m (mfDecks m.raw) y s with
          | (y, u, some i) => failInstall y ⟨7, i % 65536, i⟩ u
          | (y, u, none) =>
            let last := decide (mfChunks m.raw ≤ y.chunks)
            tryEndInstall y.tag (setInstall { y with copied := last } (if last then copyTiers m y.stream u else u))))) ∧
  (∀ (refFail : BitVec 16) (results : List AdcResult) (s : State),
    (s.conv.runs = [] → exec (.calSelfDone refFail results) s = .next s) ∧
    (∀ r rest, s.conv.runs = r :: rest →
      let good := (List.range 16).filter fun st => r.mask.testBit st && !refFail.getLsbD st
      let bad := (List.range 16).filter fun st => r.mask.testBit st && refFail.getLsbD st
      let mask := fun l : List Nat => (l.map (2 ^ ·)).sum
      ∃ u result, exec (.calSelfDone refFail results) s =
          .next (complete r.tag (if bad = [] then 0 else 7) (if bad = [] then 0 else mask bad) result u) ∧
        result % 2 ^ 32 = mask good + 2 ^ 16 * mask bad ∧
        u.conv.runs = rest ∧ u.conv.valid = s.conv.valid ++ good ∧
        u.cal.epoch = (if good = [] then s.cal.epoch else (s.cal.epoch + 1) % 2 ^ 32) ∧
        (∀ e adc, e / 4096 ∈ good → e % 4096 < 2560 → adc < 132 →
          ((∀ x ∈ results, (x.engine, x.adc) ≠ (e, adc)) → tget 0 u.conv.trims (e * 132 + adc) = 2 ^ 31) ∧
          (∀ x ∈ results, (x.engine, x.adc) = (e, adc) → (∀ y ∈ results, (y.engine, y.adc) = (e, adc) → y = x) →
            tget 0 u.conv.trims (e * 132 + adc) = trimWord x)) ∧
        (∀ k, k / 4096 / 4096 ∈ good → tget 0 u.cal.words k = 0 ∧ tget none u.cal.staged k = none ∧ tget none u.cal.windows k = none) ∧
        u.plans = s.plans ∧ u.stores = s.stores ∧ u.model = s.model))

/-! ### Monitors -/

/-- Conversions and delays of monitor converters (R148, R149, R155, R156): what ends is an urgent conversion, one of
the converter's own table, or one that the odd converter of an interleaved pair makes for the even one's; then a table
or an urgent request that waited begins, of the pair's even converter too. A conversion of a reference column ends no
earlier than its probe, or as skipped after 8,192 indices without one (R146). Where no conversion is in progress or
may end, and without a delay at its end, nothing changes (the model's choice, log 3). How a result is judged by an
entry (R150, R151): outside its limits, an entry out of violation enters it, posts MON_LIMIT, and queues its hold for
the next boundary, and a suspect-mark is queued at every violating result; an entry in violation counts it; the select
that opened the violation ends it within limits and HYST codes inside, with MON_LIMIT_CLEARED and the count; a
violating result that another select meets is counted (the model's choice, log 21). Stated for channels of other
groups than the read references, which are trimmed too (R236). -/
def Obligations.MonitorConversionsAreJudged : Prop :=
  (∀ (mon code : Nat) (skipped : Bool) (s : State), code < 4096 →
    let m := monAt s mon
    let u := setMon mon { m with asked := none, probed := false } s
    (33 < mon ∨ converting s mon = false ∨ canEnd s mon skipped = false → exec (.monitorConversionEnd mon code skipped) s = .next s) ∧
    ((channelNow s mon).bind (refEngine mon) = none → canEnd s mon skipped = true) ∧
    (∀ e, (channelNow s mon).bind (refEngine mon) = some e → (canEnd s mon skipped = true ↔
      if m.probed = true then skipped = false ∧ ∀ y, m.probe = some y → y.2 + 6 ≤ s.spin.tick
      else skipped = true ∧ ∃ t, m.asked = some t ∧ t + 8192 ≤ s.spin.tick)) ∧
    (mon ≤ 33 → converting s mon = true → canEnd s mon skipped = true →
      (m.urgentNow = true → exec (.monitorConversionEnd mon code skipped) s = .next (afterConversion mon (urgentEnd mon code skipped u))) ∧
      (m.urgentNow = false → m.suspended = true → exec (.monitorConversionEnd mon code skipped) s =
        .next (afterConversion (mon - 1) (afterConversion mon (tableResult (mon - 1) code skipped true u)))) ∧
      (m.urgentNow = false → m.suspended = false → m.interleave = true → m.oddNext = true →
        exec (.monitorConversionEnd mon code skipped) s = .next s) ∧
      (m.urgentNow = false → m.suspended = false → (m.interleave = false ∨ m.oddNext = false) →
        exec (.monitorConversionEnd mon code skipped) s = .next (afterConversion mon (tableResult mon code skipped false u)))) ∧
    (exec (.monitorDelayEnd mon) s = .next (if m.delay = some 0 then setMon mon { m with delay := none } s else s))) ∧
  (∀ (mon k w code : Nat) (s : State) (e : MonEntry), (monAt s mon).table[k]? = some e → bits w 19 16 ≠ 0 →
    k < (monAt s mon).viol.length →
    let m := monAt s mon
    let out := code < e.low ∨ e.high < code
    let high := decide (e.high < code)
    let act := fun (hold : Bool) (u : State) => { u with conv := { u.conv with acts := u.conv.acts ++ [⟨mon, k, hold, e.thermal⟩] } }
    let set := fun (v : Option MonViol) (u : State) =>
      { u with conv := { u.conv with mons := tset none u.conv.mons mon (some { m with viol := m.viol.set k v }) } }
    let marked := if out ∧ e.action = 1 then act false s else s
    (m.viol[k]? = some none →
      judgeResult mon k w code s =
        if out then
          let u := postEvent 5 mon 0x0710 2 (le 1 mon ++ le 1 k ++ le 4 w ++ le 2 code ++ le 1 (b2n high)) (set (some ⟨w % 65536, high, 0⟩) marked)
          if e.action = 2 then act true u else u
        else s) ∧
    (∀ v, m.viol[k]? = some (some v) →
      let inside := if v.high then code + e.hyst ≤ e.high else e.low + e.hyst ≤ code
      judgeResult mon k w code s =
        if w % 65536 = v.select ∧ ¬out ∧ inside then
          postEvent 5 mon 0x0711 1 (le 1 mon ++ le 1 k ++ le 4 w ++ le 2 code ++ le 4 v.count) (set none marked)
        else if out ∨ w % 65536 = v.select then set (some { v with count := min 65535 (v.count + 1) }) marked
        else s))

/-! ### Pages and replays -/

/-- Moves and fetches of pages (R296, R297, R399): a complete copy waits for the next boundary, one to Cold goes
encrypted to the tenant's area or ends there; a failed tile loses the page's span. A fetched Cold page has its
plaintext and becomes Warm at the next boundary, or is discarded and reported; nothing is fetched while the link is
down (R456). A move not under way, and a page that nothing waits for (log 41), change nothing (log 3): these are the
model's choices. Results and the expiry of step replays (R406 to R409): a replay in progress whose tile failed is to
be placed again; one with a result that agrees, and that a test may judge, is over, another's result replaces the
step; REPLAY_RESOLVED says which. The result of a replay that a partner asked for goes back to it as bulk frames, in
the model's layout (DESIGN CHOICE, log 44), and that replay is over. One of this module not placed within REPLAY_WAIT
turns is discarded with its tail. A result of a replay not in progress, and an expiry that comes too early, change
nothing (the model's choice, log 3). -/
def Obligations.PagesAndReplaysMove : Prop :=
  (∀ (k layer n : Nat) (s : State) (c : Ctx) (p : Page), ctxAt s k = some c → tget none c.pages (pageKey layer n) = some p →
    let page := pageKey layer n
    let done := fun u : State => { u with serve := { u.serve with moves := u.serve.moves.map fun m =>
      if m.ctx = k ∧ m.page = page then { m with ready := true } else m } }
    (moveOf s k page = none → ∀ ok, exec (.pageMoveDone k layer n ok) s = .next s) ∧
    (∀ m, moveOf s k page = some m → m.ready = false →
      exec (.pageMoveDone k layer n false) s = .next (pageTile k page s) ∧
      (m.tier ≠ 2 → exec (.pageMoveDone k layer n true) s = .next (done s)) ∧
      (m.tier = 2 → exec (.pageMoveDone k layer n true) s = .next (match writeCold k page c p s with
        | some u => done u
        | none => { s with serve := { s.serve with moves := s.serve.moves.filter fun m => m.ctx != k || m.page != page } }))) ∧
    (∀ cipher, s.phys.link = false ∨ p.tier ≠ 2 ∨ moveOf s k page ≠ none ∨ (ctxAwaits s k = false ∧ ctxBusy s k = false) →
      exec (.coldPageFetchDone k layer n cipher) s = .next s) ∧
    (∀ cipher, s.phys.link = true → p.tier = 2 → moveOf s k page = none → ctxAwaits s k = true ∨ ctxBusy s k = true →
      let put := fun q : Page => setCtx k (some { c with pages := tset none c.pages page (some q) }) s
      exec (.coldPageFetchDone k layer n cipher) s = .next (
        match gcmOpen (quotaOf s c.tenant).coldKey (le 12 p.nonce) (coldAad k page) cipher p.auth with
        | some b =>
          let u := put { p with data := mwrite [] 0 b, home := 0, nonce := 0, auth := [] }
          { u with serve := { u.serve with moves := s.serve.moves ++ [⟨k, page, 1, 0, true⟩] } }
        | none => postEvent 8 0 0x0604 3 (le 2 c.tenant ++ le 4 c.id ++ le 4 layer ++ le 4 n)
            (put { p with tier := 3, home := 0, nonce := 0, auth := [] })))) ∧
  (∀ (n : Nat) (s : State) (r : Replay), replayAt s n = some r →
    (r.state ≠ 1 → ∀ ok, exec (.replayResult n ok) s = .next s) ∧
    (r.state = 1 → exec (.replayResult n false) s = .next { s with serve := { s.serve with
      replays := tset none s.serve.replays n (some { r with
        state := 0, host := none, partner := none, result := [], own := [], updates := [] }) } }) ∧
    (r.state = 1 → replayOutcome n r s = none → exec (.replayResult n true) s = .next s) ∧
    (∀ out, r.state = 1 → replayOutcome n r s = some out →
      (r.origin = none →
        let same := r.noTest = false ∧ ((r.step.job = 2 ∧ r.decision ≠ []) ∨ agrees r.decision out.1 = true)
        let u := { s with net := { s.net with inbox := s.net.inbox.filter fun x => !(r.partner.any fun m => isPart m 5 3 n x) } }
        exec (.replayResult n true) s = .next (
          if same then postResolved r true { u with serve := { u.serve with replays := tset none u.serve.replays n (some { r with state := 2 }) } }
          else postResolved r false (replaceStep n r out u))) ∧
      (∀ src num version, r.origin = some (src, num, version) →
        let u := sweepServed { s with serve := { s.serve with replays := tdel s.serve.replays n } }
        let message := le 4 out.1.length ++ out.1 ++ out.2.flatMap fun x => le 8 x.1 ++ le 2 x.2.length ++ x.2
        exec (.replayResult n true) s = .next (match partnerConn u src with
          | none => u
          | some (k, e) => (messageParts 3 num message).foldl (fun v b => sendSealed k (e.port k) 5 src none b v) u))) ∧
    (r.state ≠ 0 ∨ r.origin ≠ none ∨ s.spin.count / 8192 < r.turn + s.integ.wait → exec (.replayWaitExpiry n) s = .next s) ∧
    (r.state = 0 → r.origin = none → r.turn + s.integ.wait ≤ s.spin.count / 8192 → exec (.replayWaitExpiry n) s = .next (
      postPlan r.part 0x0807 2 (le 4 1 ++ le 4 (s.spin.count / 8192 - r.turn) ++ le 1 1)
        (discardTail r.step { s with serve := { s.serve with replays := tdel s.serve.replays n } }))))

/-! ### The Dritar fabric -/

/-- Training, hellos and detaching of a port (R375, R376, R388): the lowest waiting port trains; a lock measures the
latency from at most 64 round trips and enters Hello; a port from Hello on sends hellos with a number that advances;
without one from its partner for 4 ms, or without lock, an Attached or Switched port detaches and trains again, its
keys dropped; what it has not delivered is kept for the same partner (R385). In another state nothing changes (log 3),
and the latency of an even number of trips is the mean of the two in the middle (log 42): these are the model's
choices. -/
def Obligations.PortsTrainAndDetach : Prop :=
  ∀ (port : Nat) (s : State), port < 23 →
    let c := connAt s port
    ((∀ p, p < 23 → (connAt s p).waiting = false) → exec .portTrainingStart s = .next s) ∧
    (c.waiting = true → (∀ p, p < port → (connAt s p).waiting = false) →
      exec .portTrainingStart s = .next (finishEnables (setConn port { c with state := 1, waiting := false } s))) ∧
    (∀ trips, exec (.fecLock port trips) s = .next (
      if c.state = 1 then setConn port { c with state := 2, latency := latencyOf (trips.take 64) % 2 ^ 18 } s else s)) ∧
    (exec (.trainingTimeout port) s = .next (if c.state = 1 then setConn port { c with att := none, wire := none } s else s)) ∧
    (exec (.helloTimer port) s = .next (if 2 ≤ c.state then
      sendOpen port 1 0
        (identityBytes ++ le 1 0 ++ le 1 port ++ le 2 ((selfModule s).getD 0xFFFF) ++ le 4 c.helloSeq ++ le 1 Config.part ++ zeros 23)
        (setConn port { c with helloSeq := (c.helloSeq + 1) % 2 ^ 32 } s)
      else s)) ∧
    (c.state ≠ 4 → c.state ≠ 5 → exec (.helloTimeout port) s = .next s ∧ exec (.fecLockLoss port) s = .next s) ∧
    (c.state = 4 →
      let sent := match c.wire with
        | some w => w.unacked.map (·.body)
        | none => []
      let left := sent ++ (s.net.queue.filter fun w => w.frame.conn == port && w.num.isNone && sealedType w.frame.type).map (·.frame)
      let gone := fun (cause fec : Nat) => postEvent 9 port 0x0902 2 (le 1 port ++ le 1 cause) (setConn port { c with
        state := 1, wire := none, att := none, retry := false, fec := fec, detaches := min 63 (c.detaches + 1)
        kept := if left = [] then c.kept else left
        keptFor := if left = [] then c.keptFor else c.identity }
        { s with net := { s.net with queue := s.net.queue.filter fun w => w.frame.conn != port } })
      exec (.helloTimeout port) s = .next (gone 0 c.fec) ∧ exec (.fecLockLoss port) s = .next (gone 1 (min 65535 (c.fec + 1)))) ∧
    (c.state = 5 →
      exec (.helloTimeout port) s = .next (detach port 0 s) ∧
      exec (.fecLockLoss port) s = .next (detach port 1 (setConn port { c with fec := min 65535 (c.fec + 1) } s)))

/-- A received hello (R374 to R377): one with a bad CRC is dropped and nacked from Hello on; another length, kind or
type, non-zero reserved bytes, or a port not yet in Hello, changes nothing; in Hello a module's begins the
attestation, unless a retry is waited for, and a switch's makes the port Switched; while Attached or Switched another
identity or kind detaches the port. -/
def Obligations.HellosAreJudged : Prop :=
  ∀ (port : Nat) (b : Bytes) (s : State),
    let c := connAt s port
    let p := (b.drop 16).take (b.length - 32)
    let k := connFor s port b
    let valid := frameType b = 1 ∧ p.length = 64 ∧ (byteAt p 32).toNat ≤ 1 ∧ zeroAt p 41 23 = true ∧ 2 ≤ c.state
    let now := { c with hello := p, identity := p.take 32 }
    (crcGood b = false → exec (.dritarHello port b) s = .next (if 2 ≤ (connAt s k).state then sendNack k s else s)) ∧
    (crcGood b = true → ¬valid → exec (.dritarHello port b) s = .next s) ∧
    (crcGood b = true → valid → c.state = 2 → (byteAt p 32).toNat = 1 →
      exec (.dritarHello port b) s = .next (startPeers (setConn port { now with state := 5, retry := false } s))) ∧
    (crcGood b = true → valid → c.state = 2 → (byteAt p 32).toNat = 0 → exec (.dritarHello port b) s = .next (
      if c.retry then setConn port now s else beginAttest port (setConn port now s))) ∧
    (crcGood b = true → valid → c.state = 3 →
      exec (.dritarHello port b) s = .next (if p.take 32 = c.identity then setConn port now s else s)) ∧
    (crcGood b = true → valid → c.state = 4 ∨ c.state = 5 → exec (.dritarHello port b) s = .next (
      if p.take 32 = c.identity ∧ (byteAt p 32).toNat = (if c.state = 5 then 1 else 0) then
        setConn port { now with wire := c.wire.map fun w => w.acked (fld b 8 2) } s
      else detach port 3 s))

/-- Attestation messages (R438 to R440): each belongs to the attempt of its connection; certificate fragments come in
order, and with the last one the chain must verify and name the sender's identity; an offer needs the whole chain, a
running SVN not below the fused one, which is judged again with the signature (R430), and a secret that unwraps; a
signature that verifies attaches the connection, any failure sends ATT_ABORT with its cause and fails the attempt.
Other messages change nothing, but that one with a bad CRC is nacked from Hello on (R374). The limits of an attempt
(R375, R388): after 200 ms an attempt fails, and a port back in Hello measures its latency anew, with an open result
(log 61); 1 s after a failure the next begins on a port in Hello that knows its partner, and a peer begins again where
the map and its port let it. In another state these commands and the messages change nothing (the model's choice, log
3). -/
def Obligations.AttestationRuns : Prop :=
  ((∀ (port : Nat) (b : Bytes) (s : State), crcGood b = false →
    let k := connFor s port b
    let t := if 2 ≤ (connAt s k).state then sendNack k s else s
    exec (.attCert port b) s = .next t ∧ exec (.attOffer port b) s = .next t ∧ exec (.attSign port b) s = .next t ∧
      exec (.attAbort port b) s = .next t) ∧
  (∀ (port : Nat) (b : Bytes) (s : State), crcGood b = true →
    (attMessage s port b 0x10 = none → exec (.attCert port b) s = .next s) ∧
    (attMessage s port b 0x11 = none → exec (.attOffer port b) s = .next s) ∧
    (attMessage s port b 0x12 = none → exec (.attSign port b) s = .next s) ∧
    (attMessage s port b 0x13 = none → exec (.attAbort port b) s = .next s) ∧
    (∀ k p a, attMessage s port b 0x10 = some (k, p, a) →
      let x := { a with peerCerts := a.peerCerts ++ [p] }
      exec (.attCert port b) s = .next (
        if (byteAt p 33).toNat ≠ a.peerCerts.length ∨ a.whole = true then s
        else if x.whole = false then setAtt k x s
        else if (Config.chainIdentity (rootCert s) x.chain).any (fun i => b256 i == (connAt (setAtt k x s) k).identity) then
          maybeSign k (sendOffer k x (setAtt k x s))
        else abortAttest k 1 (setAtt k x s))) ∧
    (∀ k p a, attMessage s port b 0x11 = some (k, p, a) → exec (.attOffer port b) s = .next (
      if a.whole = false ∨ a.peerOffer ≠ [] then s
      else if (byteAt p 456).toNat < fusedSvn s then abortAttest k 2 s
      else match Config.oaepUnwrap identityKey (slice p 72 384) [] with
        | none => abortAttest k 4 s
        | some x => maybeSign k (setAtt k { a with peerOffer := p, peerSecret := padTo 32 x } s))) ∧
    (∀ k p a, attMessage s port b 0x12 = some (k, p, a) → exec (.attSign port b) s = .next (
      if a.offer = [] ∨ a.peerOffer = [] then s
      else if (byteAt a.peerOffer 456).toNat < fusedSvn s then abortAttest k 2 s
      else if Config.chainVerify a.chain (ascii "K9ATT" ++ attDigest (isLo (connAt s k).identity) a) (slice p 40 384) then
        attached k a (maybeSign k s)
      else abortAttest k 3 s)) ∧
    (∀ k p a, attMessage s port b 0x13 = some (k, p, a) → exec (.attAbort port b) s = .next (failAttest k s)))) ∧
  (∀ (port : Nat) (s : State),
    let c := connAt s port
    (∃ r, r < 2 ^ 18 ∧ exec (.attestTimeout port) s = .next (if c.state = 3 then
      connEvent port 0x0903 3 (padTo 8 c.identity)
        (setConn port { c with
          state := if port < 64 then 2 else 0, att := none, retry := true, latency := if port < 64 then r else c.latency }
          { s with free := s.free + 1 })
      else s)) ∧
    exec (.attestRetry port) s = .next (
      if c.retry = false then s
      else if 64 ≤ port then startPeers (setConn port { c with retry := false } s)
      else if c.state = 2 ∧ c.hello ≠ [] then beginAttest port s
      else setConn port { c with retry := false } s))

/-- Sealed frames (R372, R374, R377, R384, R389, R441): one of its type from an Attached partner is opened under the
key and nonce of its extended sequence; a frame that fails its tag, or is out of sequence, is dropped and nacked; an
accepted one advances the expected sequence and takes its effect: plan data is held for its stack or counted as
without receiver, an arrival of a mapped partner is counted or waits, management and bulk payloads are kept. That a
frame of another type or of a partner not Attached changes nothing (log 3), and the sequence number that a side
without keys acknowledges (log 42), are the model's choices. A nack (R374): every kept frame from the sequence number
it names waits to be sent again, those before it are no longer kept, and a connection with a frame sent 8 times
detaches instead. A frame with a bad CRC is nacked from Hello on, one of another type changes nothing. What waits at a
port leaves in slots (R362, R373): no more frames leave than slots are used, and neither unreserved slots nor those of
a partition are used beyond what is left of them in the index. -/
def Obligations.SealedFramesAndNacks : Prop :=
  (∀ (port : Nat) (b : Bytes) (s : State),
    let k := connFor s port b
    let c := connAt s k
    (∀ row ∈ ([(.dritarPlanData, 3), (.dritarBarrierArrival, 4), (.dritarManagement, 2), (.dritarBulk, 5)] : List ((Nat → Bytes → Instr) × Nat)),
      (frameType b ≠ row.2 ∨ c.state ≠ 4 → exec (row.1 port b) s = .next s) ∧
      (∀ w, frameType b = row.2 → c.state = 4 → c.wire = some w →
        let e := extend w.recvE (fld b 6 2)
        let dir := if w.lo then 1 else 0
        let opened := gcmOpen (frameKey w dir (e / 2 ^ 48)) (frameNonce w dir e)
          ((b.take 8) ++ zeros 2 ++ ((b.take 16).drop 10)) (payloadOf b) (b.drop (b.length - 16))
        let u := setConn k { c with wire := some (Wire.acked { w with recvE := e + 1 } (fld b 8 2)) } s
        exec (row.1 port b) s = .next (match opened with
          | none => sendNack k s
          | some pay =>
            if e ≠ w.recvE ∨ b.length < 32 then sendNack k s
            else if row.2 = 3 then
              let d := dritarDest (fld b 10 4)
              let n := 32 * (byteAt b 1).toNat
              match partOfStack u d.1, placeOf u d.1 none d.2 with
              | some (pk, _), some (g, room) =>
                if (partnerEntry u (mapFor u pk) k).any (fun x => x.mask.testBit (pk % 16)) = false ∨ room < n ∨ pay.length < 32 * n then
                  noReceiver (frameSrc b) d.1 u
                else { u with net := { u.net with incoming := u.net.incoming ++
                  [⟨frameSrc b, d.1, toWords g (pay.take (32 * n)), (byteAt b 14).toNat.testBit 0, s.spin.tick + 1, false⟩] } }
              | _, _ => noReceiver (frameSrc b) d.1 u
            else if row.2 = 4 then
              if connMapped u k = false then u else
              let bar := fld pay 0 2 % 4096
              let r := farArrive (frameSrc b) bar (fld pay 2 2) u
              if r.2 = false then r.1 else
              let v := { r.1 with net := { r.1.net with arrivals := r.1.net.arrivals ++ [⟨frameSrc b, bar, fld pay 2 2⟩] } }
              match farBarrier v bar with
              | none => v
              | some (key, p) =>
                let x := countRefusal key bar { v with free := v.free + 1 }
                match barrierPart key p bar with
                | some pk => noteLap pk bar ((Config.openWord v.free 0).toNat % 65536) (fld pay 2 2) x
                | none => setSyncFlag 0 x
            else { u with net := { u.net with inbox := u.net.inbox ++ [(frameSrc b, row.2, pay)] } })))) ∧
  (∀ (port : Nat) (b : Bytes) (s : State),
    (crcGood b = false → exec (.dritarNack port b) s =
      .next (if 2 ≤ (connAt s (connFor s port b)).state then sendNack (connFor s port b) s else s)) ∧
    (crcGood b = true → frameType b ≠ 6 → exec (.dritarNack port b) s = .next s) ∧
    (let t := pump port s
     let link := portLink port
     let n := fun (u : State) (x : SlotUse) => (u.net.used.filter fun y => y == x).length
     t.out.frames.length + s.net.used.length ≤ s.out.frames.length + t.net.used.length ∧
       n t ⟨link, none, false⟩ ≤ n s ⟨link, none, false⟩ + unreservedLeft s link ∧
       (∀ pk, n t ⟨link, some pk, false⟩ ≤ n s ⟨link, some pk, false⟩ + slotsLeft s pk link) ∧
       (∀ l x v, l ≠ link → n t ⟨l, x, v⟩ = n s ⟨l, x, v⟩)) ∧
    (∀ w, crcGood b = true → frameType b = 6 → (connAt s (connFor s port b)).wire = some w →
      let k := connFor s port b
      let c := connAt s k
      let again := w.unacked.filter fun u => decide (extend w.sendE (fld b 6 2) ≤ u.seq)
      ((∃ u ∈ again, 8 ≤ u.tries) → exec (.dritarNack port b) s = .next (startPeers (detach k 2 s))) ∧
      ((∀ u ∈ again, u.tries < 8) → exec (.dritarNack port b) s = .next (pump (portOf s k) (
        let rest := s.net.queue.filter fun x => !(x.frame.conn == k && x.num.isSome)
        setConn k { c with wire := some { w with unacked := again } }
          { s with net := { s.net with queue := again.map (fun u => (⟨u.body, true, some u.seq⟩ : Waiting)) ++ rest } })))))
end

