-- ==== Sys2Proof/Laws/Command.lean ====
section
/-!
SUPPORT. What a completion and the running of a host command do: the lemmas that statements about host commands
cite.
-/

namespace Sys2Proof.Machine

/-! ### Completions change queues, BAR0 and what leaves the module only -/

theorem HostOnly.refl (s : State) : HostOnly s s := ⟨rfl, rfl, rfl, rfl, rfl, rfl, rfl, rfl, rfl, rfl, rfl, rfl, rfl, rfl, rfl, rfl⟩

theorem HostOnly.trans {s t u : State} (h : HostOnly s t) (k : HostOnly t u) : HostOnly s u :=
  ⟨k.1.trans h.1, k.2.trans h.2, k.3.trans h.3, k.4.trans h.4, k.5.trans h.5, k.6.trans h.6, k.7.trans h.7, k.8.trans h.8,
   k.9.trans h.9, k.10.trans h.10, k.11.trans h.11, k.12.trans h.12, k.13.trans h.13, k.14.trans h.14, k.15.trans h.15,
   k.16.trans h.16⟩

/-- An update of queues, BAR0 and what leaves the module. -/
theorem hostOnly_mk (s : State) {b q ou} : HostOnly s ⟨s.pending, s.phys, b, q, s.ev, s.spin, s.stores, s.mem, s.arr, s.conv,
    s.plans, s.cal, s.model, s.integ, s.serve, s.trust, s.net, ou, s.free⟩ :=
  ⟨rfl, rfl, rfl, rfl, rfl, rfl, rfl, rfl, rfl, rfl, rfl, rfl, rfl, rfl, rfl, rfl⟩

theorem hostWrite_hostOnly (fn addr : Nat) (b : Bytes) (s : State) : HostOnly s (hostWrite fn addr b s) := by
  unfold hostWrite; split <;> exact hostOnly_mk s

theorem cqPut_hostOnly (q : Nat) (e : Bytes) (s : State) : HostOnly s (cqPut q e s) := by
  unfold cqPut
  split
  · exact .refl s
  split
  · exact .refl s
  · have h := hostWrite_hostOnly ‹Cq›.owner (‹Cq›.base + 32 * ‹Cq›.tail) (withPhase e ‹Cq›.phase) s
    exact ⟨h.1, h.2, h.3, h.4, h.5, h.6, h.7, h.8, h.9, h.10, h.11, h.12, h.13, h.14, h.15, h.16⟩

theorem completeOne_hostOnly (tag status sub result : Nat) (s : State) : HostOnly s (completeOne tag status sub result s) := by
  unfold completeOne
  split
  · exact .refl s
  · dsimp only
    split
    · exact hostOnly_mk s
    split
    · exact (hostOnly_mk s).trans (cqPut_hostOnly _ _ _)
    · exact hostOnly_mk s

theorem hostOnly_foldl {β : Type} {f : State → β → State} (hf : ∀ t x, HostOnly t (f t x)) (l : List β) (s : State) :
    HostOnly s (l.foldl f s) := by
  induction l generalizing s with
  | nil => exact .refl s
  | cons x l ih => exact (hf s x).trans (ih _)

theorem finishDeletes_hostOnly (s : State) : HostOnly s (finishDeletes s) := by
  unfold finishDeletes
  exact (hostOnly_mk s).trans (hostOnly_foldl (fun _ _ => completeOne_hostOnly _ _ _ _ _) _ _)

theorem finishAdmin_hostOnly (s : State) : HostOnly s (finishAdmin s) := by
  unfold finishAdmin
  split
  · exact hostOnly_mk s
  · exact .refl s

/-- A completion changes queues, BAR0 and what leaves the module only. -/
theorem complete_hostOnly (tag status sub result : Nat) (s : State) : HostOnly s (complete tag status sub result s) :=
  (completeOne_hostOnly _ _ _ _ _).trans ((finishDeletes_hostOnly _).trans (finishAdmin_hostOnly _))

/-! ### Running a host command -/

/-- A command that begins runs: its first failed check completes it, else its effect does. -/
theorem runCommand_begins {op : Nat} {checks : Cmd → State → List Check} {act : Cmd → State → Ran} {c : CmdIn} {s : State}
    {cmd : Cmd} {t : State} (h : Begins op c s cmd t) : runCommand op checks act c s =
      match firstFail (checks cmd t) with
      | some e => complete c.tag e.status e.sub e.result t
      | none => finish c.tag (act cmd t) := by
  obtain ⟨hf, hb, ho, hm, hg, hc⟩ := h
  unfold runCommand
  rw [hf]
  simp only [hb, ho, hm, hg, bne_self_eq_false, Bool.not_true, Bool.or_self, Bool.false_eq_true, if_false]
  rw [← hc] <;> rfl

/-- An accepted command has its effect. -/
theorem runCommand_accepted {op : Nat} {checks : Cmd → State → List Check} {act : Cmd → State → Ran} {c : CmdIn} {s : State}
    {cmd : Cmd} {t : State} (h : Accepted op checks c s cmd t) : runCommand op checks act c s = finish c.tag (act cmd t) := by
  rw [runCommand_begins h.1, h.2]

end Sys2Proof.Machine
end

