-- ==== Sys2Proof/Laws/Fuses.lean ====
section
/-!
SUPPORT. Byte fields read back what they were written as, and what the fuse map (R427) shows at its offsets.
-/

namespace Sys2Proof.Machine

@[simp] theorem le_length (len n : Nat) : (le len n).length = len := by
  induction len generalizing n with
  | zero => rfl
  | succ len ih => simp [le, ih]

@[simp] theorem padTo_length (len : Nat) (b : Bytes) : (padTo len b).length = len := by
  simp [padTo, zeros]; omega

/-- A little-endian number of `len` bytes reads back as itself. -/
theorem leNat_le {len n : Nat} (h : n < 256 ^ len) : leNat (le len n) = n := by
  induction len generalizing n with
  | zero => simp at h; simp [le, leNat, h]
  | succ len ih =>
    have : n / 256 < 256 ^ len := by rw [Nat.pow_succ] at h; omega
    simp [le, leNat, ih this]
    omega

/-- A part of a string behind a prefix of known length. -/
theorem drop_take_append {a b c : Bytes} {off len : Nat} (ha : a.length = off) (hb : b.length = len) :
    ((a ++ (b ++ c)).drop off).take len = b := by
  subst ha hb
  simp

/-- What stands before ROOT_HASH in the fuse map. -/
def fuseHead : Bytes :=
  le 512 Config.pufHelper.toNat ++ le 12 Config.idNonce.toNat ++ le 968 Config.idWrapped.toNat ++ le 16 Config.idTag.toNat ++
    le 2 (Config.deviceCert.take 2000).length ++ padTo 2000 Config.deviceCert ++ zeros 74

theorem fuseHead_length : fuseHead.length = 3584 := by simp [fuseHead, zeros]

/-- ROOT_HASH of the fuse map. -/
theorem fuseMap_rootHash (s : State) : slice (fuseMap s) 3584 32 = b256 Config.rootHash := by
  have h : ((fuseMap s).drop 3584).take 32 = b256 Config.rootHash := by
    have e : fuseMap s = fuseHead ++ (b256 Config.rootHash ++ (le 4 s.phys.svnFuses.toNat ++ zeros 476)) := by
      simp [fuseMap, fuseHead, List.append_assoc]
    rw [e]
    exact drop_take_append fuseHead_length (le_length 32 _)
  unfold slice
  rw [h]
  simp [padTo, b256, zeros, List.take_of_length_le]

/-- SVN_FUSES of the fuse map. -/
theorem fuseMap_svn (s : State) : fld (fuseMap s) 3616 4 = s.phys.svnFuses.toNat := by
  have e : fuseMap s = (fuseHead ++ b256 Config.rootHash) ++ (le 4 s.phys.svnFuses.toNat ++ zeros 476) := by
    simp [fuseMap, fuseHead, List.append_assoc]
  unfold fld
  rw [e, drop_take_append (by simp [fuseHead_length, b256]) (le_length 4 _), leNat_le (by simpa using s.phys.svnFuses.isLt)]

/-- The fused SVN is the count of fuses in the map (R429). -/
theorem fuseMap_fusedSvn (s : State) :
    ((List.range 32).filter (fld (fuseMap s) 3616 4).testBit).length = fusedSvn s := by
  rw [fuseMap_svn]
  rfl

end Sys2Proof.Machine
end

