-- ==== Sys2Proof/Laws/Table.lean ====
section
/-!
SUPPORT. The laws of tables and of byte memory: a read after a write, and the canonical form that every
operation keeps.
-/

namespace Sys2Proof.Machine

section
variable {α : Type} [DecidableEq α] {d : α}

omit [DecidableEq α] in
@[simp] theorem tget_nil (k : Nat) : tget d [] k = d := rfl
@[simp] theorem twf_nil : twf d [] = true := rfl

/-- The first number of a table lies above `k`. -/
def headAbove (k : Nat) : Tab α → Prop
  | [] => True
  | (j, _) :: _ => k < j

theorem twf_cons {j : Nat} {v : α} {t : Tab α} :
    twf d ((j, v) :: t) = true ↔ v ≠ d ∧ headAbove j t ∧ twf d t = true := by
  cases t with
  | nil => simp [twf, headAbove]
  | cons x t => obtain ⟨k, w⟩ := x; simp [twf, headAbove, and_assoc]

omit [DecidableEq α] in
theorem headAbove_mono {t : Tab α} {i k : Nat} (h : i ≤ k) (ha : headAbove k t) : headAbove i t := by
  cases t with
  | nil => trivial
  | cons x t => exact Nat.lt_of_le_of_lt h ha

/-- A number below every entry reads as the default. -/
theorem tget_of_headAbove {t : Tab α} {k : Nat} (ht : twf d t = true) (ha : headAbove k t) : tget d t k = d := by
  induction t with
  | nil => rfl
  | cons x t ih =>
    obtain ⟨j, v⟩ := x
    obtain ⟨-, hj, hw⟩ := twf_cons.1 ht
    have hk : k < j := ha
    simp only [tget, if_neg (Nat.ne_of_gt hk)]
    exact ih hw (headAbove_mono (Nat.le_of_lt hk) hj)

theorem headAbove_filter {t : Tab α} {i : Nat} (p : Nat × α → Bool) (ht : twf d t = true) (ha : headAbove i t) :
    headAbove i (t.filter p) := by
  induction t with
  | nil => trivial
  | cons x t ih =>
    obtain ⟨j, v⟩ := x
    obtain ⟨-, hj, hw⟩ := twf_cons.1 ht
    have hi : i < j := ha
    rw [List.filter_cons]
    split
    · exact hi
    · exact ih hw (headAbove_mono (Nat.le_of_lt hi) hj)

/-- Leaving entries out keeps the canonical form. -/
theorem twf_filter {t : Tab α} (p : Nat × α → Bool) (ht : twf d t = true) : twf d (t.filter p) = true := by
  induction t with
  | nil => rfl
  | cons x t ih =>
    obtain ⟨j, v⟩ := x
    obtain ⟨hv, hj, hw⟩ := twf_cons.1 ht
    rw [List.filter_cons]
    split
    · exact twf_cons.2 ⟨hv, headAbove_filter p hw hj, ih hw⟩
    · exact ih hw

/-- Deleting keeps the canonical form. -/
theorem twf_tdel {t : Tab α} (k : Nat) (ht : twf d t = true) : twf d (tdel t k) = true := twf_filter _ ht

omit [DecidableEq α] in
theorem headAbove_tput {t : Tab α} {i k : Nat} {v : α} (hk : i < k) (ha : headAbove i t) : headAbove i (tput t k v) := by
  cases t with
  | nil => exact hk
  | cons x t =>
    obtain ⟨j, w⟩ := x
    unfold tput
    split
    · exact hk
    · split
      · exact hk
      · exact ha

/-- Putting a value that is not the default keeps the canonical form. -/
theorem twf_tput {t : Tab α} {k : Nat} {v : α} (hv : v ≠ d) (ht : twf d t = true) : twf d (tput t k v) = true := by
  induction t with
  | nil => simpa [tput, twf] using hv
  | cons x t ih =>
    obtain ⟨j, w⟩ := x
    obtain ⟨hw, hj, ht'⟩ := twf_cons.1 ht
    unfold tput
    split
    · rename_i e; exact twf_cons.2 ⟨hv, e ▸ hj, ht'⟩
    · split
      · rename_i e; exact twf_cons.2 ⟨hv, e, ht⟩
      · rename_i e e'
        exact twf_cons.2 ⟨hw, headAbove_tput (by omega) hj, ih ht'⟩

/-- Every write to a table keeps its canonical form. -/
theorem twf_tset {t : Tab α} {k : Nat} {v : α} (ht : twf d t = true) : twf d (tset d t k v) = true := by
  unfold tset
  split
  · exact twf_tdel k ht
  · exact twf_tput ‹_› ht

omit [DecidableEq α] in
/-- A deleted number reads as the default, in any table. -/
theorem tget_tdel_self (t : Tab α) (k : Nat) : tget d (tdel t k) k = d := by
  induction t with
  | nil => rfl
  | cons x t ih =>
    obtain ⟨j, v⟩ := x
    by_cases e : j = k
    · simpa [tdel, List.filter_cons, e] using ih
    · simpa [tdel, List.filter_cons, e, tget] using ih

omit [DecidableEq α] in
theorem tget_tdel_of_ne {t : Tab α} {k i : Nat} (h : i ≠ k) : tget d (tdel t k) i = tget d t i := by
  induction t with
  | nil => rfl
  | cons x t ih =>
    obtain ⟨j, v⟩ := x
    by_cases e : j = k
    · subst e; simpa [tdel, List.filter_cons, tget, Ne.symm h] using ih
    · by_cases e' : j = i
      · simp [tdel, e', h, tget]
      · simpa [tdel, List.filter_cons, e, e', tget] using ih

omit [DecidableEq α] in
theorem tget_tput_self (t : Tab α) (k : Nat) (v : α) : tget d (tput t k v) k = v := by
  induction t with
  | nil => simp [tput, tget]
  | cons x t ih =>
    obtain ⟨j, w⟩ := x
    unfold tput
    split
    · simp [tget]
    · split
      · simp [tget]
      · simp only [tget, if_neg ‹¬j = k›]; exact ih

omit [DecidableEq α] in
theorem tget_tput_of_ne {t : Tab α} {k i : Nat} {v : α} (h : i ≠ k) : tget d (tput t k v) i = tget d t i := by
  induction t with
  | nil => simp [tput, tget, Ne.symm h]
  | cons x t ih =>
    obtain ⟨j, w⟩ := x
    unfold tput
    split
    · rename_i e; simp [tget, e, Ne.symm h]
    · split
      · rw [tget, if_neg (Ne.symm h)]
      · simp only [tget, ih]

/-- A read after a write to the same number gives the value written. -/
theorem tget_tset_self (t : Tab α) (k : Nat) (v : α) : tget d (tset d t k v) k = v := by
  unfold tset
  split
  · rename_i e; rw [tget_tdel_self, e]
  · exact tget_tput_self t k v

/-- A write leaves every other number alone. -/
theorem tget_tset_of_ne {t : Tab α} {k i : Nat} {v : α} (h : i ≠ k) : tget d (tset d t k v) i = tget d t i := by
  unfold tset
  split
  · exact tget_tdel_of_ne h
  · exact tget_tput_of_ne h

end

/-! ### Byte memory -/

/-- A write to memory keeps its canonical form. -/
theorem wf_mwrite {m : Tab Byte} (a : Nat) (b : Bytes) (h : Memory.wf m = true) : Memory.wf (mwrite m a b) = true := by
  induction b generalizing m a with
  | nil => exact h
  | cons x b ih => exact ih (a + 1) (twf_tset h)

/-- Clearing a range keeps the canonical form. -/
theorem wf_mclear {m : Tab Byte} (lo len : Nat) (h : Memory.wf m = true) : Memory.wf (mclear m lo len) = true :=
  twf_filter _ h

/-- Leaving entries out keeps the canonical form. -/
theorem wf_filter {m : Tab Byte} (p : Nat × Byte → Bool) (h : Memory.wf m = true) : Memory.wf (m.filter p) = true :=
  twf_filter p h

/-- A write leaves every byte outside it alone. -/
theorem tget_mwrite_outside {m : Tab Byte} {a i : Nat} {b : Bytes} (h : i < a ∨ a + b.length ≤ i) :
    tget 0#8 (mwrite m a b) i = tget 0#8 m i := by
  induction b generalizing m a with
  | nil => rfl
  | cons x b ih =>
    simp only [List.length_cons] at h
    rw [mwrite, ih (by omega), tget_tset_of_ne (by omega)]

/-- A byte of a write reads as it was written. -/
theorem tget_mwrite_inside {m : Tab Byte} {a i : Nat} {b : Bytes} (h : i < b.length) :
    tget 0#8 (mwrite m a b) (a + i) = b.getD i 0#8 := by
  induction b generalizing m a i with
  | nil => simp at h
  | cons x b ih =>
    rw [mwrite]
    cases i with
    | zero => rw [tget_mwrite_outside (by omega)]; simpa using tget_tset_self m a x
    | succ i =>
      rw [show a + (i + 1) = a + 1 + i by omega, ih (by simpa using h)]; rfl

/-- A fold of writes keeps the canonical form. -/
theorem wf_foldl {β : Type} {f : Tab Byte → β → Tab Byte} (hf : ∀ m x, Memory.wf m = true → Memory.wf (f m x) = true)
    (l : List β) {m : Tab Byte} (h : Memory.wf m = true) : Memory.wf (l.foldl f m) = true := by
  induction l generalizing m with
  | nil => exact h
  | cons x l ih => exact ih (hf m x h)

end Sys2Proof.Machine
end

