-- ==== Sys2Proof/Laws/State.lean ====
section
/-!
SUPPORT. What the plain updates of the state leave alone, one lemma for each field, and what a command put in front
of the queue changes.
-/

namespace Sys2Proof.Machine

@[simp] theorem setHostFlag_pending (k : Nat) (s : State) : (setHostFlag k s).pending = s.pending := rfl
@[simp] theorem setHostFlag_phys (k : Nat) (s : State) : (setHostFlag k s).phys = s.phys := rfl
@[simp] theorem setHostFlag_host (k : Nat) (s : State) : (setHostFlag k s).host = s.host := rfl
@[simp] theorem setHostFlag_ev (k : Nat) (s : State) : (setHostFlag k s).ev = s.ev := rfl
@[simp] theorem setHostFlag_spin (k : Nat) (s : State) : (setHostFlag k s).spin = s.spin := rfl
@[simp] theorem setHostFlag_stores (k : Nat) (s : State) : (setHostFlag k s).stores = s.stores := rfl
@[simp] theorem setHostFlag_mem (k : Nat) (s : State) : (setHostFlag k s).mem = s.mem := rfl
@[simp] theorem setHostFlag_arr (k : Nat) (s : State) : (setHostFlag k s).arr = s.arr := rfl
@[simp] theorem setHostFlag_conv (k : Nat) (s : State) : (setHostFlag k s).conv = s.conv := rfl
@[simp] theorem setHostFlag_plans (k : Nat) (s : State) : (setHostFlag k s).plans = s.plans := rfl
@[simp] theorem setHostFlag_cal (k : Nat) (s : State) : (setHostFlag k s).cal = s.cal := rfl
@[simp] theorem setHostFlag_model (k : Nat) (s : State) : (setHostFlag k s).model = s.model := rfl
@[simp] theorem setHostFlag_integ (k : Nat) (s : State) : (setHostFlag k s).integ = s.integ := rfl
@[simp] theorem setHostFlag_serve (k : Nat) (s : State) : (setHostFlag k s).serve = s.serve := rfl
@[simp] theorem setHostFlag_trust (k : Nat) (s : State) : (setHostFlag k s).trust = s.trust := rfl
@[simp] theorem setHostFlag_net (k : Nat) (s : State) : (setHostFlag k s).net = s.net := rfl
@[simp] theorem setHostFlag_out (k : Nat) (s : State) : (setHostFlag k s).out = s.out := rfl
@[simp] theorem setHostFlag_free (k : Nat) (s : State) : (setHostFlag k s).free = s.free := rfl

@[simp] theorem setSyncFlag_pending (k : Nat) (s : State) : (setSyncFlag k s).pending = s.pending := rfl
@[simp] theorem setSyncFlag_phys (k : Nat) (s : State) : (setSyncFlag k s).phys = s.phys := rfl
@[simp] theorem setSyncFlag_host (k : Nat) (s : State) : (setSyncFlag k s).host = s.host := rfl
@[simp] theorem setSyncFlag_ev (k : Nat) (s : State) : (setSyncFlag k s).ev = s.ev := rfl
@[simp] theorem setSyncFlag_spin (k : Nat) (s : State) : (setSyncFlag k s).spin = s.spin := rfl
@[simp] theorem setSyncFlag_stores (k : Nat) (s : State) : (setSyncFlag k s).stores = s.stores := rfl
@[simp] theorem setSyncFlag_mem (k : Nat) (s : State) : (setSyncFlag k s).mem = s.mem := rfl
@[simp] theorem setSyncFlag_arr (k : Nat) (s : State) : (setSyncFlag k s).arr = s.arr := rfl
@[simp] theorem setSyncFlag_conv (k : Nat) (s : State) : (setSyncFlag k s).conv = s.conv := rfl
@[simp] theorem setSyncFlag_plans (k : Nat) (s : State) : (setSyncFlag k s).plans = s.plans := rfl
@[simp] theorem setSyncFlag_cal (k : Nat) (s : State) : (setSyncFlag k s).cal = s.cal := rfl
@[simp] theorem setSyncFlag_model (k : Nat) (s : State) : (setSyncFlag k s).model = s.model := rfl
@[simp] theorem setSyncFlag_integ (k : Nat) (s : State) : (setSyncFlag k s).integ = s.integ := rfl
@[simp] theorem setSyncFlag_serve (k : Nat) (s : State) : (setSyncFlag k s).serve = s.serve := rfl
@[simp] theorem setSyncFlag_trust (k : Nat) (s : State) : (setSyncFlag k s).trust = s.trust := rfl
@[simp] theorem setSyncFlag_net (k : Nat) (s : State) : (setSyncFlag k s).net = s.net := rfl
@[simp] theorem setSyncFlag_out (k : Nat) (s : State) : (setSyncFlag k s).out = s.out := rfl
@[simp] theorem setSyncFlag_free (k : Nat) (s : State) : (setSyncFlag k s).free = s.free := rfl

@[simp] theorem markBegun_pending (tag : Nat) (f : Fetched) (s : State) : (markBegun tag f s).pending = s.pending := rfl
@[simp] theorem markBegun_phys (tag : Nat) (f : Fetched) (s : State) : (markBegun tag f s).phys = s.phys := rfl
@[simp] theorem markBegun_bar (tag : Nat) (f : Fetched) (s : State) : (markBegun tag f s).bar = s.bar := rfl
@[simp] theorem markBegun_ev (tag : Nat) (f : Fetched) (s : State) : (markBegun tag f s).ev = s.ev := rfl
@[simp] theorem markBegun_spin (tag : Nat) (f : Fetched) (s : State) : (markBegun tag f s).spin = s.spin := rfl
@[simp] theorem markBegun_stores (tag : Nat) (f : Fetched) (s : State) : (markBegun tag f s).stores = s.stores := rfl
@[simp] theorem markBegun_mem (tag : Nat) (f : Fetched) (s : State) : (markBegun tag f s).mem = s.mem := rfl
@[simp] theorem markBegun_arr (tag : Nat) (f : Fetched) (s : State) : (markBegun tag f s).arr = s.arr := rfl
@[simp] theorem markBegun_conv (tag : Nat) (f : Fetched) (s : State) : (markBegun tag f s).conv = s.conv := rfl
@[simp] theorem markBegun_plans (tag : Nat) (f : Fetched) (s : State) : (markBegun tag f s).plans = s.plans := rfl
@[simp] theorem markBegun_cal (tag : Nat) (f : Fetched) (s : State) : (markBegun tag f s).cal = s.cal := rfl
@[simp] theorem markBegun_model (tag : Nat) (f : Fetched) (s : State) : (markBegun tag f s).model = s.model := rfl
@[simp] theorem markBegun_integ (tag : Nat) (f : Fetched) (s : State) : (markBegun tag f s).integ = s.integ := rfl
@[simp] theorem markBegun_serve (tag : Nat) (f : Fetched) (s : State) : (markBegun tag f s).serve = s.serve := rfl
@[simp] theorem markBegun_trust (tag : Nat) (f : Fetched) (s : State) : (markBegun tag f s).trust = s.trust := rfl
@[simp] theorem markBegun_net (tag : Nat) (f : Fetched) (s : State) : (markBegun tag f s).net = s.net := rfl
@[simp] theorem markBegun_out (tag : Nat) (f : Fetched) (s : State) : (markBegun tag f s).out = s.out := rfl
@[simp] theorem markBegun_free (tag : Nat) (f : Fetched) (s : State) : (markBegun tag f s).free = s.free := rfl

@[simp] theorem putWords_pending (ws : List (Nat × Bytes)) (s : State) : (putWords ws s).pending = s.pending := rfl
@[simp] theorem putWords_phys (ws : List (Nat × Bytes)) (s : State) : (putWords ws s).phys = s.phys := rfl
@[simp] theorem putWords_bar (ws : List (Nat × Bytes)) (s : State) : (putWords ws s).bar = s.bar := rfl
@[simp] theorem putWords_host (ws : List (Nat × Bytes)) (s : State) : (putWords ws s).host = s.host := rfl
@[simp] theorem putWords_ev (ws : List (Nat × Bytes)) (s : State) : (putWords ws s).ev = s.ev := rfl
@[simp] theorem putWords_spin (ws : List (Nat × Bytes)) (s : State) : (putWords ws s).spin = s.spin := rfl
@[simp] theorem putWords_mem (ws : List (Nat × Bytes)) (s : State) : (putWords ws s).mem = s.mem := rfl
@[simp] theorem putWords_arr (ws : List (Nat × Bytes)) (s : State) : (putWords ws s).arr = s.arr := rfl
@[simp] theorem putWords_conv (ws : List (Nat × Bytes)) (s : State) : (putWords ws s).conv = s.conv := rfl
@[simp] theorem putWords_plans (ws : List (Nat × Bytes)) (s : State) : (putWords ws s).plans = s.plans := rfl
@[simp] theorem putWords_cal (ws : List (Nat × Bytes)) (s : State) : (putWords ws s).cal = s.cal := rfl
@[simp] theorem putWords_model (ws : List (Nat × Bytes)) (s : State) : (putWords ws s).model = s.model := rfl
@[simp] theorem putWords_integ (ws : List (Nat × Bytes)) (s : State) : (putWords ws s).integ = s.integ := rfl
@[simp] theorem putWords_serve (ws : List (Nat × Bytes)) (s : State) : (putWords ws s).serve = s.serve := rfl
@[simp] theorem putWords_trust (ws : List (Nat × Bytes)) (s : State) : (putWords ws s).trust = s.trust := rfl
@[simp] theorem putWords_net (ws : List (Nat × Bytes)) (s : State) : (putWords ws s).net = s.net := rfl
@[simp] theorem putWords_out (ws : List (Nat × Bytes)) (s : State) : (putWords ws s).out = s.out := rfl
@[simp] theorem putWords_free (ws : List (Nat × Bytes)) (s : State) : (putWords ws s).free = s.free := rfl

@[simp] theorem fillWords_pending (gs : List Nat) (s : State) : (fillWords gs s).pending = s.pending := rfl
@[simp] theorem fillWords_phys (gs : List Nat) (s : State) : (fillWords gs s).phys = s.phys := rfl
@[simp] theorem fillWords_bar (gs : List Nat) (s : State) : (fillWords gs s).bar = s.bar := rfl
@[simp] theorem fillWords_host (gs : List Nat) (s : State) : (fillWords gs s).host = s.host := rfl
@[simp] theorem fillWords_ev (gs : List Nat) (s : State) : (fillWords gs s).ev = s.ev := rfl
@[simp] theorem fillWords_spin (gs : List Nat) (s : State) : (fillWords gs s).spin = s.spin := rfl
@[simp] theorem fillWords_mem (gs : List Nat) (s : State) : (fillWords gs s).mem = s.mem := rfl
@[simp] theorem fillWords_arr (gs : List Nat) (s : State) : (fillWords gs s).arr = s.arr := rfl
@[simp] theorem fillWords_conv (gs : List Nat) (s : State) : (fillWords gs s).conv = s.conv := rfl
@[simp] theorem fillWords_plans (gs : List Nat) (s : State) : (fillWords gs s).plans = s.plans := rfl
@[simp] theorem fillWords_cal (gs : List Nat) (s : State) : (fillWords gs s).cal = s.cal := rfl
@[simp] theorem fillWords_model (gs : List Nat) (s : State) : (fillWords gs s).model = s.model := rfl
@[simp] theorem fillWords_integ (gs : List Nat) (s : State) : (fillWords gs s).integ = s.integ := rfl
@[simp] theorem fillWords_serve (gs : List Nat) (s : State) : (fillWords gs s).serve = s.serve := rfl
@[simp] theorem fillWords_trust (gs : List Nat) (s : State) : (fillWords gs s).trust = s.trust := rfl
@[simp] theorem fillWords_net (gs : List Nat) (s : State) : (fillWords gs s).net = s.net := rfl
@[simp] theorem fillWords_out (gs : List Nat) (s : State) : (fillWords gs s).out = s.out := rfl
@[simp] theorem fillWords_free (gs : List Nat) (s : State) : (fillWords gs s).free = s.free := rfl

@[simp] theorem emptyWords_pending (gs : List Nat) (s : State) : (emptyWords gs s).pending = s.pending := rfl
@[simp] theorem emptyWords_phys (gs : List Nat) (s : State) : (emptyWords gs s).phys = s.phys := rfl
@[simp] theorem emptyWords_bar (gs : List Nat) (s : State) : (emptyWords gs s).bar = s.bar := rfl
@[simp] theorem emptyWords_host (gs : List Nat) (s : State) : (emptyWords gs s).host = s.host := rfl
@[simp] theorem emptyWords_ev (gs : List Nat) (s : State) : (emptyWords gs s).ev = s.ev := rfl
@[simp] theorem emptyWords_spin (gs : List Nat) (s : State) : (emptyWords gs s).spin = s.spin := rfl
@[simp] theorem emptyWords_mem (gs : List Nat) (s : State) : (emptyWords gs s).mem = s.mem := rfl
@[simp] theorem emptyWords_arr (gs : List Nat) (s : State) : (emptyWords gs s).arr = s.arr := rfl
@[simp] theorem emptyWords_conv (gs : List Nat) (s : State) : (emptyWords gs s).conv = s.conv := rfl
@[simp] theorem emptyWords_plans (gs : List Nat) (s : State) : (emptyWords gs s).plans = s.plans := rfl
@[simp] theorem emptyWords_cal (gs : List Nat) (s : State) : (emptyWords gs s).cal = s.cal := rfl
@[simp] theorem emptyWords_model (gs : List Nat) (s : State) : (emptyWords gs s).model = s.model := rfl
@[simp] theorem emptyWords_integ (gs : List Nat) (s : State) : (emptyWords gs s).integ = s.integ := rfl
@[simp] theorem emptyWords_serve (gs : List Nat) (s : State) : (emptyWords gs s).serve = s.serve := rfl
@[simp] theorem emptyWords_trust (gs : List Nat) (s : State) : (emptyWords gs s).trust = s.trust := rfl
@[simp] theorem emptyWords_net (gs : List Nat) (s : State) : (emptyWords gs s).net = s.net := rfl
@[simp] theorem emptyWords_out (gs : List Nat) (s : State) : (emptyWords gs s).out = s.out := rfl
@[simp] theorem emptyWords_free (gs : List Nat) (s : State) : (emptyWords gs s).free = s.free := rfl

@[simp] theorem drainWords_pending (gs : List Nat) (s : State) : (drainWords gs s).pending = s.pending := rfl
@[simp] theorem drainWords_phys (gs : List Nat) (s : State) : (drainWords gs s).phys = s.phys := rfl
@[simp] theorem drainWords_bar (gs : List Nat) (s : State) : (drainWords gs s).bar = s.bar := rfl
@[simp] theorem drainWords_host (gs : List Nat) (s : State) : (drainWords gs s).host = s.host := rfl
@[simp] theorem drainWords_ev (gs : List Nat) (s : State) : (drainWords gs s).ev = s.ev := rfl
@[simp] theorem drainWords_spin (gs : List Nat) (s : State) : (drainWords gs s).spin = s.spin := rfl
@[simp] theorem drainWords_mem (gs : List Nat) (s : State) : (drainWords gs s).mem = s.mem := rfl
@[simp] theorem drainWords_arr (gs : List Nat) (s : State) : (drainWords gs s).arr = s.arr := rfl
@[simp] theorem drainWords_conv (gs : List Nat) (s : State) : (drainWords gs s).conv = s.conv := rfl
@[simp] theorem drainWords_plans (gs : List Nat) (s : State) : (drainWords gs s).plans = s.plans := rfl
@[simp] theorem drainWords_cal (gs : List Nat) (s : State) : (drainWords gs s).cal = s.cal := rfl
@[simp] theorem drainWords_model (gs : List Nat) (s : State) : (drainWords gs s).model = s.model := rfl
@[simp] theorem drainWords_integ (gs : List Nat) (s : State) : (drainWords gs s).integ = s.integ := rfl
@[simp] theorem drainWords_serve (gs : List Nat) (s : State) : (drainWords gs s).serve = s.serve := rfl
@[simp] theorem drainWords_trust (gs : List Nat) (s : State) : (drainWords gs s).trust = s.trust := rfl
@[simp] theorem drainWords_net (gs : List Nat) (s : State) : (drainWords gs s).net = s.net := rfl
@[simp] theorem drainWords_out (gs : List Nat) (s : State) : (drainWords gs s).out = s.out := rfl
@[simp] theorem drainWords_free (gs : List Nat) (s : State) : (drainWords gs s).free = s.free := rfl

@[simp] theorem packageWrite_pending (st a : Nat) (b : Bytes) (s : State) : (packageWrite st a b s).pending = s.pending := rfl
@[simp] theorem packageWrite_phys (st a : Nat) (b : Bytes) (s : State) : (packageWrite st a b s).phys = s.phys := rfl
@[simp] theorem packageWrite_bar (st a : Nat) (b : Bytes) (s : State) : (packageWrite st a b s).bar = s.bar := rfl
@[simp] theorem packageWrite_host (st a : Nat) (b : Bytes) (s : State) : (packageWrite st a b s).host = s.host := rfl
@[simp] theorem packageWrite_ev (st a : Nat) (b : Bytes) (s : State) : (packageWrite st a b s).ev = s.ev := rfl
@[simp] theorem packageWrite_spin (st a : Nat) (b : Bytes) (s : State) : (packageWrite st a b s).spin = s.spin := rfl
@[simp] theorem packageWrite_stores (st a : Nat) (b : Bytes) (s : State) : (packageWrite st a b s).stores = s.stores := rfl
@[simp] theorem packageWrite_arr (st a : Nat) (b : Bytes) (s : State) : (packageWrite st a b s).arr = s.arr := rfl
@[simp] theorem packageWrite_conv (st a : Nat) (b : Bytes) (s : State) : (packageWrite st a b s).conv = s.conv := rfl
@[simp] theorem packageWrite_plans (st a : Nat) (b : Bytes) (s : State) : (packageWrite st a b s).plans = s.plans := rfl
@[simp] theorem packageWrite_cal (st a : Nat) (b : Bytes) (s : State) : (packageWrite st a b s).cal = s.cal := rfl
@[simp] theorem packageWrite_model (st a : Nat) (b : Bytes) (s : State) : (packageWrite st a b s).model = s.model := rfl
@[simp] theorem packageWrite_integ (st a : Nat) (b : Bytes) (s : State) : (packageWrite st a b s).integ = s.integ := rfl
@[simp] theorem packageWrite_serve (st a : Nat) (b : Bytes) (s : State) : (packageWrite st a b s).serve = s.serve := rfl
@[simp] theorem packageWrite_trust (st a : Nat) (b : Bytes) (s : State) : (packageWrite st a b s).trust = s.trust := rfl
@[simp] theorem packageWrite_net (st a : Nat) (b : Bytes) (s : State) : (packageWrite st a b s).net = s.net := rfl
@[simp] theorem packageWrite_out (st a : Nat) (b : Bytes) (s : State) : (packageWrite st a b s).out = s.out := rfl
@[simp] theorem packageWrite_free (st a : Nat) (b : Bytes) (s : State) : (packageWrite st a b s).free = s.free := rfl

@[simp] theorem moduleWrite_pending (a : Nat) (b : Bytes) (s : State) : (moduleWrite a b s).pending = s.pending := rfl
@[simp] theorem moduleWrite_phys (a : Nat) (b : Bytes) (s : State) : (moduleWrite a b s).phys = s.phys := rfl
@[simp] theorem moduleWrite_bar (a : Nat) (b : Bytes) (s : State) : (moduleWrite a b s).bar = s.bar := rfl
@[simp] theorem moduleWrite_host (a : Nat) (b : Bytes) (s : State) : (moduleWrite a b s).host = s.host := rfl
@[simp] theorem moduleWrite_ev (a : Nat) (b : Bytes) (s : State) : (moduleWrite a b s).ev = s.ev := rfl
@[simp] theorem moduleWrite_spin (a : Nat) (b : Bytes) (s : State) : (moduleWrite a b s).spin = s.spin := rfl
@[simp] theorem moduleWrite_stores (a : Nat) (b : Bytes) (s : State) : (moduleWrite a b s).stores = s.stores := rfl
@[simp] theorem moduleWrite_arr (a : Nat) (b : Bytes) (s : State) : (moduleWrite a b s).arr = s.arr := rfl
@[simp] theorem moduleWrite_conv (a : Nat) (b : Bytes) (s : State) : (moduleWrite a b s).conv = s.conv := rfl
@[simp] theorem moduleWrite_plans (a : Nat) (b : Bytes) (s : State) : (moduleWrite a b s).plans = s.plans := rfl
@[simp] theorem moduleWrite_cal (a : Nat) (b : Bytes) (s : State) : (moduleWrite a b s).cal = s.cal := rfl
@[simp] theorem moduleWrite_model (a : Nat) (b : Bytes) (s : State) : (moduleWrite a b s).model = s.model := rfl
@[simp] theorem moduleWrite_integ (a : Nat) (b : Bytes) (s : State) : (moduleWrite a b s).integ = s.integ := rfl
@[simp] theorem moduleWrite_serve (a : Nat) (b : Bytes) (s : State) : (moduleWrite a b s).serve = s.serve := rfl
@[simp] theorem moduleWrite_trust (a : Nat) (b : Bytes) (s : State) : (moduleWrite a b s).trust = s.trust := rfl
@[simp] theorem moduleWrite_net (a : Nat) (b : Bytes) (s : State) : (moduleWrite a b s).net = s.net := rfl
@[simp] theorem moduleWrite_out (a : Nat) (b : Bytes) (s : State) : (moduleWrite a b s).out = s.out := rfl
@[simp] theorem moduleWrite_free (a : Nat) (b : Bytes) (s : State) : (moduleWrite a b s).free = s.free := rfl

@[simp] theorem setPlan_pending (k : Nat) (p : Option Plan) (s : State) : (setPlan k p s).pending = s.pending := rfl
@[simp] theorem setPlan_phys (k : Nat) (p : Option Plan) (s : State) : (setPlan k p s).phys = s.phys := rfl
@[simp] theorem setPlan_bar (k : Nat) (p : Option Plan) (s : State) : (setPlan k p s).bar = s.bar := rfl
@[simp] theorem setPlan_host (k : Nat) (p : Option Plan) (s : State) : (setPlan k p s).host = s.host := rfl
@[simp] theorem setPlan_ev (k : Nat) (p : Option Plan) (s : State) : (setPlan k p s).ev = s.ev := rfl
@[simp] theorem setPlan_spin (k : Nat) (p : Option Plan) (s : State) : (setPlan k p s).spin = s.spin := rfl
@[simp] theorem setPlan_stores (k : Nat) (p : Option Plan) (s : State) : (setPlan k p s).stores = s.stores := rfl
@[simp] theorem setPlan_mem (k : Nat) (p : Option Plan) (s : State) : (setPlan k p s).mem = s.mem := rfl
@[simp] theorem setPlan_arr (k : Nat) (p : Option Plan) (s : State) : (setPlan k p s).arr = s.arr := rfl
@[simp] theorem setPlan_conv (k : Nat) (p : Option Plan) (s : State) : (setPlan k p s).conv = s.conv := rfl
@[simp] theorem setPlan_cal (k : Nat) (p : Option Plan) (s : State) : (setPlan k p s).cal = s.cal := rfl
@[simp] theorem setPlan_model (k : Nat) (p : Option Plan) (s : State) : (setPlan k p s).model = s.model := rfl
@[simp] theorem setPlan_integ (k : Nat) (p : Option Plan) (s : State) : (setPlan k p s).integ = s.integ := rfl
@[simp] theorem setPlan_serve (k : Nat) (p : Option Plan) (s : State) : (setPlan k p s).serve = s.serve := rfl
@[simp] theorem setPlan_trust (k : Nat) (p : Option Plan) (s : State) : (setPlan k p s).trust = s.trust := rfl
@[simp] theorem setPlan_net (k : Nat) (p : Option Plan) (s : State) : (setPlan k p s).net = s.net := rfl
@[simp] theorem setPlan_out (k : Nat) (p : Option Plan) (s : State) : (setPlan k p s).out = s.out := rfl
@[simp] theorem setPlan_free (k : Nat) (p : Option Plan) (s : State) : (setPlan k p s).free = s.free := rfl

@[simp] theorem setPart_pending (k : Nat) (p : Option Part) (s : State) : (setPart k p s).pending = s.pending := rfl
@[simp] theorem setPart_phys (k : Nat) (p : Option Part) (s : State) : (setPart k p s).phys = s.phys := rfl
@[simp] theorem setPart_bar (k : Nat) (p : Option Part) (s : State) : (setPart k p s).bar = s.bar := rfl
@[simp] theorem setPart_host (k : Nat) (p : Option Part) (s : State) : (setPart k p s).host = s.host := rfl
@[simp] theorem setPart_ev (k : Nat) (p : Option Part) (s : State) : (setPart k p s).ev = s.ev := rfl
@[simp] theorem setPart_spin (k : Nat) (p : Option Part) (s : State) : (setPart k p s).spin = s.spin := rfl
@[simp] theorem setPart_stores (k : Nat) (p : Option Part) (s : State) : (setPart k p s).stores = s.stores := rfl
@[simp] theorem setPart_mem (k : Nat) (p : Option Part) (s : State) : (setPart k p s).mem = s.mem := rfl
@[simp] theorem setPart_arr (k : Nat) (p : Option Part) (s : State) : (setPart k p s).arr = s.arr := rfl
@[simp] theorem setPart_conv (k : Nat) (p : Option Part) (s : State) : (setPart k p s).conv = s.conv := rfl
@[simp] theorem setPart_cal (k : Nat) (p : Option Part) (s : State) : (setPart k p s).cal = s.cal := rfl
@[simp] theorem setPart_model (k : Nat) (p : Option Part) (s : State) : (setPart k p s).model = s.model := rfl
@[simp] theorem setPart_integ (k : Nat) (p : Option Part) (s : State) : (setPart k p s).integ = s.integ := rfl
@[simp] theorem setPart_serve (k : Nat) (p : Option Part) (s : State) : (setPart k p s).serve = s.serve := rfl
@[simp] theorem setPart_trust (k : Nat) (p : Option Part) (s : State) : (setPart k p s).trust = s.trust := rfl
@[simp] theorem setPart_net (k : Nat) (p : Option Part) (s : State) : (setPart k p s).net = s.net := rfl
@[simp] theorem setPart_out (k : Nat) (p : Option Part) (s : State) : (setPart k p s).out = s.out := rfl
@[simp] theorem setPart_free (k : Nat) (p : Option Part) (s : State) : (setPart k p s).free = s.free := rfl

@[simp] theorem setFly_pending (k : Nat) (p : Option Fly) (s : State) : (setFly k p s).pending = s.pending := rfl
@[simp] theorem setFly_phys (k : Nat) (p : Option Fly) (s : State) : (setFly k p s).phys = s.phys := rfl
@[simp] theorem setFly_bar (k : Nat) (p : Option Fly) (s : State) : (setFly k p s).bar = s.bar := rfl
@[simp] theorem setFly_host (k : Nat) (p : Option Fly) (s : State) : (setFly k p s).host = s.host := rfl
@[simp] theorem setFly_ev (k : Nat) (p : Option Fly) (s : State) : (setFly k p s).ev = s.ev := rfl
@[simp] theorem setFly_spin (k : Nat) (p : Option Fly) (s : State) : (setFly k p s).spin = s.spin := rfl
@[simp] theorem setFly_stores (k : Nat) (p : Option Fly) (s : State) : (setFly k p s).stores = s.stores := rfl
@[simp] theorem setFly_mem (k : Nat) (p : Option Fly) (s : State) : (setFly k p s).mem = s.mem := rfl
@[simp] theorem setFly_arr (k : Nat) (p : Option Fly) (s : State) : (setFly k p s).arr = s.arr := rfl
@[simp] theorem setFly_conv (k : Nat) (p : Option Fly) (s : State) : (setFly k p s).conv = s.conv := rfl
@[simp] theorem setFly_cal (k : Nat) (p : Option Fly) (s : State) : (setFly k p s).cal = s.cal := rfl
@[simp] theorem setFly_model (k : Nat) (p : Option Fly) (s : State) : (setFly k p s).model = s.model := rfl
@[simp] theorem setFly_integ (k : Nat) (p : Option Fly) (s : State) : (setFly k p s).integ = s.integ := rfl
@[simp] theorem setFly_serve (k : Nat) (p : Option Fly) (s : State) : (setFly k p s).serve = s.serve := rfl
@[simp] theorem setFly_trust (k : Nat) (p : Option Fly) (s : State) : (setFly k p s).trust = s.trust := rfl
@[simp] theorem setFly_net (k : Nat) (p : Option Fly) (s : State) : (setFly k p s).net = s.net := rfl
@[simp] theorem setFly_out (k : Nat) (p : Option Fly) (s : State) : (setFly k p s).out = s.out := rfl
@[simp] theorem setFly_free (k : Nat) (p : Option Fly) (s : State) : (setFly k p s).free = s.free := rfl

@[simp] theorem setConn_pending (k : Nat) (c : Conn) (s : State) : (setConn k c s).pending = s.pending := rfl
@[simp] theorem setConn_phys (k : Nat) (c : Conn) (s : State) : (setConn k c s).phys = s.phys := rfl
@[simp] theorem setConn_bar (k : Nat) (c : Conn) (s : State) : (setConn k c s).bar = s.bar := rfl
@[simp] theorem setConn_host (k : Nat) (c : Conn) (s : State) : (setConn k c s).host = s.host := rfl
@[simp] theorem setConn_ev (k : Nat) (c : Conn) (s : State) : (setConn k c s).ev = s.ev := rfl
@[simp] theorem setConn_spin (k : Nat) (c : Conn) (s : State) : (setConn k c s).spin = s.spin := rfl
@[simp] theorem setConn_stores (k : Nat) (c : Conn) (s : State) : (setConn k c s).stores = s.stores := rfl
@[simp] theorem setConn_mem (k : Nat) (c : Conn) (s : State) : (setConn k c s).mem = s.mem := rfl
@[simp] theorem setConn_arr (k : Nat) (c : Conn) (s : State) : (setConn k c s).arr = s.arr := rfl
@[simp] theorem setConn_conv (k : Nat) (c : Conn) (s : State) : (setConn k c s).conv = s.conv := rfl
@[simp] theorem setConn_plans (k : Nat) (c : Conn) (s : State) : (setConn k c s).plans = s.plans := rfl
@[simp] theorem setConn_cal (k : Nat) (c : Conn) (s : State) : (setConn k c s).cal = s.cal := rfl
@[simp] theorem setConn_model (k : Nat) (c : Conn) (s : State) : (setConn k c s).model = s.model := rfl
@[simp] theorem setConn_integ (k : Nat) (c : Conn) (s : State) : (setConn k c s).integ = s.integ := rfl
@[simp] theorem setConn_serve (k : Nat) (c : Conn) (s : State) : (setConn k c s).serve = s.serve := rfl
@[simp] theorem setConn_trust (k : Nat) (c : Conn) (s : State) : (setConn k c s).trust = s.trust := rfl
@[simp] theorem setConn_out (k : Nat) (c : Conn) (s : State) : (setConn k c s).out = s.out := rfl
@[simp] theorem setConn_free (k : Nat) (c : Conn) (s : State) : (setConn k c s).free = s.free := rfl

@[simp] theorem queueFrame_pending (w : Waiting) (s : State) : (queueFrame w s).pending = s.pending := rfl
@[simp] theorem queueFrame_phys (w : Waiting) (s : State) : (queueFrame w s).phys = s.phys := rfl
@[simp] theorem queueFrame_bar (w : Waiting) (s : State) : (queueFrame w s).bar = s.bar := rfl
@[simp] theorem queueFrame_host (w : Waiting) (s : State) : (queueFrame w s).host = s.host := rfl
@[simp] theorem queueFrame_ev (w : Waiting) (s : State) : (queueFrame w s).ev = s.ev := rfl
@[simp] theorem queueFrame_spin (w : Waiting) (s : State) : (queueFrame w s).spin = s.spin := rfl
@[simp] theorem queueFrame_stores (w : Waiting) (s : State) : (queueFrame w s).stores = s.stores := rfl
@[simp] theorem queueFrame_mem (w : Waiting) (s : State) : (queueFrame w s).mem = s.mem := rfl
@[simp] theorem queueFrame_arr (w : Waiting) (s : State) : (queueFrame w s).arr = s.arr := rfl
@[simp] theorem queueFrame_conv (w : Waiting) (s : State) : (queueFrame w s).conv = s.conv := rfl
@[simp] theorem queueFrame_plans (w : Waiting) (s : State) : (queueFrame w s).plans = s.plans := rfl
@[simp] theorem queueFrame_cal (w : Waiting) (s : State) : (queueFrame w s).cal = s.cal := rfl
@[simp] theorem queueFrame_model (w : Waiting) (s : State) : (queueFrame w s).model = s.model := rfl
@[simp] theorem queueFrame_integ (w : Waiting) (s : State) : (queueFrame w s).integ = s.integ := rfl
@[simp] theorem queueFrame_serve (w : Waiting) (s : State) : (queueFrame w s).serve = s.serve := rfl
@[simp] theorem queueFrame_trust (w : Waiting) (s : State) : (queueFrame w s).trust = s.trust := rfl
@[simp] theorem queueFrame_out (w : Waiting) (s : State) : (queueFrame w s).out = s.out := rfl
@[simp] theorem queueFrame_free (w : Waiting) (s : State) : (queueFrame w s).free = s.free := rfl

@[simp] theorem setMon_pending (mon : Nat) (m : Mon) (s : State) : (setMon mon m s).pending = s.pending := rfl
@[simp] theorem setMon_phys (mon : Nat) (m : Mon) (s : State) : (setMon mon m s).phys = s.phys := rfl
@[simp] theorem setMon_bar (mon : Nat) (m : Mon) (s : State) : (setMon mon m s).bar = s.bar := rfl
@[simp] theorem setMon_host (mon : Nat) (m : Mon) (s : State) : (setMon mon m s).host = s.host := rfl
@[simp] theorem setMon_ev (mon : Nat) (m : Mon) (s : State) : (setMon mon m s).ev = s.ev := rfl
@[simp] theorem setMon_spin (mon : Nat) (m : Mon) (s : State) : (setMon mon m s).spin = s.spin := rfl
@[simp] theorem setMon_stores (mon : Nat) (m : Mon) (s : State) : (setMon mon m s).stores = s.stores := rfl
@[simp] theorem setMon_mem (mon : Nat) (m : Mon) (s : State) : (setMon mon m s).mem = s.mem := rfl
@[simp] theorem setMon_arr (mon : Nat) (m : Mon) (s : State) : (setMon mon m s).arr = s.arr := rfl
@[simp] theorem setMon_plans (mon : Nat) (m : Mon) (s : State) : (setMon mon m s).plans = s.plans := rfl
@[simp] theorem setMon_cal (mon : Nat) (m : Mon) (s : State) : (setMon mon m s).cal = s.cal := rfl
@[simp] theorem setMon_model (mon : Nat) (m : Mon) (s : State) : (setMon mon m s).model = s.model := rfl
@[simp] theorem setMon_integ (mon : Nat) (m : Mon) (s : State) : (setMon mon m s).integ = s.integ := rfl
@[simp] theorem setMon_serve (mon : Nat) (m : Mon) (s : State) : (setMon mon m s).serve = s.serve := rfl
@[simp] theorem setMon_trust (mon : Nat) (m : Mon) (s : State) : (setMon mon m s).trust = s.trust := rfl
@[simp] theorem setMon_net (mon : Nat) (m : Mon) (s : State) : (setMon mon m s).net = s.net := rfl
@[simp] theorem setMon_out (mon : Nat) (m : Mon) (s : State) : (setMon mon m s).out = s.out := rfl
@[simp] theorem setMon_free (mon : Nat) (m : Mon) (s : State) : (setMon mon m s).free = s.free := rfl

@[simp] theorem setCore_pending (c v : Nat) (s : State) : (setCore c v s).pending = s.pending := rfl
@[simp] theorem setCore_phys (c v : Nat) (s : State) : (setCore c v s).phys = s.phys := rfl
@[simp] theorem setCore_bar (c v : Nat) (s : State) : (setCore c v s).bar = s.bar := rfl
@[simp] theorem setCore_host (c v : Nat) (s : State) : (setCore c v s).host = s.host := rfl
@[simp] theorem setCore_ev (c v : Nat) (s : State) : (setCore c v s).ev = s.ev := rfl
@[simp] theorem setCore_spin (c v : Nat) (s : State) : (setCore c v s).spin = s.spin := rfl
@[simp] theorem setCore_stores (c v : Nat) (s : State) : (setCore c v s).stores = s.stores := rfl
@[simp] theorem setCore_mem (c v : Nat) (s : State) : (setCore c v s).mem = s.mem := rfl
@[simp] theorem setCore_conv (c v : Nat) (s : State) : (setCore c v s).conv = s.conv := rfl
@[simp] theorem setCore_plans (c v : Nat) (s : State) : (setCore c v s).plans = s.plans := rfl
@[simp] theorem setCore_cal (c v : Nat) (s : State) : (setCore c v s).cal = s.cal := rfl
@[simp] theorem setCore_model (c v : Nat) (s : State) : (setCore c v s).model = s.model := rfl
@[simp] theorem setCore_arr (c v : Nat) (s : State) : (setCore c v s).arr = s.arr := rfl
@[simp] theorem setCore_serve (c v : Nat) (s : State) : (setCore c v s).serve = s.serve := rfl
@[simp] theorem setCore_trust (c v : Nat) (s : State) : (setCore c v s).trust = s.trust := rfl
@[simp] theorem setCore_net (c v : Nat) (s : State) : (setCore c v s).net = s.net := rfl
@[simp] theorem setCore_out (c v : Nat) (s : State) : (setCore c v s).out = s.out := rfl
@[simp] theorem setCore_free (c v : Nat) (s : State) : (setCore c v s).free = s.free := rfl

@[simp] theorem setDir_pending (k : Nat) (d : Option DirEntry) (s : State) : (setDir k d s).pending = s.pending := rfl
@[simp] theorem setDir_phys (k : Nat) (d : Option DirEntry) (s : State) : (setDir k d s).phys = s.phys := rfl
@[simp] theorem setDir_bar (k : Nat) (d : Option DirEntry) (s : State) : (setDir k d s).bar = s.bar := rfl
@[simp] theorem setDir_host (k : Nat) (d : Option DirEntry) (s : State) : (setDir k d s).host = s.host := rfl
@[simp] theorem setDir_ev (k : Nat) (d : Option DirEntry) (s : State) : (setDir k d s).ev = s.ev := rfl
@[simp] theorem setDir_spin (k : Nat) (d : Option DirEntry) (s : State) : (setDir k d s).spin = s.spin := rfl
@[simp] theorem setDir_stores (k : Nat) (d : Option DirEntry) (s : State) : (setDir k d s).stores = s.stores := rfl
@[simp] theorem setDir_mem (k : Nat) (d : Option DirEntry) (s : State) : (setDir k d s).mem = s.mem := rfl
@[simp] theorem setDir_arr (k : Nat) (d : Option DirEntry) (s : State) : (setDir k d s).arr = s.arr := rfl
@[simp] theorem setDir_conv (k : Nat) (d : Option DirEntry) (s : State) : (setDir k d s).conv = s.conv := rfl
@[simp] theorem setDir_plans (k : Nat) (d : Option DirEntry) (s : State) : (setDir k d s).plans = s.plans := rfl
@[simp] theorem setDir_cal (k : Nat) (d : Option DirEntry) (s : State) : (setDir k d s).cal = s.cal := rfl
@[simp] theorem setDir_integ (k : Nat) (d : Option DirEntry) (s : State) : (setDir k d s).integ = s.integ := rfl
@[simp] theorem setDir_serve (k : Nat) (d : Option DirEntry) (s : State) : (setDir k d s).serve = s.serve := rfl
@[simp] theorem setDir_trust (k : Nat) (d : Option DirEntry) (s : State) : (setDir k d s).trust = s.trust := rfl
@[simp] theorem setDir_net (k : Nat) (d : Option DirEntry) (s : State) : (setDir k d s).net = s.net := rfl
@[simp] theorem setDir_out (k : Nat) (d : Option DirEntry) (s : State) : (setDir k d s).out = s.out := rfl
@[simp] theorem setDir_free (k : Nat) (d : Option DirEntry) (s : State) : (setDir k d s).free = s.free := rfl

@[simp] theorem setCtx_pending (k : Nat) (c : Option Ctx) (s : State) : (setCtx k c s).pending = s.pending := rfl
@[simp] theorem setCtx_phys (k : Nat) (c : Option Ctx) (s : State) : (setCtx k c s).phys = s.phys := rfl
@[simp] theorem setCtx_bar (k : Nat) (c : Option Ctx) (s : State) : (setCtx k c s).bar = s.bar := rfl
@[simp] theorem setCtx_host (k : Nat) (c : Option Ctx) (s : State) : (setCtx k c s).host = s.host := rfl
@[simp] theorem setCtx_ev (k : Nat) (c : Option Ctx) (s : State) : (setCtx k c s).ev = s.ev := rfl
@[simp] theorem setCtx_spin (k : Nat) (c : Option Ctx) (s : State) : (setCtx k c s).spin = s.spin := rfl
@[simp] theorem setCtx_stores (k : Nat) (c : Option Ctx) (s : State) : (setCtx k c s).stores = s.stores := rfl
@[simp] theorem setCtx_mem (k : Nat) (c : Option Ctx) (s : State) : (setCtx k c s).mem = s.mem := rfl
@[simp] theorem setCtx_arr (k : Nat) (c : Option Ctx) (s : State) : (setCtx k c s).arr = s.arr := rfl
@[simp] theorem setCtx_conv (k : Nat) (c : Option Ctx) (s : State) : (setCtx k c s).conv = s.conv := rfl
@[simp] theorem setCtx_plans (k : Nat) (c : Option Ctx) (s : State) : (setCtx k c s).plans = s.plans := rfl
@[simp] theorem setCtx_cal (k : Nat) (c : Option Ctx) (s : State) : (setCtx k c s).cal = s.cal := rfl
@[simp] theorem setCtx_model (k : Nat) (c : Option Ctx) (s : State) : (setCtx k c s).model = s.model := rfl
@[simp] theorem setCtx_integ (k : Nat) (c : Option Ctx) (s : State) : (setCtx k c s).integ = s.integ := rfl
@[simp] theorem setCtx_trust (k : Nat) (c : Option Ctx) (s : State) : (setCtx k c s).trust = s.trust := rfl
@[simp] theorem setCtx_net (k : Nat) (c : Option Ctx) (s : State) : (setCtx k c s).net = s.net := rfl
@[simp] theorem setCtx_out (k : Nat) (c : Option Ctx) (s : State) : (setCtx k c s).out = s.out := rfl
@[simp] theorem setCtx_free (k : Nat) (c : Option Ctx) (s : State) : (setCtx k c s).free = s.free := rfl

@[simp] theorem setSession_pending (k : Nat) (x : Option Session) (s : State) : (setSession k x s).pending = s.pending := rfl
@[simp] theorem setSession_phys (k : Nat) (x : Option Session) (s : State) : (setSession k x s).phys = s.phys := rfl
@[simp] theorem setSession_bar (k : Nat) (x : Option Session) (s : State) : (setSession k x s).bar = s.bar := rfl
@[simp] theorem setSession_host (k : Nat) (x : Option Session) (s : State) : (setSession k x s).host = s.host := rfl
@[simp] theorem setSession_ev (k : Nat) (x : Option Session) (s : State) : (setSession k x s).ev = s.ev := rfl
@[simp] theorem setSession_spin (k : Nat) (x : Option Session) (s : State) : (setSession k x s).spin = s.spin := rfl
@[simp] theorem setSession_stores (k : Nat) (x : Option Session) (s : State) : (setSession k x s).stores = s.stores := rfl
@[simp] theorem setSession_mem (k : Nat) (x : Option Session) (s : State) : (setSession k x s).mem = s.mem := rfl
@[simp] theorem setSession_arr (k : Nat) (x : Option Session) (s : State) : (setSession k x s).arr = s.arr := rfl
@[simp] theorem setSession_conv (k : Nat) (x : Option Session) (s : State) : (setSession k x s).conv = s.conv := rfl
@[simp] theorem setSession_plans (k : Nat) (x : Option Session) (s : State) : (setSession k x s).plans = s.plans := rfl
@[simp] theorem setSession_cal (k : Nat) (x : Option Session) (s : State) : (setSession k x s).cal = s.cal := rfl
@[simp] theorem setSession_model (k : Nat) (x : Option Session) (s : State) : (setSession k x s).model = s.model := rfl
@[simp] theorem setSession_integ (k : Nat) (x : Option Session) (s : State) : (setSession k x s).integ = s.integ := rfl
@[simp] theorem setSession_trust (k : Nat) (x : Option Session) (s : State) : (setSession k x s).trust = s.trust := rfl
@[simp] theorem setSession_net (k : Nat) (x : Option Session) (s : State) : (setSession k x s).net = s.net := rfl
@[simp] theorem setSession_out (k : Nat) (x : Option Session) (s : State) : (setSession k x s).out = s.out := rfl
@[simp] theorem setSession_free (k : Nat) (x : Option Session) (s : State) : (setSession k x s).free = s.free := rfl

@[simp] theorem setReplay_pending (n : Nat) (r : Replay) (s : State) : (setReplay n r s).pending = s.pending := rfl
@[simp] theorem setReplay_phys (n : Nat) (r : Replay) (s : State) : (setReplay n r s).phys = s.phys := rfl
@[simp] theorem setReplay_bar (n : Nat) (r : Replay) (s : State) : (setReplay n r s).bar = s.bar := rfl
@[simp] theorem setReplay_host (n : Nat) (r : Replay) (s : State) : (setReplay n r s).host = s.host := rfl
@[simp] theorem setReplay_ev (n : Nat) (r : Replay) (s : State) : (setReplay n r s).ev = s.ev := rfl
@[simp] theorem setReplay_spin (n : Nat) (r : Replay) (s : State) : (setReplay n r s).spin = s.spin := rfl
@[simp] theorem setReplay_stores (n : Nat) (r : Replay) (s : State) : (setReplay n r s).stores = s.stores := rfl
@[simp] theorem setReplay_mem (n : Nat) (r : Replay) (s : State) : (setReplay n r s).mem = s.mem := rfl
@[simp] theorem setReplay_arr (n : Nat) (r : Replay) (s : State) : (setReplay n r s).arr = s.arr := rfl
@[simp] theorem setReplay_conv (n : Nat) (r : Replay) (s : State) : (setReplay n r s).conv = s.conv := rfl
@[simp] theorem setReplay_plans (n : Nat) (r : Replay) (s : State) : (setReplay n r s).plans = s.plans := rfl
@[simp] theorem setReplay_cal (n : Nat) (r : Replay) (s : State) : (setReplay n r s).cal = s.cal := rfl
@[simp] theorem setReplay_model (n : Nat) (r : Replay) (s : State) : (setReplay n r s).model = s.model := rfl
@[simp] theorem setReplay_integ (n : Nat) (r : Replay) (s : State) : (setReplay n r s).integ = s.integ := rfl
@[simp] theorem setReplay_trust (n : Nat) (r : Replay) (s : State) : (setReplay n r s).trust = s.trust := rfl
@[simp] theorem setReplay_net (n : Nat) (r : Replay) (s : State) : (setReplay n r s).net = s.net := rfl
@[simp] theorem setReplay_out (n : Nat) (r : Replay) (s : State) : (setReplay n r s).out = s.out := rfl
@[simp] theorem setReplay_free (n : Nat) (r : Replay) (s : State) : (setReplay n r s).free = s.free := rfl

@[simp] theorem setService_pending (st : Nat) (q : List Request) (s : State) : (setService st q s).pending = s.pending := rfl
@[simp] theorem setService_phys (st : Nat) (q : List Request) (s : State) : (setService st q s).phys = s.phys := rfl
@[simp] theorem setService_bar (st : Nat) (q : List Request) (s : State) : (setService st q s).bar = s.bar := rfl
@[simp] theorem setService_host (st : Nat) (q : List Request) (s : State) : (setService st q s).host = s.host := rfl
@[simp] theorem setService_ev (st : Nat) (q : List Request) (s : State) : (setService st q s).ev = s.ev := rfl
@[simp] theorem setService_spin (st : Nat) (q : List Request) (s : State) : (setService st q s).spin = s.spin := rfl
@[simp] theorem setService_stores (st : Nat) (q : List Request) (s : State) : (setService st q s).stores = s.stores := rfl
@[simp] theorem setService_mem (st : Nat) (q : List Request) (s : State) : (setService st q s).mem = s.mem := rfl
@[simp] theorem setService_arr (st : Nat) (q : List Request) (s : State) : (setService st q s).arr = s.arr := rfl
@[simp] theorem setService_conv (st : Nat) (q : List Request) (s : State) : (setService st q s).conv = s.conv := rfl
@[simp] theorem setService_cal (st : Nat) (q : List Request) (s : State) : (setService st q s).cal = s.cal := rfl
@[simp] theorem setService_model (st : Nat) (q : List Request) (s : State) : (setService st q s).model = s.model := rfl
@[simp] theorem setService_integ (st : Nat) (q : List Request) (s : State) : (setService st q s).integ = s.integ := rfl
@[simp] theorem setService_serve (st : Nat) (q : List Request) (s : State) : (setService st q s).serve = s.serve := rfl
@[simp] theorem setService_trust (st : Nat) (q : List Request) (s : State) : (setService st q s).trust = s.trust := rfl
@[simp] theorem setService_net (st : Nat) (q : List Request) (s : State) : (setService st q s).net = s.net := rfl
@[simp] theorem setService_out (st : Nat) (q : List Request) (s : State) : (setService st q s).out = s.out := rfl
@[simp] theorem setService_free (st : Nat) (q : List Request) (s : State) : (setService st q s).free = s.free := rfl

@[simp] theorem setOutq_pending (k : Nat) (q : Outq) (s : State) : (setOutq k q s).pending = s.pending := rfl
@[simp] theorem setOutq_phys (k : Nat) (q : Outq) (s : State) : (setOutq k q s).phys = s.phys := rfl
@[simp] theorem setOutq_bar (k : Nat) (q : Outq) (s : State) : (setOutq k q s).bar = s.bar := rfl
@[simp] theorem setOutq_ev (k : Nat) (q : Outq) (s : State) : (setOutq k q s).ev = s.ev := rfl
@[simp] theorem setOutq_spin (k : Nat) (q : Outq) (s : State) : (setOutq k q s).spin = s.spin := rfl
@[simp] theorem setOutq_stores (k : Nat) (q : Outq) (s : State) : (setOutq k q s).stores = s.stores := rfl
@[simp] theorem setOutq_mem (k : Nat) (q : Outq) (s : State) : (setOutq k q s).mem = s.mem := rfl
@[simp] theorem setOutq_arr (k : Nat) (q : Outq) (s : State) : (setOutq k q s).arr = s.arr := rfl
@[simp] theorem setOutq_conv (k : Nat) (q : Outq) (s : State) : (setOutq k q s).conv = s.conv := rfl
@[simp] theorem setOutq_plans (k : Nat) (q : Outq) (s : State) : (setOutq k q s).plans = s.plans := rfl
@[simp] theorem setOutq_cal (k : Nat) (q : Outq) (s : State) : (setOutq k q s).cal = s.cal := rfl
@[simp] theorem setOutq_model (k : Nat) (q : Outq) (s : State) : (setOutq k q s).model = s.model := rfl
@[simp] theorem setOutq_integ (k : Nat) (q : Outq) (s : State) : (setOutq k q s).integ = s.integ := rfl
@[simp] theorem setOutq_serve (k : Nat) (q : Outq) (s : State) : (setOutq k q s).serve = s.serve := rfl
@[simp] theorem setOutq_trust (k : Nat) (q : Outq) (s : State) : (setOutq k q s).trust = s.trust := rfl
@[simp] theorem setOutq_net (k : Nat) (q : Outq) (s : State) : (setOutq k q s).net = s.net := rfl
@[simp] theorem setOutq_out (k : Nat) (q : Outq) (s : State) : (setOutq k q s).out = s.out := rfl
@[simp] theorem setOutq_free (k : Nat) (q : Outq) (s : State) : (setOutq k q s).free = s.free := rfl

@[simp] theorem State.push_phys (c : Instr) (s : State) : (s.push c).phys = s.phys := rfl
@[simp] theorem State.push_bar (c : Instr) (s : State) : (s.push c).bar = s.bar := rfl
@[simp] theorem State.push_host (c : Instr) (s : State) : (s.push c).host = s.host := rfl
@[simp] theorem State.push_ev (c : Instr) (s : State) : (s.push c).ev = s.ev := rfl
@[simp] theorem State.push_spin (c : Instr) (s : State) : (s.push c).spin = s.spin := rfl
@[simp] theorem State.push_stores (c : Instr) (s : State) : (s.push c).stores = s.stores := rfl
@[simp] theorem State.push_mem (c : Instr) (s : State) : (s.push c).mem = s.mem := rfl
@[simp] theorem State.push_arr (c : Instr) (s : State) : (s.push c).arr = s.arr := rfl
@[simp] theorem State.push_conv (c : Instr) (s : State) : (s.push c).conv = s.conv := rfl
@[simp] theorem State.push_plans (c : Instr) (s : State) : (s.push c).plans = s.plans := rfl
@[simp] theorem State.push_cal (c : Instr) (s : State) : (s.push c).cal = s.cal := rfl
@[simp] theorem State.push_model (c : Instr) (s : State) : (s.push c).model = s.model := rfl
@[simp] theorem State.push_integ (c : Instr) (s : State) : (s.push c).integ = s.integ := rfl
@[simp] theorem State.push_serve (c : Instr) (s : State) : (s.push c).serve = s.serve := rfl
@[simp] theorem State.push_trust (c : Instr) (s : State) : (s.push c).trust = s.trust := rfl
@[simp] theorem State.push_net (c : Instr) (s : State) : (s.push c).net = s.net := rfl
@[simp] theorem State.push_out (c : Instr) (s : State) : (s.push c).out = s.out := rfl
@[simp] theorem State.push_free (c : Instr) (s : State) : (s.push c).free = s.free := rfl
@[simp] theorem State.push_pending (c : Instr) (s : State) : (s.push c).pending = c :: s.pending := rfl

/-! ### What the updates write -/

@[simp] theorem setPlan_loaded (k : Nat) (p : Option Plan) (s : State) : (setPlan k p s).plans.loaded = tset none s.plans.loaded k p := rfl
@[simp] theorem setPart_parts (k : Nat) (p : Option Part) (s : State) : (setPart k p s).plans.parts = tset none s.plans.parts k p := rfl
@[simp] theorem setFly_flies (k : Nat) (p : Option Fly) (s : State) : (setFly k p s).plans.flies = tset none s.plans.flies k p := rfl
@[simp] theorem setConn_conns (k : Nat) (c : Conn) (s : State) : (setConn k c s).net.conns =
    tset none s.net.conns k (if c = .blank then none else some c) := rfl
@[simp] theorem setMon_mons (k : Nat) (m : Mon) (s : State) : (setMon k m s).conv.mons = tset none s.conv.mons k (some m) := rfl
@[simp] theorem queueFrame_queue (w : Waiting) (s : State) : (queueFrame w s).net.queue = s.net.queue ++ [w] := rfl
@[simp] theorem putWords_full (ws : List (Nat × Bytes)) (s : State) : (putWords ws s).stores.full = s.stores.full := rfl
@[simp] theorem fillWords_bytes (gs : List Nat) (s : State) : (fillWords gs s).stores.mem = s.stores.mem := rfl
@[simp] theorem emptyWords_bytes (gs : List Nat) (s : State) : (emptyWords gs s).stores.mem = s.stores.mem := rfl
@[simp] theorem drainWords_bytes (gs : List Nat) (s : State) : (drainWords gs s).stores.mem = s.stores.mem := rfl
@[simp] theorem drainWords_full (gs : List Nat) (s : State) : (drainWords gs s).stores.full = s.stores.full := rfl

/-- A connection reads as it was replaced. -/
theorem connAt_setConn_self (k : Nat) (c : Conn) (s : State) : connAt (setConn k c s) k = c := by
  simp only [connAt, setConn_conns, tget_tset_self]
  split <;> simp_all

/-- The other connections read as before. -/
theorem connAt_setConn_of_ne {k i : Nat} (h : i ≠ k) (c : Conn) (s : State) : connAt (setConn k c s) i = connAt s i := by
  simp only [connAt, setConn_conns, tget_tset_of_ne h]

/-! ### Reset -/

/-- The memories after reset have the canonical form. -/
theorem reset_memOk : State.reset.memOk = true := rfl

end Sys2Proof.Machine
end

