-- ==== Sys2Proof/Laws/Post.lean ====
section
/-!
SUPPORT. What posting an event can do: it numbers and delivers records, and leaves the machine proper alone.
-/

namespace Sys2Proof.Machine

/-- Only queues, flags, records and what leaves the module differ: what posting an event may change. -/
structure Posted (s t : State) : Prop where
  pending : t.pending = s.pending
  phys : t.phys = s.phys
  spin : t.spin = s.spin
  stores : t.stores = s.stores
  mem : t.mem = s.mem
  arr : t.arr = s.arr
  conv : t.conv = s.conv
  plans : t.plans = s.plans
  cal : t.cal = s.cal
  model : t.model = s.model
  integ : t.integ = s.integ
  serve : t.serve = s.serve
  trust : t.trust = s.trust
  net : t.net = s.net
  free : t.free = s.free

theorem Posted.refl (s : State) : Posted s s := by constructor <;> rfl

theorem Posted.trans {s t u : State} (h : Posted s t) (k : Posted t u) : Posted s u := by
  constructor
  · exact k.pending.trans h.pending
  · exact k.phys.trans h.phys
  · exact k.spin.trans h.spin
  · exact k.stores.trans h.stores
  · exact k.mem.trans h.mem
  · exact k.arr.trans h.arr
  · exact k.conv.trans h.conv
  · exact k.plans.trans h.plans
  · exact k.cal.trans h.cal
  · exact k.model.trans h.model
  · exact k.integ.trans h.integ
  · exact k.serve.trans h.serve
  · exact k.trust.trans h.trust
  · exact k.net.trans h.net
  · exact k.free.trans h.free

theorem Posted.foldl {α : Type} {f : State → α → State} (h : ∀ s x, Posted s (f s x)) (l : List α) (s : State) :
    Posted s (l.foldl f s) := by
  induction l generalizing s with
  | nil => exact .refl s
  | cons x l ih => exact (h s x).trans (ih _)

theorem setHostFlag_posted (k : Nat) (s : State) : Posted s (setHostFlag k s) := by constructor <;> rfl

theorem hostWrite_posted (fn addr : Nat) (b : Bytes) (s : State) : Posted s (hostWrite fn addr b s) := by
  unfold hostWrite; split <;> constructor <;> rfl

theorem evqPut_posted (q : Nat) (r : Bytes) (s : State) : Posted s (evqPut q r s) := by
  unfold evqPut
  split
  · exact .refl s
  · exact (hostWrite_posted _ _ _ s).trans (by constructor <;> rfl)

theorem evqDeliver_posted (q : Nat) (rs : List Bytes) (s : State) : Posted s (evqDeliver q rs s) := by
  unfold evqDeliver
  split
  · exact .refl s
  · split
    · exact setHostFlag_posted _ s
    · exact .foldl (fun s r => evqPut_posted q r s) rs s

theorem routeRecords_posted (cls : Nat) (rs : List Bytes) (s : State) : Posted s (routeRecords cls rs s) := by
  unfold routeRecords
  split
  · exact .foldl (fun s _ => setHostFlag_posted _ s) rs s
  · split
    · exact evqDeliver_posted _ rs s
    · constructor <;> rfl

theorem boxRecord_posted (r : Bytes) (s : State) : Posted s (boxRecord r s) := by
  unfold boxRecord; split <;> constructor <;> rfl

/-- Posting an event changes event records, queues, flags and what leaves the module, and nothing else. -/
theorem postEvent_posted (cls inst code sev : Nat) (pay : Bytes) (s : State) : Posted s (postEvent cls inst code sev pay s) := by
  unfold postEvent
  exact (Posted.trans (by constructor <;> rfl) (.foldl (fun s r => boxRecord_posted r s) _ _)).trans (routeRecords_posted _ _ _)

theorem postPlan_posted (pk code sev : Nat) (pay : Bytes) (s : State) : Posted s (postPlan pk code sev pay s) :=
  postEvent_posted _ _ _ _ _ s

@[simp] theorem postEvent_plans (cls inst code sev : Nat) (pay : Bytes) (s : State) : (postEvent cls inst code sev pay s).plans = s.plans :=
  (postEvent_posted ..).plans
@[simp] theorem postEvent_stores (cls inst code sev : Nat) (pay : Bytes) (s : State) :
    (postEvent cls inst code sev pay s).stores = s.stores := (postEvent_posted ..).stores
@[simp] theorem postEvent_spin (cls inst code sev : Nat) (pay : Bytes) (s : State) : (postEvent cls inst code sev pay s).spin = s.spin :=
  (postEvent_posted ..).spin
@[simp] theorem postEvent_serve (cls inst code sev : Nat) (pay : Bytes) (s : State) :
    (postEvent cls inst code sev pay s).serve = s.serve := (postEvent_posted ..).serve

/-- A plan-driven event once in a pass: besides what posting changes, only the partition's marks. -/
theorem postOncePerPass_frame (pk code sev sub : Nat) (pay : Bytes) (s : State) :
    Posted s (postOncePerPass pk code sev sub pay s) ∨ ∃ p, partAt s pk = some p ∧
      Posted (setPart pk (some { p with marks := p.marks ++ [(code, sub)] }) s) (postOncePerPass pk code sev sub pay s) := by
  unfold postOncePerPass
  split
  · exact .inl (.refl s)
  · rename_i p h
    split
    · exact .inl (.refl s)
    · exact .inr ⟨p, h, postPlan_posted _ _ _ _ _⟩

@[simp] theorem postOncePerPass_stores (pk code sev sub : Nat) (pay : Bytes) (s : State) :
    (postOncePerPass pk code sev sub pay s).stores = s.stores := by
  obtain h | ⟨p, -, h⟩ := postOncePerPass_frame pk code sev sub pay s <;> exact h.stores
@[simp] theorem postOncePerPass_flies (pk code sev sub : Nat) (pay : Bytes) (s : State) :
    (postOncePerPass pk code sev sub pay s).plans.flies = s.plans.flies := by
  obtain h | ⟨p, -, h⟩ := postOncePerPass_frame pk code sev sub pay s <;> rw [h.plans]; rfl
@[simp] theorem postOncePerPass_spin (pk code sev sub : Nat) (pay : Bytes) (s : State) :
    (postOncePerPass pk code sev sub pay s).spin = s.spin := by
  obtain h | ⟨p, -, h⟩ := postOncePerPass_frame pk code sev sub pay s <;> exact h.spin
@[simp] theorem postOncePerPass_serve (pk code sev sub : Nat) (pay : Bytes) (s : State) :
    (postOncePerPass pk code sev sub pay s).serve = s.serve := by
  obtain h | ⟨p, -, h⟩ := postOncePerPass_frame pk code sev sub pay s <;> exact h.serve
@[simp] theorem postOncePerPass_mem (pk code sev sub : Nat) (pay : Bytes) (s : State) :
    (postOncePerPass pk code sev sub pay s).mem = s.mem := by
  obtain h | ⟨p, -, h⟩ := postOncePerPass_frame pk code sev sub pay s <;> exact h.mem

end Sys2Proof.Machine
end

