-- ==== Sys2Proof/Laws/Issue.lean ====
section
/-!
SUPPORT. The issue of a plan operation: one that is due runs its issue index, a source that is full is read at once, and what
the events of an issue leave alone.
-/

namespace Sys2Proof.Machine

/-- An operation that is due takes the next number in flight and does what its issue index says. -/
theorem issue_due {code st : Nat} {op : PlanOp} {s : State} {pk : Nat} {p : Part} (h : Due code st op s pk p)
    (start : Nat → Fly → State → State) :
    issue code st op start s = start s.plans.nextFly (freshFly st op pk s) (taken st op pk p s) := by
  unfold issue
  rw [h.part]
  simp [h.code, h.due, taken, freshFly]

/-- A source whose words are full, or unguarded, is read at once; DRAIN_SRC empties it. -/
theorem withSource_full {id : Nat} {f : Fly} {ws : List Nat} {k : State → State} {s : State}
    (h : f.op.guard = true → ∀ w ∈ ws, fullAt s w = true) :
    withSource id f ws k s = k (if f.op.drain then drainWords ws s else s) := by
  unfold withSource
  rw [if_neg]
  simpa using h

/-- An operation does not wait for words that are full, or unguarded. -/
theorem mustWait_full {f : Fly} {ws : List Nat} {s : State} (h : f.op.guard = true → ∀ w ∈ ws, fullAt s w = true) :
    mustWait f s ws = false := by
  unfold mustWait
  cases hg : f.op.guard
  · rfl
  · simpa using h hg

/-- What an operation in flight is set to is what it is found as. -/
@[simp] theorem flyAt_setFly (id : Nat) (f : Option Fly) (s : State) : flyAt (setFly id f s) id = f := by
  simp [flyAt, tget_tset_self]

theorem flyAt_eq {s t : State} (h : s.plans.flies = t.plans.flies) (id : Nat) : flyAt s id = flyAt t id := by simp [flyAt, h]

@[simp] theorem readEvents_flies (f : Fly) (j : ReadJob) (s : State) : (readEvents f j s).plans.flies = s.plans.flies := by
  unfold readEvents
  extract_lets a b
  have ha : a.plans.flies = s.plans.flies := by unfold a; split <;> simp
  have hb : b.plans.flies = a.plans.flies := by unfold b; split <;> simp
  split <;> simp [ha, hb]
@[simp] theorem readEvents_stores (f : Fly) (j : ReadJob) (s : State) : (readEvents f j s).stores = s.stores := by
  unfold readEvents
  extract_lets a b
  have ha : a.stores = s.stores := by unfold a; split <;> simp
  have hb : b.stores = a.stores := by unfold b; split <;> simp
  split <;> simp [ha, hb]

@[simp] theorem noteReduce_flies (f : Fly) (sat : Option Nat) (n : Nat) (s : State) :
    (noteReduce f sat n s).plans.flies = s.plans.flies := by
  unfold noteReduce postUnit
  extract_lets a
  have ha : a.plans.flies = s.plans.flies := by unfold a; split <;> simp
  split <;> simp [ha]
@[simp] theorem noteReduce_stores (f : Fly) (sat : Option Nat) (n : Nat) (s : State) :
    (noteReduce f sat n s).stores = s.stores := by
  unfold noteReduce postUnit
  extract_lets a
  have ha : a.stores = s.stores := by unfold a; split <;> simp
  split <;> simp [ha]

@[simp] theorem noteOdd_flies (f : Fly) (odd : Bool) (s : State) : (noteOdd f odd s).plans.flies = s.plans.flies := by
  unfold noteOdd postUnit; split <;> simp
@[simp] theorem noteOdd_stores (f : Fly) (odd : Bool) (s : State) : (noteOdd f odd s).stores = s.stores := by
  unfold noteOdd postUnit; split <;> simp
@[simp] theorem noteOdd_serve (f : Fly) (odd : Bool) (s : State) : (noteOdd f odd s).serve = s.serve := by
  unfold noteOdd postUnit; split <;> simp

end Sys2Proof.Machine
end

