-- ==== Sys2Proof/Laws/Keeps.lean ====
section
/-!
SUPPORT. What the operations of the model keep: the registers of the power, boot and link unit, the
commands that wait, and the canonical form of every memory. Laws/Keeps1 and the files after it say it of one
operation after another, in the order of the model's files.
-/

namespace Sys2Proof.Machine

/-- From `o` to `t` the power, boot and link registers and the waiting commands stay, and memories stay canonical. -/
structure Keeps (o t : State) : Prop where
  phys : t.phys = o.phys
  pending : t.pending = o.pending
  memory : o.memOk = true → t.memOk = true

/-- What a command's effect keeps, whatever its status. -/
inductive RanKeeps (o : State) : Ran → Prop
  | ok {t : State} {r : Nat} (h : Keeps o t) : RanKeeps o (.ok t r)
  | err {f : Fail} {t : State} (h : Keeps o t) : RanKeeps o (.err f t)
  | later {t : State} (h : Keeps o t) : RanKeeps o (.later t)

/-- What a meaning keeps where it answers a next state. -/
def OutKeeps (o : State) : Host.Outcome State Fault Refusal → Prop
  | .next t => Keeps o t
  | _ => True

/-- What an operation that may answer no state keeps. -/
def OptKeeps (o : State) : Option State → Prop
  | some t => Keeps o t
  | none => True

theorem Keeps.refl (o : State) : Keeps o o := ⟨rfl, rfl, id⟩

theorem Keeps.trans {o s t : State} (h : Keeps o s) (k : Keeps s t) : Keeps o t :=
  ⟨k.phys.trans h.phys, k.pending.trans h.pending, fun m => k.memory (h.memory m)⟩

theorem keeps_with {o x : State} {G : Prop} (h : Keeps o x) (k : Keeps o x → G) : G := k h

theorem keeps_fun {o : State} {f : State → State} {G : Prop} (h : ∀ t, Keeps o t → Keeps o (f t))
    (k : (∀ t, Keeps o t → Keeps o (f t)) → G) : G := k h

/-- An update of the other parts of the state. -/
theorem keeps_mk {o t : State} (h : Keeps o t) {b q e sp a c p ca m i se tr n ou fr} : Keeps o
    ⟨t.pending, t.phys, b, q, e, sp, t.stores, t.mem, a, c, p, ca, m, i, se, tr, n, ou, fr⟩ :=
  ⟨h.phys, h.pending, h.memory⟩

/-- An update of the stores that leaves their bytes. -/
theorem keeps_stores {o t : State} (h : Keeps o t) {b q e sp a c p ca m i se tr n ou fr f em w} : Keeps o
    ⟨t.pending, t.phys, b, q, e, sp, ⟨t.stores.mem, f, em, w⟩, t.mem, a, c, p, ca, m, i, se, tr, n, ou, fr⟩ :=
  ⟨h.phys, h.pending, h.memory⟩

/-- An update of the order of transfers. -/
theorem keeps_order {o t : State} (h : Keeps o t) {b q e sp st a c p ca m i se tr n ou fr od} (hst : st.mem = t.stores.mem) : Keeps o
    ⟨t.pending, t.phys, b, q, e, sp, st, ⟨t.mem.package, t.mem.module, t.mem.scratch, od⟩, a, c, p, ca, m, i, se, tr, n,
      ou, fr⟩ :=
  ⟨h.phys, h.pending, fun k => by have := h.memory k; simp only [State.memOk] at this ⊢; rw [hst]; exact this⟩

/-- An update of memories that keeps each canonical. -/
theorem keeps_mem {o t : State} (h : Keeps o t) {b q e sp st me a c p ca m i se tr n ou fr}
    (h1 : Memory.wf t.stores.mem = true → Memory.wf st.mem = true)
    (h2 : Memory.wf t.mem.package = true → Memory.wf me.package = true)
    (h3 : Memory.wf t.mem.module = true → Memory.wf me.module = true)
    (h4 : Memory.wf t.mem.scratch = true → Memory.wf me.scratch = true) : Keeps o
    ⟨t.pending, t.phys, b, q, e, sp, st, me, a, c, p, ca, m, i, se, tr, n, ou, fr⟩ :=
  ⟨h.phys, h.pending, fun k => by
    have k := h.memory k
    simp only [State.memOk, Bool.and_eq_true] at k ⊢
    exact ⟨⟨⟨h1 k.1.1.1, h2 k.1.1.2⟩, h3 k.1.2⟩, h4 k.2⟩⟩

theorem keeps_foldl {o : State} {β : Type} {f : State → β → State} (hf : ∀ t x, Keeps o t → Keeps o (f t x))
    (l : List β) {s : State} (h : Keeps o s) : Keeps o (l.foldl f s) := by
  induction l generalizing s with
  | nil => exact h
  | cons x l ih => exact ih (hf s x h)

/-- A fold over values that carry a state. -/
theorem keeps_foldl_on {o : State} {α β : Type} (p : α → State) {f : α → β → α}
    (hf : ∀ a x, Keeps o (p a) → Keeps o (p (f a x))) (l : List β) {a : α} (h : Keeps o (p a)) : Keeps o (p (l.foldl f a)) := by
  induction l generalizing a with
  | nil => exact h
  | cons x l ih => exact ih (hf a x h)

theorem ranKeeps_ok {o t : State} {r : Nat} (h : Keeps o t) : RanKeeps o (.ok t r) := .ok h
theorem ranKeeps_err {o t : State} {f : Fail} (h : Keeps o t) : RanKeeps o (.err f t) := .err h
theorem ranKeeps_later {o t : State} (h : Keeps o t) : RanKeeps o (.later t) := .later h
theorem outKeeps_next {o t : State} (h : Keeps o t) : OutKeeps o (.next t) := h
theorem optKeeps_some {o t : State} (h : Keeps o t) : OptKeeps o (some t) := h
theorem optKeeps_none {o : State} : OptKeeps o none := trivial
theorem optKeeps_eq {o t : State} {x : Option State} (h : OptKeeps o x) (e : x = some t) : Keeps o t := by subst e; exact h

end Sys2Proof.Machine
end

