-- ==== Sys2Proof/Laws/Keeps1.lean ====
section
/-!
SUPPORT. What the operations over events, completions, stores and commands keep.
-/

namespace Sys2Proof.Machine

theorem setHostFlag_keeps {o} {a0} {s1 : State} (h1 : Keeps o s1) : Keeps o (setHostFlag a0 s1) := by
  unfold setHostFlag
  repeat' first
    | (with_reducible apply keeps_mk; with_reducible assumption)

theorem setSyncFlag_keeps {o} {a0} {s1 : State} (h1 : Keeps o s1) : Keeps o (setSyncFlag a0 s1) := by
  unfold setSyncFlag
  repeat' first
    | (with_reducible apply keeps_mk; with_reducible assumption)

theorem clearHostFlags_keeps {o} {a0} {a1} {s2 : State} (h2 : Keeps o s2) : Keeps o (clearHostFlags a0 a1 s2) := by
  unfold clearHostFlags
  repeat' first
    | with_reducible assumption
    | (with_reducible apply keeps_mk; with_reducible assumption)
    | intro _
    | (extract_lets +onlyGivenNames x; refine keeps_with (o := o) (x := x) ?_ (fun hx => ?_); (on_goal 1 => (unfold x; clear x)); (on_goal 2 => clear_value x))
    | (extract_lets +onlyGivenNames x; clear_value x)
    | (extract_lets +onlyGivenNames x; have k := x; clear k)
    | with_reducible apply setHostFlag_keeps
    | with_reducible apply keeps_foldl
    | split

theorem clearSyncFlags_keeps {o} {a0} {a1} {s2 : State} (h2 : Keeps o s2) : Keeps o (clearSyncFlags a0 a1 s2) := by
  unfold clearSyncFlags
  repeat' first
    | with_reducible assumption
    | (with_reducible apply keeps_mk; with_reducible assumption)
    | intro _
    | (extract_lets +onlyGivenNames x; refine keeps_with (o := o) (x := x) ?_ (fun hx => ?_); (on_goal 1 => (unfold x; clear x)); (on_goal 2 => clear_value x))
    | (extract_lets +onlyGivenNames x; clear_value x)
    | (extract_lets +onlyGivenNames x; have k := x; clear k)
    | with_reducible apply setSyncFlag_keeps
    | with_reducible apply keeps_foldl
    | split

theorem fresh_keeps {o} {s0 : State} (h0 : Keeps o s0) : Keeps o (fresh s0).2 := by
  unfold fresh
  repeat' first
    | (with_reducible apply keeps_mk; with_reducible assumption)

theorem fresh_keeps' {o} {s0 : State} (h0 : Keeps o s0) {y0} {t} (e : fresh s0 = (y0, t)) : Keeps o t := by
  have k := fresh_keeps  h0
  rw [e] at k
  exact k

theorem randomBytes_keeps {o} {a0} {s1 : State} (h1 : Keeps o s1) : Keeps o (randomBytes a0 s1).2 := by
  unfold randomBytes
  repeat' first
    | (with_reducible apply keeps_mk; with_reducible assumption)

theorem randomBytes_keeps' {o} {a0} {s1 : State} (h1 : Keeps o s1) {y0} {t} (e : randomBytes a0 s1 = (y0, t)) : Keeps o t := by
  have k := randomBytes_keeps (a0 := a0) h1
  rw [e] at k
  exact k

theorem freeBits_keeps {o} {a0} {s1 : State} (h1 : Keeps o s1) : Keeps o (freeBits a0 s1).2 := by
  unfold freeBits
  repeat' first
    | with_reducible assumption
    | (extract_lets +onlyGivenNames x; refine keeps_with (o := o) (x := x.2) ?_ (fun hx => ?_); (on_goal 1 => (unfold x; clear x)); (on_goal 2 => clear_value x))
    | with_reducible apply fresh_keeps

theorem freeBits_keeps' {o} {a0} {s1 : State} (h1 : Keeps o s1) {y0} {t} (e : freeBits a0 s1 = (y0, t)) : Keeps o t := by
  have k := freeBits_keeps (a0 := a0) h1
  rw [e] at k
  exact k

theorem hostWrite_keeps {o} {a0} {a1} {a2} {s3 : State} (h3 : Keeps o s3) : Keeps o (hostWrite a0 a1 a2 s3) := by
  unfold hostWrite
  repeat' first
    | (with_reducible apply keeps_mk; with_reducible assumption)
    | (extract_lets +onlyGivenNames x; clear_value x)
    | split

theorem boxRecord_keeps {o} {a0} {s1 : State} (h1 : Keeps o s1) : Keeps o (boxRecord a0 s1) := by
  unfold boxRecord
  repeat' first
    | (with_reducible apply keeps_mk; with_reducible assumption)
    | (extract_lets +onlyGivenNames x; clear_value x)
    | split

theorem evqPut_keeps {o} {a0} {a1} {s2 : State} (h2 : Keeps o s2) : Keeps o (evqPut a0 a1 s2) := by
  unfold evqPut
  repeat' first
    | with_reducible assumption
    | (with_reducible apply keeps_mk; with_reducible assumption)
    | (extract_lets +onlyGivenNames x; refine keeps_with (o := o) (x := x) ?_ (fun hx => ?_); (on_goal 1 => (unfold x; clear x)); (on_goal 2 => clear_value x))
    | with_reducible apply hostWrite_keeps
    | split

theorem evqDeliver_keeps {o} {a0} {a1} {s2 : State} (h2 : Keeps o s2) : Keeps o (evqDeliver a0 a1 s2) := by
  unfold evqDeliver
  repeat' first
    | with_reducible assumption
    | intro _
    | with_reducible apply setHostFlag_keeps
    | with_reducible apply evqPut_keeps
    | with_reducible apply keeps_foldl
    | split

theorem routeRecords_keeps {o} {a0} {a1} {s2 : State} (h2 : Keeps o s2) : Keeps o (routeRecords a0 a1 s2) := by
  unfold routeRecords
  repeat' first
    | with_reducible assumption
    | (with_reducible apply keeps_mk; with_reducible assumption)
    | intro _
    | (extract_lets +onlyGivenNames x; clear_value x)
    | (extract_lets +onlyGivenNames x; have k := x; clear k)
    | with_reducible apply setHostFlag_keeps
    | with_reducible apply evqDeliver_keeps
    | with_reducible apply keeps_foldl
    | split

theorem postEvent_keeps {o} {a0} {a1} {a2} {a3} {a4} {s5 : State} (h5 : Keeps o s5) : Keeps o (postEvent a0 a1 a2 a3 a4 s5) := by
  unfold postEvent
  repeat' first
    | with_reducible assumption
    | (with_reducible apply keeps_mk; with_reducible assumption)
    | intro _
    | (extract_lets +onlyGivenNames x; refine keeps_with (o := o) (x := x) ?_ (fun hx => ?_); (on_goal 1 => (unfold x; clear x)); (on_goal 2 => clear_value x))
    | (extract_lets +onlyGivenNames x; clear_value x)
    | (extract_lets +onlyGivenNames x; have k := x; clear k)
    | with_reducible apply routeRecords_keeps
    | with_reducible apply boxRecord_keeps
    | with_reducible apply keeps_foldl

theorem postOncePerTurn_keeps {o} {a0} {a1} {a2} {a3} {a4} {a5} {s6 : State} (h6 : Keeps o s6) : Keeps o (postOncePerTurn a0 a1 a2 a3 a4 a5 s6) := by
  unfold postOncePerTurn
  repeat' first
    | with_reducible assumption
    | (with_reducible apply keeps_mk; with_reducible assumption)
    | (extract_lets +onlyGivenNames x; clear_value x)
    | with_reducible apply postEvent_keeps
    | split

theorem cqPut_keeps {o} {a0} {a1} {s2 : State} (h2 : Keeps o s2) : Keeps o (cqPut a0 a1 s2) := by
  unfold cqPut
  repeat' first
    | with_reducible assumption
    | (with_reducible apply keeps_mk; with_reducible assumption)
    | (extract_lets +onlyGivenNames x; refine keeps_with (o := o) (x := x) ?_ (fun hx => ?_); (on_goal 1 => (unfold x; clear x)); (on_goal 2 => clear_value x))
    | (extract_lets +onlyGivenNames x; clear_value x)
    | with_reducible apply hostWrite_keeps
    | split

theorem completeOne_keeps {o} {a0} {a1} {a2} {a3} {s4 : State} (h4 : Keeps o s4) : Keeps o (completeOne a0 a1 a2 a3 s4) := by
  unfold completeOne
  repeat' first
    | with_reducible assumption
    | (with_reducible apply keeps_mk; with_reducible assumption)
    | (extract_lets +onlyGivenNames x; refine keeps_with (o := o) (x := x) ?_ (fun hx => ?_); (on_goal 1 => (unfold x; clear x)); (on_goal 2 => clear_value x))
    | (extract_lets +onlyGivenNames x; clear_value x)
    | with_reducible apply cqPut_keeps
    | split

theorem finishDeletes_keeps {o} {s0 : State} (h0 : Keeps o s0) : Keeps o (finishDeletes s0) := by
  unfold finishDeletes
  repeat' first
    | with_reducible assumption
    | (with_reducible apply keeps_mk; with_reducible assumption)
    | intro _
    | (extract_lets +onlyGivenNames x; refine keeps_with (o := o) (x := x) ?_ (fun hx => ?_); (on_goal 1 => (unfold x; clear x)); (on_goal 2 => clear_value x))
    | (extract_lets +onlyGivenNames x; clear_value x)
    | (extract_lets +onlyGivenNames x; have k := x; clear k)
    | with_reducible apply completeOne_keeps
    | with_reducible apply keeps_foldl

theorem finishAdmin_keeps {o} {s0 : State} (h0 : Keeps o s0) : Keeps o (finishAdmin s0) := by
  unfold finishAdmin
  repeat' first
    | with_reducible assumption
    | (with_reducible apply keeps_mk; with_reducible assumption)
    | (extract_lets +onlyGivenNames x; clear_value x)
    | split

theorem complete_keeps {o} {a0} {a1} {a2} {a3} {s4 : State} (h4 : Keeps o s4) : Keeps o (complete a0 a1 a2 a3 s4) := by
  unfold complete
  repeat' first
    | with_reducible assumption
    | with_reducible apply finishAdmin_keeps
    | with_reducible apply finishDeletes_keeps
    | with_reducible apply completeOne_keeps

theorem putWords_keeps {o} {a0} {s1 : State} (h1 : Keeps o s1) : Keeps o (putWords a0 s1) :=
  keeps_mem h1 (fun h => wf_foldl (fun m x hm => wf_mwrite (m := m) (32 * x.1) (padTo 32 x.2) hm) a0 h) id id id

theorem fillWords_keeps {o} {a0} {s1 : State} (h1 : Keeps o s1) : Keeps o (fillWords a0 s1) := by
  unfold fillWords
  repeat' first
    | (with_reducible apply keeps_stores; with_reducible assumption)

theorem emptyWords_keeps {o} {a0} {s1 : State} (h1 : Keeps o s1) : Keeps o (emptyWords a0 s1) := by
  unfold emptyWords
  repeat' first
    | (with_reducible apply keeps_stores; with_reducible assumption)

theorem emptyStack_keeps {o} {a0} {s1 : State} (h1 : Keeps o s1) : Keeps o (emptyStack a0 s1) := by
  unfold emptyStack
  repeat' first
    | (with_reducible apply keeps_stores; with_reducible assumption)

theorem clearStack_keeps {o} {a0} {s1 : State} (h1 : Keeps o s1) : Keeps o (clearStack a0 s1) :=
  keeps_mem (emptyStack_keeps h1) (wf_filter _) id id id

theorem drainWords_keeps {o} {a0} {s1 : State} (h1 : Keeps o s1) : Keeps o (drainWords a0 s1) := by
  unfold drainWords
  repeat' first
    | (with_reducible apply keeps_stores; with_reducible assumption)

theorem packageWrite_keeps {o} {a0} {a1} {a2} {s3 : State} (h3 : Keeps o s3) : Keeps o (packageWrite a0 a1 a2 s3) :=
  keeps_mem h3 id (wf_mwrite _ _) id id

theorem moduleWrite_keeps {o} {a0} {a1} {s2 : State} (h2 : Keeps o s2) : Keeps o (moduleWrite a0 a1 s2) :=
  keeps_mem h2 id id (wf_mwrite _ _) id

theorem setPlan_keeps {o} {a0} {a1} {s2 : State} (h2 : Keeps o s2) : Keeps o (setPlan a0 a1 s2) := by
  unfold setPlan
  repeat' first
    | (with_reducible apply keeps_mk; with_reducible assumption)

theorem setPart_keeps {o} {a0} {a1} {s2 : State} (h2 : Keeps o s2) : Keeps o (setPart a0 a1 s2) := by
  unfold setPart
  repeat' first
    | (with_reducible apply keeps_mk; with_reducible assumption)

theorem setFly_keeps {o} {a0} {a1} {s2 : State} (h2 : Keeps o s2) : Keeps o (setFly a0 a1 s2) := by
  unfold setFly
  repeat' first
    | (with_reducible apply keeps_mk; with_reducible assumption)

theorem postPlan_keeps {o} {a0} {a1} {a2} {a3} {s4 : State} (h4 : Keeps o s4) : Keeps o (postPlan a0 a1 a2 a3 s4) := by
  unfold postPlan
  repeat' first
    | with_reducible assumption
    | (extract_lets +onlyGivenNames x; clear_value x)
    | with_reducible apply postEvent_keeps

theorem postOncePerPass_keeps {o} {a0} {a1} {a2} {a3} {a4} {s5 : State} (h5 : Keeps o s5) : Keeps o (postOncePerPass a0 a1 a2 a3 a4 s5) := by
  unfold postOncePerPass
  repeat' first
    | with_reducible assumption
    | with_reducible apply postPlan_keeps
    | with_reducible apply setPart_keeps
    | split

theorem writeData_keeps {o} {a0} {a1} {s2 : State} (h2 : Keeps o s2) : Keeps o (writeData a0 a1 s2) := by
  unfold writeData
  repeat' first
    | with_reducible assumption
    | with_reducible apply hostWrite_keeps

theorem rejectTag_keeps {o} {a0} {a1} {a2} {s3 : State} (h3 : Keeps o s3) : Keeps o (rejectTag a0 a1 a2 s3) := by
  unfold rejectTag
  repeat' first
    | with_reducible assumption
    | with_reducible apply postOncePerTurn_keeps

theorem checkTag_keeps {o} {a0} {a1} {a2} {a3} {a4} {s5 : State} (h5 : Keeps o s5) : Keeps o (checkTag a0 a1 a2 a3 a4 s5).1 := by
  unfold checkTag
  repeat' first
    | with_reducible assumption
    | (with_reducible apply keeps_mk; with_reducible assumption)
    | (extract_lets +onlyGivenNames x; clear_value x)
    | with_reducible apply rejectTag_keeps
    | split

theorem checkTag_keeps' {o} {a0} {a1} {a2} {a3} {a4} {s5 : State} (h5 : Keeps o s5) {y0} {t} (e : checkTag a0 a1 a2 a3 a4 s5 = (t, y0)) : Keeps o t := by
  have k := checkTag_keeps (a0 := a0) (a1 := a1) (a2 := a2) (a3 := a3) (a4 := a4) h5
  rw [e] at k
  exact k

theorem checkTenant_keeps {o} {a0} {a1} {a2} {s3 : State} (h3 : Keeps o s3) : Keeps o (checkTenant a0 a1 a2 s3).1 := by
  unfold checkTenant
  repeat' first
    | with_reducible assumption
    | (extract_lets +onlyGivenNames x; clear_value x)
    | with_reducible apply checkTag_keeps
    | split

theorem checkTenant_keeps' {o} {a0} {a1} {a2} {s3 : State} (h3 : Keeps o s3) {y0} {t} (e : checkTenant a0 a1 a2 s3 = (t, y0)) : Keeps o t := by
  have k := checkTenant_keeps (a0 := a0) (a1 := a1) (a2 := a2) h3
  rw [e] at k
  exact k

theorem gate_keeps {o} {a0} {a1} {s2 : State} (h2 : Keeps o s2) : Keeps o (gate a0 a1 s2).1 := by
  unfold gate
  repeat' first
    | with_reducible assumption
    | (with_reducible apply checkTenant_keeps'; case e => with_reducible assumption)
    | split

theorem gate_keeps' {o} {a0} {a1} {s2 : State} (h2 : Keeps o s2) {y0} {t} (e : gate a0 a1 s2 = (t, y0)) : Keeps o t := by
  have k := gate_keeps (a0 := a0) (a1 := a1) h2
  rw [e] at k
  exact k

theorem markBegun_keeps {o} {a0} {a1} {s2 : State} (h2 : Keeps o s2) : Keeps o (markBegun a0 a1 s2) := by
  unfold markBegun
  repeat' first
    | (with_reducible apply keeps_mk; with_reducible assumption)

theorem finish_keeps {o} {tag} {r : Ran} (h : RanKeeps o r) : Keeps o (finish tag r) := by
  cases h with
  | ok h => exact complete_keeps h
  | err h => exact complete_keeps h
  | later h => exact h

theorem runCommand_keeps {o} {a0} {a1} {a2} {a3} {s4 : State} (h2 : ∀ z0 t0, Keeps o t0 → RanKeeps o (a2 z0 t0)) (h4 : Keeps o s4) : Keeps o (runCommand a0 a1 a2 a3 s4) := by
  unfold runCommand
  repeat' first
    | with_reducible assumption
    | (extract_lets +onlyGivenNames x; clear_value x)
    | (extract_lets +onlyGivenNames x; have k := x; clear k)
    | with_reducible apply h2
    | (with_reducible apply gate_keeps'; case e => with_reducible assumption)
    | with_reducible apply markBegun_keeps
    | with_reducible apply complete_keeps
    | with_reducible apply finish_keeps
    | split

theorem lowWordRead_keeps {o} {a0} {a1} {s2 : State} (h2 : Keeps o s2) : Keeps o (lowWordRead a0 a1 s2) := by
  unfold lowWordRead
  repeat' first
    | with_reducible assumption
    | (with_reducible apply keeps_mk; with_reducible assumption)
    | (extract_lets +onlyGivenNames x; clear_value x)
    | split

theorem execLowWordRead_keeps {o} {a0} {a1} {s2 : State} (h2 : Keeps o s2) : OutKeeps o (execLowWordRead a0 a1 s2) := by
  unfold execLowWordRead
  repeat' first
    | with_reducible assumption
    | with_reducible apply lowWordRead_keeps
    | with_reducible apply outKeeps_next

theorem adminError_keeps {o} {a0} {s1 : State} (h1 : Keeps o s1) : Keeps o (adminError a0 s1) := by
  unfold adminError
  repeat' first
    | (with_reducible apply keeps_mk; with_reducible assumption)

theorem aqEnable_keeps {o} {s0 : State} (h0 : Keeps o s0) : Keeps o (aqEnable s0) := by
  unfold aqEnable
  repeat' first
    | with_reducible assumption
    | (with_reducible apply keeps_mk; with_reducible assumption)
    | (extract_lets +onlyGivenNames x; clear_value x)
    | with_reducible apply adminError_keeps
    | split

theorem execAqEnable_keeps {o} {s0 : State} (h0 : Keeps o s0) : OutKeeps o (execAqEnable s0) := by
  unfold execAqEnable
  repeat' first
    | with_reducible assumption
    | with_reducible apply aqEnable_keeps
    | with_reducible apply outKeeps_next

theorem aqDisable_keeps {o} {s0 : State} (h0 : Keeps o s0) : Keeps o (aqDisable s0) := by
  unfold aqDisable
  repeat' first
    | with_reducible assumption
    | (with_reducible apply keeps_mk; with_reducible assumption)
    | (extract_lets +onlyGivenNames x; clear_value x)
    | with_reducible apply finishAdmin_keeps
    | split

theorem execAqDisable_keeps {o} {s0 : State} (h0 : Keeps o s0) : OutKeeps o (execAqDisable s0) := by
  unfold execAqDisable
  repeat' first
    | with_reducible assumption
    | with_reducible apply aqDisable_keeps
    | with_reducible apply outKeeps_next

theorem execHostFlagsClear_keeps {o} {a0} {a1} {s2 : State} (h2 : Keeps o s2) : OutKeeps o (execHostFlagsClear a0 a1 s2) := by
  unfold execHostFlagsClear
  repeat' first
    | with_reducible assumption
    | with_reducible apply clearHostFlags_keeps
    | with_reducible apply outKeeps_next
    | split

theorem execSyncFlagsClear_keeps {o} {a0} {a1} {s2 : State} (h2 : Keeps o s2) : OutKeeps o (execSyncFlagsClear a0 a1 s2) := by
  unfold execSyncFlagsClear
  repeat' first
    | with_reducible assumption
    | with_reducible apply clearSyncFlags_keeps
    | with_reducible apply outKeeps_next
    | split

theorem ringBell_keeps {o} {a0} {a1} {a2} {a3} {s4 : State} (h4 : Keeps o s4) : Keeps o (ringBell a0 a1 a2 a3 s4) := by
  unfold ringBell
  repeat' first
    | with_reducible assumption
    | (with_reducible apply keeps_mk; with_reducible assumption)
    | (extract_lets +onlyGivenNames x; clear_value x)
    | (extract_lets +onlyGivenNames x; have k := x; clear k)
    | with_reducible apply setHostFlag_keeps
    | with_reducible apply postOncePerTurn_keeps
    | split

theorem execSqTail_keeps {o} {a0} {a1} {a2} {s3 : State} (h3 : Keeps o s3) : OutKeeps o (execSqTail a0 a1 a2 s3) := by
  unfold execSqTail
  repeat' first
    | with_reducible assumption
    | with_reducible apply ringBell_keeps
    | with_reducible apply outKeeps_next

theorem execCqHead_keeps {o} {a0} {a1} {a2} {s3 : State} (h3 : Keeps o s3) : OutKeeps o (execCqHead a0 a1 a2 s3) := by
  unfold execCqHead
  repeat' first
    | with_reducible assumption
    | with_reducible apply ringBell_keeps
    | with_reducible apply outKeeps_next

theorem execEvqHead_keeps {o} {a0} {a1} {a2} {s3 : State} (h3 : Keeps o s3) : OutKeeps o (execEvqHead a0 a1 a2 s3) := by
  unfold execEvqHead
  repeat' first
    | with_reducible assumption
    | with_reducible apply ringBell_keeps
    | with_reducible apply outKeeps_next

theorem execOutqHead_keeps {o} {a0} {a1} {a2} {s3 : State} (h3 : Keeps o s3) : OutKeeps o (execOutqHead a0 a1 a2 s3) := by
  unfold execOutqHead
  repeat' first
    | with_reducible assumption
    | with_reducible apply ringBell_keeps
    | with_reducible apply outKeeps_next

theorem consumeBells_keeps {o} {s0 : State} (h0 : Keeps o s0) : Keeps o (consumeBells s0) := keeps_mk h0

theorem execDoorbellConsume_keeps {o} {s0 : State} (h0 : Keeps o s0) : OutKeeps o (execDoorbellConsume s0) := by
  unfold execDoorbellConsume
  repeat' first
    | with_reducible assumption
    | with_reducible apply consumeBells_keeps
    | with_reducible apply outKeeps_next

theorem postLink_keeps {o} {a0} {s1 : State} (h1 : Keeps o s1) : Keeps o (postLink a0 s1) := by
  unfold postLink
  repeat' first
    | with_reducible assumption
    | with_reducible apply postEvent_keeps

theorem flagRate_keeps {o} {s0 : State} (h0 : Keeps o s0) : Keeps o (flagRate s0) := by
  unfold flagRate
  repeat' first
    | with_reducible assumption
    | with_reducible apply setHostFlag_keeps
    | split

theorem flushWaiting_keeps {o} {s0 : State} (h0 : Keeps o s0) : Keeps o (flushWaiting s0) := by
  unfold flushWaiting
  repeat' first
    | with_reducible assumption
    | (with_reducible apply keeps_mk; with_reducible assumption)
    | intro _
    | (extract_lets +onlyGivenNames x; refine keeps_with (o := o) (x := x) ?_ (fun hx => ?_); (on_goal 1 => (unfold x; clear x)); (on_goal 2 => clear_value x))
    | (extract_lets +onlyGivenNames x; clear_value x)
    | (extract_lets +onlyGivenNames x; have k := x; clear k)
    | with_reducible apply finishAdmin_keeps
    | with_reducible apply evqDeliver_keeps
    | with_reducible apply cqPut_keeps
    | with_reducible apply keeps_foldl

theorem issue_keeps {o} {a0} {a1} {a2} {a3} {s4 : State} (h3 : ∀ z0 z1 t0, Keeps o t0 → Keeps o (a3 z0 z1 t0)) (h4 : Keeps o s4) : Keeps o (issue a0 a1 a2 a3 s4) := by
  unfold issue
  repeat' first
    | with_reducible assumption
    | (with_reducible apply keeps_mk; with_reducible assumption)
    | (extract_lets +onlyGivenNames x; refine keeps_with (o := o) (x := x) ?_ (fun hx => ?_); (on_goal 1 => (unfold x; clear x)); (on_goal 2 => clear_value x))
    | (extract_lets +onlyGivenNames x; clear_value x)
    | (extract_lets +onlyGivenNames x; have k := x; clear k)
    | with_reducible apply h3
    | with_reducible apply setPart_keeps
    | split

theorem endFly_keeps {o} {a0} {s1 : State} (h1 : Keeps o s1) : Keeps o (endFly a0 s1) := by
  unfold endFly
  repeat' first
    | with_reducible assumption
    | with_reducible apply setFly_keeps

theorem withSource_keeps {o} {a0} {a1} {a2} {a3} {s4 : State} (h3 : ∀ t0, Keeps o t0 → Keeps o (a3 t0)) (h4 : Keeps o s4) : Keeps o (withSource a0 a1 a2 a3 s4) := by
  unfold withSource
  repeat' first
    | with_reducible assumption
    | with_reducible apply h3
    | with_reducible apply setFly_keeps
    | with_reducible apply drainWords_keeps
    | split

theorem tryWrite_keeps {o} {a0} {a1} {a2} {s3 : State} (h3 : Keeps o s3) : Keeps o (tryWrite a0 a1 a2 s3) := by
  unfold tryWrite
  repeat' first
    | with_reducible assumption
    | (with_reducible apply keeps_stores; with_reducible assumption)
    | (extract_lets +onlyGivenNames x; have k : Stores := x; clear k; subst x)
    | (extract_lets +onlyGivenNames x; clear_value x)
    | with_reducible apply setFly_keeps
    | split

theorem hold_keeps {o} {a0} {a1} {a2} {a3} {s4 : State} (h4 : Keeps o s4) : Keeps o (hold a0 a1 a2 a3 s4) := by
  unfold hold
  repeat' first
    | with_reducible assumption
    | with_reducible apply setFly_keeps

theorem writeHeld_keeps {o} {a0} {a1} {s2 : State} (h2 : Keeps o s2) : Keeps o (writeHeld a0 a1 s2) := by
  unfold writeHeld
  repeat' first
    | with_reducible assumption
    | with_reducible apply tryWrite_keeps
    | split

theorem syncEvent_keeps {o} {a0} {a1} {a2} {a3} {a4} {a5} {s6 : State} (h6 : Keeps o s6) : Keeps o (syncEvent a0 a1 a2 a3 a4 a5 s6) := by
  unfold syncEvent
  repeat' first
    | with_reducible assumption
    | with_reducible apply postOncePerPass_keeps
    | with_reducible apply setSyncFlag_keeps

theorem execNop_keeps {o} {a0} {a1} {s2 : State} (h2 : Keeps o s2) : OutKeeps o (execNop a0 a1 s2) := by
  unfold execNop
  repeat' first
    | with_reducible assumption
    | intro _
    | with_reducible apply issue_keeps
    | with_reducible apply outKeeps_next

theorem startMove_keeps {o} {a0} {a1} {s2 : State} (h2 : Keeps o s2) : Keeps o (startMove a0 a1 s2) := by
  unfold startMove
  repeat' first
    | with_reducible assumption
    | intro _
    | (extract_lets +onlyGivenNames x; clear_value x)
    | (extract_lets +onlyGivenNames x; have k := x; clear k)
    | with_reducible apply withSource_keeps
    | with_reducible apply tryWrite_keeps

theorem execMove_keeps {o} {a0} {a1} {s2 : State} (h2 : Keeps o s2) : OutKeeps o (execMove a0 a1 s2) := by
  unfold execMove
  repeat' first
    | with_reducible assumption
    | intro _
    | with_reducible apply issue_keeps
    | with_reducible apply startMove_keeps
    | with_reducible apply outKeeps_next

theorem startFeWait_keeps {o} {a0} {a1} {s2 : State} (h2 : Keeps o s2) : Keeps o (startFeWait a0 a1 s2) := by
  unfold startFeWait
  repeat' first
    | with_reducible assumption
    | (extract_lets +onlyGivenNames x; clear_value x)
    | (extract_lets +onlyGivenNames x; have k := x; clear k)
    | with_reducible apply endFly_keeps
    | with_reducible apply drainWords_keeps
    | with_reducible apply setFly_keeps
    | split

theorem execFeWait_keeps {o} {a0} {a1} {s2 : State} (h2 : Keeps o s2) : OutKeeps o (execFeWait a0 a1 s2) := by
  unfold execFeWait
  repeat' first
    | with_reducible assumption
    | intro _
    | with_reducible apply issue_keeps
    | with_reducible apply startFeWait_keeps
    | with_reducible apply outKeeps_next

theorem startFeEmpty_keeps {o} {a0} {a1} {s2 : State} (h2 : Keeps o s2) : Keeps o (startFeEmpty a0 a1 s2) := by
  unfold startFeEmpty
  repeat' first
    | with_reducible assumption
    | with_reducible apply drainWords_keeps

theorem execFeEmpty_keeps {o} {a0} {a1} {s2 : State} (h2 : Keeps o s2) : OutKeeps o (execFeEmpty a0 a1 s2) := by
  unfold execFeEmpty
  repeat' first
    | with_reducible assumption
    | intro _
    | with_reducible apply issue_keeps
    | with_reducible apply startFeEmpty_keeps
    | with_reducible apply outKeeps_next

theorem setBarrier_keeps {o} {a0} {a1} {a2} {a3} {s4 : State} (h4 : Keeps o s4) : Keeps o (setBarrier a0 a1 a2 a3 s4) := by
  unfold setBarrier
  repeat' first
    | with_reducible assumption
    | with_reducible apply setPlan_keeps

theorem arrive_keeps {o} {a0} {a1} {a2} {a3} {s4 : State} (h4 : Keeps o s4) : Keeps o (arrive a0 a1 a2 a3 s4).1 := by
  unfold arrive
  repeat' first
    | with_reducible assumption
    | (extract_lets +onlyGivenNames x; clear_value x)
    | with_reducible apply setBarrier_keeps
    | with_reducible apply setSyncFlag_keeps
    | split

theorem arrive_keeps' {o} {a0} {a1} {a2} {a3} {s4 : State} (h4 : Keeps o s4) {y0} {t} (e : arrive a0 a1 a2 a3 s4 = (t, y0)) : Keeps o t := by
  have k := arrive_keeps (a0 := a0) (a1 := a1) (a2 := a2) (a3 := a3) h4
  rw [e] at k
  exact k

end Sys2Proof.Machine
end

