-- ==== Sys2Proof/Laws/Keeps2.lean ====
section
/-!
SUPPORT. What reads, truing and reductions keep.
-/

namespace Sys2Proof.Machine

theorem setActive_keeps {o} {a0} {a1} {s2 : State} (h2 : Keeps o s2) : Keeps o (setActive a0 a1 s2) := by
  unfold setActive
  repeat' first
    | (with_reducible apply keeps_mk; with_reducible assumption)
    | (extract_lets +onlyGivenNames x; clear_value x)
    | split

theorem startRefOn_keeps {o} {a0} {a1} {s2 : State} (h2 : Keeps o s2) : Keeps o (startRefOn a0 a1 s2) := by
  unfold startRefOn
  repeat' first
    | (with_reducible apply keeps_mk; with_reducible assumption)

theorem execRefOn_keeps {o} {a0} {a1} {s2 : State} (h2 : Keeps o s2) : OutKeeps o (execRefOn a0 a1 s2) := by
  unfold execRefOn
  repeat' first
    | with_reducible assumption
    | intro _
    | with_reducible apply issue_keeps
    | with_reducible apply startRefOn_keeps
    | with_reducible apply outKeeps_next

theorem startRefOff_keeps {o} {a0} {a1} {s2 : State} (h2 : Keeps o s2) : Keeps o (startRefOff a0 a1 s2) := by
  unfold startRefOff
  repeat' first
    | (with_reducible apply keeps_mk; with_reducible assumption)

theorem execRefOff_keeps {o} {a0} {a1} {s2 : State} (h2 : Keeps o s2) : OutKeeps o (execRefOff a0 a1 s2) := by
  unfold execRefOff
  repeat' first
    | with_reducible assumption
    | intro _
    | with_reducible apply issue_keeps
    | with_reducible apply startRefOff_keeps
    | with_reducible apply outKeeps_next

theorem startDeckSel_keeps {o} {a0} {a1} {s2 : State} (h2 : Keeps o s2) : Keeps o (startDeckSel a0 a1 s2) := by
  unfold startDeckSel
  repeat' first
    | (with_reducible apply keeps_mk; with_reducible assumption)
    | (extract_lets +onlyGivenNames x; clear_value x)
    | split

theorem execDeckSel_keeps {o} {a0} {a1} {s2 : State} (h2 : Keeps o s2) : OutKeeps o (execDeckSel a0 a1 s2) := by
  unfold execDeckSel
  repeat' first
    | with_reducible assumption
    | intro _
    | with_reducible apply issue_keeps
    | with_reducible apply startDeckSel_keeps
    | with_reducible apply outKeeps_next

theorem readEvents_keeps {o} {a0} {a1} {s2 : State} (h2 : Keeps o s2) : Keeps o (readEvents a0 a1 s2) := by
  unfold readEvents
  repeat' first
    | with_reducible assumption
    | (extract_lets +onlyGivenNames x; refine keeps_with (o := o) (x := x) ?_ (fun hx => ?_); (on_goal 1 => (unfold x; clear x)); (on_goal 2 => clear_value x))
    | with_reducible apply postOncePerPass_keeps
    | split

theorem runRead_keeps {o} {a0} {a1} {s2 : State} (h2 : Keeps o s2) : Keeps o (runRead a0 a1 s2) := by
  unfold runRead
  repeat' first
    | with_reducible assumption
    | (with_reducible apply keeps_mk; with_reducible assumption)
    | (extract_lets +onlyGivenNames x; refine keeps_with (o := o) (x := x) ?_ (fun hx => ?_); (on_goal 1 => (unfold x; clear x)); (on_goal 2 => clear_value x))
    | (extract_lets +onlyGivenNames x; clear_value x)
    | (extract_lets +onlyGivenNames x; have k := x; clear k)
    | with_reducible apply readEvents_keeps
    | with_reducible apply setFly_keeps

theorem startRead_keeps {o} {a0} {a1} {s2 : State} (h2 : Keeps o s2) : Keeps o (startRead a0 a1 s2) := by
  unfold startRead
  repeat' first
    | with_reducible assumption
    | intro _
    | with_reducible apply withSource_keeps
    | with_reducible apply runRead_keeps

theorem issueRead_keeps {o} {a0} {a1} {s2 : State} (h2 : Keeps o s2) : Keeps o (issueRead a0 a1 s2) := by
  unfold issueRead
  repeat' first
    | with_reducible assumption
    | with_reducible apply startRead_keeps

theorem execStroke_keeps {o} {a0} {a1} {s2 : State} (h2 : Keeps o s2) : OutKeeps o (execStroke a0 a1 s2) := by
  unfold execStroke
  repeat' first
    | with_reducible assumption
    | intro _
    | with_reducible apply issue_keeps
    | with_reducible apply issueRead_keeps
    | with_reducible apply outKeeps_next

theorem execReverseRead_keeps {o} {a0} {a1} {s2 : State} (h2 : Keeps o s2) : OutKeeps o (execReverseRead a0 a1 s2) := by
  unfold execReverseRead
  repeat' first
    | with_reducible assumption
    | intro _
    | with_reducible apply issue_keeps
    | with_reducible apply issueRead_keeps
    | with_reducible apply outKeeps_next

theorem tryRecord_keeps {o} {a0} {a1} {a2} {s3 : State} (h3 : Keeps o s3) : Keeps o (tryRecord a0 a1 a2 s3) := by
  unfold tryRecord
  repeat' first
    | with_reducible assumption
    | (with_reducible apply keeps_stores; with_reducible assumption)
    | (extract_lets +onlyGivenNames x; have k : Stores := x; clear k; subst x)
    | (extract_lets +onlyGivenNames x; clear_value x)
    | with_reducible apply setFly_keeps
    | split

theorem recordStage_keeps {o} {a0} {a1} {s2 : State} (h2 : Keeps o s2) : Keeps o (recordStage a0 a1 s2) := by
  unfold recordStage
  repeat' first
    | with_reducible assumption
    | with_reducible apply tryRecord_keeps
    | split

theorem execStrokeRecordWrite_keeps {o} {a0} {s1 : State} (h1 : Keeps o s1) : OutKeeps o (execStrokeRecordWrite a0 s1) := by
  unfold execStrokeRecordWrite
  repeat' first
    | with_reducible assumption
    | with_reducible apply recordStage_keeps
    | with_reducible apply outKeeps_next

theorem execReverseReadRecordWrite_keeps {o} {a0} {s1 : State} (h1 : Keeps o s1) : OutKeeps o (execReverseReadRecordWrite a0 s1) := by
  unfold execReverseReadRecordWrite
  repeat' first
    | with_reducible assumption
    | with_reducible apply recordStage_keeps
    | with_reducible apply outKeeps_next

theorem rereadStage_keeps {o} {a0} {s1 : State} (h1 : Keeps o s1) : Keeps o (rereadStage a0 s1) := by
  unfold rereadStage
  repeat' first
    | with_reducible assumption
    | (with_reducible apply keeps_mk; with_reducible assumption)
    | (extract_lets +onlyGivenNames x; refine keeps_with (o := o) (x := x) ?_ (fun hx => ?_); (on_goal 1 => (unfold x; clear x)); (on_goal 2 => clear_value x))
    | (extract_lets +onlyGivenNames x; clear_value x)
    | with_reducible apply setPart_keeps
    | with_reducible apply tryRecord_keeps
    | split

theorem execRangeSplitReread_keeps {o} {a0} {s1 : State} (h1 : Keeps o s1) : OutKeeps o (execRangeSplitReread a0 s1) := by
  unfold execRangeSplitReread
  repeat' first
    | with_reducible assumption
    | with_reducible apply rereadStage_keeps
    | with_reducible apply outKeeps_next

theorem restoreStep_keeps {o} {a0} {a1} {s2 : State} (h2 : Keeps o s2) : Keeps o (restoreStep a0 a1 s2) := by
  unfold restoreStep
  repeat' first
    | with_reducible assumption
    | (with_reducible apply keeps_mk; with_reducible assumption)
    | (extract_lets +onlyGivenNames x; clear_value x)
    | with_reducible apply postEvent_keeps
    | split

theorem dropCand_keeps {o} {a0} {s1 : State} (h1 : Keeps o s1) : Keeps o (dropCand a0 s1) := by
  unfold dropCand
  repeat' first
    | with_reducible assumption
    | (with_reducible apply keeps_mk; with_reducible assumption)
    | (extract_lets +onlyGivenNames x; refine keeps_with (o := o) (x := x) ?_ (fun hx => ?_); (on_goal 1 => (unfold x; clear x)); (on_goal 2 => clear_value x))
    | (extract_lets +onlyGivenNames x; clear_value x)
    | with_reducible apply restoreStep_keeps
    | split

theorem provisional_keeps {o} {s0 : State} {a1} (h0 : Keeps o s0) : Keeps o (provisional s0 a1) := by
  unfold provisional
  repeat' first
    | with_reducible assumption
    | (with_reducible apply keeps_mk; with_reducible assumption)
    | (extract_lets +onlyGivenNames x; refine keeps_with (o := o) (x := x) ?_ (fun hx => ?_); (on_goal 1 => (unfold x; clear x)); (on_goal 2 => clear_value x))
    | with_reducible apply dropCand_keeps
    | with_reducible apply setActive_keeps

theorem postSpare_keeps {o} {a0} {a1} {a2} {s3 : State} (h3 : Keeps o s3) : Keeps o (postSpare a0 a1 a2 s3) := by
  unfold postSpare
  repeat' first
    | with_reducible assumption
    | with_reducible apply postEvent_keeps

theorem toCandidate_keeps {o} {s0 : State} {a1} (h0 : Keeps o s0) : Keeps o (toCandidate s0 a1) := by
  unfold toCandidate
  repeat' first
    | with_reducible assumption
    | (with_reducible apply keeps_mk; with_reducible assumption)
    | (extract_lets +onlyGivenNames x; refine keeps_with (o := o) (x := x) ?_ (fun hx => ?_); (on_goal 1 => (unfold x; clear x)); (on_goal 2 => clear_value x))
    | (extract_lets +onlyGivenNames x; clear_value x)
    | with_reducible apply provisional_keeps
    | split

@[simp] theorem Applied.touch_s (a : Applied) (e : Nat) : (a.touch e).s = a.s := by
  unfold Applied.touch; split <;> rfl

@[simp] theorem Applied.write_s (a : Applied) (k w : Nat) : (a.write k w).s = setActive k w a.s := by
  unfold Applied.write; extract_lets b; split <;> simp [b]

theorem applyStage_keeps {o} {a : Applied} {k g} (h : Keeps o a.s) : Keeps o (applyStage a k g).s := by
  unfold applyStage
  extract_lets s
  have hs : Keeps o s := keeps_mk h
  split
  · exact keeps_mk hs
  · simpa using setActive_keeps (keeps_mk hs)

theorem stepGlide_keeps {o} {a : Applied} {k g} (h : Keeps o a.s) : Keeps o (stepGlide a k g).s := by
  simpa [stepGlide] using setActive_keeps (keeps_mk h)

theorem applySwap_keeps {o} {a : Applied} {e code} (h : Keeps o a.s) : Keeps o (applySwap a e code).s := by
  simp only [applySwap, Applied.touch_s]
  refine postSpare_keeps (keeps_foldl (fun t x ht => ?_) _ (keeps_mk h))
  split
  · exact toCandidate_keeps ht
  · exact provisional_keeps ht

theorem applyRef_keeps {o} {a : Applied} {c v} (h : Keeps o a.s) : Keeps o (applyRef a c v).s := by
  unfold applyRef
  extract_lets d0 d s es t
  have hs : Keeps o s := keeps_mk h
  have ht : Keeps o t := by
    unfold t
    exact keeps_foldl (fun _ _ hu => keeps_foldl (fun _ _ hv => toCandidate_keeps hv) _ hu) es hs
  clear_value s t es
  exact keeps_foldl_on Applied.s (fun a x ha => by simpa using ha) es ht

theorem applyMap_keeps {o} {a : Applied} {m} (h : Keeps o a.s) : Keeps o (applyMap a m).s := by
  unfold applyMap
  extract_lets s chuck t
  have hs : Keeps o s := by
    refine keeps_foldl (fun t c ht => ?_) _ h
    split
    · exact ht
    · exact keeps_mk ht
  simpa using postSpare_keeps (keeps_mk hs)

theorem applyStaged_keeps {o} {a0} {s1 : State} (h1 : Keeps o s1) : Keeps o (applyStaged a0 s1) := by
  unfold applyStaged
  extract_lets before here glides staged began a b c d e f ep s
  have hb : Keeps o b.s := keeps_foldl_on Applied.s (fun _ _ h => applyStage_keeps h) _ h1
  have hc : Keeps o c.s := keeps_foldl_on Applied.s (fun _ _ h => stepGlide_keeps h) _ hb
  have hd : Keeps o d.s := keeps_foldl_on Applied.s (fun _ _ h => applySwap_keeps h) _ hc
  have he : Keeps o e.s := keeps_foldl_on Applied.s (fun _ _ h => applyRef_keeps h) _ hd
  have hf : Keeps o f.s := keeps_foldl_on Applied.s (fun _ _ h => applyMap_keeps h) _ he
  split
  · exact hf
  · split
    · exact keeps_mk hf
    · exact postEvent_keeps (keeps_mk hf)

theorem settle_keeps {o} {a0} {s1 : State} (h1 : Keeps o s1) : Keeps o (settle a0 s1) := by
  unfold settle
  repeat' first
    | with_reducible assumption
    | with_reducible apply applyStaged_keeps
    | split

theorem settleReleased_keeps {o} {s0 : State} (h0 : Keeps o s0) : Keeps o (settleReleased s0) := by
  unfold settleReleased
  repeat' first
    | with_reducible assumption
    | (with_reducible apply keeps_mk; with_reducible assumption)
    | intro _
    | (extract_lets +onlyGivenNames x; clear_value x)
    | (extract_lets +onlyGivenNames x; have k := x; clear k)
    | with_reducible apply settle_keeps
    | with_reducible apply keeps_foldl

theorem stage_keeps {o} {a0} {a1} {a2} {s3 : State} (h3 : Keeps o s3) : Keeps o (stage a0 a1 a2 s3) := by
  unfold stage
  repeat' first
    | (with_reducible apply keeps_mk; with_reducible assumption)
    | (extract_lets +onlyGivenNames x; clear_value x)
    | with_reducible apply settle_keeps

theorem setWindow_keeps {o} {a0} {a1} {s2 : State} (h2 : Keeps o s2) : Keeps o (setWindow a0 a1 s2) := by
  unfold setWindow
  repeat' first
    | (with_reducible apply keeps_mk; with_reducible assumption)

theorem takeValue_keeps {o} {a0} {a1} {s2 : State} (h2 : Keeps o s2) : Keeps o (takeValue a0 a1 s2) := by
  unfold takeValue
  repeat' first
    | with_reducible assumption
    | with_reducible apply stage_keeps
    | split

theorem setDeck_keeps {o} {a0} {a1} {s2 : State} (h2 : Keeps o s2) : Keeps o (setDeck a0 a1 s2) := by
  unfold setDeck
  repeat' first
    | (with_reducible apply keeps_mk; with_reducible assumption)

theorem setDir_keeps {o} {a0} {a1} {s2 : State} (h2 : Keeps o s2) : Keeps o (setDir a0 a1 s2) := by
  unfold setDir
  repeat' first
    | (with_reducible apply keeps_mk; with_reducible assumption)

theorem resetElem_keeps {o} {a0} {s1 : State} (h1 : Keeps o s1) : Keeps o (resetElem a0 s1) := by
  unfold resetElem
  repeat' first
    | with_reducible assumption
    | (with_reducible apply keeps_mk; with_reducible assumption)
    | (extract_lets +onlyGivenNames x; refine keeps_with (o := o) (x := x) ?_ (fun hx => ?_); (on_goal 1 => (unfold x; clear x)); (on_goal 2 => clear_value x))
    | with_reducible apply dropCand_keeps
    | with_reducible apply setActive_keeps

theorem resetDrift_keeps {o} {a0} {s1 : State} (h1 : Keeps o s1) : Keeps o (resetDrift a0 s1) := by
  unfold resetDrift
  repeat' first
    | with_reducible assumption
    | (with_reducible apply keeps_mk; with_reducible assumption)
    | (extract_lets +onlyGivenNames x; refine keeps_with (o := o) (x := x) ?_ (fun hx => ?_); (on_goal 1 => (unfold x; clear x)); (on_goal 2 => clear_value x))
    | with_reducible apply resetElem_keeps

theorem freeDeck_keeps {o} {a0} {s1 : State} (h1 : Keeps o s1) : Keeps o (freeDeck a0 s1) := by
  unfold freeDeck
  repeat' first
    | with_reducible assumption
    | (with_reducible apply keeps_mk; with_reducible assumption)
    | (extract_lets +onlyGivenNames x; refine keeps_with (o := o) (x := x) ?_ (fun hx => ?_); (on_goal 1 => (unfold x; clear x)); (on_goal 2 => clear_value x))
    | with_reducible apply resetDrift_keeps
    | with_reducible apply setDir_keeps
    | with_reducible apply setDeck_keeps

theorem allocSide_keeps' {o} {a0} {a1} {a2} {s3 : State} (h3 : Keeps o s3) {y0} {t} (e : allocSide a0 a1 a2 s3 = some (y0, t)) :
    Keeps o t := by
  unfold allocSide at e
  extract_lets n used at e
  obtain ⟨a, -, h⟩ := Option.map_eq_some_iff.1 e
  obtain ⟨-, rfl⟩ := Prod.mk.inj h
  exact keeps_mk h3

theorem nextCounter_keeps {o} {a0} {s1 : State} (h1 : Keeps o s1) : Keeps o (nextCounter a0 s1).2 := by
  unfold nextCounter
  repeat' first
    | (with_reducible apply keeps_mk; with_reducible assumption)

theorem nextCounter_keeps' {o} {a0} {s1 : State} (h1 : Keeps o s1) {y0} {t} (e : nextCounter a0 s1 = (y0, t)) : Keeps o t := by
  have k := nextCounter_keeps (a0 := a0) h1
  rw [e] at k
  exact k

theorem setCore_keeps {o} {a0} {a1} {s2 : State} (h2 : Keeps o s2) : Keeps o (setCore a0 a1 s2) := by
  unfold setCore
  repeat' first
    | (with_reducible apply keeps_mk; with_reducible assumption)

theorem postHoneDone_keeps {o} {a0} {a1} {a2} {a3} {s4 : State} (h4 : Keeps o s4) : Keeps o (postHoneDone a0 a1 a2 a3 s4) := by
  unfold postHoneDone
  repeat' first
    | with_reducible assumption
    | with_reducible apply postEvent_keeps

theorem copySide_keeps {o} {a0} {a1} {a2} {a3} {s4 : State} (h4 : Keeps o s4) : Keeps o (copySide a0 a1 a2 a3 s4).2 := by
  unfold copySide
  repeat' first
    | with_reducible assumption
    | (with_reducible apply keeps_mk; with_reducible assumption)
    | (extract_lets +onlyGivenNames x; clear_value x)
    | (extract_lets +onlyGivenNames x; have k := x; clear k)
    | (with_reducible apply allocSide_keeps'; case e => with_reducible assumption)
    | with_reducible apply packageWrite_keeps
    | split

theorem copySide_keeps' {o} {a0} {a1} {a2} {a3} {s4 : State} (h4 : Keeps o s4) {y0} {t} (e : copySide a0 a1 a2 a3 s4 = (y0, t)) : Keeps o t := by
  have k := copySide_keeps (a0 := a0) (a1 := a1) (a2 := a2) (a3 := a3) h4
  rw [e] at k
  exact k

theorem honeDeck_keeps {o} {a0} {a1} {a2} {a3} {s4 : State} (h4 : Keeps o s4) : Keeps o (honeDeck a0 a1 a2 a3 s4) := by
  unfold honeDeck
  repeat' first
    | with_reducible assumption
    | (with_reducible apply keeps_mk; with_reducible assumption)
    | (extract_lets +onlyGivenNames x; refine keeps_with (o := o) (x := x) ?_ (fun hx => ?_); (on_goal 1 => (unfold x; clear x)); (on_goal 2 => clear_value x))
    | (extract_lets +onlyGivenNames x; clear_value x)
    | (extract_lets +onlyGivenNames x; have k := x; clear k)
    | (with_reducible apply nextCounter_keeps'; case e => with_reducible assumption)
    | (with_reducible apply copySide_keeps'; case e => with_reducible assumption)
    | with_reducible apply setDeck_keeps
    | with_reducible apply setDir_keeps
    | split

theorem trimRef_keeps {o} {a0} {s1 : State} (h1 : Keeps o s1) : Keeps o (trimRef a0 s1) := by
  unfold trimRef
  repeat' first
    | with_reducible assumption
    | (with_reducible apply keeps_mk; with_reducible assumption)
    | (extract_lets +onlyGivenNames x; refine keeps_with (o := o) (x := x) ?_ (fun hx => ?_); (on_goal 1 => (unfold x; clear x)); (on_goal 2 => clear_value x))
    | (extract_lets +onlyGivenNames x; clear_value x)
    | (extract_lets +onlyGivenNames x; have k := x; clear k)
    | with_reducible apply settle_keeps
    | with_reducible apply postEvent_keeps

theorem setHone_keeps {o} {a0} {a1} {s2 : State} (h2 : Keeps o s2) : Keeps o (setHone a0 a1 s2) := by
  unfold setHone
  repeat' first
    | (with_reducible apply keeps_mk; with_reducible assumption)

theorem spareReady_keeps {o} {a0} {s1 : State} (h1 : Keeps o s1) : Keeps o (spareReady a0 s1) := by
  unfold spareReady
  repeat' first
    | with_reducible assumption
    | (with_reducible apply keeps_mk; with_reducible assumption)
    | (extract_lets +onlyGivenNames x; refine keeps_with (o := o) (x := x) ?_ (fun hx => ?_); (on_goal 1 => (unfold x; clear x)); (on_goal 2 => clear_value x))
    | (extract_lets +onlyGivenNames x; clear_value x)
    | with_reducible apply trimRef_keeps
    | with_reducible apply setHone_keeps

theorem prepare_keeps {o} {a0} {s1 : State} (h1 : Keeps o s1) : Keeps o (prepare a0 s1) := by
  unfold prepare
  repeat' first
    | with_reducible assumption
    | (with_reducible apply keeps_mk; with_reducible assumption)
    | intro _
    | (extract_lets +onlyGivenNames x; refine keeps_with (o := o) (x := x) ?_ (fun hx => ?_); (on_goal 1 => (unfold x; clear x)); (on_goal 2 => clear_value x))
    | (extract_lets +onlyGivenNames x; clear_value x)
    | (extract_lets +onlyGivenNames x; have k := x; clear k)
    | with_reducible apply setCore_keeps
    | with_reducible apply spareReady_keeps
    | with_reducible apply honeDeck_keeps
    | with_reducible apply keeps_foldl
    | split

theorem setMark_keeps {o} {a0} {a1} {s2 : State} (h2 : Keeps o s2) : Keeps o (setMark a0 a1 s2) := by
  unfold setMark
  repeat' first
    | (with_reducible apply keeps_mk; with_reducible assumption)

theorem unmark_keeps {o} {a0} {s1 : State} (h1 : Keeps o s1) : Keeps o (unmark a0 s1) := by
  unfold unmark
  repeat' first
    | (with_reducible apply keeps_mk; with_reducible assumption)

/-- What starting to hone a core keeps. -/
def HoneKeeps (o : State) : HoneStart → Prop
  | .noSpare => True
  | .preparing t _ => Keeps o t
  | .reached t => Keeps o t

theorem startHone_keeps {o} {a0} {a1} {a2} {a3} {a4} {s5 : State} (h5 : Keeps o s5) :
    HoneKeeps o (startHone a0 a1 a2 a3 a4 s5) := by
  unfold startHone
  extract_lets c
  split
  · split
    · trivial
    · exact prepare_keeps h5
  · exact setCore_keeps (unmark_keeps h5)

theorem markSuspect_keeps {o} {a0} {a1} {s2 : State} (h2 : Keeps o s2) : Keeps o (markSuspect a0 a1 s2) := by
  unfold markSuspect
  split
  · exact h2
  extract_lets st ready s t
  have ht : Keeps o t := postEvent_keeps (setCore_keeps (setMark_keeps h2))
  split
  · exact ht
  split
  · exact ht
  have k := fun l => startHone_keeps (a0 := none) (a1 := st) (a2 := l) (a3 := false) (a4 := none) ht
  split
  · exact ht
  · rename_i l _ _ _ _ hq
    have k := k l
    rw [hq] at k
    exact k
  · rename_i l _ _ _ hq
    have k := k l
    rw [hq] at k
    exact k

theorem repairColumn_keeps {o} {a0} {a1} {s2 : State} (h2 : Keeps o s2) : Keeps o (repairColumn a0 a1 s2) := by
  unfold repairColumn
  repeat' first
    | with_reducible assumption
    | (with_reducible apply keeps_mk; with_reducible assumption)
    | (extract_lets +onlyGivenNames x; clear_value x)
    | with_reducible apply postEvent_keeps
    | split

theorem failElement_keeps {o} {a0} {a1} {s2 : State} (h2 : Keeps o s2) : Keeps o (failElement a0 a1 s2) := by
  unfold failElement
  repeat' first
    | with_reducible assumption
    | (with_reducible apply keeps_mk; with_reducible assumption)
    | (extract_lets +onlyGivenNames x; refine keeps_with (o := o) (x := x) ?_ (fun hx => ?_); (on_goal 1 => (unfold x; clear x)); (on_goal 2 => clear_value x))
    | (extract_lets +onlyGivenNames x; clear_value x)
    | (extract_lets +onlyGivenNames x; have k := x; clear k)
    | with_reducible apply dropCand_keeps
    | with_reducible apply stage_keeps
    | with_reducible apply postEvent_keeps
    | with_reducible apply setCore_keeps
    | with_reducible apply setMark_keeps
    | with_reducible apply settle_keeps
    | with_reducible apply repairColumn_keeps
    | split

theorem suspectPass_keeps {o} {a0} {a1} {s2 : State} (h2 : Keeps o s2) : Keeps o (suspectPass a0 a1 s2) := by
  unfold suspectPass
  repeat' first
    | with_reducible assumption
    | with_reducible apply setPart_keeps
    | split

theorem blame_keeps {o} {a0} {s1 : State} (h1 : Keeps o s1) : Keeps o (blame a0 s1) := by
  unfold blame
  repeat' first
    | with_reducible assumption
    | with_reducible apply setPart_keeps
    | split

theorem outlier_keeps {o} {a0} {a1} {a2} {s3 : State} (h3 : Keeps o s3) : Keeps o (outlier a0 a1 a2 s3) := by
  unfold outlier
  repeat' first
    | with_reducible assumption
    | (extract_lets +onlyGivenNames x; refine keeps_with (o := o) (x := x) ?_ (fun hx => ?_); (on_goal 1 => (unfold x; clear x)); (on_goal 2 => clear_value x))
    | (extract_lets +onlyGivenNames x; clear_value x)
    | (extract_lets +onlyGivenNames x; have k := x; clear k)
    | with_reducible apply postEvent_keeps
    | with_reducible apply postPlan_keeps
    | with_reducible apply suspectPass_keeps
    | with_reducible apply markSuspect_keeps
    | with_reducible apply blame_keeps
    | split

theorem endWarmups_keeps {o} {s0 : State} (h0 : Keeps o s0) : Keeps o (endWarmups s0) := by
  unfold endWarmups
  repeat' first
    | with_reducible assumption
    | (with_reducible apply keeps_mk; with_reducible assumption)
    | intro _
    | (extract_lets +onlyGivenNames x; clear_value x)
    | (extract_lets +onlyGivenNames x; have k := x; clear k)
    | with_reducible apply complete_keeps
    | with_reducible apply keeps_foldl

theorem endCandidate_keeps {o} {a0} {a1} {a2} {s3 : State} (h3 : Keeps o s3) : Keeps o (endCandidate a0 a1 a2 s3) := by
  unfold endCandidate
  repeat' first
    | with_reducible assumption
    | (with_reducible apply keeps_mk; with_reducible assumption)
    | (extract_lets +onlyGivenNames x; refine keeps_with (o := o) (x := x) ?_ (fun hx => ?_); (on_goal 1 => (unfold x; clear x)); (on_goal 2 => clear_value x))
    | (extract_lets +onlyGivenNames x; clear_value x)
    | with_reducible apply restoreStep_keeps
    | with_reducible apply stage_keeps
    | split

theorem setService_keeps {o} {a0} {a1} {s2 : State} (h2 : Keeps o s2) : Keeps o (setService a0 a1 s2) := by
  unfold setService
  repeat' first
    | (with_reducible apply keeps_mk; with_reducible assumption)

theorem pushRequest_keeps {o} {a0} {s1 : State} (h1 : Keeps o s1) : Keeps o (pushRequest a0 s1) := by
  unfold pushRequest
  repeat' first
    | with_reducible assumption
    | (with_reducible apply keeps_mk; with_reducible assumption)
    | (extract_lets +onlyGivenNames x; refine keeps_with (o := o) (x := x) ?_ (fun hx => ?_); (on_goal 1 => (unfold x; clear x)); (on_goal 2 => clear_value x))
    | (extract_lets +onlyGivenNames x; clear_value x)
    | with_reducible apply setService_keeps

theorem noteAsked_keeps {o} {a0} {a1} {a2} {a3} {s4 : State} (h4 : Keeps o s4) : Keeps o (noteAsked a0 a1 a2 a3 s4) := by
  unfold noteAsked
  repeat' first
    | with_reducible assumption
    | (with_reducible apply keeps_mk; with_reducible assumption)
    | (extract_lets +onlyGivenNames x; refine keeps_with (o := o) (x := x) ?_ (fun hx => ?_); (on_goal 1 => (unfold x; clear x)); (on_goal 2 => clear_value x))
    | with_reducible apply setPart_keeps
    | split

theorem requestElems_keeps {o} {a0} {a1} {a2} {a3} {a4} {a5} {a6} {a7} {s8 : State} (h8 : Keeps o s8) : Keeps o (requestElems a0 a1 a2 a3 a4 a5 a6 a7 s8) := by
  unfold requestElems
  repeat' first
    | with_reducible assumption
    | intro _
    | (extract_lets +onlyGivenNames x; clear_value x)
    | (extract_lets +onlyGivenNames x; have k := x; clear k)
    | with_reducible apply pushRequest_keeps
    | with_reducible apply noteAsked_keeps
    | with_reducible apply keeps_foldl

theorem invalidOp_keeps {o} {a0} {a1} {a2} {s3 : State} (h3 : Keeps o s3) : Keeps o (invalidOp a0 a1 a2 s3) := by
  unfold invalidOp
  repeat' first
    | with_reducible assumption
    | with_reducible apply endFly_keeps
    | with_reducible apply postOncePerPass_keeps

theorem takeRecord_keeps {o} {a0} {a1} {a2} {a3} {s4 : State} (h4 : Keeps o s4) : Keeps o (takeRecord a0 a1 a2 a3 s4) := by
  unfold takeRecord
  repeat' first
    | with_reducible assumption
    | (extract_lets +onlyGivenNames x; refine keeps_with (o := o) (x := x) ?_ (fun hx => ?_); (on_goal 1 => (unfold x; clear x)); (on_goal 2 => clear_value x))
    | (extract_lets +onlyGivenNames x; clear_value x)
    | with_reducible apply invalidOp_keeps
    | with_reducible apply requestElems_keeps
    | with_reducible apply setFly_keeps
    | split

theorem trueSource_keeps {o} {a0} {a1} {a2} {a3} {s4 : State} (h4 : Keeps o s4) : Keeps o (trueSource a0 a1 a2 a3 s4) := by
  unfold trueSource
  repeat' first
    | with_reducible assumption
    | intro _
    | (extract_lets +onlyGivenNames x; clear_value x)
    | (extract_lets +onlyGivenNames x; have k := x; clear k)
    | with_reducible apply withSource_keeps
    | with_reducible apply takeRecord_keeps

theorem startTrue_keeps {o} {a0} {a1} {s2 : State} (h2 : Keeps o s2) : Keeps o (startTrue a0 a1 s2) := by
  unfold startTrue
  repeat' first
    | with_reducible assumption
    | (extract_lets +onlyGivenNames x; clear_value x)
    | with_reducible apply invalidOp_keeps
    | with_reducible apply trueSource_keeps
    | split

theorem execTrueOp_keeps {o} {a0} {a1} {s2 : State} (h2 : Keeps o s2) : OutKeeps o (execTrueOp a0 a1 s2) := by
  unfold execTrueOp
  repeat' first
    | with_reducible assumption
    | intro _
    | with_reducible apply issue_keeps
    | with_reducible apply startTrue_keeps
    | with_reducible apply outKeeps_next

theorem noteSaturated_keeps {o} {a0} {a1} {a2} {s3 : State} (h3 : Keeps o s3) : Keeps o (noteSaturated a0 a1 a2 s3) := by
  unfold noteSaturated
  repeat' first
    | with_reducible assumption
    | (extract_lets +onlyGivenNames x; clear_value x)
    | with_reducible apply postOncePerPass_keeps
    | split

theorem flushTrue_keeps {o} {a0} {a1} {a2} {s3 : State} (h3 : Keeps o s3) : Keeps o (flushTrue a0 a1 a2 s3) := by
  unfold flushTrue
  repeat' first
    | with_reducible assumption
    | (with_reducible apply keeps_stores; with_reducible assumption)
    | intro _
    | (extract_lets +onlyGivenNames x; refine keeps_with (o := o) (x := x) ?_ (fun hx => ?_); (on_goal 1 => (unfold x; clear x)); (on_goal 2 => clear_value x))
    | (extract_lets +onlyGivenNames x; have k : Stores := x; clear k; subst x)
    | (extract_lets +onlyGivenNames x; clear_value x)
    | (extract_lets +onlyGivenNames x; have k := x; clear k)
    | with_reducible apply setFly_keeps
    | with_reducible apply noteSaturated_keeps
    | with_reducible apply keeps_foldl
    | split

theorem compareOne_keeps {o} {a0} {a1} {a2} {a3} {s4 : State} (h4 : Keeps o s4) : Keeps o (compareOne a0 a1 a2 a3 s4).2 := by
  unfold compareOne
  repeat' first
    | with_reducible assumption
    | (with_reducible apply keeps_mk; with_reducible assumption)
    | (extract_lets +onlyGivenNames x; refine keeps_with (o := o) (x := x) ?_ (fun hx => ?_); (on_goal 1 => (unfold x; clear x)); (on_goal 2 => clear_value x))
    | (extract_lets +onlyGivenNames x; clear_value x)
    | with_reducible apply requestElems_keeps
    | with_reducible apply setFly_keeps
    | split

theorem compareOne_keeps' {o} {a0} {a1} {a2} {a3} {s4 : State} (h4 : Keeps o s4) {y0} {t} (e : compareOne a0 a1 a2 a3 s4 = (y0, t)) : Keeps o t := by
  have k := compareOne_keeps (a0 := a0) (a1 := a1) (a2 := a2) (a3 := a3) h4
  rw [e] at k
  exact k

theorem compareAll_keeps {o} {a0} {a1} {a2} {s3 : State} (h3 : Keeps o s3) : Keeps o (compareAll a0 a1 a2 s3).2 := by
  unfold compareAll
  split
  · exact h3
  · exact keeps_foldl_on Prod.snd (fun a x h => compareOne_keeps h) _ h3

theorem compareAll_keeps' {o} {a0} {a1} {a2} {s3 : State} (h3 : Keeps o s3) {y0} {t} (e : compareAll a0 a1 a2 s3 = (y0, t)) : Keeps o t := by
  have k := compareAll_keeps (a0 := a0) (a1 := a1) (a2 := a2) h3
  rw [e] at k
  exact k

theorem advanceTrue_keeps {o} {a0} {a1} {a2} {s3 : State} (h3 : Keeps o s3) : Keeps o (advanceTrue a0 a1 a2 s3) := by
  unfold advanceTrue
  repeat' first
    | with_reducible assumption
    | with_reducible apply compareAll_keeps
    | with_reducible apply flushTrue_keeps

theorem closeDrift_keeps {o} {a0} {a1} {a2} {s3 : State} (h3 : Keeps o s3) : Keeps o (closeDrift a0 a1 a2 s3) := by
  unfold closeDrift
  repeat' first
    | with_reducible assumption
    | (extract_lets +onlyGivenNames x; refine keeps_with (o := o) (x := x) ?_ (fun hx => ?_); (on_goal 1 => (unfold x; clear x)); (on_goal 2 => clear_value x))
    | (extract_lets +onlyGivenNames x; clear_value x)
    | with_reducible apply outlier_keeps
    | with_reducible apply postEvent_keeps
    | with_reducible apply stage_keeps
    | split

theorem driftCandidate_keeps {o} {a0} {a1} {a2} {a3} {a4} {s5 : State} (h5 : Keeps o s5) : Keeps o (driftCandidate a0 a1 a2 a3 a4 s5) := by
  unfold driftCandidate
  repeat' first
    | with_reducible assumption
    | (with_reducible apply keeps_mk; with_reducible assumption)
    | (extract_lets +onlyGivenNames x; clear_value x)
    | (extract_lets +onlyGivenNames x; have k := x; clear k)
    | with_reducible apply endCandidate_keeps
    | split

theorem observe_keeps {o} {a0} {a1} {s2 : State} (h2 : Keeps o s2) : Keeps o (observe a0 a1 s2) := by
  unfold observe
  repeat' first
    | with_reducible assumption
    | (with_reducible apply keeps_mk; with_reducible assumption)
    | (extract_lets +onlyGivenNames x; refine keeps_with (o := o) (x := x) ?_ (fun hx => ?_); (on_goal 1 => (unfold x; clear x)); (on_goal 2 => clear_value x))
    | (extract_lets +onlyGivenNames x; clear_value x)
    | (extract_lets +onlyGivenNames x; have k := x; clear k)
    | with_reducible apply driftCandidate_keeps
    | with_reducible apply closeDrift_keeps
    | with_reducible apply outlier_keeps
    | split

theorem openTrue_keeps {o} {a0} {s1 : State} (h1 : Keeps o s1) : Keeps o (openTrue a0 s1) := by
  unfold openTrue
  repeat' first
    | with_reducible assumption
    | with_reducible apply advanceTrue_keeps
    | with_reducible apply observe_keeps
    | split

theorem execTrueOutputWrite_keeps {o} {a0} {s1 : State} (h1 : Keeps o s1) : OutKeeps o (execTrueOutputWrite a0 s1) := by
  unfold execTrueOutputWrite
  repeat' first
    | with_reducible assumption
    | with_reducible apply openTrue_keeps
    | with_reducible apply outKeeps_next

theorem deliverExact_keeps {o} {a0} {a1} {s2 : State} (h2 : Keeps o s2) : Keeps o (deliverExact a0 a1 s2) := by
  unfold deliverExact
  repeat' first
    | with_reducible assumption
    | intro _
    | (extract_lets +onlyGivenNames x; refine keeps_with (o := o) (x := x) ?_ (fun hx => ?_); (on_goal 1 => (unfold x; clear x)); (on_goal 2 => clear_value x))
    | (extract_lets +onlyGivenNames x; clear_value x)
    | (extract_lets +onlyGivenNames x; have k := x; clear k)
    | with_reducible apply setPart_keeps
    | with_reducible apply advanceTrue_keeps
    | with_reducible apply keeps_foldl
    | split

theorem resolveReplay_keeps {o} {a0} {a1} {s2 : State} (h2 : Keeps o s2) : Keeps o (resolveReplay a0 a1 s2) := by
  unfold resolveReplay
  repeat' first
    | with_reducible assumption
    | (with_reducible apply keeps_mk; with_reducible assumption)
    | intro _
    | (extract_lets +onlyGivenNames x; refine keeps_with (o := o) (x := x) ?_ (fun hx => ?_); (on_goal 1 => (unfold x; clear x)); (on_goal 2 => clear_value x))
    | (extract_lets +onlyGivenNames x; clear_value x)
    | (extract_lets +onlyGivenNames x; have k := x; clear k)
    | with_reducible apply postOncePerPass_keeps
    | with_reducible apply failElement_keeps
    | with_reducible apply markSuspect_keeps
    | with_reducible apply blame_keeps
    | with_reducible apply advanceTrue_keeps
    | with_reducible apply keeps_foldl
    | split

theorem execReadReplayResolve_keeps {o} {a0} {a1} {s2 : State} (h2 : Keeps o s2) : OutKeeps o (execReadReplayResolve a0 a1 s2) := by
  unfold execReadReplayResolve
  repeat' first
    | with_reducible assumption
    | with_reducible apply resolveReplay_keeps
    | with_reducible apply outKeeps_next

theorem postUnit_keeps {o} {a0} {a1} {a2} {a3} {s4 : State} (h4 : Keeps o s4) : Keeps o (postUnit a0 a1 a2 a3 s4) := by
  unfold postUnit
  repeat' first
    | with_reducible assumption
    | with_reducible apply postOncePerPass_keeps

theorem noteReduce_keeps {o} {a0} {a1} {a2} {s3 : State} (h3 : Keeps o s3) : Keeps o (noteReduce a0 a1 a2 s3) := by
  unfold noteReduce
  repeat' first
    | with_reducible assumption
    | (extract_lets +onlyGivenNames x; refine keeps_with (o := o) (x := x) ?_ (fun hx => ?_); (on_goal 1 => (unfold x; clear x)); (on_goal 2 => clear_value x))
    | with_reducible apply postUnit_keeps
    | with_reducible apply postOncePerPass_keeps
    | split

theorem startCoreReduce_keeps {o} {a0} {a1} {s2 : State} (h2 : Keeps o s2) : Keeps o (startCoreReduce a0 a1 s2) := by
  unfold startCoreReduce
  repeat' first
    | with_reducible assumption
    | intro _
    | (extract_lets +onlyGivenNames x; clear_value x)
    | (extract_lets +onlyGivenNames x; have k := x; clear k)
    | with_reducible apply withSource_keeps
    | with_reducible apply hold_keeps
    | with_reducible apply noteReduce_keeps

theorem execCoreReduce_keeps {o} {a0} {a1} {s2 : State} (h2 : Keeps o s2) : OutKeeps o (execCoreReduce a0 a1 s2) := by
  unfold execCoreReduce
  repeat' first
    | with_reducible assumption
    | intro _
    | with_reducible apply issue_keeps
    | with_reducible apply startCoreReduce_keeps
    | with_reducible apply outKeeps_next

theorem execCoreReduceWrite_keeps {o} {a0} {s1 : State} (h1 : Keeps o s1) : OutKeeps o (execCoreReduceWrite a0 s1) := by
  unfold execCoreReduceWrite
  repeat' first
    | with_reducible assumption
    | with_reducible apply writeHeld_keeps
    | with_reducible apply outKeeps_next

theorem listInvalid_keeps {o} {a0} {a1} {s2 : State} (h2 : Keeps o s2) : Keeps o (listInvalid a0 a1 s2) := by
  unfold listInvalid
  repeat' first
    | with_reducible assumption
    | with_reducible apply endFly_keeps
    | with_reducible apply postOncePerPass_keeps

theorem waitFor_keeps {o} {a0} {a1} {a2} {s3 : State} (h3 : Keeps o s3) : Keeps o (waitFor a0 a1 a2 s3) := by
  unfold waitFor
  repeat' first
    | with_reducible assumption
    | with_reducible apply setFly_keeps

theorem startStackReduce_keeps {o} {a0} {a1} {s2 : State} (h2 : Keeps o s2) : Keeps o (startStackReduce a0 a1 s2) := by
  unfold startStackReduce
  repeat' first
    | with_reducible assumption
    | intro _
    | (extract_lets +onlyGivenNames x; clear_value x)
    | (extract_lets +onlyGivenNames x; have k := x; clear k)
    | with_reducible apply waitFor_keeps
    | with_reducible apply listInvalid_keeps
    | with_reducible apply withSource_keeps
    | with_reducible apply hold_keeps
    | with_reducible apply noteReduce_keeps
    | split

theorem execStackReduce_keeps {o} {a0} {a1} {s2 : State} (h2 : Keeps o s2) : OutKeeps o (execStackReduce a0 a1 s2) := by
  unfold execStackReduce
  repeat' first
    | with_reducible assumption
    | intro _
    | with_reducible apply issue_keeps
    | with_reducible apply startStackReduce_keeps
    | with_reducible apply outKeeps_next

theorem execStackReduceWrite_keeps {o} {a0} {s1 : State} (h1 : Keeps o s1) : OutKeeps o (execStackReduceWrite a0 s1) := by
  unfold execStackReduceWrite
  repeat' first
    | with_reducible assumption
    | with_reducible apply writeHeld_keeps
    | with_reducible apply outKeeps_next

theorem noteOdd_keeps {o} {a0} {a1} {s2 : State} (h2 : Keeps o s2) : Keeps o (noteOdd a0 a1 s2) := by
  unfold noteOdd
  repeat' first
    | with_reducible assumption
    | with_reducible apply postUnit_keeps
    | split

theorem runFuse_keeps {o} {a0} {a1} {a2} {a3} {a4} {s5 : State} (h5 : Keeps o s5) : Keeps o (runFuse a0 a1 a2 a3 a4 s5) := by
  unfold runFuse
  repeat' first
    | with_reducible assumption
    | (extract_lets +onlyGivenNames x; refine keeps_with (o := o) (x := x) ?_ (fun hx => ?_); (on_goal 1 => (unfold x; clear x)); (on_goal 2 => clear_value x))
    | (extract_lets +onlyGivenNames x; clear_value x)
    | (extract_lets +onlyGivenNames x; have k := x; clear k)
    | with_reducible apply noteOdd_keeps
    | with_reducible apply postUnit_keeps
    | with_reducible apply hold_keeps
    | split

theorem fuseSource_keeps {o} {a0} {a1} {a2} {s3 : State} (h3 : Keeps o s3) : Keeps o (fuseSource a0 a1 a2 s3) := by
  unfold fuseSource
  repeat' first
    | with_reducible assumption
    | intro _
    | (extract_lets +onlyGivenNames x; clear_value x)
    | (extract_lets +onlyGivenNames x; have k := x; clear k)
    | with_reducible apply waitFor_keeps
    | with_reducible apply invalidOp_keeps
    | with_reducible apply withSource_keeps
    | with_reducible apply runFuse_keeps
    | split

theorem startFuse_keeps {o} {a0} {a1} {s2 : State} (h2 : Keeps o s2) : Keeps o (startFuse a0 a1 s2) := by
  unfold startFuse
  repeat' first
    | with_reducible assumption
    | (extract_lets +onlyGivenNames x; clear_value x)
    | with_reducible apply invalidOp_keeps
    | with_reducible apply fuseSource_keeps
    | split

theorem execFuse_keeps {o} {a0} {a1} {s2 : State} (h2 : Keeps o s2) : OutKeeps o (execFuse a0 a1 s2) := by
  unfold execFuse
  repeat' first
    | with_reducible assumption
    | intro _
    | with_reducible apply issue_keeps
    | with_reducible apply startFuse_keeps
    | with_reducible apply outKeeps_next

theorem execFuseWrite_keeps {o} {a0} {s1 : State} (h1 : Keeps o s1) : OutKeeps o (execFuseWrite a0 s1) := by
  unfold execFuseWrite
  repeat' first
    | with_reducible assumption
    | with_reducible apply writeHeld_keeps
    | with_reducible apply outKeeps_next

end Sys2Proof.Machine
end

