-- ==== Sys2Proof/Laws/Keeps3.lean ====
section
/-!
SUPPORT. What attention, sampling, halting, cluster transfers and the fabric keep.
-/

namespace Sys2Proof.Machine

theorem setCtx_keeps {o} {a0} {a1} {s2 : State} (h2 : Keeps o s2) : Keeps o (setCtx a0 a1 s2) := by
  unfold setCtx
  repeat' first
    | (with_reducible apply keeps_mk; with_reducible assumption)

theorem invalidUnit_keeps {o} {a0} {a1} {a2} {a3} {s4 : State} (h4 : Keeps o s4) : Keeps o (invalidUnit a0 a1 a2 a3 s4) := by
  unfold invalidUnit
  repeat' first
    | with_reducible assumption
    | with_reducible apply endFly_keeps
    | with_reducible apply postOncePerPass_keeps

theorem invalidDesc_keeps {o} {a0} {a1} {a2} {s3 : State} (h3 : Keeps o s3) : Keeps o (invalidDesc a0 a1 a2 s3) := by
  unfold invalidDesc
  repeat' first
    | with_reducible assumption
    | with_reducible apply invalidUnit_keeps

theorem kvSource_keeps {o} {a0} {a1} {a2} {s3 : State} (h3 : Keeps o s3) : Keeps o (kvSource a0 a1 a2 s3) := by
  unfold kvSource
  repeat' first
    | with_reducible assumption
    | intro _
    | (extract_lets +onlyGivenNames x; refine keeps_with (o := o) (x := x) ?_ (fun hx => ?_); (on_goal 1 => (unfold x; clear x)); (on_goal 2 => clear_value x))
    | (extract_lets +onlyGivenNames x; clear_value x)
    | with_reducible apply waitFor_keeps
    | with_reducible apply invalidDesc_keeps
    | with_reducible apply withSource_keeps
    | with_reducible apply endFly_keeps
    | with_reducible apply noteOdd_keeps
    | with_reducible apply setFly_keeps
    | split

theorem startKv_keeps {o} {a0} {a1} {s2 : State} (h2 : Keeps o s2) : Keeps o (startKv a0 a1 s2) := by
  unfold startKv
  repeat' first
    | with_reducible assumption
    | with_reducible apply kvSource_keeps

theorem execKvAppend_keeps {o} {a0} {a1} {s2 : State} (h2 : Keeps o s2) : OutKeeps o (execKvAppend a0 a1 s2) := by
  unfold execKvAppend
  repeat' first
    | with_reducible assumption
    | intro _
    | with_reducible apply issue_keeps
    | with_reducible apply startKv_keeps
    | with_reducible apply outKeeps_next

theorem writeKv_keeps {o} {a0} {s1 : State} (h1 : Keeps o s1) : Keeps o (writeKv a0 s1) := by
  unfold writeKv
  repeat' first
    | with_reducible assumption
    | (extract_lets +onlyGivenNames x; refine keeps_with (o := o) (x := x) ?_ (fun hx => ?_); (on_goal 1 => (unfold x; clear x)); (on_goal 2 => clear_value x))
    | (extract_lets +onlyGivenNames x; clear_value x)
    | (extract_lets +onlyGivenNames x; have k := x; clear k)
    | with_reducible apply setPart_keeps
    | with_reducible apply endFly_keeps
    | with_reducible apply setCtx_keeps
    | split

theorem execKvAppendWrite_keeps {o} {a0} {s1 : State} (h1 : Keeps o s1) : OutKeeps o (execKvAppendWrite a0 s1) := by
  unfold execKvAppendWrite
  repeat' first
    | with_reducible assumption
    | with_reducible apply writeKv_keeps
    | with_reducible apply outKeeps_next

theorem attendSource_keeps {o} {a0} {a1} {a2} {s3 : State} (h3 : Keeps o s3) : Keeps o (attendSource a0 a1 a2 s3) := by
  unfold attendSource
  repeat' first
    | with_reducible assumption
    | (with_reducible apply keeps_mk; with_reducible assumption)
    | intro _
    | (extract_lets +onlyGivenNames x; refine keeps_fun (o := o) (f := x) ?_ (fun hx => ?_); (on_goal 1 => (unfold x; clear x)); (on_goal 2 => clear_value x))
    | (extract_lets +onlyGivenNames x; clear_value x)
    | (extract_lets +onlyGivenNames x; have k := x; clear k)
    | with_reducible apply waitFor_keeps
    | with_reducible apply invalidDesc_keeps
    | with_reducible apply withSource_keeps
    | with_reducible apply setFly_keeps
    | with_reducible apply_assumption -exfalso
    | split

theorem startAttend_keeps {o} {a0} {a1} {s2 : State} (h2 : Keeps o s2) : Keeps o (startAttend a0 a1 s2) := by
  unfold startAttend
  repeat' first
    | with_reducible assumption
    | with_reducible apply attendSource_keeps

theorem execAttend_keeps {o} {a0} {a1} {s2 : State} (h2 : Keeps o s2) : OutKeeps o (execAttend a0 a1 s2) := by
  unfold execAttend
  repeat' first
    | with_reducible assumption
    | intro _
    | with_reducible apply issue_keeps
    | with_reducible apply startAttend_keeps
    | with_reducible apply outKeeps_next

theorem beginMove_keeps {o} {a0} {a1} {a2} {a3} {s4 : State} (h4 : Keeps o s4) : Keeps o (beginMove a0 a1 a2 a3 s4) := by
  unfold beginMove
  repeat' first
    | with_reducible assumption
    | (with_reducible apply keeps_mk; with_reducible assumption)
    | (extract_lets +onlyGivenNames x; clear_value x)
    | split

theorem touchPage_keeps {o} {a0} {a1} {a2} {s3 : State} {a4} (h3 : Keeps o s3) : Keeps o (touchPage a0 a1 a2 s3 a4) := by
  unfold touchPage
  repeat' first
    | with_reducible assumption
    | (extract_lets +onlyGivenNames x; refine keeps_with (o := o) (x := x) ?_ (fun hx => ?_); (on_goal 1 => (unfold x; clear x)); (on_goal 2 => clear_value x))
    | (extract_lets +onlyGivenNames x; clear_value x)
    | with_reducible apply setCtx_keeps
    | with_reducible apply beginMove_keeps
    | split

theorem writeAttend_keeps {o} {a0} {s1 : State} (h1 : Keeps o s1) : Keeps o (writeAttend a0 s1) := by
  unfold writeAttend
  repeat' first
    | with_reducible assumption
    | (with_reducible apply keeps_mk; with_reducible assumption)
    | intro _
    | (extract_lets +onlyGivenNames x; refine keeps_with (o := o) (x := x) ?_ (fun hx => ?_); (on_goal 1 => (unfold x; clear x)); (on_goal 2 => clear_value x))
    | (extract_lets +onlyGivenNames x; clear_value x)
    | (extract_lets +onlyGivenNames x; have k := x; clear k)
    | with_reducible apply touchPage_keeps
    | with_reducible apply tryWrite_keeps
    | with_reducible apply noteOdd_keeps
    | with_reducible apply keeps_foldl
    | split

theorem execAttendWrite_keeps {o} {a0} {s1 : State} (h1 : Keeps o s1) : OutKeeps o (execAttendWrite a0 s1) := by
  unfold execAttendWrite
  repeat' first
    | with_reducible assumption
    | with_reducible apply writeAttend_keeps
    | with_reducible apply outKeeps_next

theorem setSession_keeps {o} {a0} {a1} {s2 : State} (h2 : Keeps o s2) : Keeps o (setSession a0 a1 s2) := by
  unfold setSession
  repeat' first
    | (with_reducible apply keeps_mk; with_reducible assumption)

theorem nameSlot_keeps {o} {a0} {a1} {s2 : State} (h2 : Keeps o s2) : Keeps o (nameSlot a0 a1 s2) := by
  unfold nameSlot
  repeat' first
    | with_reducible assumption
    | (extract_lets +onlyGivenNames x; clear_value x)
    | with_reducible apply setPart_keeps
    | split

theorem noteDecided_keeps {o} {a0} {a1} {a2} {s3 : State} (h3 : Keeps o s3) : Keeps o (noteDecided a0 a1 a2 s3) := by
  unfold noteDecided
  repeat' first
    | with_reducible assumption
    | (extract_lets +onlyGivenNames x; clear_value x)
    | with_reducible apply setPart_keeps
    | split

theorem finishInvalid_keeps {o} {a0} {a1} {s2 : State} (h2 : Keeps o s2) : Keeps o (finishInvalid a0 a1 s2) := by
  unfold finishInvalid
  repeat' first
    | with_reducible assumption
    | with_reducible apply invalidUnit_keeps

theorem putDecision_keeps {o} {a0} {a1} {a2} {a3} {s4 : State} (h4 : Keeps o s4) : Keeps o (putDecision a0 a1 a2 a3 s4) := by
  unfold putDecision
  repeat' first
    | with_reducible assumption
    | with_reducible apply hold_keeps
    | with_reducible apply noteDecided_keeps

theorem finishSource_keeps {o} {a0} {a1} {s2 : State} (h2 : Keeps o s2) : Keeps o (finishSource a0 a1 s2) := by
  unfold finishSource
  repeat' first
    | with_reducible assumption
    | intro _
    | (extract_lets +onlyGivenNames x; refine keeps_with (o := o) (x := x) ?_ (fun hx => ?_); (on_goal 1 => (unfold x; clear x)); (on_goal 2 => clear_value x))
    | (extract_lets +onlyGivenNames x; clear_value x)
    | with_reducible apply putDecision_keeps
    | with_reducible apply waitFor_keeps
    | with_reducible apply finishInvalid_keeps
    | with_reducible apply withSource_keeps
    | with_reducible apply noteOdd_keeps
    | split

theorem startFinish_keeps {o} {a0} {a1} {s2 : State} (h2 : Keeps o s2) : Keeps o (startFinish a0 a1 s2) := by
  unfold startFinish
  repeat' first
    | with_reducible assumption
    | (extract_lets +onlyGivenNames x; refine keeps_with (o := o) (x := x) ?_ (fun hx => ?_); (on_goal 1 => (unfold x; clear x)); (on_goal 2 => clear_value x))
    | (extract_lets +onlyGivenNames x; clear_value x)
    | with_reducible apply nameSlot_keeps
    | with_reducible apply finishInvalid_keeps
    | with_reducible apply finishSource_keeps
    | split

theorem execFinish_keeps {o} {a0} {a1} {s2 : State} (h2 : Keeps o s2) : OutKeeps o (execFinish a0 a1 s2) := by
  unfold execFinish
  repeat' first
    | with_reducible assumption
    | intro _
    | with_reducible apply issue_keeps
    | with_reducible apply startFinish_keeps
    | with_reducible apply outKeeps_next

theorem execFinishDecisionWrite_keeps {o} {a0} {s1 : State} (h1 : Keeps o s1) : OutKeeps o (execFinishDecisionWrite a0 s1) := by
  unfold execFinishDecisionWrite
  repeat' first
    | with_reducible assumption
    | with_reducible apply writeHeld_keeps
    | with_reducible apply outKeeps_next

theorem sampleSource_keeps {o} {a0} {a1} {s2 : State} (h2 : Keeps o s2) : Keeps o (sampleSource a0 a1 s2) := by
  unfold sampleSource
  repeat' first
    | with_reducible assumption
    | intro _
    | (extract_lets +onlyGivenNames x; refine keeps_with (o := o) (x := x) ?_ (fun hx => ?_); (on_goal 1 => (unfold x; clear x)); (on_goal 2 => clear_value x))
    | (extract_lets +onlyGivenNames x; clear_value x)
    | with_reducible apply putDecision_keeps
    | with_reducible apply finishInvalid_keeps
    | with_reducible apply waitFor_keeps
    | with_reducible apply withSource_keeps
    | with_reducible apply noteOdd_keeps
    | split

theorem startSample_keeps {o} {a0} {a1} {s2 : State} (h2 : Keeps o s2) : Keeps o (startSample a0 a1 s2) := by
  unfold startSample
  repeat' first
    | with_reducible assumption
    | (extract_lets +onlyGivenNames x; refine keeps_with (o := o) (x := x) ?_ (fun hx => ?_); (on_goal 1 => (unfold x; clear x)); (on_goal 2 => clear_value x))
    | (extract_lets +onlyGivenNames x; clear_value x)
    | with_reducible apply nameSlot_keeps
    | with_reducible apply finishInvalid_keeps
    | with_reducible apply sampleSource_keeps
    | split

theorem execSample_keeps {o} {a0} {a1} {s2 : State} (h2 : Keeps o s2) : OutKeeps o (execSample a0 a1 s2) := by
  unfold execSample
  repeat' first
    | with_reducible assumption
    | intro _
    | with_reducible apply issue_keeps
    | with_reducible apply startSample_keeps
    | with_reducible apply outKeeps_next

theorem execSampleWrite_keeps {o} {a0} {s1 : State} (h1 : Keeps o s1) : OutKeeps o (execSampleWrite a0 s1) := by
  unfold execSampleWrite
  repeat' first
    | with_reducible assumption
    | with_reducible apply writeHeld_keeps
    | with_reducible apply outKeeps_next

theorem discardTail_keeps {o} {a0} {s1 : State} (h1 : Keeps o s1) : Keeps o (discardTail a0 s1) := by
  unfold discardTail
  repeat' first
    | with_reducible assumption
    | with_reducible apply setCtx_keeps
    | split

theorem unhost_keeps {o} {a0} {s1 : State} (h1 : Keeps o s1) : Keeps o (unhost a0 s1) := by
  unfold unhost
  repeat' first
    | (with_reducible apply keeps_mk; with_reducible assumption)

theorem clearPass_keeps {o} {a0} {s1 : State} (h1 : Keeps o s1) : Keeps o (clearPass a0 s1) := by
  unfold clearPass
  extract_lets mine a b c d s
  exact setPart_keeps (keeps_order h1 rfl)

theorem dropEmpties_keeps {o} {a0} {s1 : State} (h1 : Keeps o s1) : Keeps o (dropEmpties a0 s1) := by
  unfold dropEmpties
  repeat' first
    | (with_reducible apply keeps_stores; with_reducible assumption)

theorem dropSums_keeps {o} {a0} {s1 : State} (h1 : Keeps o s1) : Keeps o (dropSums a0 s1) := by
  unfold dropSums
  repeat' first
    | (with_reducible apply keeps_mk; with_reducible assumption)

theorem dropRefs_keeps {o} {a0} {a1} {s2 : State} (h2 : Keeps o s2) : Keeps o (dropRefs a0 a1 s2) := by
  unfold dropRefs
  repeat' first
    | (with_reducible apply keeps_mk; with_reducible assumption)

theorem settleStacks_keeps {o} {a0} {s1 : State} (h1 : Keeps o s1) : Keeps o (settleStacks a0 s1) := by
  unfold settleStacks
  repeat' first
    | with_reducible assumption
    | intro _
    | with_reducible apply settle_keeps
    | with_reducible apply keeps_foldl

theorem passReports_keeps {o} {a0} {s1 : State} (h1 : Keeps o s1) : Keeps o (passReports a0 s1) := by
  unfold passReports
  repeat' first
    | with_reducible assumption
    | (extract_lets +onlyGivenNames x; refine keeps_with (o := o) (x := x) ?_ (fun hx => ?_); (on_goal 1 => (unfold x; clear x)); (on_goal 2 => clear_value x))
    | with_reducible apply postPlan_keeps
    | split

theorem abandonPart_keeps {o} {a0} {s1 : State} (h1 : Keeps o s1) : Keeps o (abandonPart a0 s1) := by
  unfold abandonPart
  repeat' first
    | with_reducible assumption
    | intro _
    | (extract_lets +onlyGivenNames x; refine keeps_with (o := o) (x := x) ?_ (fun hx => ?_); (on_goal 1 => (unfold x; clear x)); (on_goal 2 => clear_value x))
    | (extract_lets +onlyGivenNames x; have k := x; clear k)
    | with_reducible apply discardTail_keeps
    | with_reducible apply passReports_keeps
    | with_reducible apply unhost_keeps
    | with_reducible apply clearPass_keeps
    | with_reducible apply dropEmpties_keeps
    | with_reducible apply settleStacks_keeps
    | with_reducible apply emptyStack_keeps
    | with_reducible apply dropSums_keeps
    | with_reducible apply keeps_foldl
    | split

theorem postAbandoned_keeps {o} {a0} {a1} {a2} {s3 : State} (h3 : Keeps o s3) : Keeps o (postAbandoned a0 a1 a2 s3) := by
  unfold postAbandoned
  repeat' first
    | with_reducible assumption
    | with_reducible apply postEvent_keeps

theorem haltPlan_keeps {o} {a0} {a1} {s2 : State} (h2 : Keeps o s2) : Keeps o (haltPlan a0 a1 s2) := by
  unfold haltPlan
  repeat' first
    | with_reducible assumption
    | intro _
    | (extract_lets +onlyGivenNames x; refine keeps_with (o := o) (x := x) ?_ (fun hx => ?_); (on_goal 1 => (unfold x; clear x)); (on_goal 2 => clear_value x))
    | (extract_lets +onlyGivenNames x; clear_value x)
    | (extract_lets +onlyGivenNames x; have k := x; clear k)
    | with_reducible apply setPlan_keeps
    | with_reducible apply dropRefs_keeps
    | with_reducible apply complete_keeps
    | with_reducible apply keeps_foldl
    | split

theorem abandonPlan_keeps {o} {a0} {a1} {s2 : State} (h2 : Keeps o s2) : Keeps o (abandonPlan a0 a1 s2) := by
  unfold abandonPlan
  repeat' first
    | with_reducible assumption
    | intro _
    | (extract_lets +onlyGivenNames x; refine keeps_with (o := o) (x := x) ?_ (fun hx => ?_); (on_goal 1 => (unfold x; clear x)); (on_goal 2 => clear_value x))
    | (extract_lets +onlyGivenNames x; clear_value x)
    | (extract_lets +onlyGivenNames x; have k := x; clear k)
    | with_reducible apply abandonPart_keeps
    | with_reducible apply postAbandoned_keeps
    | with_reducible apply haltPlan_keeps
    | with_reducible apply keeps_foldl
    | split

theorem postTile_keeps {o} {a0} {a1} {a2} {s3 : State} (h3 : Keeps o s3) : Keeps o (postTile a0 a1 a2 s3) := by
  unfold postTile
  repeat' first
    | with_reducible assumption
    | with_reducible apply postEvent_keeps

theorem planFailed_keeps {o} {a0} {a1} {s2 : State} {a3} (h2 : Keeps o s2) : Keeps o (planFailed a0 a1 s2 a3) := by
  unfold planFailed
  repeat' first
    | with_reducible assumption
    | (with_reducible apply keeps_mk; with_reducible assumption)
    | (extract_lets +onlyGivenNames x; refine keeps_with (o := o) (x := x) ?_ (fun hx => ?_); (on_goal 1 => (unfold x; clear x)); (on_goal 2 => clear_value x))
    | (extract_lets +onlyGivenNames x; clear_value x)
    | with_reducible apply setPlan_keeps
    | with_reducible apply abandonPlan_keeps
    | split

theorem planTile_keeps {o} {a0} {a1} {a2} {a3} {s4 : State} (h4 : Keeps o s4) : Keeps o (planTile a0 a1 a2 a3 s4) := by
  unfold planTile
  repeat' first
    | with_reducible assumption
    | intro _
    | (extract_lets +onlyGivenNames x; clear_value x)
    | (extract_lets +onlyGivenNames x; have k := x; clear k)
    | with_reducible apply planFailed_keeps
    | with_reducible apply postTile_keeps
    | with_reducible apply keeps_foldl

theorem storeTile_keeps {o} {a0} {a1} {a2} {a3} {s4 : State} (h4 : Keeps o s4) : Keeps o (storeTile a0 a1 a2 a3 s4) := by
  unfold storeTile
  repeat' first
    | with_reducible assumption
    | with_reducible apply suspectPass_keeps
    | with_reducible apply postTile_keeps

theorem windowFault_keeps {o} {a0} {a1} {s2 : State} (h2 : Keeps o s2) : Keeps o (windowFault a0 a1 s2) := by
  unfold windowFault
  repeat' first
    | with_reducible assumption
    | with_reducible apply postOncePerPass_keeps

theorem enqueue_keeps {o} {a0} {a1} {s2 : State} (h2 : Keeps o s2) : Keeps o (enqueue a0 a1 s2) := keeps_order h2 rfl

theorem dequeue_keeps {o} {a0} {a1} {s2 : State} (h2 : Keeps o s2) : Keeps o (dequeue a0 a1 s2) := keeps_order h2 rfl

theorem startMemRead_keeps {o} {a0} {a1} {s2 : State} (h2 : Keeps o s2) : Keeps o (startMemRead a0 a1 s2) := by
  unfold startMemRead
  repeat' first
    | with_reducible assumption
    | (extract_lets +onlyGivenNames x; clear_value x)
    | (extract_lets +onlyGivenNames x; have k := x; clear k)
    | with_reducible apply endFly_keeps
    | with_reducible apply windowFault_keeps
    | with_reducible apply enqueue_keeps
    | with_reducible apply setFly_keeps
    | split

theorem execMemRead_keeps {o} {a0} {a1} {s2 : State} (h2 : Keeps o s2) : OutKeeps o (execMemRead a0 a1 s2) := by
  unfold execMemRead
  repeat' first
    | with_reducible assumption
    | intro _
    | with_reducible apply issue_keeps
    | with_reducible apply startMemRead_keeps
    | with_reducible apply outKeeps_next

theorem readTile_keeps {o} {a0} {a1} {a2} {s3 : State} (h3 : Keeps o s3) : Keeps o (readTile a0 a1 a2 s3) := by
  unfold readTile
  repeat' first
    | with_reducible assumption
    | with_reducible apply planTile_keeps
    | with_reducible apply storeTile_keeps
    | split

theorem memArrival_keeps {o} {a0} {a1} {s2 : State} (h2 : Keeps o s2) : Keeps o (memArrival a0 a1 s2) := by
  unfold memArrival
  repeat' first
    | with_reducible assumption
    | (extract_lets +onlyGivenNames x; refine keeps_with (o := o) (x := x) ?_ (fun hx => ?_); (on_goal 1 => (unfold x; clear x)); (on_goal 2 => clear_value x))
    | with_reducible apply tryWrite_keeps
    | with_reducible apply dequeue_keeps
    | with_reducible apply readTile_keeps
    | split

theorem startMemWrite_keeps {o} {a0} {a1} {s2 : State} (h2 : Keeps o s2) : Keeps o (startMemWrite a0 a1 s2) := by
  unfold startMemWrite
  repeat' first
    | with_reducible assumption
    | intro _
    | (extract_lets +onlyGivenNames x; clear_value x)
    | (extract_lets +onlyGivenNames x; have k := x; clear k)
    | with_reducible apply withSource_keeps
    | with_reducible apply enqueue_keeps
    | with_reducible apply setFly_keeps
    | with_reducible apply endFly_keeps
    | with_reducible apply windowFault_keeps
    | split

theorem execMemWrite_keeps {o} {a0} {a1} {s2 : State} (h2 : Keeps o s2) : OutKeeps o (execMemWrite a0 a1 s2) := by
  unfold execMemWrite
  repeat' first
    | with_reducible assumption
    | intro _
    | with_reducible apply issue_keeps
    | with_reducible apply startMemWrite_keeps
    | with_reducible apply outKeeps_next

theorem memDone_keeps {o} {a0} {s1 : State} (h1 : Keeps o s1) : Keeps o (memDone a0 s1) := by
  unfold memDone
  split
  · exact h1
  split
  · split
    · exact h1
    · exact endFly_keeps (keeps_mem (dequeue_keeps h1) id id id (wf_mwrite _ _))
  · exact h1

theorem execMemWriteDone_keeps {o} {a0} {s1 : State} (h1 : Keeps o s1) : OutKeeps o (execMemWriteDone a0 s1) := by
  unfold execMemWriteDone
  repeat' first
    | with_reducible assumption
    | with_reducible apply memDone_keeps
    | with_reducible apply outKeeps_next

theorem mmRead_keeps {o} {a0} {a1} {a2} {s3 : State} (h3 : Keeps o s3) : Keeps o (mmRead a0 a1 a2 s3) := by
  unfold mmRead
  repeat' first
    | with_reducible assumption
    | intro _
    | (extract_lets +onlyGivenNames x; clear_value x)
    | (extract_lets +onlyGivenNames x; have k := x; clear k)
    | with_reducible apply waitFor_keeps
    | with_reducible apply invalidDesc_keeps
    | with_reducible apply withSource_keeps
    | with_reducible apply hold_keeps
    | with_reducible apply noteOdd_keeps
    | split

theorem startMatmul_keeps {o} {a0} {a1} {s2 : State} (h2 : Keeps o s2) : Keeps o (startMatmul a0 a1 s2) := by
  unfold startMatmul
  repeat' first
    | with_reducible assumption
    | (extract_lets +onlyGivenNames x; clear_value x)
    | with_reducible apply invalidDesc_keeps
    | with_reducible apply mmRead_keeps
    | split

theorem execClusterMatmul_keeps {o} {a0} {a1} {s2 : State} (h2 : Keeps o s2) : OutKeeps o (execClusterMatmul a0 a1 s2) := by
  unfold execClusterMatmul
  repeat' first
    | with_reducible assumption
    | intro _
    | with_reducible apply issue_keeps
    | with_reducible apply startMatmul_keeps
    | with_reducible apply outKeeps_next

theorem execClusterMatmulWrite_keeps {o} {a0} {s1 : State} (h1 : Keeps o s1) : OutKeeps o (execClusterMatmulWrite a0 s1) := by
  unfold execClusterMatmulWrite
  repeat' first
    | with_reducible assumption
    | with_reducible apply writeHeld_keeps
    | with_reducible apply outKeeps_next

theorem gatherSource_keeps {o} {a0} {a1} {a2} {s3 : State} (h3 : Keeps o s3) : Keeps o (gatherSource a0 a1 a2 s3) := by
  unfold gatherSource
  repeat' first
    | with_reducible assumption
    | intro _
    | (extract_lets +onlyGivenNames x; clear_value x)
    | (extract_lets +onlyGivenNames x; have k := x; clear k)
    | with_reducible apply waitFor_keeps
    | with_reducible apply invalidDesc_keeps
    | with_reducible apply withSource_keeps
    | with_reducible apply hold_keeps
    | split

theorem startGather_keeps {o} {a0} {a1} {s2 : State} (h2 : Keeps o s2) : Keeps o (startGather a0 a1 s2) := by
  unfold startGather
  repeat' first
    | with_reducible assumption
    | (extract_lets +onlyGivenNames x; clear_value x)
    | with_reducible apply invalidDesc_keeps
    | with_reducible apply gatherSource_keeps
    | split

theorem execGatherTask_keeps {o} {a0} {a1} {s2 : State} (h2 : Keeps o s2) : OutKeeps o (execGatherTask a0 a1 s2) := by
  unfold execGatherTask
  repeat' first
    | with_reducible assumption
    | intro _
    | with_reducible apply issue_keeps
    | with_reducible apply startGather_keeps
    | with_reducible apply outKeeps_next
    | split

theorem execGatherTaskWrite_keeps {o} {a0} {s1 : State} (h1 : Keeps o s1) : OutKeeps o (execGatherTaskWrite a0 s1) := by
  unfold execGatherTaskWrite
  repeat' first
    | with_reducible assumption
    | with_reducible apply writeHeld_keeps
    | with_reducible apply outKeeps_next

theorem updateInvalid_keeps {o} {a0} {a1} {s2 : State} (h2 : Keeps o s2) : Keeps o (updateInvalid a0 a1 s2) := by
  unfold updateInvalid
  repeat' first
    | with_reducible assumption
    | with_reducible apply endFly_keeps
    | with_reducible apply postOncePerPass_keeps

theorem stageUpdates_keeps {o} {a0} {a1} {a2} {a3} {a4} {s5 : State} (h5 : Keeps o s5) : Keeps o (stageUpdates a0 a1 a2 a3 a4 s5) := by
  unfold stageUpdates
  repeat' first
    | with_reducible assumption
    | (with_reducible apply keeps_mk; with_reducible assumption)
    | (extract_lets +onlyGivenNames x; clear_value x)
    | with_reducible apply setCtx_keeps
    | split

theorem updateSource_keeps {o} {a0} {a1} {a2} {s3 : State} (h3 : Keeps o s3) : Keeps o (updateSource a0 a1 a2 s3) := by
  unfold updateSource
  repeat' first
    | with_reducible assumption
    | intro _
    | (extract_lets +onlyGivenNames x; clear_value x)
    | (extract_lets +onlyGivenNames x; have k := x; clear k)
    | with_reducible apply waitFor_keeps
    | with_reducible apply updateInvalid_keeps
    | with_reducible apply withSource_keeps
    | with_reducible apply endFly_keeps
    | with_reducible apply stageUpdates_keeps
    | split

theorem startUpdate_keeps {o} {a0} {a1} {s2 : State} (h2 : Keeps o s2) : Keeps o (startUpdate a0 a1 s2) := by
  unfold startUpdate
  repeat' first
    | with_reducible assumption
    | (extract_lets +onlyGivenNames x; clear_value x)
    | with_reducible apply updateInvalid_keeps
    | with_reducible apply updateSource_keeps
    | split

theorem execAdapterUpdateTask_keeps {o} {a0} {a1} {s2 : State} (h2 : Keeps o s2) : OutKeeps o (execAdapterUpdateTask a0 a1 s2) := by
  unfold execAdapterUpdateTask
  repeat' first
    | with_reducible assumption
    | intro _
    | with_reducible apply issue_keeps
    | with_reducible apply startUpdate_keeps
    | with_reducible apply outKeeps_next
    | split

theorem setConn_keeps {o} {a0} {a1} {s2 : State} (h2 : Keeps o s2) : Keeps o (setConn a0 a1 s2) := by
  unfold setConn
  repeat' first
    | (with_reducible apply keeps_mk; with_reducible assumption)

theorem connEvent_keeps {o} {a0} {a1} {a2} {a3} {s4 : State} (h4 : Keeps o s4) : Keeps o (connEvent a0 a1 a2 a3 s4) := by
  unfold connEvent
  repeat' first
    | with_reducible assumption
    | with_reducible apply postEvent_keeps
    | split

theorem putFrame_keeps {o} {a0} {a1} {s2 : State} (h2 : Keeps o s2) : Keeps o (putFrame a0 a1 s2) := by
  unfold putFrame
  repeat' first
    | (with_reducible apply keeps_mk; with_reducible assumption)

theorem useSlots_keeps {o} {a0} {a1} {a2} {s3 : State} (h3 : Keeps o s3) : Keeps o (useSlots a0 a1 a2 s3) := by
  unfold useSlots
  repeat' first
    | (with_reducible apply keeps_mk; with_reducible assumption)

theorem emitSealed_keeps {o} {a0} {s1 : State} (h1 : Keeps o s1) : Keeps o (emitSealed a0 s1) := by
  unfold emitSealed
  repeat' first
    | with_reducible assumption
    | (extract_lets +onlyGivenNames x; clear_value x)
    | (extract_lets +onlyGivenNames x; have k := x; clear k)
    | with_reducible apply putFrame_keeps
    | with_reducible apply setConn_keeps
    | split

theorem emitAgain_keeps {o} {a0} {a1} {s2 : State} (h2 : Keeps o s2) : Keeps o (emitAgain a0 a1 s2) := by
  unfold emitAgain
  repeat' first
    | with_reducible assumption
    | (extract_lets +onlyGivenNames x; clear_value x)
    | (extract_lets +onlyGivenNames x; have k := x; clear k)
    | with_reducible apply putFrame_keeps
    | with_reducible apply setConn_keeps
    | split

theorem emit_keeps {o} {a0} {s1 : State} (h1 : Keeps o s1) : Keeps o (emit a0 s1) := by
  unfold emit
  repeat' first
    | with_reducible assumption
    | (extract_lets +onlyGivenNames x; refine keeps_with (o := o) (x := x) ?_ (fun hx => ?_); (on_goal 1 => (unfold x; clear x)); (on_goal 2 => clear_value x))
    | (extract_lets +onlyGivenNames x; clear_value x)
    | with_reducible apply emitAgain_keeps
    | with_reducible apply emitSealed_keeps
    | with_reducible apply putFrame_keeps
    | with_reducible apply setConn_keeps
    | split

theorem queueFrame_keeps {o} {a0} {s1 : State} (h1 : Keeps o s1) : Keeps o (queueFrame a0 s1) := by
  unfold queueFrame
  repeat' first
    | (with_reducible apply keeps_mk; with_reducible assumption)

theorem pumpOne_keeps {o} {s0 : State} {a1} {a2} (h0 : Keeps o s0) : Keeps o (pumpOne s0 a1 a2).1 := by
  unfold pumpOne
  repeat' first
    | with_reducible assumption
    | (with_reducible apply keeps_mk; with_reducible assumption)
    | (extract_lets +onlyGivenNames x; clear_value x)
    | with_reducible apply queueFrame_keeps
    | with_reducible apply emit_keeps
    | split

theorem pumpOne_keeps' {o} {s0 : State} {a1} {a2} (h0 : Keeps o s0) {y0} {t} (e : pumpOne s0 a1 a2 = (t, y0)) : Keeps o t := by
  have k := pumpOne_keeps (a1 := a1) (a2 := a2) h0
  rw [e] at k
  exact k

theorem pumpAll_keeps {o} {a0} {a1} {s2 : State} (h2 : Keeps o s2) : Keeps o (pumpAll a0 a1 s2) := by
  induction a0 generalizing a1 s2 with
  | nil => exact h2
  | cons w l ih => exact ih (pumpOne_keeps h2)

theorem pump_keeps {o} {a0} {s1 : State} (h1 : Keeps o s1) : Keeps o (pump a0 s1) := by
  unfold pump
  repeat' first
    | (with_reducible apply keeps_mk; with_reducible assumption)
    | (extract_lets +onlyGivenNames x; clear_value x)
    | with_reducible apply pumpAll_keeps

theorem pumpPorts_keeps {o} {s0 : State} (h0 : Keeps o s0) : Keeps o (pumpPorts s0) := by
  unfold pumpPorts
  repeat' first
    | with_reducible assumption
    | intro _
    | with_reducible apply pump_keeps
    | with_reducible apply keeps_foldl

theorem submit_keeps {o} {a0} {s1 : State} (h1 : Keeps o s1) : Keeps o (submit a0 s1) := by
  unfold submit
  repeat' first
    | with_reducible assumption
    | with_reducible apply pump_keeps
    | with_reducible apply queueFrame_keeps

theorem sendOpen_keeps {o} {a0} {a1} {a2} {a3} {s4 : State} (h4 : Keeps o s4) : Keeps o (sendOpen a0 a1 a2 a3 s4) := by
  unfold sendOpen
  repeat' first
    | with_reducible assumption
    | with_reducible apply submit_keeps

theorem sendSealed_keeps {o} {a0} {a1} {a2} {a3} {a4} {a5} {s6 : State} (h6 : Keeps o s6) : Keeps o (sendSealed a0 a1 a2 a3 a4 a5 s6) := by
  unfold sendSealed
  repeat' first
    | with_reducible assumption
    | with_reducible apply submit_keeps
    | split

theorem sendNack_keeps {o} {a0} {s1 : State} (h1 : Keeps o s1) : Keeps o (sendNack a0 s1) := by
  unfold sendNack
  repeat' first
    | with_reducible assumption
    | with_reducible apply sendOpen_keeps

theorem openFrame_keeps {o} {a0} {a1} {a2} {s3 : State} (h2 : ∀ t0, Keeps o t0 → Keeps o (a2 t0)) (h3 : Keeps o s3) : Keeps o (openFrame a0 a1 a2 s3) := by
  unfold openFrame
  repeat' first
    | with_reducible assumption
    | with_reducible apply h2
    | with_reducible apply sendNack_keeps
    | split

theorem openSealed_keeps {o} {a0} {a1} {s2 : State} (h2 : Keeps o s2) : Keeps o (openSealed a0 a1 s2).2 := by
  unfold openSealed
  repeat' first
    | with_reducible assumption
    | (extract_lets +onlyGivenNames x; clear_value x)
    | with_reducible apply sendNack_keeps
    | with_reducible apply setConn_keeps
    | split

theorem openSealed_keeps' {o} {a0} {a1} {s2 : State} (h2 : Keeps o s2) {y0} {t} (e : openSealed a0 a1 s2 = (y0, t)) : Keeps o t := by
  have k := openSealed_keeps (a0 := a0) (a1 := a1) h2
  rw [e] at k
  exact k

theorem dropConn_keeps {o} {a0} {a1} {a2} {s3 : State} (h3 : Keeps o s3) : Keeps o (dropConn a0 a1 a2 s3) := by
  unfold dropConn
  repeat' first
    | with_reducible assumption
    | (with_reducible apply keeps_mk; with_reducible assumption)
    | (extract_lets +onlyGivenNames x; refine keeps_with (o := o) (x := x) ?_ (fun hx => ?_); (on_goal 1 => (unfold x; clear x)); (on_goal 2 => clear_value x))
    | (extract_lets +onlyGivenNames x; clear_value x)
    | with_reducible apply setConn_keeps
    | with_reducible apply connEvent_keeps
    | split

theorem detach_keeps {o} {a0} {a1} {s2 : State} (h2 : Keeps o s2) : Keeps o (detach a0 a1 s2) := by
  unfold detach
  repeat' first
    | with_reducible assumption
    | intro _
    | (extract_lets +onlyGivenNames x; refine keeps_with (o := o) (x := x) ?_ (fun hx => ?_); (on_goal 1 => (unfold x; clear x)); (on_goal 2 => clear_value x))
    | (extract_lets +onlyGivenNames x; clear_value x)
    | (extract_lets +onlyGivenNames x; have k := x; clear k)
    | with_reducible apply dropConn_keeps
    | with_reducible apply keeps_foldl

theorem beginAttest_keeps {o} {a0} {s1 : State} (h1 : Keeps o s1) : Keeps o (beginAttest a0 s1) := by
  unfold beginAttest
  repeat' first
    | with_reducible assumption
    | intro _
    | (extract_lets +onlyGivenNames x; refine keeps_with (o := o) (x := x) ?_ (fun hx => ?_); (on_goal 1 => (unfold x; clear x)); (on_goal 2 => clear_value x))
    | (extract_lets +onlyGivenNames x; clear_value x)
    | (extract_lets +onlyGivenNames x; have k := x; clear k)
    | with_reducible apply setConn_keeps
    | with_reducible apply sendOpen_keeps
    | with_reducible apply keeps_foldl

theorem failAttest_keeps {o} {a0} {s1 : State} (h1 : Keeps o s1) : Keeps o (failAttest a0 s1) := by
  unfold failAttest
  repeat' first
    | with_reducible assumption
    | (extract_lets +onlyGivenNames x; clear_value x)
    | (extract_lets +onlyGivenNames x; have k := x; clear k)
    | with_reducible apply freeBits_keeps
    | with_reducible apply setConn_keeps
    | with_reducible apply connEvent_keeps

theorem abortAttest_keeps {o} {a0} {a1} {s2 : State} (h2 : Keeps o s2) : Keeps o (abortAttest a0 a1 s2) := by
  unfold abortAttest
  repeat' first
    | with_reducible assumption
    | with_reducible apply failAttest_keeps
    | with_reducible apply sendOpen_keeps

theorem setAtt_keeps {o} {a0} {a1} {s2 : State} (h2 : Keeps o s2) : Keeps o (setAtt a0 a1 s2) := by
  unfold setAtt
  repeat' first
    | with_reducible assumption
    | (extract_lets +onlyGivenNames x; clear_value x)
    | with_reducible apply setConn_keeps

theorem maybeSign_keeps {o} {a0} {s1 : State} (h1 : Keeps o s1) : Keeps o (maybeSign a0 s1) := by
  unfold maybeSign
  repeat' first
    | with_reducible assumption
    | with_reducible apply randomBytes_keeps
    | with_reducible apply setAtt_keeps
    | with_reducible apply sendOpen_keeps
    | split

theorem sendOffer_keeps {o} {a0} {a1} {s2 : State} (h2 : Keeps o s2) : Keeps o (sendOffer a0 a1 s2) := by
  unfold sendOffer
  repeat' first
    | with_reducible assumption
    | with_reducible apply randomBytes_keeps
    | with_reducible apply sendOpen_keeps
    | with_reducible apply setAtt_keeps

theorem attCert_keeps {o} {a0} {a1} {s2 : State} (h2 : Keeps o s2) : Keeps o (attCert a0 a1 s2) := by
  unfold attCert
  repeat' first
    | with_reducible assumption
    | (extract_lets +onlyGivenNames x; refine keeps_with (o := o) (x := x) ?_ (fun hx => ?_); (on_goal 1 => (unfold x; clear x)); (on_goal 2 => clear_value x))
    | (extract_lets +onlyGivenNames x; clear_value x)
    | (extract_lets +onlyGivenNames x; have k := x; clear k)
    | with_reducible apply setAtt_keeps
    | with_reducible apply abortAttest_keeps
    | with_reducible apply maybeSign_keeps
    | with_reducible apply sendOffer_keeps
    | split

theorem execAttCert_keeps {o} {a0} {a1} {s2 : State} (h2 : Keeps o s2) : OutKeeps o (execAttCert a0 a1 s2) := by
  unfold execAttCert
  repeat' first
    | with_reducible assumption
    | intro _
    | with_reducible apply openFrame_keeps
    | with_reducible apply attCert_keeps
    | with_reducible apply outKeeps_next

theorem attOffer_keeps {o} {a0} {a1} {s2 : State} (h2 : Keeps o s2) : Keeps o (attOffer a0 a1 s2) := by
  unfold attOffer
  repeat' first
    | with_reducible assumption
    | with_reducible apply abortAttest_keeps
    | with_reducible apply maybeSign_keeps
    | with_reducible apply setAtt_keeps
    | split

theorem execAttOffer_keeps {o} {a0} {a1} {s2 : State} (h2 : Keeps o s2) : OutKeeps o (execAttOffer a0 a1 s2) := by
  unfold execAttOffer
  repeat' first
    | with_reducible assumption
    | intro _
    | with_reducible apply openFrame_keeps
    | with_reducible apply attOffer_keeps
    | with_reducible apply outKeeps_next

theorem attached_keeps {o} {a0} {a1} {s2 : State} (h2 : Keeps o s2) : Keeps o (attached a0 a1 s2) := by
  unfold attached
  repeat' first
    | with_reducible assumption
    | (with_reducible apply keeps_mk; with_reducible assumption)
    | (extract_lets +onlyGivenNames x; refine keeps_with (o := o) (x := x) ?_ (fun hx => ?_); (on_goal 1 => (unfold x; clear x)); (on_goal 2 => clear_value x))
    | (extract_lets +onlyGivenNames x; clear_value x)
    | with_reducible apply setConn_keeps
    | with_reducible apply connEvent_keeps
    | with_reducible apply postEvent_keeps
    | with_reducible apply pump_keeps
    | split

theorem attSign_keeps {o} {a0} {a1} {s2 : State} (h2 : Keeps o s2) : Keeps o (attSign a0 a1 s2) := by
  unfold attSign
  repeat' first
    | with_reducible assumption
    | with_reducible apply attached_keeps
    | with_reducible apply maybeSign_keeps
    | with_reducible apply abortAttest_keeps
    | split

theorem execAttSign_keeps {o} {a0} {a1} {s2 : State} (h2 : Keeps o s2) : OutKeeps o (execAttSign a0 a1 s2) := by
  unfold execAttSign
  repeat' first
    | with_reducible assumption
    | intro _
    | with_reducible apply openFrame_keeps
    | with_reducible apply attSign_keeps
    | with_reducible apply outKeeps_next

theorem attAbort_keeps {o} {a0} {a1} {s2 : State} (h2 : Keeps o s2) : Keeps o (attAbort a0 a1 s2) := by
  unfold attAbort
  repeat' first
    | with_reducible assumption
    | with_reducible apply failAttest_keeps
    | split

theorem execAttAbort_keeps {o} {a0} {a1} {s2 : State} (h2 : Keeps o s2) : OutKeeps o (execAttAbort a0 a1 s2) := by
  unfold execAttAbort
  repeat' first
    | with_reducible assumption
    | intro _
    | with_reducible apply openFrame_keeps
    | with_reducible apply attAbort_keeps
    | with_reducible apply outKeeps_next

theorem execAttestTimeout_keeps {o} {a0} {s1 : State} (h1 : Keeps o s1) : OutKeeps o (execAttestTimeout a0 s1) := by
  unfold execAttestTimeout
  repeat' first
    | with_reducible assumption
    | with_reducible apply failAttest_keeps
    | with_reducible apply outKeeps_next
    | split

theorem startPeer_keeps {o} {s0 : State} {a1} (h0 : Keeps o s0) : Keeps o (startPeer s0 a1) := by
  unfold startPeer
  repeat' first
    | with_reducible assumption
    | (extract_lets +onlyGivenNames x; refine keeps_with (o := o) (x := x) ?_ (fun hx => ?_); (on_goal 1 => (unfold x; clear x)); (on_goal 2 => clear_value x))
    | (extract_lets +onlyGivenNames x; clear_value x)
    | (extract_lets +onlyGivenNames x; have k := x; clear k)
    | with_reducible apply setConn_keeps
    | with_reducible apply dropConn_keeps
    | with_reducible apply beginAttest_keeps
    | split

theorem startPeers_keeps {o} {s0 : State} (h0 : Keeps o s0) : Keeps o (startPeers s0) := by
  unfold startPeers
  repeat' first
    | with_reducible assumption
    | intro _
    | with_reducible apply startPeer_keeps
    | with_reducible apply keeps_foldl
    | split

theorem execAttestRetry_keeps {o} {a0} {s1 : State} (h1 : Keeps o s1) : OutKeeps o (execAttestRetry a0 s1) := by
  unfold execAttestRetry
  repeat' first
    | with_reducible assumption
    | (extract_lets +onlyGivenNames x; clear_value x)
    | (extract_lets +onlyGivenNames x; have k := x; clear k)
    | with_reducible apply beginAttest_keeps
    | with_reducible apply setConn_keeps
    | with_reducible apply startPeers_keeps
    | with_reducible apply outKeeps_next
    | split

theorem portEnable_keeps {o} {a0} {s1 : State} (h1 : Keeps o s1) : RanKeeps o (portEnable a0 s1) := by
  unfold portEnable
  repeat' first
    | with_reducible assumption
    | (with_reducible apply keeps_mk; with_reducible assumption)
    | intro _
    | (extract_lets +onlyGivenNames x; refine keeps_with (o := o) (x := x) ?_ (fun hx => ?_); (on_goal 1 => (unfold x; clear x)); (on_goal 2 => clear_value x))
    | (extract_lets +onlyGivenNames x; clear_value x)
    | (extract_lets +onlyGivenNames x; have k := x; clear k)
    | with_reducible apply setConn_keeps
    | with_reducible apply dropConn_keeps
    | with_reducible apply keeps_foldl
    | with_reducible apply ranKeeps_ok
    | with_reducible apply ranKeeps_later
    | split

theorem finishEnables_keeps {o} {s0 : State} (h0 : Keeps o s0) : Keeps o (finishEnables s0) := by
  unfold finishEnables
  repeat' first
    | with_reducible assumption
    | (with_reducible apply keeps_mk; with_reducible assumption)
    | intro _
    | (extract_lets +onlyGivenNames x; refine keeps_with (o := o) (x := x) ?_ (fun hx => ?_); (on_goal 1 => (unfold x; clear x)); (on_goal 2 => clear_value x))
    | (extract_lets +onlyGivenNames x; clear_value x)
    | (extract_lets +onlyGivenNames x; have k := x; clear k)
    | with_reducible apply complete_keeps
    | with_reducible apply keeps_foldl

theorem execDritarPortEnable_keeps {o} {a0} {s1 : State} (h1 : Keeps o s1) : OutKeeps o (execDritarPortEnable a0 s1) := by
  unfold execDritarPortEnable
  repeat' first
    | with_reducible assumption
    | intro _
    | with_reducible apply finishEnables_keeps
    | with_reducible apply runCommand_keeps
    | with_reducible apply portEnable_keeps
    | with_reducible apply outKeeps_next

theorem trainNext_keeps {o} {s0 : State} (h0 : Keeps o s0) : Keeps o (trainNext s0) := by
  unfold trainNext
  repeat' first
    | with_reducible assumption
    | (extract_lets +onlyGivenNames x; clear_value x)
    | (extract_lets +onlyGivenNames x; have k := x; clear k)
    | with_reducible apply finishEnables_keeps
    | with_reducible apply setConn_keeps
    | split

theorem execPortTrainingStart_keeps {o} {s0 : State} (h0 : Keeps o s0) : OutKeeps o (execPortTrainingStart s0) := by
  unfold execPortTrainingStart
  repeat' first
    | with_reducible assumption
    | with_reducible apply trainNext_keeps
    | with_reducible apply outKeeps_next

theorem execFecLock_keeps {o} {a0} {a1} {s2 : State} (h2 : Keeps o s2) : OutKeeps o (execFecLock a0 a1 s2) := by
  unfold execFecLock
  repeat' first
    | with_reducible assumption
    | (extract_lets +onlyGivenNames x; clear_value x)
    | (extract_lets +onlyGivenNames x; have k := x; clear k)
    | with_reducible apply setConn_keeps
    | with_reducible apply outKeeps_next
    | split

theorem trainAgain_keeps {o} {a0} {s1 : State} (h1 : Keeps o s1) : Keeps o (trainAgain a0 s1) := by
  unfold trainAgain
  repeat' first
    | with_reducible assumption
    | (extract_lets +onlyGivenNames x; clear_value x)
    | with_reducible apply setConn_keeps
    | split

theorem execTrainingTimeout_keeps {o} {a0} {s1 : State} (h1 : Keeps o s1) : OutKeeps o (execTrainingTimeout a0 s1) := by
  unfold execTrainingTimeout
  repeat' first
    | with_reducible assumption
    | with_reducible apply trainAgain_keeps
    | with_reducible apply outKeeps_next

theorem execFecLockLoss_keeps {o} {a0} {s1 : State} (h1 : Keeps o s1) : OutKeeps o (execFecLockLoss a0 s1) := by
  unfold execFecLockLoss
  repeat' first
    | with_reducible assumption
    | (extract_lets +onlyGivenNames x; clear_value x)
    | (extract_lets +onlyGivenNames x; have k := x; clear k)
    | with_reducible apply detach_keeps
    | with_reducible apply setConn_keeps
    | with_reducible apply outKeeps_next
    | split

theorem execHelloTimer_keeps {o} {a0} {s1 : State} (h1 : Keeps o s1) : OutKeeps o (execHelloTimer a0 s1) := by
  unfold execHelloTimer
  repeat' first
    | with_reducible assumption
    | (extract_lets +onlyGivenNames x; clear_value x)
    | (extract_lets +onlyGivenNames x; have k := x; clear k)
    | with_reducible apply sendOpen_keeps
    | with_reducible apply setConn_keeps
    | with_reducible apply outKeeps_next
    | split

theorem execHelloTimeout_keeps {o} {a0} {s1 : State} (h1 : Keeps o s1) : OutKeeps o (execHelloTimeout a0 s1) := by
  unfold execHelloTimeout
  repeat' first
    | with_reducible assumption
    | (extract_lets +onlyGivenNames x; clear_value x)
    | (extract_lets +onlyGivenNames x; have k := x; clear k)
    | with_reducible apply detach_keeps
    | with_reducible apply outKeeps_next
    | split

theorem hello_keeps {o} {a0} {a1} {s2 : State} (h2 : Keeps o s2) : Keeps o (hello a0 a1 s2) := by
  unfold hello
  repeat' first
    | with_reducible assumption
    | (extract_lets +onlyGivenNames x; clear_value x)
    | (extract_lets +onlyGivenNames x; have k := x; clear k)
    | with_reducible apply startPeers_keeps
    | with_reducible apply setConn_keeps
    | with_reducible apply beginAttest_keeps
    | with_reducible apply detach_keeps
    | split

theorem execDritarHello_keeps {o} {a0} {a1} {s2 : State} (h2 : Keeps o s2) : OutKeeps o (execDritarHello a0 a1 s2) := by
  unfold execDritarHello
  repeat' first
    | with_reducible assumption
    | intro _
    | with_reducible apply openFrame_keeps
    | with_reducible apply hello_keeps
    | with_reducible apply outKeeps_next

theorem resendFrom_keeps {o} {a0} {a1} {s2 : State} (h2 : Keeps o s2) : Keeps o (resendFrom a0 a1 s2) := by
  unfold resendFrom
  repeat' first
    | with_reducible assumption
    | (with_reducible apply keeps_mk; with_reducible assumption)
    | (extract_lets +onlyGivenNames x; clear_value x)
    | (extract_lets +onlyGivenNames x; have k := x; clear k)
    | with_reducible apply startPeers_keeps
    | with_reducible apply detach_keeps
    | with_reducible apply pump_keeps
    | with_reducible apply setConn_keeps
    | split

theorem execDritarNack_keeps {o} {a0} {a1} {s2 : State} (h2 : Keeps o s2) : OutKeeps o (execDritarNack a0 a1 s2) := by
  unfold execDritarNack
  repeat' first
    | with_reducible assumption
    | intro _
    | with_reducible apply openFrame_keeps
    | with_reducible apply resendFrom_keeps
    | with_reducible apply outKeeps_next
    | split

theorem portStatus_keeps {o} {a0} {s1 : State} (h1 : Keeps o s1) : RanKeeps o (portStatus a0 s1) := by
  unfold portStatus
  repeat' first
    | with_reducible assumption
    | (extract_lets +onlyGivenNames x; clear_value x)
    | (extract_lets +onlyGivenNames x; have k := x; clear k)
    | with_reducible apply freeBits_keeps
    | with_reducible apply setConn_keeps
    | with_reducible apply writeData_keeps
    | with_reducible apply ranKeeps_ok
    | split

theorem execDritarPortStatus_keeps {o} {a0} {s1 : State} (h1 : Keeps o s1) : OutKeeps o (execDritarPortStatus a0 s1) := by
  unfold execDritarPortStatus
  repeat' first
    | with_reducible assumption
    | intro _
    | with_reducible apply runCommand_keeps
    | with_reducible apply portStatus_keeps
    | with_reducible apply outKeeps_next

theorem startGrain_keeps {o} {a0} {a1} {s2 : State} (h2 : Keeps o s2) : Keeps o (startGrain a0 a1 s2) := by
  unfold startGrain
  repeat' first
    | with_reducible assumption
    | (with_reducible apply keeps_mk; with_reducible assumption)
    | intro _
    | (extract_lets +onlyGivenNames x; clear_value x)
    | with_reducible apply withSource_keeps
    | with_reducible apply setFly_keeps

theorem execGrainSend_keeps {o} {a0} {a1} {s2 : State} (h2 : Keeps o s2) : OutKeeps o (execGrainSend a0 a1 s2) := by
  unfold execGrainSend
  repeat' first
    | with_reducible assumption
    | intro _
    | with_reducible apply issue_keeps
    | with_reducible apply startGrain_keeps
    | with_reducible apply outKeeps_next

theorem linkWait_keeps {o} {a0} {a1} {s2 : State} (h2 : Keeps o s2) : Keeps o (linkWait a0 a1 s2) := by
  unfold linkWait
  repeat' first
    | with_reducible assumption
    | with_reducible apply setFly_keeps
    | split

theorem linkErrors_keeps {o} {a0} {a1} {s2 : State} (h2 : Keeps o s2) : Keeps o (linkErrors a0 a1 s2) := by
  unfold linkErrors
  repeat' first
    | (with_reducible apply keeps_mk; with_reducible assumption)

theorem grainArrival_keeps {o} {a0} {a1} {s2 : State} (h2 : Keeps o s2) : Keeps o (grainArrival a0 a1 s2) := by
  unfold grainArrival
  repeat' first
    | with_reducible assumption
    | (with_reducible apply keeps_mk; with_reducible assumption)
    | (extract_lets +onlyGivenNames x; refine keeps_with (o := o) (x := x) ?_ (fun hx => ?_); (on_goal 1 => (unfold x; clear x)); (on_goal 2 => clear_value x))
    | (extract_lets +onlyGivenNames x; clear_value x)
    | (extract_lets +onlyGivenNames x; have k := x; clear k)
    | with_reducible apply useSlots_keeps
    | with_reducible apply linkWait_keeps
    | with_reducible apply linkErrors_keeps
    | split

theorem execGrainFrameArrival_keeps {o} {a0} {a1} {s2 : State} (h2 : Keeps o s2) : OutKeeps o (execGrainFrameArrival a0 a1 s2) := by
  unfold execGrainFrameArrival
  repeat' first
    | with_reducible assumption
    | with_reducible apply grainArrival_keeps
    | with_reducible apply outKeeps_next

theorem startDritar_keeps {o} {a0} {a1} {s2 : State} (h2 : Keeps o s2) : Keeps o (startDritar a0 a1 s2) := by
  unfold startDritar
  repeat' first
    | with_reducible assumption
    | (with_reducible apply keeps_mk; with_reducible assumption)
    | intro _
    | (extract_lets +onlyGivenNames x; clear_value x)
    | with_reducible apply withSource_keeps
    | with_reducible apply setFly_keeps

theorem execDritarSend_keeps {o} {a0} {a1} {s2 : State} (h2 : Keeps o s2) : OutKeeps o (execDritarSend a0 a1 s2) := by
  unfold execDritarSend
  repeat' first
    | with_reducible assumption
    | intro _
    | with_reducible apply issue_keeps
    | with_reducible apply startDritar_keeps
    | with_reducible apply outKeeps_next

theorem noteFailed_keeps {o} {a0} {a1} {s2 : State} (h2 : Keeps o s2) : Keeps o (noteFailed a0 a1 s2) := by
  unfold noteFailed
  repeat' first
    | with_reducible assumption
    | (with_reducible apply keeps_mk; with_reducible assumption)
    | (extract_lets +onlyGivenNames x; clear_value x)
    | with_reducible apply linkErrors_keeps
    | split

theorem crossHub_keeps {o} {a0} {s1 : State} (h1 : Keeps o s1) : Keeps o (crossHub a0 s1).2.2 := by
  unfold crossHub
  repeat' first
    | with_reducible assumption
    | (extract_lets +onlyGivenNames x; clear_value x)
    | (extract_lets +onlyGivenNames x; have k := x; clear k)
    | with_reducible apply noteFailed_keeps
    | with_reducible apply useSlots_keeps

theorem crossHub_keeps' {o} {a0} {s1 : State} (h1 : Keeps o s1) {y0} {y1} {t} (e : crossHub a0 s1 = (y0, (y1, t))) : Keeps o t := by
  have k := crossHub_keeps (a0 := a0) h1
  rw [e] at k
  exact k

theorem sendBlocks_keeps {o} {a0} {a1} {a2} {a3} {s4 : State} (h4 : Keeps o s4) : Keeps o (sendBlocks a0 a1 a2 a3 s4) := by
  unfold sendBlocks
  repeat' first
    | with_reducible assumption
    | with_reducible apply emit_keeps

theorem crossPort_keeps {o} {a0} {a1} {a2} {s3 : State} (h3 : Keeps o s3) : Keeps o (crossPort a0 a1 a2 s3).2 := by
  induction a1 generalizing a2 s3 with
  | zero => exact h3
  | succ n ih =>
    unfold crossPort
    split
    · exact h3
    extract_lets k port m
    split
    · exact h3
    · exact ih (sendBlocks_keeps (useSlots_keeps h3))

theorem crossPort_keeps' {o} {a0} {a1} {a2} {s3 : State} (h3 : Keeps o s3) {y0} {t} (e : crossPort a0 a1 a2 s3 = (y0, t)) : Keeps o t := by
  have k := crossPort_keeps (a0 := a0) (a1 := a1) (a2 := a2) h3
  rw [e] at k
  exact k

theorem moveSend_keeps {o} {s0 : State} {a1} (h0 : Keeps o s0) : Keeps o (moveSend s0 a1) := by
  unfold moveSend
  split
  · exact h0
  split
  · exact h0
  split
  rename_i x s hx
  have hs : Keeps o s := crossHub_keeps' h0 hx
  extract_lets ks put
  have hp : ∀ y t, Keeps o t → Keeps o (put y t) := fun y t ht => keeps_mk ht
  clear_value put
  split
  · exact hp _ _ (postOncePerPass_keeps (setFly_keeps hs))
  split
  rename_i y t hy
  have ht : Keeps o t := crossPort_keeps' hs hy
  split
  · exact endFly_keeps (keeps_mk ht)
  · exact hp _ _ (setFly_keeps ht)

theorem moveSends_keeps {o} {s0 : State} (h0 : Keeps o s0) : Keeps o (moveSends s0) := by
  unfold moveSends
  repeat' first
    | with_reducible assumption
    | intro _
    | (extract_lets +onlyGivenNames x; clear_value x)
    | (extract_lets +onlyGivenNames x; have k := x; clear k)
    | with_reducible apply moveSend_keeps
    | with_reducible apply keeps_foldl
    | split

theorem noReceiver_keeps {o} {a0} {a1} {s2 : State} (h2 : Keeps o s2) : Keeps o (noReceiver a0 a1 s2) := by
  unfold noReceiver
  repeat' first
    | (with_reducible apply keeps_mk; with_reducible assumption)

theorem planData_keeps {o} {a0} {a1} {s2 : State} (h2 : Keeps o s2) : Keeps o (planData a0 a1 s2) := by
  unfold planData
  extract_lets k
  split
  · exact h2
  split
  · exact openSealed_keeps' h2 ‹_›
  rename_i pay s hq
  have hs : Keeps o s := openSealed_keeps' h2 hq
  clear hq
  split
  extract_lets n
  clear_value n
  split
  · extract_lets ok x
    clear_value ok
    split
    · exact noReceiver_keeps hs
    · exact keeps_mk hs
  · exact noReceiver_keeps hs

theorem execDritarPlanData_keeps {o} {a0} {a1} {s2 : State} (h2 : Keeps o s2) : OutKeeps o (execDritarPlanData a0 a1 s2) := by
  unfold execDritarPlanData
  repeat' first
    | with_reducible assumption
    | with_reducible apply planData_keeps
    | with_reducible apply outKeeps_next

theorem crossIn_keeps {o} {s0 : State} (h0 : Keeps o s0) : Keeps o (crossIn s0) := by
  unfold crossIn
  repeat' first
    | with_reducible assumption
    | (with_reducible apply keeps_mk; with_reducible assumption)
    | intro _
    | (extract_lets +onlyGivenNames x; refine keeps_with (o := o) (x := x) ?_ (fun hx => ?_); (on_goal 1 => (unfold x; clear x)); (on_goal 2 => clear_value x))
    | (extract_lets +onlyGivenNames x; clear_value x)
    | (extract_lets +onlyGivenNames x; have k := x; clear k)
    | with_reducible apply noteFailed_keeps
    | with_reducible apply keeps_foldl
    | split

theorem dropStrays_keeps {o} {s0 : State} (h0 : Keeps o s0) : Keeps o (dropStrays s0) := by
  unfold dropStrays
  repeat' first
    | with_reducible assumption
    | (with_reducible apply keeps_mk; with_reducible assumption)
    | intro _
    | (extract_lets +onlyGivenNames x; refine keeps_with (o := o) (x := x) ?_ (fun hx => ?_); (on_goal 1 => (unfold x; clear x)); (on_goal 2 => clear_value x))
    | (extract_lets +onlyGivenNames x; clear_value x)
    | (extract_lets +onlyGivenNames x; have k := x; clear k)
    | with_reducible apply noReceiver_keeps
    | with_reducible apply keeps_foldl

theorem turnReports_keeps {o} {s0 : State} (h0 : Keeps o s0) : Keeps o (turnReports s0) := by
  unfold turnReports
  repeat' first
    | with_reducible assumption
    | (with_reducible apply keeps_mk; with_reducible assumption)
    | intro _
    | (extract_lets +onlyGivenNames x; refine keeps_with (o := o) (x := x) ?_ (fun hx => ?_); (on_goal 1 => (unfold x; clear x)); (on_goal 2 => clear_value x))
    | (extract_lets +onlyGivenNames x; clear_value x)
    | (extract_lets +onlyGivenNames x; have k := x; clear k)
    | with_reducible apply postEvent_keeps
    | with_reducible apply keeps_foldl

theorem keepFrame_keeps {o} {a0} {a1} {a2} {s3 : State} (h3 : Keeps o s3) : Keeps o (keepFrame a0 a1 a2 s3) := by
  unfold keepFrame
  repeat' first
    | with_reducible assumption
    | (extract_lets +onlyGivenNames x; clear_value x)
    | (with_reducible apply openSealed_keeps'; case e => with_reducible assumption)
    | (with_reducible apply keeps_mk; with_reducible apply openSealed_keeps'; case e => with_reducible assumption)
    | split

theorem execDritarManagement_keeps {o} {a0} {a1} {s2 : State} (h2 : Keeps o s2) : OutKeeps o (execDritarManagement a0 a1 s2) := by
  unfold execDritarManagement
  repeat' first
    | with_reducible assumption
    | with_reducible apply keepFrame_keeps
    | with_reducible apply outKeeps_next

theorem execDritarBulk_keeps {o} {a0} {a1} {s2 : State} (h2 : Keeps o s2) : OutKeeps o (execDritarBulk a0 a1 s2) := by
  unfold execDritarBulk
  repeat' first
    | with_reducible assumption
    | with_reducible apply keepFrame_keeps
    | with_reducible apply outKeeps_next

theorem mapApplied_keeps {o} {a0} {a1} {s2 : State} (h2 : Keeps o s2) : Keeps o (mapApplied a0 a1 s2) := by
  unfold mapApplied
  repeat' first
    | with_reducible assumption
    | (with_reducible apply keeps_mk; with_reducible assumption)
    | (extract_lets +onlyGivenNames x; refine keeps_with (o := o) (x := x) ?_ (fun hx => ?_); (on_goal 1 => (unfold x; clear x)); (on_goal 2 => clear_value x))
    | (extract_lets +onlyGivenNames x; clear_value x)
    | (extract_lets +onlyGivenNames x; have k := x; clear k)
    | with_reducible apply postEvent_keeps
    | with_reducible apply startPeers_keeps
    | with_reducible apply complete_keeps

theorem fabricSet_keeps {o} {a0} {s1 : State} (h1 : Keeps o s1) : RanKeeps o (fabricSet a0 s1) := by
  unfold fabricSet
  repeat' first
    | with_reducible assumption
    | (with_reducible apply keeps_mk; with_reducible assumption)
    | (extract_lets +onlyGivenNames x; refine keeps_with (o := o) (x := x) ?_ (fun hx => ?_); (on_goal 1 => (unfold x; clear x)); (on_goal 2 => clear_value x))
    | (extract_lets +onlyGivenNames x; clear_value x)
    | (extract_lets +onlyGivenNames x; have k := x; clear k)
    | with_reducible apply complete_keeps
    | with_reducible apply mapApplied_keeps
    | with_reducible apply ranKeeps_later
    | split

theorem execFabricMapSet_keeps {o} {a0} {s1 : State} (h1 : Keeps o s1) : OutKeeps o (execFabricMapSet a0 s1) := by
  unfold execFabricMapSet
  repeat' first
    | with_reducible assumption
    | intro _
    | with_reducible apply runCommand_keeps
    | with_reducible apply fabricSet_keeps
    | with_reducible apply outKeeps_next

theorem applyMapTo_keeps {o} {a0} {s1 : State} (h1 : Keeps o s1) : Keeps o (applyMapTo a0 s1) := by
  unfold applyMapTo
  repeat' first
    | with_reducible assumption
    | (with_reducible apply keeps_mk; with_reducible assumption)
    | (extract_lets +onlyGivenNames x; refine keeps_with (o := o) (x := x) ?_ (fun hx => ?_); (on_goal 1 => (unfold x; clear x)); (on_goal 2 => clear_value x))
    | (extract_lets +onlyGivenNames x; clear_value x)
    | with_reducible apply mapApplied_keeps
    | split

end Sys2Proof.Machine
end

