-- ==== Sys2Proof/Laws/Keeps4.lean ====
section
/-!
SUPPORT. What synchronisation, pages, commits, banks, admission, services and passes keep.
-/

namespace Sys2Proof.Machine

theorem noteError_keeps {o} {a0} {s1 : State} (h1 : Keeps o s1) : Keeps o (noteError a0 s1) := by
  unfold noteError
  repeat' first
    | with_reducible assumption
    | (with_reducible apply keeps_mk; with_reducible assumption)
    | (extract_lets +onlyGivenNames x; refine keeps_with (o := o) (x := x) ?_ (fun hx => ?_); (on_goal 1 => (unfold x; clear x)); (on_goal 2 => clear_value x))
    | (extract_lets +onlyGivenNames x; clear_value x)
    | with_reducible apply outlier_keeps
    | split

theorem regress_keeps {o} {a0} {s1 : State} (h1 : Keeps o s1) : Keeps o (regress a0 s1) := by
  unfold regress
  repeat' first
    | with_reducible assumption
    | (extract_lets +onlyGivenNames x; refine keeps_with (o := o) (x := x) ?_ (fun hx => ?_); (on_goal 1 => (unfold x; clear x)); (on_goal 2 => clear_value x))
    | (extract_lets +onlyGivenNames x; clear_value x)
    | with_reducible apply setWindow_keeps
    | with_reducible apply failElement_keeps
    | with_reducible apply takeValue_keeps
    | split

theorem rejectSample_keeps {o} {a0} {s1 : State} (h1 : Keeps o s1) : Keeps o (rejectSample a0 s1) := by
  unfold rejectSample
  repeat' first
    | with_reducible assumption
    | (extract_lets +onlyGivenNames x; refine keeps_with (o := o) (x := x) ?_ (fun hx => ?_); (on_goal 1 => (unfold x; clear x)); (on_goal 2 => clear_value x))
    | (extract_lets +onlyGivenNames x; clear_value x)
    | (extract_lets +onlyGivenNames x; have k := x; clear k)
    | with_reducible apply outlier_keeps
    | with_reducible apply failElement_keeps
    | with_reducible apply setWindow_keeps
    | split

theorem checkCandidate_keeps {o} {a0} {a1} {s2 : State} (h2 : Keeps o s2) : Keeps o (checkCandidate a0 a1 s2) := by
  unfold checkCandidate
  repeat' first
    | with_reducible assumption
    | (with_reducible apply keeps_mk; with_reducible assumption)
    | (extract_lets +onlyGivenNames x; clear_value x)
    | (extract_lets +onlyGivenNames x; have k := x; clear k)
    | with_reducible apply endCandidate_keeps
    | split

theorem takeSample_keeps {o} {a0} {s1 : State} (h1 : Keeps o s1) : Keeps o (takeSample a0 s1) := by
  unfold takeSample
  repeat' first
    | with_reducible assumption
    | with_reducible apply checkCandidate_keeps
    | with_reducible apply regress_keeps
    | with_reducible apply rejectSample_keeps
    | with_reducible apply noteError_keeps
    | split

theorem dropRequest_keeps {o} {a0} {a1} {s2 : State} (h2 : Keeps o s2) : Keeps o (dropRequest a0 a1 s2) := by
  unfold dropRequest
  repeat' first
    | with_reducible assumption
    | with_reducible apply setService_keeps

theorem shadowTile_keeps {o} {a0} {a1} {s2 : State} (h2 : Keeps o s2) : Keeps o (shadowTile a0 a1 s2) := by
  unfold shadowTile
  repeat' first
    | with_reducible assumption
    | (with_reducible apply keeps_mk; with_reducible assumption)
    | (extract_lets +onlyGivenNames x; refine keeps_with (o := o) (x := x) ?_ (fun hx => ?_); (on_goal 1 => (unfold x; clear x)); (on_goal 2 => clear_value x))
    | (extract_lets +onlyGivenNames x; clear_value x)
    | with_reducible apply planTile_keeps

theorem recomputeResult_keeps {o} {a0} {a1} {a2} {s3 : State} (h3 : Keeps o s3) : Keeps o (recomputeResult a0 a1 a2 s3) := by
  unfold recomputeResult
  repeat' first
    | with_reducible assumption
    | (extract_lets +onlyGivenNames x; refine keeps_with (o := o) (x := x) ?_ (fun hx => ?_); (on_goal 1 => (unfold x; clear x)); (on_goal 2 => clear_value x))
    | with_reducible apply dropRequest_keeps
    | with_reducible apply shadowTile_keeps
    | with_reducible apply deliverExact_keeps
    | split

theorem pairedResult_keeps {o} {a0} {a1} {s2 : State} (h2 : Keeps o s2) : Keeps o (pairedResult a0 a1 s2) := by
  unfold pairedResult
  repeat' first
    | with_reducible assumption
    | (extract_lets +onlyGivenNames x; refine keeps_with (o := o) (x := x) ?_ (fun hx => ?_); (on_goal 1 => (unfold x; clear x)); (on_goal 2 => clear_value x))
    | (extract_lets +onlyGivenNames x; have k := x; clear k)
    | with_reducible apply dropRequest_keeps
    | with_reducible apply endWarmups_keeps
    | with_reducible apply takeSample_keeps
    | split

theorem execPairedSampleResult_keeps {o} {a0} {a1} {s2 : State} (h2 : Keeps o s2) : OutKeeps o (execPairedSampleResult a0 a1 s2) := by
  unfold execPairedSampleResult
  repeat' first
    | with_reducible assumption
    | with_reducible apply pairedResult_keeps
    | with_reducible apply outKeeps_next

theorem trueStats_keeps {o} {a0} {s1 : State} (h1 : Keeps o s1) : RanKeeps o (trueStats a0 s1) := by
  unfold trueStats
  repeat' first
    | with_reducible assumption
    | with_reducible apply ranKeeps_ok
    | split

theorem execTrueStats_keeps {o} {a0} {s1 : State} (h1 : Keeps o s1) : OutKeeps o (execTrueStats a0 s1) := by
  unfold execTrueStats
  repeat' first
    | with_reducible assumption
    | intro _
    | with_reducible apply runCommand_keeps
    | with_reducible apply trueStats_keeps
    | with_reducible apply outKeeps_next

theorem noteLap_keeps {o} {a0} {a1} {a2} {a3} {s4 : State} (h4 : Keeps o s4) : Keeps o (noteLap a0 a1 a2 a3 s4) := by
  unfold noteLap
  repeat' first
    | with_reducible assumption
    | with_reducible apply syncEvent_keeps

theorem noteExcess_keeps {o} {a0} {a1} {a2} {a3} {s4 : State} (h4 : Keeps o s4) : Keeps o (noteExcess a0 a1 a2 a3 s4) := by
  unfold noteExcess
  repeat' first
    | with_reducible assumption
    | with_reducible apply postOncePerPass_keeps

theorem countRefusal_keeps {o} {a0} {a1} {s2 : State} (h2 : Keeps o s2) : Keeps o (countRefusal a0 a1 s2) := by
  unfold countRefusal
  repeat' first
    | with_reducible assumption
    | (extract_lets +onlyGivenNames x; clear_value x)
    | with_reducible apply setBarrier_keeps
    | split

theorem sendArrivals_keeps {o} {a0} {a1} {a2} {a3} {s4 : State} (h4 : Keeps o s4) : Keeps o (sendArrivals a0 a1 a2 a3 s4) := by
  unfold sendArrivals
  repeat' first
    | with_reducible assumption
    | intro _
    | with_reducible apply sendSealed_keeps
    | with_reducible apply keeps_foldl
    | split

theorem startArrive_keeps {o} {a0} {a1} {s2 : State} (h2 : Keeps o s2) : Keeps o (startArrive a0 a1 s2) := by
  unfold startArrive
  repeat' first
    | with_reducible assumption
    | (extract_lets +onlyGivenNames x; refine keeps_with (o := o) (x := x) ?_ (fun hx => ?_); (on_goal 1 => (unfold x; clear x)); (on_goal 2 => clear_value x))
    | (extract_lets +onlyGivenNames x; clear_value x)
    | (extract_lets +onlyGivenNames x; have k := x; clear k)
    | with_reducible apply setPlan_keeps
    | with_reducible apply sendArrivals_keeps
    | (with_reducible apply arrive_keeps'; case e => with_reducible assumption)
    | with_reducible apply noteLap_keeps
    | with_reducible apply countRefusal_keeps
    | with_reducible apply setFly_keeps
    | with_reducible apply noteExcess_keeps
    | split

theorem execBarrierArrive_keeps {o} {a0} {a1} {s2 : State} (h2 : Keeps o s2) : OutKeeps o (execBarrierArrive a0 a1 s2) := by
  unfold execBarrierArrive
  repeat' first
    | with_reducible assumption
    | intro _
    | with_reducible apply issue_keeps
    | with_reducible apply startArrive_keeps
    | with_reducible apply outKeeps_next

theorem retryArrive_keeps {o} {a0} {a1} {s2 : State} (h2 : Keeps o s2) : Keeps o (retryArrive a0 a1 s2) := by
  unfold retryArrive
  repeat' first
    | with_reducible assumption
    | (with_reducible apply arrive_keeps'; case e => with_reducible assumption)
    | with_reducible apply endFly_keeps
    | split

theorem startWait_keeps {o} {a0} {a1} {s2 : State} (h2 : Keeps o s2) : Keeps o (startWait a0 a1 s2) := by
  unfold startWait
  repeat' first
    | with_reducible assumption
    | (extract_lets +onlyGivenNames x; refine keeps_with (o := o) (x := x) ?_ (fun hx => ?_); (on_goal 1 => (unfold x; clear x)); (on_goal 2 => clear_value x))
    | (extract_lets +onlyGivenNames x; clear_value x)
    | with_reducible apply setFly_keeps
    | split

theorem execBarrierWait_keeps {o} {a0} {a1} {s2 : State} (h2 : Keeps o s2) : OutKeeps o (execBarrierWait a0 a1 s2) := by
  unfold execBarrierWait
  repeat' first
    | with_reducible assumption
    | intro _
    | with_reducible apply issue_keeps
    | with_reducible apply startWait_keeps
    | with_reducible apply outKeeps_next

theorem releaseReach_keeps {o} {a0} {s1 : State} (h1 : Keeps o s1) : Keeps o (releaseReach a0 s1) := by
  unfold releaseReach
  repeat' first
    | with_reducible assumption
    | with_reducible apply endFly_keeps
    | split

theorem execBarrierReleaseReach_keeps {o} {a0} {s1 : State} (h1 : Keeps o s1) : OutKeeps o (execBarrierReleaseReach a0 s1) := by
  unfold execBarrierReleaseReach
  repeat' first
    | with_reducible assumption
    | with_reducible apply releaseReach_keeps
    | with_reducible apply outKeeps_next

theorem releaseBarriers_keeps {o} {s0 : State} (h0 : Keeps o s0) : Keeps o (releaseBarriers s0) := by
  unfold releaseBarriers
  repeat' first
    | with_reducible assumption
    | intro _
    | with_reducible apply setPlan_keeps
    | with_reducible apply keeps_foldl
    | split

theorem discardFar_keeps {o} {a0} {a1} {a2} {s3 : State} (h3 : Keeps o s3) : Keeps o (discardFar a0 a1 a2 s3) := by
  unfold discardFar
  repeat' first
    | with_reducible assumption
    | (extract_lets +onlyGivenNames x; refine keeps_with (o := o) (x := x) ?_ (fun hx => ?_); (on_goal 1 => (unfold x; clear x)); (on_goal 2 => clear_value x))
    | with_reducible apply setSyncFlag_keeps
    | with_reducible apply noteExcess_keeps
    | split

theorem farArrive_keeps {o} {a0} {a1} {a2} {s3 : State} (h3 : Keeps o s3) : Keeps o (farArrive a0 a1 a2 s3).1 := by
  unfold farArrive
  repeat' first
    | with_reducible assumption
    | (extract_lets +onlyGivenNames x; clear_value x)
    | (extract_lets +onlyGivenNames x; have k := x; clear k)
    | with_reducible apply discardFar_keeps
    | (with_reducible apply arrive_keeps'; case e => with_reducible assumption)
    | with_reducible apply noteExcess_keeps
    | split

theorem farArrive_keeps' {o} {a0} {a1} {a2} {s3 : State} (h3 : Keeps o s3) {y0} {t} (e : farArrive a0 a1 a2 s3 = (t, y0)) : Keeps o t := by
  have k := farArrive_keeps (a0 := a0) (a1 := a1) (a2 := a2) h3
  rw [e] at k
  exact k

theorem barrierFrame_keeps {o} {a0} {a1} {s2 : State} (h2 : Keeps o s2) : Keeps o (barrierFrame a0 a1 s2) := by
  unfold barrierFrame
  repeat' first
    | with_reducible assumption
    | (with_reducible apply keeps_mk; with_reducible assumption)
    | (extract_lets +onlyGivenNames x; refine keeps_with (o := o) (x := x) ?_ (fun hx => ?_); (on_goal 1 => (unfold x; clear x)); (on_goal 2 => clear_value x))
    | (extract_lets +onlyGivenNames x; clear_value x)
    | (extract_lets +onlyGivenNames x; have k := x; clear k)
    | (with_reducible apply openSealed_keeps'; case e => with_reducible assumption)
    | (with_reducible apply farArrive_keeps'; case e => with_reducible assumption)
    | with_reducible apply countRefusal_keeps
    | with_reducible apply noteLap_keeps
    | with_reducible apply setSyncFlag_keeps
    | (with_reducible apply keeps_mk; with_reducible apply farArrive_keeps'; case e => with_reducible assumption)
    | split

theorem execDritarBarrierArrival_keeps {o} {a0} {a1} {s2 : State} (h2 : Keeps o s2) : OutKeeps o (execDritarBarrierArrival a0 a1 s2) := by
  unfold execDritarBarrierArrival
  repeat' first
    | with_reducible assumption
    | with_reducible apply barrierFrame_keeps
    | with_reducible apply outKeeps_next

theorem retryFar_keeps {o} {s0 : State} (h0 : Keeps o s0) : Keeps o (retryFar s0) := by
  unfold retryFar
  repeat' first
    | with_reducible assumption
    | (with_reducible apply keeps_mk; with_reducible assumption)
    | intro _
    | (extract_lets +onlyGivenNames x; clear_value x)
    | (extract_lets +onlyGivenNames x; have k := x; clear k)
    | (with_reducible apply farArrive_keeps'; case e => with_reducible assumption)
    | (with_reducible apply keeps_mk; with_reducible apply farArrive_keeps'; case e => with_reducible assumption)
    | with_reducible apply keeps_foldl
    | split

theorem execSyncQuery_keeps {o} {a0} {s1 : State} (h1 : Keeps o s1) : OutKeeps o (execSyncQuery a0 s1) := by
  unfold execSyncQuery
  repeat' first
    | with_reducible assumption
    | intro _
    | with_reducible apply runCommand_keeps
    | with_reducible apply ranKeeps_ok
    | with_reducible apply outKeeps_next

theorem dropSpan_keeps {o} {a0} {a1} {s2 : State} (h2 : Keeps o s2) : Keeps o (dropSpan a0 a1 s2) := by
  unfold dropSpan
  repeat' first
    | with_reducible assumption
    | (with_reducible apply keeps_mk; with_reducible assumption)
    | (extract_lets +onlyGivenNames x; refine keeps_with (o := o) (x := x) ?_ (fun hx => ?_); (on_goal 1 => (unfold x; clear x)); (on_goal 2 => clear_value x))
    | (extract_lets +onlyGivenNames x; clear_value x)
    | with_reducible apply setCtx_keeps
    | split

theorem setPage_keeps {o} {a0} {a1} {a2} {s3 : State} (h3 : Keeps o s3) : Keeps o (setPage a0 a1 a2 s3) := by
  unfold setPage
  repeat' first
    | with_reducible assumption
    | with_reducible apply setCtx_keeps
    | split

theorem setQuota_keeps {o} {a0} {a1} {s2 : State} (h2 : Keeps o s2) : Keeps o (setQuota a0 a1 s2) := by
  unfold setQuota
  repeat' first
    | (with_reducible apply keeps_mk; with_reducible assumption)

theorem writeCold_keeps {o} {a0} {a1} {a2} {a3} {s4 : State} (h4 : Keeps o s4) : OptKeeps o (writeCold a0 a1 a2 a3 s4) := by
  unfold writeCold
  repeat' first
    | with_reducible assumption
    | with_reducible exact optKeeps_none
    | (extract_lets +onlyGivenNames x; refine keeps_with (o := o) (x := x) ?_ (fun hx => ?_); (on_goal 1 => (unfold x; clear x)); (on_goal 2 => clear_value x))
    | (extract_lets +onlyGivenNames x; clear_value x)
    | (extract_lets +onlyGivenNames x; have k := x; clear k)
    | with_reducible apply setQuota_keeps
    | with_reducible apply hostWrite_keeps
    | with_reducible apply setPage_keeps
    | with_reducible apply optKeeps_some
    | split

theorem dropMove_keeps {o} {a0} {a1} {s2 : State} (h2 : Keeps o s2) : Keeps o (dropMove a0 a1 s2) := by
  unfold dropMove
  repeat' first
    | (with_reducible apply keeps_mk; with_reducible assumption)

theorem readyMove_keeps {o} {a0} {a1} {s2 : State} (h2 : Keeps o s2) : Keeps o (readyMove a0 a1 s2) := by
  unfold readyMove
  repeat' first
    | (with_reducible apply keeps_mk; with_reducible assumption)

theorem pageTile_keeps {o} {a0} {a1} {s2 : State} (h2 : Keeps o s2) : Keeps o (pageTile a0 a1 s2) := by
  unfold pageTile
  repeat' first
    | with_reducible assumption
    | (with_reducible apply keeps_mk; with_reducible assumption)
    | (extract_lets +onlyGivenNames x; refine keeps_with (o := o) (x := x) ?_ (fun hx => ?_); (on_goal 1 => (unfold x; clear x)); (on_goal 2 => clear_value x))
    | (extract_lets +onlyGivenNames x; clear_value x)
    | with_reducible apply postTile_keeps
    | with_reducible apply dropSpan_keeps
    | with_reducible apply setSession_keeps
    | split

theorem pageMoveDone_keeps {o} {a0} {a1} {a2} {a3} {s4 : State} (h4 : Keeps o s4) : Keeps o (pageMoveDone a0 a1 a2 a3 s4) := by
  unfold pageMoveDone
  repeat' first
    | with_reducible assumption
    | (extract_lets +onlyGivenNames x; clear_value x)
    | (extract_lets +onlyGivenNames x; have k := x; clear k)
    | with_reducible apply pageTile_keeps
    | with_reducible apply dropMove_keeps
    | with_reducible apply writeCold_keeps
    | (apply optKeeps_eq; case e => with_reducible assumption)
    | with_reducible apply readyMove_keeps
    | split

theorem execPageMoveDone_keeps {o} {a0} {a1} {a2} {a3} {s4 : State} (h4 : Keeps o s4) : OutKeeps o (execPageMoveDone a0 a1 a2 a3 s4) := by
  unfold execPageMoveDone
  repeat' first
    | with_reducible assumption
    | with_reducible apply pageMoveDone_keeps
    | with_reducible apply outKeeps_next

theorem coldFetch_keeps {o} {a0} {a1} {a2} {a3} {s4 : State} (h4 : Keeps o s4) : Keeps o (coldFetch a0 a1 a2 a3 s4) := by
  unfold coldFetch
  repeat' first
    | with_reducible assumption
    | (with_reducible apply keeps_mk; with_reducible assumption)
    | (extract_lets +onlyGivenNames x; refine keeps_with (o := o) (x := x) ?_ (fun hx => ?_); (on_goal 1 => (unfold x; clear x)); (on_goal 2 => clear_value x))
    | (extract_lets +onlyGivenNames x; clear_value x)
    | (extract_lets +onlyGivenNames x; have k := x; clear k)
    | with_reducible apply setPage_keeps
    | with_reducible apply postEvent_keeps
    | split

theorem execColdPageFetchDone_keeps {o} {a0} {a1} {a2} {a3} {s4 : State} (h4 : Keeps o s4) : OutKeeps o (execColdPageFetchDone a0 a1 a2 a3 s4) := by
  unfold execColdPageFetchDone
  repeat' first
    | with_reducible assumption
    | with_reducible apply coldFetch_keeps
    | with_reducible apply outKeeps_next

theorem applyMove_keeps {o} {s0 : State} {a1} (h0 : Keeps o s0) : Keeps o (applyMove s0 a1) := by
  unfold applyMove
  repeat' first
    | with_reducible assumption
    | (extract_lets +onlyGivenNames x; refine keeps_with (o := o) (x := x) ?_ (fun hx => ?_); (on_goal 1 => (unfold x; clear x)); (on_goal 2 => clear_value x))
    | with_reducible apply dropMove_keeps
    | with_reducible apply setPage_keeps
    | split

theorem applyMoves_keeps {o} {s0 : State} (h0 : Keeps o s0) : Keeps o (applyMoves s0) := by
  unfold applyMoves
  repeat' first
    | with_reducible assumption
    | intro _
    | with_reducible apply applyMove_keeps
    | with_reducible apply keeps_foldl

theorem moveUntil_keeps {o} {a0} {a1} {a2} {a3} {s4 : State} (h4 : Keeps o s4) : Keeps o (moveUntil a0 a1 a2 a3 s4) := by
  induction a2 generalizing a3 s4 with
  | nil => exact h4
  | cons r l ih =>
    unfold moveUntil
    split
    · exact h4
    · exact ih (beginMove_keeps h4)

theorem demoteHot_keeps {o} {s0 : State} {a1} {a2} (h0 : Keeps o s0) : Keeps o (demoteHot s0 a1 a2) := by
  unfold demoteHot
  repeat' first
    | with_reducible assumption
    | (extract_lets +onlyGivenNames x; clear_value x)
    | with_reducible apply moveUntil_keeps

theorem demoteWarm_keeps {o} {s0 : State} {a1} (h0 : Keeps o s0) : Keeps o (demoteWarm s0 a1) := by
  unfold demoteWarm
  repeat' first
    | with_reducible assumption
    | (extract_lets +onlyGivenNames x; clear_value x)
    | with_reducible apply moveUntil_keeps
    | split

theorem dropUntil_keeps {o} {a0} {a1} {a2} {a3} {a4} {s5 : State} (h5 : Keeps o s5) :
    Keeps o (dropUntil a0 a1 a2 a3 a4 s5).2 := by
  induction a3 generalizing a4 s5 with
  | nil => exact h5
  | cons r l ih =>
    unfold dropUntil
    split
    · exact h5
    split
    · exact ih h5
    extract_lets c
    split
    · exact ih (dropSpan_keeps h5)
    · exact ih h5

theorem dropUntil_keeps' {o} {a0} {a1} {a2} {a3} {a4} {s5 : State} (h5 : Keeps o s5) {y0} {t} (e : dropUntil a0 a1 a2 a3 a4 s5 = (y0, t)) : Keeps o t := by
  have k := dropUntil_keeps (a0 := a0) (a1 := a1) (a2 := a2) (a3 := a3) (a4 := a4) h5
  rw [e] at k
  exact k

theorem dropSpans_keeps {o} {s0 : State} {a1} (h0 : Keeps o s0) : Keeps o (dropSpans s0 a1) := by
  unfold dropSpans
  repeat' first
    | with_reducible assumption
    | intro _
    | (extract_lets +onlyGivenNames x; clear_value x)
    | (extract_lets +onlyGivenNames x; have k := x; clear k)
    | with_reducible apply dropUntil_keeps
    | with_reducible apply postEvent_keeps
    | with_reducible apply keeps_foldl
    | split

theorem enforceQuotas_keeps {o} {s0 : State} (h0 : Keeps o s0) : Keeps o (enforceQuotas s0) := by
  unfold enforceQuotas
  repeat' first
    | with_reducible assumption
    | intro _
    | with_reducible apply dropSpans_keeps
    | with_reducible apply demoteWarm_keeps
    | with_reducible apply demoteHot_keeps
    | with_reducible apply keeps_foldl

theorem heatTail_keeps {o} {a0} {a1} {a2} {s3 : State} (h3 : Keeps o s3) : Keeps o (heatTail a0 a1 a2 s3) := by
  unfold heatTail
  repeat' first
    | with_reducible assumption
    | intro _
    | with_reducible apply dropMove_keeps
    | with_reducible apply setPage_keeps
    | with_reducible apply keeps_foldl
    | split

theorem postPlanTurn_keeps {o} {a0} {a1} {a2} {a3} {a4} {s5 : State} (h5 : Keeps o s5) : Keeps o (postPlanTurn a0 a1 a2 a3 a4 s5) := by
  unfold postPlanTurn
  repeat' first
    | with_reducible assumption
    | (with_reducible apply keeps_mk; with_reducible assumption)
    | (extract_lets +onlyGivenNames x; clear_value x)
    | with_reducible apply postPlan_keeps
    | split

theorem reserveTail_keeps {o} {a0} {a1} {a2} {a3} {a4} {s5 : State} (h5 : Keeps o s5) :
    OptKeeps o (reserveTail a0 a1 a2 a3 a4 s5).1 ∧ Keeps o (reserveTail a0 a1 a2 a3 a4 s5).2 := by
  unfold reserveTail
  split
  · exact ⟨h5, h5⟩
  split
  · exact ⟨trivial, h5⟩
  extract_lets need want has quota
  split
  · exact ⟨heatTail_keeps h5, h5⟩
  · exact ⟨trivial, postPlanTurn_keeps h5⟩

theorem emptyDecisions_keeps {o} {a0} {s1 : State} (h1 : Keeps o s1) : Keeps o (emptyDecisions a0 s1) := by
  unfold emptyDecisions
  repeat' first
    | with_reducible assumption
    | with_reducible apply emptyWords_keeps

theorem postTailIncomplete_keeps {o} {a0} {a1} {a2} {a3} {a4} {s5 : State} (h5 : Keeps o s5) : Keeps o (postTailIncomplete a0 a1 a2 a3 a4 s5) := by
  unfold postTailIncomplete
  repeat' first
    | with_reducible assumption
    | with_reducible apply postPlan_keeps

theorem setOutq_keeps {o} {a0} {a1} {s2 : State} (h2 : Keeps o s2) : Keeps o (setOutq a0 a1 s2) := by
  unfold setOutq
  repeat' first
    | (with_reducible apply keeps_mk; with_reducible assumption)

theorem padRing_keeps {o} {a0} {a1} {a2} {s3 : State} (h3 : Keeps o s3) : Keeps o (padRing a0 a1 a2 s3).2 := by
  unfold padRing
  repeat' first
    | with_reducible assumption
    | (extract_lets +onlyGivenNames x; refine keeps_with (o := o) (x := x) ?_ (fun hx => ?_); (on_goal 1 => (unfold x; clear x)); (on_goal 2 => clear_value x))
    | (extract_lets +onlyGivenNames x; clear_value x)
    | with_reducible apply hostWrite_keeps
    | with_reducible apply setOutq_keeps
    | split

theorem padRing_keeps' {o} {a0} {a1} {a2} {s3 : State} (h3 : Keeps o s3) {y0} {t} (e : padRing a0 a1 a2 s3 = (y0, t)) : Keeps o t := by
  have k := padRing_keeps (a0 := a0) (a1 := a1) (a2 := a2) h3
  rw [e] at k
  exact k

theorem writeRecord_keeps {o} {a0} {a1} {a2} {a3} {a4} {s5 : State} (h5 : Keeps o s5) : Keeps o (writeRecord a0 a1 a2 a3 a4 s5) := by
  unfold writeRecord
  repeat' first
    | with_reducible assumption
    | (with_reducible apply keeps_mk; with_reducible assumption)
    | (extract_lets +onlyGivenNames x; clear_value x)
    | (extract_lets +onlyGivenNames x; have k := x; clear k)
    | with_reducible apply padRing_keeps
    | with_reducible apply hostWrite_keeps
    | with_reducible apply setOutq_keeps
    | split

theorem writeRecords_keeps {o} {a0} {a1} {a2} {s3 : State} (h3 : Keeps o s3) : Keeps o (writeRecords a0 a1 a2 s3) := by
  unfold writeRecords
  repeat' first
    | with_reducible assumption
    | intro _
    | (extract_lets +onlyGivenNames x; clear_value x)
    | with_reducible apply writeRecord_keeps
    | with_reducible apply keeps_foldl

theorem commitSession_keeps {o} {a0} {a1} {a2} {a3} {a4} {s5 : State} (h5 : Keeps o s5) : Keeps o (commitSession a0 a1 a2 a3 a4 s5).1 := by
  unfold commitSession
  repeat' first
    | with_reducible assumption
    | (extract_lets +onlyGivenNames x; clear_value x)
    | (extract_lets +onlyGivenNames x; have k := x; clear k)
    | with_reducible apply postTailIncomplete_keeps
    | with_reducible apply setCtx_keeps
    | with_reducible apply setSession_keeps
    | split

theorem commitSession_keeps' {o} {a0} {a1} {a2} {a3} {a4} {s5 : State} (h5 : Keeps o s5) {y0} {t} (e : commitSession a0 a1 a2 a3 a4 s5 = (t, y0)) : Keeps o t := by
  have k := commitSession_keeps (a0 := a0) (a1 := a1) (a2 := a2) (a3 := a3) (a4 := a4) h5
  rw [e] at k
  exact k

theorem dropMoves_keeps {o} {a0} {a1} {a2} {s3 : State} (h3 : Keeps o s3) : Keeps o (dropMoves a0 a1 a2 s3) := by
  unfold dropMoves
  repeat' first
    | (with_reducible apply keeps_mk; with_reducible assumption)

theorem commitRecompute_keeps {o} {a0} {a1} {a2} {a3} {s4 : State} (h4 : Keeps o s4) : Keeps o (commitRecompute a0 a1 a2 a3 s4) := by
  unfold commitRecompute
  repeat' first
    | with_reducible assumption
    | (extract_lets +onlyGivenNames x; refine keeps_with (o := o) (x := x) ?_ (fun hx => ?_); (on_goal 1 => (unfold x; clear x)); (on_goal 2 => clear_value x))
    | (extract_lets +onlyGivenNames x; clear_value x)
    | (extract_lets +onlyGivenNames x; have k := x; clear k)
    | with_reducible apply setCtx_keeps
    | with_reducible apply postTailIncomplete_keeps
    | with_reducible apply dropMoves_keeps
    | with_reducible apply postEvent_keeps
    | split

theorem endJob_keeps {o} {a0} {a1} {a2} {s3 : State} (h3 : Keeps o s3) : Keeps o (endJob a0 a1 a2 s3) := by
  unfold endJob
  split
  · exact h3
  split
  · exact h3
  extract_lets s q t
  have ht : Keeps o t := keeps_mk (setCtx_keeps h3)
  split
  rename_i version u hu
  have hu : Keeps o u := by
    split at hu
    · obtain ⟨-, rfl⟩ := Prod.mk.inj hu; exact ht
    · exact freeBits_keeps' ht hu
  extract_lets w
  have hw : Keeps o w := postEvent_keeps hu
  split
  · exact hw
  · exact complete_keeps hw

theorem makePending_keeps {o} {a0} {a1} {s2 : State} (h2 : Keeps o s2) : Keeps o (makePending a0 a1 s2) := by
  unfold makePending
  repeat' first
    | (with_reducible apply keeps_mk; with_reducible assumption)

theorem loadJob_keeps {o} {a0} {a1} {s2 : State} (h2 : Keeps o s2) : Keeps o (loadJob a0 a1 s2) := by
  unfold loadJob
  repeat' first
    | with_reducible assumption
    | (with_reducible apply keeps_mk; with_reducible assumption)
    | (extract_lets +onlyGivenNames x; refine keeps_with (o := o) (x := x) ?_ (fun hx => ?_); (on_goal 1 => (unfold x; clear x)); (on_goal 2 => clear_value x))
    | (extract_lets +onlyGivenNames x; clear_value x)
    | (extract_lets +onlyGivenNames x; have k := x; clear k)
    | with_reducible apply endJob_keeps
    | with_reducible apply makePending_keeps
    | split

theorem commitJob_keeps {o} {a0} {s1 : State} (h1 : Keeps o s1) : Keeps o (commitJob a0 s1) := by
  unfold commitJob
  repeat' first
    | with_reducible assumption
    | (extract_lets +onlyGivenNames x; refine keeps_with (o := o) (x := x) ?_ (fun hx => ?_); (on_goal 1 => (unfold x; clear x)); (on_goal 2 => clear_value x))
    | (extract_lets +onlyGivenNames x; clear_value x)
    | with_reducible apply setCtx_keeps
    | with_reducible apply loadJob_keeps
    | split

theorem withhold_keeps {o} {a0} {a1} {a2} {s3 : State} (h3 : Keeps o s3) : Keeps o (withhold a0 a1 a2 s3) := by
  unfold withhold
  repeat' first
    | (with_reducible apply keeps_mk; with_reducible assumption)

theorem countSuspect_keeps {o} {a0} {a1} {s2 : State} (h2 : Keeps o s2) : Keeps o (countSuspect a0 a1 s2) := by
  unfold countSuspect
  repeat' first
    | (with_reducible apply keeps_mk; with_reducible assumption)

theorem repeatStep_keeps {o} {a0} {s1 : State} (h1 : Keeps o s1) : Keeps o (repeatStep a0 s1) := by
  unfold repeatStep
  repeat' first
    | with_reducible assumption
    | with_reducible apply discardTail_keeps

theorem commitStep_keeps {o} {a0} {a1} {a2} {acc : State × List OutEntry} (h : Keeps o acc.1) :
    Keeps o (commitStep a0 a1 a2 acc).1 := by
  obtain ⟨s, es⟩ := acc
  unfold commitStep
  split
  rename_i s es hq
  obtain ⟨rfl, rfl⟩ := Prod.mk.inj hq
  extract_lets home
  split
  · exact h
  split
  · exact repeatStep_keeps h
  split
  · split
    · split
      · exact commitJob_keeps h
      · exact postPlan_keeps (repeatStep_keeps h)
    · exact h
  split
  · extract_lets cm
    split
    · exact commitRecompute_keeps h
    · split
      exact commitSession_keeps' h ‹_›
  · exact postPlan_keeps (repeatStep_keeps h)

theorem stageReplayed_keeps {o} {a0} {a1} {s2 : State} (h2 : Keeps o s2) : Keeps o (stageReplayed a0 a1 s2) := by
  unfold stageReplayed
  repeat' first
    | with_reducible assumption
    | with_reducible apply setCtx_keeps
    | split

theorem commitReplay_keeps {o} {a0} {a1} {a2} {a3} {acc : State × List OutEntry} (h : Keeps o acc.1) :
    Keeps o (commitReplay a0 a1 a2 a3 acc).1 := by
  obtain ⟨s, es⟩ := acc
  unfold commitReplay
  split
  rename_i s es hq
  obtain ⟨rfl, rfl⟩ := Prod.mk.inj hq
  extract_lets q s replaced b tail home
  have h : Keeps o s := keeps_mk h
  clear_value s
  split
  · exact h
  split
  · refine commitJob_keeps ?_
    split
    · exact stageReplayed_keeps h
    · exact h
  split
  · exact repeatStep_keeps h
  split
  · exact commitRecompute_keeps h
  · split
    exact commitSession_keeps' h ‹_›

theorem endReplayStep_keeps {o} {a0} {a1} {s2 : State} (h2 : Keeps o s2) : Keeps o (endReplayStep a0 a1 s2) := by
  unfold endReplayStep
  repeat' first
    | with_reducible assumption
    | (with_reducible apply keeps_mk; with_reducible assumption)
    | (extract_lets +onlyGivenNames x; clear_value x)
    | split

theorem commitPass_keeps {o} {a0} {s1 : State} (h1 : Keeps o s1) : Keeps o (commitPass a0 s1) := by
  unfold commitPass
  split
  · exact h1
  extract_lets s done live
  have hs : Keeps o s := keeps_foldl (fun _ _ ht => endReplayStep_keeps ht) _ h1
  clear_value s
  split
  rename_i t es ht
  have ht : Keeps o t := by
    split at ht
    · rw [show t = (t, es).1 from rfl, ← ht]
      exact keeps_foldl_on Prod.fst (fun _ _ h => commitStep_keeps h) _ hs
    split at ht
    · obtain ⟨rfl, -⟩ := Prod.mk.inj ht; exact hs
    · obtain ⟨rfl, -⟩ := Prod.mk.inj ht
      refine postPlan_keeps (keeps_foldl (fun _ _ h => countSuspect_keeps h) _ (keeps_foldl (fun _ _ h => ?_) _ hs))
      split
      · exact repeatStep_keeps h
      · exact withhold_keeps h
  extract_lets u
  have hu : Keeps o u := emptyDecisions_keeps ht
  clear_value u
  split
  rename_i v es' hv
  have hv : Keeps o v := by
    rw [show v = (v, es').1 from rfl, ← hv]
    exact keeps_foldl_on Prod.fst (fun _ _ h => commitReplay_keeps h) _ hu
  exact writeRecords_keeps hv

theorem leaveDeck_keeps {o} {a0} {a1} {a2} {s3 : State} (h3 : Keeps o s3) : Keeps o (leaveDeck a0 a1 a2 s3) := by
  unfold leaveDeck
  repeat' first
    | with_reducible assumption
    | (with_reducible apply keeps_mk; with_reducible assumption)
    | (extract_lets +onlyGivenNames x; clear_value x)
    | with_reducible apply freeDeck_keeps
    | split

theorem sweepLeaving_keeps {o} {a0} {s1 : State} (h1 : Keeps o s1) : Keeps o (sweepLeaving a0 s1) := by
  unfold sweepLeaving
  repeat' first
    | with_reducible assumption
    | (with_reducible apply keeps_mk; with_reducible assumption)
    | intro _
    | (extract_lets +onlyGivenNames x; refine keeps_with (o := o) (x := x) ?_ (fun hx => ?_); (on_goal 1 => (unfold x; clear x)); (on_goal 2 => clear_value x))
    | (extract_lets +onlyGivenNames x; clear_value x)
    | (extract_lets +onlyGivenNames x; have k := x; clear k)
    | with_reducible apply freeDeck_keeps
    | with_reducible apply keeps_foldl

theorem setBank_keeps {o} {a0} {a1} {a2} {s3 : State} (h3 : Keeps o s3) : Keeps o (setBank a0 a1 a2 s3) := by
  unfold setBank
  repeat' first
    | (with_reducible apply keeps_mk; with_reducible assumption)

theorem freeRegion_keeps {o} {a0} {a1} {s2 : State} (h2 : Keeps o s2) : Keeps o (freeRegion a0 a1 s2) := by
  unfold freeRegion
  repeat' first
    | with_reducible assumption
    | (with_reducible apply keeps_mk; with_reducible assumption)
    | (extract_lets +onlyGivenNames x; clear_value x)
    | split

theorem clearBank_keeps {o} {a0} {a1} {a2} {s3 : State} (h3 : Keeps o s3) : Keeps o (clearBank a0 a1 a2 s3).1 := by
  unfold clearBank
  repeat' first
    | with_reducible assumption
    | (with_reducible apply keeps_mk; with_reducible assumption)
    | intro _
    | (extract_lets +onlyGivenNames x; refine keeps_with (o := o) (x := x) ?_ (fun hx => ?_); (on_goal 1 => (unfold x; clear x)); (on_goal 2 => clear_value x))
    | (extract_lets +onlyGivenNames x; clear_value x)
    | (extract_lets +onlyGivenNames x; have k := x; clear k)
    | with_reducible apply setBank_keeps
    | with_reducible apply freeRegion_keeps
    | with_reducible apply leaveDeck_keeps
    | with_reducible apply keeps_foldl

theorem clearBank_keeps' {o} {a0} {a1} {a2} {s3 : State} (h3 : Keeps o s3) {y0} {t} (e : clearBank a0 a1 a2 s3 = (t, y0)) : Keeps o t := by
  have k := clearBank_keeps (a0 := a0) (a1 := a1) (a2 := a2) h3
  rw [e] at k
  exact k

theorem takeRoles_keeps {o} {a0} {a1} {s2 : State} (h2 : Keeps o s2) : Keeps o (takeRoles a0 a1 s2) := by
  unfold takeRoles
  repeat' first
    | with_reducible assumption
    | (with_reducible apply keeps_mk; with_reducible assumption)
    | (extract_lets +onlyGivenNames x; refine keeps_with (o := o) (x := x) ?_ (fun hx => ?_); (on_goal 1 => (unfold x; clear x)); (on_goal 2 => clear_value x))
    | (extract_lets +onlyGivenNames x; clear_value x)
    | with_reducible apply setBank_keeps
    | split

theorem setSwitch_keeps {o} {a0} {s1 : State} (h1 : Keeps o s1) : Keeps o (setSwitch a0 s1) := by
  unfold setSwitch
  repeat' first
    | (with_reducible apply keeps_mk; with_reducible assumption)

theorem beginDrain_keeps {o} {a0} {a1} {s2 : State} (h2 : Keeps o s2) : Keeps o (beginDrain a0 a1 s2) := by
  unfold beginDrain
  repeat' first
    | with_reducible assumption
    | (with_reducible apply keeps_mk; with_reducible assumption)
    | (extract_lets +onlyGivenNames x; clear_value x)
    | split

theorem pinFollowers_keeps {o} {a0} {a1} {a2} {s3 : State} (h3 : Keeps o s3) : Keeps o (pinFollowers a0 a1 a2 s3) := by
  unfold pinFollowers
  repeat' first
    | (with_reducible apply keeps_mk; with_reducible assumption)

theorem switchResting_keeps {o} {a0} {s1 : State} (h1 : Keeps o s1) : Keeps o (switchResting a0 s1) := by
  unfold switchResting
  repeat' first
    | with_reducible assumption
    | intro _
    | (extract_lets +onlyGivenNames x; refine keeps_with (o := o) (x := x) ?_ (fun hx => ?_); (on_goal 1 => (unfold x; clear x)); (on_goal 2 => clear_value x))
    | with_reducible apply pinFollowers_keeps
    | with_reducible apply beginDrain_keeps
    | with_reducible apply keeps_foldl
    | split

theorem switchPart_keeps {o} {a0} {a1} {s2 : State} (h2 : Keeps o s2) : Keeps o (switchPart a0 a1 s2) := by
  unfold switchPart
  repeat' first
    | with_reducible assumption
    | (extract_lets +onlyGivenNames x; refine keeps_with (o := o) (x := x) ?_ (fun hx => ?_); (on_goal 1 => (unfold x; clear x)); (on_goal 2 => clear_value x))
    | with_reducible apply setPart_keeps
    | with_reducible apply pinFollowers_keeps
    | with_reducible apply takeRoles_keeps
    | with_reducible apply setSwitch_keeps
    | with_reducible apply beginDrain_keeps
    | with_reducible apply postEvent_keeps
    | split

theorem endSwitches_keeps {o} {s0 : State} (h0 : Keeps o s0) : Keeps o (endSwitches s0) := by
  unfold endSwitches
  repeat' first
    | with_reducible assumption
    | (with_reducible apply keeps_mk; with_reducible assumption)
    | intro _
    | (extract_lets +onlyGivenNames x; refine keeps_with (o := o) (x := x) ?_ (fun hx => ?_); (on_goal 1 => (unfold x; clear x)); (on_goal 2 => clear_value x))
    | (extract_lets +onlyGivenNames x; clear_value x)
    | (extract_lets +onlyGivenNames x; have k := x; clear k)
    | with_reducible apply switchResting_keeps
    | with_reducible apply setSwitch_keeps
    | with_reducible apply takeRoles_keeps
    | with_reducible apply complete_keeps
    | with_reducible apply keeps_foldl
    | split

theorem stepBank_keeps {o} {a0} {s1 : State} (h1 : Keeps o s1) : Keeps o (stepBank a0 s1) := by
  unfold stepBank
  repeat' first
    | with_reducible assumption
    | (extract_lets +onlyGivenNames x; refine keeps_with (o := o) (x := x) ?_ (fun hx => ?_); (on_goal 1 => (unfold x; clear x)); (on_goal 2 => clear_value x))
    | (extract_lets +onlyGivenNames x; clear_value x)
    | with_reducible apply switchPart_keeps
    | with_reducible apply setPart_keeps
    | split

theorem endDrains_keeps {o} {a0} {s1 : State} (h1 : Keeps o s1) : Keeps o (endDrains a0 s1) := by
  unfold endDrains
  repeat' first
    | with_reducible assumption
    | (with_reducible apply keeps_mk; with_reducible assumption)
    | intro _
    | (extract_lets +onlyGivenNames x; refine keeps_with (o := o) (x := x) ?_ (fun hx => ?_); (on_goal 1 => (unfold x; clear x)); (on_goal 2 => clear_value x))
    | (extract_lets +onlyGivenNames x; clear_value x)
    | (extract_lets +onlyGivenNames x; have k := x; clear k)
    | with_reducible apply setSession_keeps
    | with_reducible apply postEvent_keeps
    | with_reducible apply keeps_foldl
    | split

theorem freeRetained_keeps {o} {a0} {a1} {s2 : State} (h2 : Keeps o s2) : Keeps o (freeRetained a0 a1 s2) := by
  unfold freeRetained
  repeat' first
    | with_reducible assumption
    | intro _
    | (extract_lets +onlyGivenNames x; clear_value x)
    | (extract_lets +onlyGivenNames x; have k := x; clear k)
    | with_reducible apply clearBank_keeps
    | with_reducible apply postEvent_keeps
    | with_reducible apply keeps_foldl
    | split

theorem copyStore_keeps {o} {a0} {a1} {a2} {s3 : State} (h3 : Keeps o s3) : Keeps o (copyStore a0 a1 a2 s3) := by
  unfold copyStore
  extract_lets a b full olds bytes st
  exact keeps_mem h3 (fun h => wf_foldl (fun _ _ hm => twf_tset hm) bytes (wf_mclear _ _ h)) id id id

theorem resideEntries_keeps {o} {a0} {s1 : State} (h1 : Keeps o s1) : Keeps o (resideEntries a0 s1) := by
  unfold resideEntries
  repeat' first
    | (with_reducible apply keeps_mk; with_reducible assumption)

theorem substitute_keeps {o} {a0} {a1} {s2 : State} (h2 : Keeps o s2) : Keeps o (substitute a0 a1 s2) := by
  unfold substitute
  repeat' first
    | with_reducible assumption
    | (with_reducible apply keeps_mk; with_reducible assumption)
    | intro _
    | (extract_lets +onlyGivenNames x; refine keeps_with (o := o) (x := x) ?_ (fun hx => ?_); (on_goal 1 => (unfold x; clear x)); (on_goal 2 => clear_value x))
    | (extract_lets +onlyGivenNames x; clear_value x)
    | (extract_lets +onlyGivenNames x; have k := x; clear k)
    | with_reducible apply copyStore_keeps
    | with_reducible apply leaveDeck_keeps
    | with_reducible apply resideEntries_keeps
    | with_reducible apply setCore_keeps
    | with_reducible apply postEvent_keeps
    | with_reducible apply complete_keeps
    | with_reducible apply keeps_foldl
    | split

theorem stepCores_keeps {o} {a0} {a1} {s2 : State} (h2 : Keeps o s2) : Keeps o (stepCores a0 a1 s2) := by
  unfold stepCores
  repeat' first
    | with_reducible assumption
    | intro _
    | with_reducible apply substitute_keeps
    | with_reducible apply keeps_foldl

theorem idleCores_keeps {o} {s0 : State} (h0 : Keeps o s0) : Keeps o (idleCores s0) := by
  unfold idleCores
  repeat' first
    | with_reducible assumption
    | intro _
    | with_reducible apply substitute_keeps
    | with_reducible apply keeps_foldl

theorem stepMarks_keeps {o} {a0} {s1 : State} (h1 : Keeps o s1) : Keeps o (stepMarks a0 s1) := by
  unfold stepMarks
  repeat' first
    | with_reducible assumption
    | (with_reducible apply keeps_mk; with_reducible assumption)
    | intro _
    | (extract_lets +onlyGivenNames x; refine keeps_with (o := o) (x := x) ?_ (fun hx => ?_); (on_goal 1 => (unfold x; clear x)); (on_goal 2 => clear_value x))
    | (extract_lets +onlyGivenNames x; clear_value x)
    | (extract_lets +onlyGivenNames x; have k := x; clear k)
    | with_reducible apply complete_keeps
    | with_reducible apply setCore_keeps
    | with_reducible apply unmark_keeps
    | with_reducible apply keeps_foldl
    | split

theorem adapterEvent_keeps {o} {a0} {a1} {a2} {s3 : State} (h3 : Keeps o s3) : Keeps o (adapterEvent a0 a1 a2 s3) := by
  unfold adapterEvent
  repeat' first
    | with_reducible assumption
    | with_reducible apply postEvent_keeps

theorem freeAdapters_keeps {o} {s0 : State} (h0 : Keeps o s0) : Keeps o (freeAdapters s0) := by
  unfold freeAdapters
  repeat' first
    | with_reducible assumption
    | (with_reducible apply keeps_mk; with_reducible assumption)
    | intro _
    | (extract_lets +onlyGivenNames x; clear_value x)
    | with_reducible apply adapterEvent_keeps
    | with_reducible apply keeps_foldl

theorem stepAdapters_keeps {o} {a0} {s1 : State} (h1 : Keeps o s1) : Keeps o (stepAdapters a0 s1) := by
  unfold stepAdapters
  repeat' first
    | with_reducible assumption
    | (with_reducible apply keeps_mk; with_reducible assumption)
    | intro _
    | (extract_lets +onlyGivenNames x; refine keeps_with (o := o) (x := x) ?_ (fun hx => ?_); (on_goal 1 => (unfold x; clear x)); (on_goal 2 => clear_value x))
    | (extract_lets +onlyGivenNames x; clear_value x)
    | (extract_lets +onlyGivenNames x; have k := x; clear k)
    | with_reducible apply adapterEvent_keeps
    | with_reducible apply keeps_foldl

theorem departOne_keeps {o} {a0} {a1} {s2 : State} (h2 : Keeps o s2) : Keeps o (departOne a0 a1 s2) := by
  unfold departOne
  repeat' first
    | with_reducible assumption
    | (with_reducible apply keeps_mk; with_reducible assumption)
    | (extract_lets +onlyGivenNames x; refine keeps_with (o := o) (x := x) ?_ (fun hx => ?_); (on_goal 1 => (unfold x; clear x)); (on_goal 2 => clear_value x))
    | (extract_lets +onlyGivenNames x; clear_value x)
    | (extract_lets +onlyGivenNames x; have k := x; clear k)
    | with_reducible apply postEvent_keeps
    | with_reducible apply complete_keeps
    | with_reducible apply setSession_keeps
    | split

theorem departures_keeps {o} {a0} {s1 : State} (h1 : Keeps o s1) : Keeps o (departures a0 s1) := by
  unfold departures
  repeat' first
    | with_reducible assumption
    | intro _
    | with_reducible apply departOne_keeps
    | with_reducible apply keeps_foldl

theorem cancelJobs_keeps {o} {a0} {s1 : State} (h1 : Keeps o s1) : Keeps o (cancelJobs a0 s1) := by
  unfold cancelJobs
  repeat' first
    | with_reducible assumption
    | intro _
    | with_reducible apply endJob_keeps
    | with_reducible apply keeps_foldl

theorem setReplay_keeps {o} {a0} {a1} {s2 : State} (h2 : Keeps o s2) : Keeps o (setReplay a0 a1 s2) := by
  unfold setReplay
  repeat' first
    | (with_reducible apply keeps_mk; with_reducible assumption)

theorem takeRequest_keeps {o} {a0} {a1} {s2 : State} (h2 : Keeps o s2) : Keeps o (takeRequest a0 a1 s2) := by
  unfold takeRequest
  repeat' first
    | with_reducible assumption
    | (with_reducible apply keeps_mk; with_reducible assumption)
    | (extract_lets +onlyGivenNames x; clear_value x)
    | split

theorem takeRequests_keeps {o} {s0 : State} (h0 : Keeps o s0) : Keeps o (takeRequests s0) := by
  unfold takeRequests
  repeat' first
    | with_reducible assumption
    | intro _
    | with_reducible apply takeRequest_keeps
    | with_reducible apply keeps_foldl

theorem sendReplay_keeps {o} {a0} {a1} {a2} {a3} {a4} {s5 : State} (h5 : Keeps o s5) : Keeps o (sendReplay a0 a1 a2 a3 a4 s5) := by
  unfold sendReplay
  repeat' first
    | with_reducible assumption
    | intro _
    | (extract_lets +onlyGivenNames x; refine keeps_with (o := o) (x := x) ?_ (fun hx => ?_); (on_goal 1 => (unfold x; clear x)); (on_goal 2 => clear_value x))
    | (extract_lets +onlyGivenNames x; clear_value x)
    | (extract_lets +onlyGivenNames x; have k := x; clear k)
    | with_reducible apply sendSealed_keeps
    | with_reducible apply keeps_foldl
    | split

theorem sweepServed_keeps {o} {s0 : State} (h0 : Keeps o s0) : Keeps o (sweepServed s0) := by
  unfold sweepServed
  repeat' first
    | (with_reducible apply keeps_mk; with_reducible assumption)

theorem returnResult_keeps {o} {a0} {a1} {a2} {a3} {s4 : State} (h4 : Keeps o s4) : Keeps o (returnResult a0 a1 a2 a3 s4) := by
  unfold returnResult
  repeat' first
    | with_reducible assumption
    | (with_reducible apply keeps_mk; with_reducible assumption)
    | intro _
    | (extract_lets +onlyGivenNames x; refine keeps_with (o := o) (x := x) ?_ (fun hx => ?_); (on_goal 1 => (unfold x; clear x)); (on_goal 2 => clear_value x))
    | (extract_lets +onlyGivenNames x; clear_value x)
    | (extract_lets +onlyGivenNames x; have k := x; clear k)
    | with_reducible apply sweepServed_keeps
    | with_reducible apply sendSealed_keeps
    | with_reducible apply keeps_foldl
    | split

theorem settlePages_keeps {o} {a0} {a1} {s2 : State} (h2 : Keeps o s2) : Keeps o (settlePages a0 a1 s2) := by
  unfold settlePages
  repeat' first
    | with_reducible assumption
    | (with_reducible apply keeps_mk; with_reducible assumption)
    | (extract_lets +onlyGivenNames x; clear_value x)
    | split

theorem placeReplay_keeps {o} {a0} {a1} {a2} {s3 : State} (h3 : Keeps o s3) : Keeps o (placeReplay a0 a1 a2 s3) := by
  unfold placeReplay
  repeat' first
    | with_reducible assumption
    | (extract_lets +onlyGivenNames x; clear_value x)
    | (extract_lets +onlyGivenNames x; have k := x; clear k)
    | with_reducible apply settlePages_keeps
    | with_reducible apply setReplay_keeps
    | with_reducible apply sendReplay_keeps
    | split

theorem reclaimReplays_keeps {o} {s0 : State} (h0 : Keeps o s0) : Keeps o (reclaimReplays s0) := by
  unfold reclaimReplays
  repeat' first
    | (with_reducible apply keeps_mk; with_reducible assumption)
    | (extract_lets +onlyGivenNames x; clear_value x)
    | with_reducible apply sweepServed_keeps

theorem placeReplays_keeps {o} {a0} {s1 : State} (h1 : Keeps o s1) : Keeps o (placeReplays a0 s1) := by
  unfold placeReplays
  repeat' first
    | with_reducible assumption
    | intro _
    | (extract_lets +onlyGivenNames x; refine keeps_with (o := o) (x := x) ?_ (fun hx => ?_); (on_goal 1 => (unfold x; clear x)); (on_goal 2 => clear_value x))
    | (extract_lets +onlyGivenNames x; clear_value x)
    | (extract_lets +onlyGivenNames x; have k := x; clear k)
    | with_reducible apply takeRequests_keeps
    | with_reducible apply reclaimReplays_keeps
    | with_reducible apply placeReplay_keeps
    | with_reducible apply postPlanTurn_keeps
    | with_reducible apply keeps_foldl
    | split

theorem moveSessions_keeps {o} {a0} {s1 : State} (h1 : Keeps o s1) : Keeps o (moveSessions a0 s1) := by
  unfold moveSessions
  repeat' first
    | with_reducible assumption
    | intro _
    | with_reducible apply setSession_keeps
    | with_reducible apply keeps_foldl
    | split

theorem placeRecomputes_keeps {o} {a0} {s1 : State} (h1 : Keeps o s1) : Keeps o (placeRecomputes a0 s1) := by
  unfold placeRecomputes
  repeat' first
    | with_reducible assumption
    | intro _
    | (extract_lets +onlyGivenNames x; clear_value x)
    | with_reducible apply setCtx_keeps
    | with_reducible apply keeps_foldl
    | split

theorem placeJobs_keeps {o} {a0} {s1 : State} (h1 : Keeps o s1) : Keeps o (placeJobs a0 s1) := by
  unfold placeJobs
  refine keeps_foldl (fun s k hs => ?_) _ h1
  split
  · split
    · exact hs
    split
    · exact hs
    split
    · exact hs
    extract_lets take
    have hk : ∀ j, Keeps o (take j) := fun j => keeps_mk (setCtx_keeps hs)
    split
    · exact hk _
    split
    · exact hs
    · exact hk _
  · exact hs

theorem admitOne_keeps {o} {a0} {a1} {s2 : State} (h2 : Keeps o s2) : Keeps o (admitOne a0 a1 s2) := by
  unfold admitOne
  repeat' first
    | with_reducible assumption
    | (with_reducible apply keeps_mk; with_reducible assumption)
    | (extract_lets +onlyGivenNames x; refine keeps_with (o := o) (x := x) ?_ (fun hx => ?_); (on_goal 1 => (unfold x; clear x)); (on_goal 2 => clear_value x))
    | (extract_lets +onlyGivenNames x; clear_value x)
    | with_reducible apply setSession_keeps
    | split

theorem admissions_keeps {o} {a0} {s1 : State} (h1 : Keeps o s1) : Keeps o (admissions a0 s1) := by
  unfold admissions
  repeat' first
    | with_reducible assumption
    | intro _
    | with_reducible apply admitOne_keeps
    | with_reducible apply keeps_foldl

theorem noteReserve_keeps {o} {a0} {a1} {a2} {s3 : State} (h3 : Keeps o s3) : Keeps o (noteReserve a0 a1 a2 s3) := by
  unfold noteReserve
  repeat' first
    | with_reducible assumption
    | with_reducible apply setPart_keeps
    | split

theorem reserveQueue_keeps {o} {a0} {a1} {acc : List Nat × State} (h : Keeps o acc.2) : Keeps o (reserveQueue a0 a1 acc).2 := by
  obtain ⟨l, s⟩ := acc
  unfold reserveQueue
  split
  rename_i l s hq
  obtain ⟨rfl, rfl⟩ := Prod.mk.inj hq
  split
  · exact h
  extract_lets n
  split
  · exact h
  split
  · exact noteReserve_keeps h
  · exact postOncePerTurn_keeps h

theorem reserveLost_keeps {o} {a0} {a1} {s2 : State} (h2 : Keeps o s2) : Keeps o (reserveLost a0 a1 s2) := by
  unfold reserveLost
  repeat' first
    | with_reducible assumption
    | (extract_lets +onlyGivenNames x; clear_value x)
    | with_reducible apply postOncePerTurn_keeps
    | split

theorem stalledQueues_keeps {o} {a0} {s1 : State} (h1 : Keeps o s1) : Keeps o (stalledQueues a0 s1).2 :=
  keeps_foldl_on Prod.snd (fun _ _ h => reserveQueue_keeps (reserveLost_keeps h)) _ h1

theorem stalledQueues_keeps' {o} {a0} {s1 : State} (h1 : Keeps o s1) {y0} {t} (e : stalledQueues a0 s1 = (y0, t)) : Keeps o t := by
  have k := stalledQueues_keeps (a0 := a0) h1
  rw [e] at k
  exact k

theorem noteFull_keeps {o} {a0} {a1} {s2 : State} (h2 : Keeps o s2) : Keeps o (noteFull a0 a1 s2) := by
  unfold noteFull
  repeat' first
    | with_reducible assumption
    | with_reducible apply postPlan_keeps
    | with_reducible apply setCtx_keeps
    | split

theorem slotOfSession_keeps {o} {a0} {a1} {a2} {a3} {a4} {a5} {s6 : State} (h6 : Keeps o s6) :
    Keeps o (slotOfSession a0 a1 a2 a3 a4 a5 s6).2 := by
  unfold slotOfSession
  split
  · exact h6
  extract_lets y
  split
  · exact h6
  split
  · exact noteFull_keeps h6
  split
  · rename_i s hq
    have k := (reserveTail_keeps (a0 := a0) (a1 := a5.ctx) (a2 := y.base) (a3 := a3.kind) (a4 := a3.home) h6).2
    rw [hq] at k
    exact k
  · rename_i s t hq
    have k := (reserveTail_keeps (a0 := a0) (a1 := a5.ctx) (a2 := y.base) (a3 := a3.kind) (a4 := a3.home) h6).1
    rw [hq] at k
    exact k

theorem slotOfSession_keeps' {o} {a0} {a1} {a2} {a3} {a4} {a5} {s6 : State} (h6 : Keeps o s6) {y0} {t} (e : slotOfSession a0 a1 a2 a3 a4 a5 s6 = (y0, t)) : Keeps o t := by
  have k := slotOfSession_keeps (a0 := a0) (a1 := a1) (a2 := a2) (a3 := a3) (a4 := a4) (a5 := a5) h6
  rw [e] at k
  exact k

theorem slotStep_keeps {o} {a0} {a1} {a2} {a3} {s4 : State} (h4 : Keeps o s4) : Keeps o (slotStep a0 a1 a2 a3 s4).2 := by
  unfold slotStep
  repeat' first
    | with_reducible assumption
    | (extract_lets +onlyGivenNames x; clear_value x)
    | with_reducible apply slotOfSession_keeps
    | with_reducible apply heatTail_keeps
    | split

theorem slotStep_keeps' {o} {a0} {a1} {a2} {a3} {s4 : State} (h4 : Keeps o s4) {y0} {t} (e : slotStep a0 a1 a2 a3 s4 = (y0, t)) : Keeps o t := by
  have k := slotStep_keeps (a0 := a0) (a1 := a1) (a2 := a2) (a3 := a3) h4
  rw [e] at k
  exact k

theorem addStep_keeps {o} {a0} {a1} {s2 : State} {a3} (h2 : Keeps o s2) : Keeps o (addStep a0 a1 s2 a3) := by
  unfold addStep
  repeat' first
    | with_reducible assumption
    | (with_reducible apply slotStep_keeps'; case e => with_reducible assumption)
    | with_reducible apply setPart_keeps
    | split

theorem writeInputs_keeps {o} {a0} {s1 : State} (h1 : Keeps o s1) : Keeps o (writeInputs a0 s1) := by
  unfold writeInputs
  repeat' first
    | with_reducible assumption
    | intro _
    | (extract_lets +onlyGivenNames x; clear_value x)
    | (extract_lets +onlyGivenNames x; have k := x; clear k)
    | with_reducible apply fillWords_keeps
    | with_reducible apply putWords_keeps
    | with_reducible apply keeps_foldl
    | split

theorem setMon_keeps {o} {a0} {a1} {s2 : State} (h2 : Keeps o s2) : Keeps o (setMon a0 a1 s2) := by
  unfold setMon
  repeat' first
    | (with_reducible apply keeps_mk; with_reducible assumption)

theorem stepProbe_keeps {o} {s0 : State} {a1} (h0 : Keeps o s0) : Keeps o (stepProbe s0 a1) := by
  unfold stepProbe
  repeat' first
    | with_reducible assumption
    | (extract_lets +onlyGivenNames x; clear_value x)
    | with_reducible apply setMon_keeps
    | split

theorem stepProbes_keeps {o} {s0 : State} (h0 : Keeps o s0) : Keeps o (stepProbes s0) := by
  unfold stepProbes
  repeat' first
    | with_reducible assumption
    | intro _
    | with_reducible apply stepProbe_keeps
    | with_reducible apply keeps_foldl

theorem endProbe_keeps {o} {a0} {s1 : State} (h1 : Keeps o s1) : Keeps o (endProbe a0 s1) := by
  unfold endProbe
  repeat' first
    | with_reducible assumption
    | (extract_lets +onlyGivenNames x; clear_value x)
    | with_reducible apply setMon_keeps

theorem checkSum_keeps {o} {a0} {s1 : State} {a2} (h1 : Keeps o s1) : Keeps o (checkSum a0 s1 a2) := by
  unfold checkSum
  repeat' first
    | with_reducible assumption
    | (extract_lets +onlyGivenNames x; refine keeps_with (o := o) (x := x) ?_ (fun hx => ?_); (on_goal 1 => (unfold x; clear x)); (on_goal 2 => clear_value x))
    | (extract_lets +onlyGivenNames x; clear_value x)
    | (extract_lets +onlyGivenNames x; have k := x; clear k)
    | with_reducible apply blame_keeps
    | with_reducible apply suspectPass_keeps
    | with_reducible apply markSuspect_keeps
    | with_reducible apply postPlan_keeps
    | split

theorem checkSums_keeps {o} {a0} {a1} {s2 : State} (h2 : Keeps o s2) : Keeps o (checkSums a0 a1 s2) := by
  unfold checkSums
  repeat' first
    | with_reducible assumption
    | (with_reducible apply keeps_mk; with_reducible assumption)
    | intro _
    | (extract_lets +onlyGivenNames x; refine keeps_with (o := o) (x := x) ?_ (fun hx => ?_); (on_goal 1 => (unfold x; clear x)); (on_goal 2 => clear_value x))
    | (extract_lets +onlyGivenNames x; clear_value x)
    | (extract_lets +onlyGivenNames x; have k := x; clear k)
    | with_reducible apply checkSum_keeps
    | with_reducible apply keeps_foldl

theorem finishMode_keeps {o} {s0 : State} (h0 : Keeps o s0) : Keeps o (finishMode s0) := by
  unfold finishMode
  repeat' first
    | with_reducible assumption
    | (with_reducible apply keeps_mk; with_reducible assumption)
    | (extract_lets +onlyGivenNames x; clear_value x)
    | (extract_lets +onlyGivenNames x; have k := x; clear k)
    | with_reducible apply complete_keeps
    | with_reducible apply postEvent_keeps
    | split

theorem stepMode_keeps {o} {a0} {s1 : State} (h1 : Keeps o s1) : Keeps o (stepMode a0 s1) := by
  unfold stepMode
  repeat' first
    | with_reducible assumption
    | (with_reducible apply keeps_mk; with_reducible assumption)
    | (extract_lets +onlyGivenNames x; refine keeps_with (o := o) (x := x) ?_ (fun hx => ?_); (on_goal 1 => (unfold x; clear x)); (on_goal 2 => clear_value x))
    | (extract_lets +onlyGivenNames x; clear_value x)
    | with_reducible apply finishMode_keeps
    | with_reducible apply setPart_keeps
    | split

theorem shiftRefs_keeps {o} {a0} {s1 : State} (h1 : Keeps o s1) : Keeps o (shiftRefs a0 s1) := by
  unfold shiftRefs
  repeat' first
    | (with_reducible apply keeps_mk; with_reducible assumption)

theorem openPass_keeps {o} {a0} {s1 : State} (h1 : Keeps o s1) : Keeps o (openPass a0 s1) := by
  unfold openPass
  repeat' first
    | with_reducible assumption
    | intro _
    | (extract_lets +onlyGivenNames x; refine keeps_with (o := o) (x := x) ?_ (fun hx => ?_); (on_goal 1 => (unfold x; clear x)); (on_goal 2 => clear_value x))
    | (extract_lets +onlyGivenNames x; have k := x; clear k)
    | with_reducible apply setPart_keeps
    | with_reducible apply enforceQuotas_keeps
    | with_reducible apply applyMoves_keeps
    | with_reducible apply stalledQueues_keeps
    | with_reducible apply writeInputs_keeps
    | with_reducible apply addStep_keeps
    | with_reducible apply keeps_foldl
    | split

theorem enterPass_keeps {o} {a0} {a1} {s2 : State} (h2 : Keeps o s2) : Keeps o (enterPass a0 a1 s2) := by
  unfold enterPass
  repeat' first
    | with_reducible assumption
    | (extract_lets +onlyGivenNames x; refine keeps_with (o := o) (x := x) ?_ (fun hx => ?_); (on_goal 1 => (unfold x; clear x)); (on_goal 2 => clear_value x))
    | (extract_lets +onlyGivenNames x; clear_value x)
    | (extract_lets +onlyGivenNames x; have k := x; clear k)
    | with_reducible apply stepMode_keeps
    | with_reducible apply endDrains_keeps
    | with_reducible apply stepBank_keeps
    | with_reducible apply stepMarks_keeps
    | with_reducible apply stepCores_keeps
    | with_reducible apply applyStaged_keeps
    | with_reducible apply stepAdapters_keeps
    | with_reducible apply cancelJobs_keeps
    | with_reducible apply departures_keeps
    | with_reducible apply endSwitches_keeps
    | with_reducible apply sweepLeaving_keeps
    | with_reducible apply freeAdapters_keeps
    | with_reducible apply freeRetained_keeps
    | with_reducible apply admissions_keeps
    | with_reducible apply placeJobs_keeps
    | with_reducible apply placeRecomputes_keeps
    | with_reducible apply moveSessions_keeps
    | with_reducible apply placeReplays_keeps
    | with_reducible apply applyMapTo_keeps
    | with_reducible apply openPass_keeps

theorem adoptSession_keeps {o} {a0} {a1} {a2} {s3 : State} {a4} (h3 : Keeps o s3) : Keeps o (adoptSession a0 a1 a2 s3 a4) := by
  unfold adoptSession
  repeat' first
    | with_reducible assumption
    | (extract_lets +onlyGivenNames x; clear_value x)
    | with_reducible apply setSession_keeps
    | split

theorem adoptDrains_keeps {o} {a0} {a1} {s2 : State} (h2 : Keeps o s2) : Keeps o (adoptDrains a0 a1 s2) := by
  unfold adoptDrains
  repeat' first
    | (with_reducible apply keeps_mk; with_reducible assumption)

theorem adoptSlots_keeps {o} {a0} {a1} {a2} {s3 : State} (h3 : Keeps o s3) : Keeps o (adoptSlots a0 a1 a2 s3) := by
  unfold adoptSlots
  repeat' first
    | with_reducible assumption
    | (with_reducible apply keeps_mk; with_reducible assumption)
    | intro _
    | (extract_lets +onlyGivenNames x; refine keeps_with (o := o) (x := x) ?_ (fun hx => ?_); (on_goal 1 => (unfold x; clear x)); (on_goal 2 => clear_value x))
    | (extract_lets +onlyGivenNames x; clear_value x)
    | (extract_lets +onlyGivenNames x; have k := x; clear k)
    | with_reducible apply adoptSession_keeps
    | with_reducible apply adoptDrains_keeps
    | with_reducible apply keeps_foldl

theorem adoptStopped_keeps {o} {a0} {s1 : State} (h1 : Keeps o s1) : Keeps o (adoptStopped a0 s1) := by
  unfold adoptStopped
  repeat' first
    | with_reducible assumption
    | intro _
    | with_reducible apply pinFollowers_keeps
    | with_reducible apply adoptSlots_keeps
    | with_reducible apply keeps_foldl
    | split

theorem closePlan_keeps {o} {a0} {s1 : State} (h1 : Keeps o s1) : Keeps o (closePlan a0 s1) := by
  unfold closePlan
  repeat' first
    | with_reducible assumption
    | (extract_lets +onlyGivenNames x; refine keeps_with (o := o) (x := x) ?_ (fun hx => ?_); (on_goal 1 => (unfold x; clear x)); (on_goal 2 => clear_value x))
    | (extract_lets +onlyGivenNames x; clear_value x)
    | with_reducible apply setPlan_keeps
    | with_reducible apply complete_keeps
    | split

theorem postStopped_keeps {o} {a0} {a1} {s2 : State} (h2 : Keeps o s2) : Keeps o (postStopped a0 a1 s2) := by
  unfold postStopped
  repeat' first
    | with_reducible assumption
    | with_reducible apply postEvent_keeps

theorem stopPart_keeps {o} {a0} {a1} {s2 : State} (h2 : Keeps o s2) : Keeps o (stopPart a0 a1 s2) := by
  unfold stopPart
  repeat' first
    | with_reducible assumption
    | (with_reducible apply keeps_mk; with_reducible assumption)
    | intro _
    | (extract_lets +onlyGivenNames x; refine keeps_with (o := o) (x := x) ?_ (fun hx => ?_); (on_goal 1 => (unfold x; clear x)); (on_goal 2 => clear_value x))
    | (extract_lets +onlyGivenNames x; clear_value x)
    | (extract_lets +onlyGivenNames x; have k := x; clear k)
    | with_reducible apply postStopped_keeps
    | with_reducible apply dropRefs_keeps
    | with_reducible apply unhost_keeps
    | with_reducible apply clearPass_keeps
    | with_reducible apply finishMode_keeps
    | with_reducible apply adoptStopped_keeps
    | with_reducible apply closePlan_keeps
    | with_reducible apply endDrains_keeps
    | with_reducible apply idleCores_keeps
    | with_reducible apply stepMarks_keeps
    | with_reducible apply settle_keeps
    | with_reducible apply cancelJobs_keeps
    | with_reducible apply departures_keeps
    | with_reducible apply stepAdapters_keeps
    | with_reducible apply endSwitches_keeps
    | with_reducible apply sweepLeaving_keeps
    | with_reducible apply freeAdapters_keeps
    | with_reducible apply freeRetained_keeps
    | with_reducible apply applyMapTo_keeps
    | with_reducible apply enforceQuotas_keeps
    | with_reducible apply applyMoves_keeps
    | with_reducible apply keeps_foldl
    | split

theorem judgePasses_keeps {o} {s0 : State} (h0 : Keeps o s0) : Keeps o (judgePasses s0) := by
  unfold judgePasses
  repeat' first
    | with_reducible assumption
    | (with_reducible apply keeps_mk; with_reducible assumption)
    | (extract_lets +onlyGivenNames x; clear_value x)
    | split

theorem noteStretch_keeps {o} {a0} {a1} {s2 : State} (h2 : Keeps o s2) : Keeps o (noteStretch a0 a1 s2) := by
  unfold noteStretch
  repeat' first
    | with_reducible assumption
    | with_reducible apply postPlan_keeps
    | split

theorem countPass_keeps {o} {a0} {a1} {s2 : State} (h2 : Keeps o s2) : Keeps o (countPass a0 a1 s2) := by
  unfold countPass
  repeat' first
    | with_reducible assumption
    | with_reducible apply setPlan_keeps
    | split

theorem passBoundary_keeps {o} {a0} {s1 : State} (h1 : Keeps o s1) : Keeps o (passBoundary a0 s1) := by
  unfold passBoundary
  repeat' first
    | with_reducible assumption
    | (extract_lets +onlyGivenNames x; refine keeps_with (o := o) (x := x) ?_ (fun hx => ?_); (on_goal 1 => (unfold x; clear x)); (on_goal 2 => clear_value x))
    | (extract_lets +onlyGivenNames x; clear_value x)
    | (extract_lets +onlyGivenNames x; have k := x; clear k)
    | with_reducible apply checkSums_keeps
    | with_reducible apply suspectPass_keeps
    | with_reducible apply countPass_keeps
    | with_reducible apply noteStretch_keeps
    | with_reducible apply passReports_keeps
    | with_reducible apply shiftRefs_keeps
    | with_reducible apply commitPass_keeps
    | with_reducible apply stopPart_keeps
    | with_reducible apply enterPass_keeps
    | with_reducible apply setPart_keeps
    | split

theorem execPassBoundary_keeps {o} {a0} {s1 : State} (h1 : Keeps o s1) : OutKeeps o (execPassBoundary a0 s1) := by
  unfold execPassBoundary
  repeat' first
    | with_reducible assumption
    | with_reducible apply passBoundary_keeps
    | with_reducible apply outKeeps_next

theorem releaseHalted_keeps {o} {a0} {a1} {s2 : State} (h2 : Keeps o s2) : Keeps o (releaseHalted a0 a1 s2) := by
  unfold releaseHalted
  repeat' first
    | with_reducible assumption
    | intro _
    | (extract_lets +onlyGivenNames x; refine keeps_with (o := o) (x := x) ?_ (fun hx => ?_); (on_goal 1 => (unfold x; clear x)); (on_goal 2 => clear_value x))
    | (extract_lets +onlyGivenNames x; clear_value x)
    | (extract_lets +onlyGivenNames x; have k := x; clear k)
    | with_reducible apply dropRefs_keeps
    | with_reducible apply postStopped_keeps
    | with_reducible apply setPlan_keeps
    | with_reducible apply keeps_foldl
    | split

theorem joinSwitches_keeps {o} {a0} {a1} {s2 : State} (h2 : Keeps o s2) : Keeps o (joinSwitches a0 a1 s2) := by
  unfold joinSwitches
  repeat' first
    | (with_reducible apply keeps_mk; with_reducible assumption)

theorem joinMode_keeps {o} {a0} {s1 : State} (h1 : Keeps o s1) : Keeps o (joinMode a0 s1) := by
  unfold joinMode
  repeat' first
    | with_reducible assumption
    | (with_reducible apply keeps_mk; with_reducible assumption)
    | (extract_lets +onlyGivenNames x; clear_value x)
    | split

theorem planStart_keeps {o} {a0} {a1} {s2 : State} (h2 : Keeps o s2) : Keeps o (planStart a0 a1 s2) := by
  unfold planStart
  repeat' first
    | with_reducible assumption
    | (with_reducible apply keeps_mk; with_reducible assumption)
    | intro _
    | (extract_lets +onlyGivenNames x; refine keeps_with (o := o) (x := x) ?_ (fun hx => ?_); (on_goal 1 => (unfold x; clear x)); (on_goal 2 => clear_value x))
    | (extract_lets +onlyGivenNames x; clear_value x)
    | (extract_lets +onlyGivenNames x; have k := x; clear k)
    | with_reducible apply releaseHalted_keeps
    | with_reducible apply setPlan_keeps
    | with_reducible apply adoptSlots_keeps
    | with_reducible apply emptyStack_keeps
    | with_reducible apply pinFollowers_keeps
    | with_reducible apply setPart_keeps
    | with_reducible apply joinMode_keeps
    | with_reducible apply joinSwitches_keeps
    | with_reducible apply postPlan_keeps
    | with_reducible apply enterPass_keeps
    | with_reducible apply keeps_foldl
    | split

theorem settleEnded_keeps {o} {s0 : State} (h0 : Keeps o s0) : Keeps o (settleEnded s0) := by
  unfold settleEnded
  repeat' first
    | with_reducible assumption
    | with_reducible apply endSwitches_keeps
    | with_reducible apply sweepLeaving_keeps

theorem settleHalts_keeps {o} {s0 : State} {s1 : State} (h0 : Keeps o s0) (h1 : Keeps o s1) : Keeps o (settleHalts s0 s1) := by
  unfold settleHalts
  repeat' first
    | with_reducible assumption
    | intro _
    | (extract_lets +onlyGivenNames x; clear_value x)
    | (extract_lets +onlyGivenNames x; have k := x; clear k)
    | with_reducible apply settleEnded_keeps
    | with_reducible apply applyMapTo_keeps
    | with_reducible apply finishMode_keeps
    | with_reducible apply keeps_foldl
    | split

theorem execRecomputeResult_keeps {o} {a0} {a1} {a2} {s3 : State} (h3 : Keeps o s3) : OutKeeps o (execRecomputeResult a0 a1 a2 s3) := by
  unfold execRecomputeResult
  repeat' first
    | with_reducible assumption
    | with_reducible apply settleHalts_keeps
    | with_reducible apply recomputeResult_keeps
    | with_reducible apply outKeeps_next

theorem execMemReadArrival_keeps {o} {a0} {a1} {s2 : State} (h2 : Keeps o s2) : OutKeeps o (execMemReadArrival a0 a1 s2) := by
  unfold execMemReadArrival
  repeat' first
    | with_reducible assumption
    | with_reducible apply settleHalts_keeps
    | with_reducible apply memArrival_keeps
    | with_reducible apply outKeeps_next

theorem execPlanStart_keeps {o} {a0} {s1 : State} (h1 : Keeps o s1) : OutKeeps o (execPlanStart a0 s1) := by
  unfold execPlanStart
  repeat' first
    | with_reducible assumption
    | with_reducible apply planStart_keeps
    | with_reducible apply outKeeps_next

end Sys2Proof.Machine
end

