-- ==== Sys2Proof/Laws/Keeps5.lean ====
section
/-!
SUPPORT. What the landing of writes, index boundaries and the spindle keep.
-/

namespace Sys2Proof.Machine

theorem reread_keeps {o} {a0} {a1} {s2 : State} (h2 : Keeps o s2) : Keeps o (reread a0 a1 s2) := by
  unfold reread
  repeat' first
    | with_reducible assumption
    | with_reducible apply startMove_keeps
    | with_reducible apply startRead_keeps
    | with_reducible apply trueSource_keeps
    | with_reducible apply startCoreReduce_keeps
    | with_reducible apply startStackReduce_keeps
    | with_reducible apply fuseSource_keeps
    | with_reducible apply kvSource_keeps
    | with_reducible apply attendSource_keeps
    | with_reducible apply finishSource_keeps
    | with_reducible apply sampleSource_keeps
    | with_reducible apply mmRead_keeps
    | with_reducible apply updateSource_keeps
    | with_reducible apply gatherSource_keeps
    | with_reducible apply startMemWrite_keeps
    | with_reducible apply startFeWait_keeps
    | with_reducible apply startGrain_keeps
    | with_reducible apply startDritar_keeps
    | split

theorem rewrite__keeps {o} {a0} {a1} {s2 : State} (h2 : Keeps o s2) : Keeps o (rewrite_ a0 a1 s2) := by
  unfold rewrite_
  repeat' first
    | with_reducible assumption
    | with_reducible apply tryWrite_keeps
    | with_reducible apply tryRecord_keeps
    | with_reducible apply flushTrue_keeps
    | split

theorem restartStall_keeps {o} {a0} {s1 : State} (h1 : Keeps o s1) : Keeps o (restartStall a0 s1) := by
  unfold restartStall
  repeat' first
    | with_reducible assumption
    | with_reducible apply setFly_keeps
    | split

theorem resume_keeps {o} {a0} {s1 : State} (h1 : Keeps o s1) : Keeps o (resume a0 s1) := by
  unfold resume
  repeat' first
    | with_reducible assumption
    | (extract_lets +onlyGivenNames x; clear_value x)
    | (extract_lets +onlyGivenNames x; have k := x; clear k)
    | with_reducible apply restartStall_keeps
    | with_reducible apply reread_keeps
    | with_reducible apply setFly_keeps
    | with_reducible apply rewrite__keeps
    | with_reducible apply retryArrive_keeps
    | split

theorem execWaitingOperationResume_keeps {o} {a0} {s1 : State} (h1 : Keeps o s1) : OutKeeps o (execWaitingOperationResume a0 s1) := by
  unfold execWaitingOperationResume
  repeat' first
    | with_reducible assumption
    | with_reducible apply resume_keeps
    | with_reducible apply outKeeps_next

theorem applyWrite_keeps {o} {s0 : State} {a1} (h0 : Keeps o s0) : Keeps o (applyWrite s0 a1) := by
  unfold applyWrite
  repeat' first
    | with_reducible assumption
    | (extract_lets +onlyGivenNames x; refine keeps_with (o := o) (x := x) ?_ (fun hx => ?_); (on_goal 1 => (unfold x; clear x)); (on_goal 2 => clear_value x))
    | with_reducible apply putWords_keeps
    | with_reducible apply fillWords_keeps
    | split

theorem noteConflicts_keeps {o} {a0} {s1 : State} (h1 : Keeps o s1) : Keeps o (noteConflicts a0 s1) := by
  unfold noteConflicts
  repeat' first
    | with_reducible assumption
    | intro _
    | (extract_lets +onlyGivenNames x; refine keeps_with (o := o) (x := x) ?_ (fun hx => ?_); (on_goal 1 => (unfold x; clear x)); (on_goal 2 => clear_value x))
    | (extract_lets +onlyGivenNames x; clear_value x)
    | with_reducible apply setSyncFlag_keeps
    | with_reducible apply postOncePerPass_keeps
    | with_reducible apply keeps_foldl
    | split

theorem noteHalf_keeps {o} {a0} {a1} {s2 : State} {a3} (h2 : Keeps o s2) : Keeps o (noteHalf a0 a1 s2 a3) := by
  unfold noteHalf
  repeat' first
    | with_reducible assumption
    | (extract_lets +onlyGivenNames x; refine keeps_with (o := o) (x := x) ?_ (fun hx => ?_); (on_goal 1 => (unfold x; clear x)); (on_goal 2 => clear_value x))
    | (extract_lets +onlyGivenNames x; clear_value x)
    | with_reducible apply setPart_keeps
    | with_reducible apply requestElems_keeps
    | split

theorem offerSample_keeps {o} {a0} {a1} {s2 : State} (h2 : Keeps o s2) : Keeps o (offerSample a0 a1 s2) := by
  unfold offerSample
  repeat' first
    | with_reducible assumption
    | (with_reducible apply keeps_mk; with_reducible assumption)
    | (extract_lets +onlyGivenNames x; refine keeps_with (o := o) (x := x) ?_ (fun hx => ?_); (on_goal 1 => (unfold x; clear x)); (on_goal 2 => clear_value x))
    | (extract_lets +onlyGivenNames x; clear_value x)
    | with_reducible apply pushRequest_keeps
    | split

theorem wroteOp_keeps {o} {a0} {a1} {s2 : State} (h2 : Keeps o s2) : Keeps o (wroteOp a0 a1 s2) := by
  unfold wroteOp
  repeat' first
    | with_reducible assumption
    | intro _
    | (extract_lets +onlyGivenNames x; clear_value x)
    | (extract_lets +onlyGivenNames x; have k := x; clear k)
    | with_reducible apply endFly_keeps
    | with_reducible apply offerSample_keeps
    | with_reducible apply noteHalf_keeps
    | with_reducible apply setFly_keeps
    | with_reducible apply keeps_foldl
    | split

theorem refusedOp_keeps {o} {a0} {a1} {s2 : State} (h2 : Keeps o s2) : Keeps o (refusedOp a0 a1 s2) := by
  unfold refusedOp
  repeat' first
    | with_reducible assumption
    | (extract_lets +onlyGivenNames x; clear_value x)
    | with_reducible apply setFly_keeps
    | split

theorem wroteFrame_keeps {o} {a0} {s1 : State} (h1 : Keeps o s1) : Keeps o (wroteFrame a0 s1) := by
  unfold wroteFrame
  repeat' first
    | with_reducible assumption
    | (with_reducible apply keeps_mk; with_reducible assumption)
    | (extract_lets +onlyGivenNames x; refine keeps_with (o := o) (x := x) ?_ (fun hx => ?_); (on_goal 1 => (unfold x; clear x)); (on_goal 2 => clear_value x))
    | (extract_lets +onlyGivenNames x; clear_value x)
    | with_reducible apply setFly_keeps
    | with_reducible apply endFly_keeps
    | split

theorem refusedFrame_keeps {o} {a0} {a1} {s2 : State} (h2 : Keeps o s2) : Keeps o (refusedFrame a0 a1 s2) := by
  unfold refusedFrame
  repeat' first
    | with_reducible assumption
    | with_reducible apply setFly_keeps
    | split

theorem wrote_keeps {o} {s0 : State} {a1} (h0 : Keeps o s0) : Keeps o (wrote s0 a1) := by
  unfold wrote
  repeat' first
    | with_reducible assumption
    | with_reducible apply wroteOp_keeps
    | with_reducible apply wroteFrame_keeps
    | split

theorem refusedWrite_keeps {o} {s0 : State} {a1} (h0 : Keeps o s0) : Keeps o (refusedWrite s0 a1) := by
  unfold refusedWrite
  repeat' first
    | with_reducible assumption
    | with_reducible apply refusedOp_keeps
    | with_reducible apply refusedFrame_keeps
    | split

theorem dropFar_keeps {o} {a0} {s1 : State} (h1 : Keeps o s1) : Keeps o (dropFar a0 s1) := by
  unfold dropFar
  repeat' first
    | (with_reducible apply keeps_mk; with_reducible assumption)

theorem landWrites_keeps {o} {s0 : State} (h0 : Keeps o s0) : Keeps o (landWrites s0) := by
  unfold landWrites
  repeat' first
    | with_reducible assumption
    | (with_reducible apply keeps_stores; with_reducible assumption)
    | intro _
    | (extract_lets +onlyGivenNames x; refine keeps_with (o := o) (x := x) ?_ (fun hx => ?_); (on_goal 1 => (unfold x; clear x)); (on_goal 2 => clear_value x))
    | (extract_lets +onlyGivenNames x; have k : Stores := x; clear k; subst x)
    | (extract_lets +onlyGivenNames x; clear_value x)
    | (extract_lets +onlyGivenNames x; have k := x; clear k)
    | with_reducible apply emptyWords_keeps
    | with_reducible apply noteConflicts_keeps
    | with_reducible apply applyWrite_keeps
    | with_reducible apply dropFar_keeps
    | with_reducible apply refusedWrite_keeps
    | with_reducible apply wrote_keeps
    | with_reducible apply keeps_foldl

theorem chargeOne_keeps {o} {a0 : List Request × State} {a1} (h : Keeps o a0.2) : Keeps o (chargeOne a0 a1).2 := by
  unfold chargeOne
  split
  · exact h
  · exact setPart_keeps h

theorem chargeStack_keeps {o} {s0 : State} {a1} (h0 : Keeps o s0) : Keeps o (chargeStack s0 a1) := by
  unfold chargeStack
  extract_lets q old run new cands
  split
  rename_i l s hq
  have hs : Keeps o s := by
    rw [show s = (l, s).2 from rfl, ← hq]
    exact keeps_foldl_on Prod.snd (fun _ _ h => chargeOne_keeps h) _ h0
  exact setService_keeps hs

theorem startStack_keeps {o} {s0 : State} {a1} (h0 : Keeps o s0) : Keeps o (startStack s0 a1) := by
  unfold startStack
  repeat' first
    | with_reducible assumption
    | (with_reducible apply keeps_mk; with_reducible assumption)
    | (extract_lets +onlyGivenNames x; clear_value x)
    | with_reducible apply setService_keeps
    | split

theorem runServices_keeps {o} {s0 : State} (h0 : Keeps o s0) : Keeps o (runServices s0) := by
  unfold runServices
  repeat' first
    | with_reducible assumption
    | intro _
    | (extract_lets +onlyGivenNames x; refine keeps_with (o := o) (x := x) ?_ (fun hx => ?_); (on_goal 1 => (unfold x; clear x)); (on_goal 2 => clear_value x))
    | (extract_lets +onlyGivenNames x; have k := x; clear k)
    | with_reducible apply chargeStack_keeps
    | with_reducible apply startStack_keeps
    | with_reducible apply keeps_foldl

theorem endIndex_keeps {o} {s0 : State} (h0 : Keeps o s0) : Keeps o (endIndex s0) := by
  unfold endIndex
  repeat' first
    | with_reducible assumption
    | (with_reducible apply keeps_mk; with_reducible assumption)
    | (extract_lets +onlyGivenNames x; refine keeps_with (o := o) (x := x) ?_ (fun hx => ?_); (on_goal 1 => (unfold x; clear x)); (on_goal 2 => clear_value x))
    | (extract_lets +onlyGivenNames x; have k := x; clear k)
    | with_reducible apply runServices_keeps
    | with_reducible apply landWrites_keeps
    | with_reducible apply settleReleased_keeps
    | with_reducible apply releaseBarriers_keeps
    | with_reducible apply dropStrays_keeps
    | with_reducible apply crossIn_keeps
    | with_reducible apply moveSends_keeps

theorem tickOver_keeps {o} {s0 : State} (h0 : Keeps o s0) : Keeps o (tickOver s0).1 := by
  unfold tickOver
  repeat' first
    | (with_reducible apply keeps_mk; with_reducible assumption)

theorem tickOver_keeps' {o} {s0 : State} (h0 : Keeps o s0) {y0} {t} (e : tickOver s0 = (t, y0)) : Keeps o t := by
  have k := tickOver_keeps  h0
  rw [e] at k
  exact k

theorem endTurn_keeps {o} {s0 : State} (h0 : Keeps o s0) : Keeps o (endTurn s0) := by
  unfold endTurn
  repeat' first
    | with_reducible assumption
    | (with_reducible apply keeps_mk; with_reducible assumption)
    | intro _
    | (extract_lets +onlyGivenNames x; refine keeps_with (o := o) (x := x) ?_ (fun hx => ?_); (on_goal 1 => (unfold x; clear x)); (on_goal 2 => clear_value x))
    | (extract_lets +onlyGivenNames x; clear_value x)
    | (extract_lets +onlyGivenNames x; have k := x; clear k)
    | with_reducible apply postEvent_keeps
    | with_reducible apply turnReports_keeps
    | with_reducible apply closePlan_keeps
    | with_reducible apply keeps_foldl
    | split

theorem monAction_keeps {o} {s0 : State} {a1} (h0 : Keeps o s0) : Keeps o (monAction s0 a1) := by
  unfold monAction
  repeat' first
    | with_reducible assumption
    | (with_reducible apply keeps_mk; with_reducible assumption)
    | intro _
    | (extract_lets +onlyGivenNames x; clear_value x)
    | (extract_lets +onlyGivenNames x; have k := x; clear k)
    | with_reducible apply postEvent_keeps
    | with_reducible apply suspectPass_keeps
    | with_reducible apply keeps_foldl
    | split

theorem clearHolds_keeps {o} {s0 : State} (h0 : Keeps o s0) : Keeps o (clearHolds s0) := by
  unfold clearHolds
  repeat' first
    | with_reducible assumption
    | (with_reducible apply keeps_mk; with_reducible assumption)
    | intro _
    | (extract_lets +onlyGivenNames x; clear_value x)
    | (extract_lets +onlyGivenNames x; have k := x; clear k)
    | with_reducible apply postEvent_keeps
    | with_reducible apply keeps_foldl

theorem stepMonitors_keeps {o} {s0 : State} (h0 : Keeps o s0) : Keeps o (stepMonitors s0) := by
  unfold stepMonitors
  repeat' first
    | with_reducible assumption
    | (with_reducible apply keeps_mk; with_reducible assumption)
    | intro _
    | (extract_lets +onlyGivenNames x; refine keeps_with (o := o) (x := x) ?_ (fun hx => ?_); (on_goal 1 => (unfold x; clear x)); (on_goal 2 => clear_value x))
    | (extract_lets +onlyGivenNames x; clear_value x)
    | (extract_lets +onlyGivenNames x; have k := x; clear k)
    | with_reducible apply monAction_keeps
    | with_reducible apply clearHolds_keeps
    | with_reducible apply keeps_foldl

theorem setJob_keeps {o} {a0} {a1} {a2} {s3 : State} (h3 : Keeps o s3) : Keeps o (setJob a0 a1 a2 s3) := by
  unfold setJob
  repeat' first
    | with_reducible assumption
    | with_reducible apply setFly_keeps

theorem readySplit_keeps {o} {a0} {s1 : State} {a2} (h1 : Keeps o s1) : Keeps o (readySplit a0 s1 a2) := by
  unfold readySplit
  repeat' first
    | with_reducible assumption
    | (extract_lets +onlyGivenNames x; clear_value x)
    | with_reducible apply setJob_keeps
    | split

theorem driveSplit_keeps {o} {a0} {s1 : State} {a2} (h1 : Keeps o s1) : Keeps o (driveSplit a0 s1 a2) := by
  unfold driveSplit
  repeat' first
    | with_reducible assumption
    | with_reducible apply setPart_keeps
    | with_reducible apply setJob_keeps
    | split

theorem coastSplit_keeps {o} {s0 : State} {a1} (h0 : Keeps o s0) : Keeps o (coastSplit s0 a1) := by
  unfold coastSplit
  repeat' first
    | with_reducible assumption
    | (extract_lets +onlyGivenNames x; clear_value x)
    | with_reducible apply setJob_keeps
    | split

theorem stepSplits_keeps {o} {s0 : State} {a1} (h0 : Keeps o s0) : Keeps o (stepSplits s0 a1) := by
  unfold stepSplits
  repeat' first
    | with_reducible assumption
    | intro _
    | (extract_lets +onlyGivenNames x; refine keeps_with (o := o) (x := x) ?_ (fun hx => ?_); (on_goal 1 => (unfold x; clear x)); (on_goal 2 => clear_value x))
    | (extract_lets +onlyGivenNames x; clear_value x)
    | (extract_lets +onlyGivenNames x; have k := x; clear k)
    | with_reducible apply readySplit_keeps
    | with_reducible apply driveSplit_keeps
    | with_reducible apply coastSplit_keeps
    | with_reducible apply setPart_keeps
    | with_reducible apply keeps_foldl
    | split

theorem stepPart_keeps {o} {a0} {a1} {s2 : State} {a3} (h2 : Keeps o s2) : Keeps o (stepPart a0 a1 s2 a3) := by
  unfold stepPart
  repeat' first
    | with_reducible assumption
    | (extract_lets +onlyGivenNames x; clear_value x)
    | with_reducible apply setPart_keeps
    | split

theorem stepStalls_keeps {o} {s0 : State} (h0 : Keeps o s0) : Keeps o (stepStalls s0) := by
  unfold stepStalls
  repeat' first
    | with_reducible assumption
    | (with_reducible apply keeps_mk; with_reducible assumption)
    | (extract_lets +onlyGivenNames x; clear_value x)
    | split

theorem stageHones_keeps {o} {s0 : State} (h0 : Keeps o s0) : Keeps o (stageHones s0) := by
  unfold stageHones
  repeat' first
    | (with_reducible apply keeps_mk; with_reducible assumption)

theorem sendMarkers_keeps {o} {s0 : State} (h0 : Keeps o s0) : Keeps o (sendMarkers s0) := by
  unfold sendMarkers
  repeat' first
    | with_reducible assumption
    | (with_reducible apply keeps_mk; with_reducible assumption)
    | (extract_lets +onlyGivenNames x; clear_value x)
    | split

theorem sendSpindle_keeps {o} {s0 : State} (h0 : Keeps o s0) : Keeps o (sendSpindle s0) := by
  unfold sendSpindle
  repeat' first
    | with_reducible assumption
    | (with_reducible apply keeps_mk; with_reducible assumption)
    | (extract_lets +onlyGivenNames x; refine keeps_with (o := o) (x := x) ?_ (fun hx => ?_); (on_goal 1 => (unfold x; clear x)); (on_goal 2 => clear_value x))
    | (extract_lets +onlyGivenNames x; clear_value x)
    | with_reducible apply sendMarkers_keeps
    | split

theorem beginIndex_keeps {o} {s0 : State} (h0 : Keeps o s0) : Keeps o (beginIndex s0) := by
  unfold beginIndex
  repeat' first
    | with_reducible assumption
    | intro _
    | (extract_lets +onlyGivenNames x; clear_value x)
    | (extract_lets +onlyGivenNames x; have k := x; clear k)
    | with_reducible apply tickOver_keeps
    | with_reducible apply endTurn_keeps
    | with_reducible apply stepMonitors_keeps
    | with_reducible apply pumpPorts_keeps
    | with_reducible apply idleCores_keeps
    | with_reducible apply sweepLeaving_keeps
    | with_reducible apply stageHones_keeps
    | with_reducible apply retryFar_keeps
    | with_reducible apply stepSplits_keeps
    | with_reducible apply stepStalls_keeps
    | with_reducible apply stepPart_keeps
    | with_reducible apply sendSpindle_keeps
    | with_reducible apply stepProbes_keeps
    | with_reducible apply judgePasses_keeps
    | with_reducible apply keeps_foldl

theorem logFailed_keeps {o} {a0} {s1 : State} (h1 : Keeps o s1) : Keeps o (logFailed a0 s1) := by
  unfold logFailed
  repeat' first
    | with_reducible assumption
    | (extract_lets +onlyGivenNames x; refine keeps_with (o := o) (x := x) ?_ (fun hx => ?_); (on_goal 1 => (unfold x; clear x)); (on_goal 2 => clear_value x))
    | with_reducible apply setSession_keeps
    | with_reducible apply setCtx_keeps
    | with_reducible apply postTile_keeps
    | split

theorem adapterFailed_keeps {o} {a0} {s1 : State} (h1 : Keeps o s1) : Keeps o (adapterFailed a0 s1) := by
  unfold adapterFailed
  repeat' first
    | with_reducible assumption
    | (with_reducible apply keeps_mk; with_reducible assumption)
    | (extract_lets +onlyGivenNames x; refine keeps_with (o := o) (x := x) ?_ (fun hx => ?_); (on_goal 1 => (unfold x; clear x)); (on_goal 2 => clear_value x))
    | (extract_lets +onlyGivenNames x; clear_value x)
    | with_reducible apply postTile_keeps
    | split

theorem crcFailed_keeps {o} {s0 : State} {a1} (h0 : Keeps o s0) : Keeps o (crcFailed s0 a1) := by
  unfold crcFailed
  repeat' first
    | with_reducible assumption
    | (extract_lets +onlyGivenNames x; refine keeps_with (o := o) (x := x) ?_ (fun hx => ?_); (on_goal 1 => (unfold x; clear x)); (on_goal 2 => clear_value x))
    | (extract_lets +onlyGivenNames x; clear_value x)
    | with_reducible apply postTile_keeps
    | with_reducible apply suspectPass_keeps
    | with_reducible apply pageTile_keeps
    | with_reducible apply logFailed_keeps
    | with_reducible apply adapterFailed_keeps
    | with_reducible apply planTile_keeps
    | (with_reducible apply keeps_mk; with_reducible assumption)
    | split

theorem indexBoundary_keeps {o} {a0} {s2 : State} (h2 : Keeps o s2) : Keeps o (indexBoundary a0 s2) := by
  unfold indexBoundary
  repeat' first
    | with_reducible assumption
    | intro _
    | with_reducible apply settleHalts_keeps
    | with_reducible apply crcFailed_keeps
    | with_reducible apply beginIndex_keeps
    | with_reducible apply endIndex_keeps
    | with_reducible apply keeps_foldl
    | split

theorem execIndexBoundary_keeps {o} {a0} {s2 : State} (h2 : Keeps o s2) : OutKeeps o (execIndexBoundary a0 s2) := by
  unfold execIndexBoundary
  repeat' first
    | with_reducible assumption
    | with_reducible apply indexBoundary_keeps
    | with_reducible apply outKeeps_next

theorem stallFault_keeps {o} {a0} {s1 : State} {a2} (h1 : Keeps o s1) : Keeps o (stallFault a0 s1 a2) := by
  unfold stallFault
  repeat' first
    | with_reducible assumption
    | (extract_lets +onlyGivenNames x; clear_value x)
    | (extract_lets +onlyGivenNames x; have k := x; clear k)
    | with_reducible apply postPlan_keeps
    | with_reducible apply setSyncFlag_keeps
    | split

theorem stallLimit_keeps {o} {a0} {s1 : State} (h1 : Keeps o s1) : Keeps o (stallLimit a0 s1) := by
  unfold stallLimit
  repeat' first
    | with_reducible assumption
    | intro _
    | (extract_lets +onlyGivenNames x; clear_value x)
    | (extract_lets +onlyGivenNames x; have k := x; clear k)
    | with_reducible apply abandonPlan_keeps
    | with_reducible apply stallFault_keeps
    | with_reducible apply keeps_foldl
    | split

theorem execStallLimit_keeps {o} {a0} {s1 : State} (h1 : Keeps o s1) : OutKeeps o (execStallLimit a0 s1) := by
  unfold execStallLimit
  repeat' first
    | with_reducible assumption
    | with_reducible apply settleHalts_keeps
    | with_reducible apply stallLimit_keeps
    | with_reducible apply outKeeps_next

theorem idleMode_keeps {o} {s0 : State} (h0 : Keeps o s0) : Keeps o (idleMode s0) := by
  unfold idleMode
  repeat' first
    | with_reducible assumption
    | (with_reducible apply keeps_mk; with_reducible assumption)
    | (extract_lets +onlyGivenNames x; clear_value x)
    | with_reducible apply finishMode_keeps
    | split

theorem execPowerModeEffectTurn_keeps {o} {s0 : State} (h0 : Keeps o s0) : OutKeeps o (execPowerModeEffectTurn s0) := by
  unfold execPowerModeEffectTurn
  repeat' first
    | with_reducible assumption
    | with_reducible apply idleMode_keeps
    | with_reducible apply outKeeps_next

theorem pwrModeSet_keeps {o} {a0} {s1 : State} (h1 : Keeps o s1) : RanKeeps o (pwrModeSet a0 s1) := by
  unfold pwrModeSet
  repeat' first
    | with_reducible assumption
    | (with_reducible apply keeps_mk; with_reducible assumption)
    | (extract_lets +onlyGivenNames x; refine keeps_with (o := o) (x := x) ?_ (fun hx => ?_); (on_goal 1 => (unfold x; clear x)); (on_goal 2 => clear_value x))
    | (extract_lets +onlyGivenNames x; clear_value x)
    | (extract_lets +onlyGivenNames x; have k := x; clear k)
    | with_reducible apply complete_keeps
    | with_reducible apply idleMode_keeps
    | with_reducible apply ranKeeps_later
    | split

theorem execPwrModeSet_keeps {o} {a0} {s1 : State} (h1 : Keeps o s1) : OutKeeps o (execPwrModeSet a0 s1) := by
  unfold execPwrModeSet
  repeat' first
    | with_reducible assumption
    | intro _
    | with_reducible apply runCommand_keeps
    | with_reducible apply pwrModeSet_keeps
    | with_reducible apply outKeeps_next

theorem sourceSet_keeps {o} {a0} {s1 : State} (h1 : Keeps o s1) : RanKeeps o (sourceSet a0 s1) := by
  unfold sourceSet
  repeat' first
    | with_reducible assumption
    | (with_reducible apply keeps_mk; with_reducible assumption)
    | (extract_lets +onlyGivenNames x; refine keeps_with (o := o) (x := x) ?_ (fun hx => ?_); (on_goal 1 => (unfold x; clear x)); (on_goal 2 => clear_value x))
    | (extract_lets +onlyGivenNames x; clear_value x)
    | (extract_lets +onlyGivenNames x; have k := x; clear k)
    | with_reducible apply postEvent_keeps
    | with_reducible apply idleMode_keeps
    | with_reducible apply ranKeeps_ok
    | split

theorem execSpindleSourceSet_keeps {o} {a0} {s1 : State} (h1 : Keeps o s1) : OutKeeps o (execSpindleSourceSet a0 s1) := by
  unfold execSpindleSourceSet
  repeat' first
    | with_reducible assumption
    | intro _
    | with_reducible apply runCommand_keeps
    | with_reducible apply sourceSet_keeps
    | with_reducible apply outKeeps_next

theorem execSpindleStatus_keeps {o} {a0} {s1 : State} (h1 : Keeps o s1) : OutKeeps o (execSpindleStatus a0 s1) := by
  unfold execSpindleStatus
  repeat' first
    | with_reducible assumption
    | intro _
    | with_reducible apply runCommand_keeps
    | with_reducible apply ranKeeps_ok
    | with_reducible apply outKeeps_next

theorem lockAt_keeps {o} {a0} {s1 : State} (h1 : Keeps o s1) : Keeps o (lockAt a0 s1) := by
  unfold lockAt
  repeat' first
    | (with_reducible apply keeps_mk; with_reducible assumption)
    | (extract_lets +onlyGivenNames x; clear_value x)
    | with_reducible apply postEvent_keeps

theorem selfLock_keeps {o} {s0 : State} (h0 : Keeps o s0) : Keeps o (selfLock s0) := by
  unfold selfLock
  repeat' first
    | with_reducible assumption
    | with_reducible apply lockAt_keeps
    | split

theorem execSelfSpindleLock_keeps {o} {s0 : State} (h0 : Keeps o s0) : OutKeeps o (execSelfSpindleLock s0) := by
  unfold execSelfSpindleLock
  repeat' first
    | with_reducible assumption
    | with_reducible apply selfLock_keeps
    | with_reducible apply outKeeps_next

theorem loseIndex_keeps {o} {s0 : State} (h0 : Keeps o s0) : Keeps o (loseIndex s0) := by
  unfold loseIndex
  repeat' first
    | (with_reducible apply keeps_mk; with_reducible assumption)

theorem enterTurn_keeps {o} {a0} {s1 : State} (h1 : Keeps o s1) : Keeps o (enterTurn a0 s1) := by
  unfold enterTurn
  repeat' first
    | with_reducible assumption
    | (with_reducible apply keeps_mk; with_reducible assumption)
    | (extract_lets +onlyGivenNames x; refine keeps_with (o := o) (x := x) ?_ (fun hx => ?_); (on_goal 1 => (unfold x; clear x)); (on_goal 2 => clear_value x))
    | (extract_lets +onlyGivenNames x; clear_value x)
    | (extract_lets +onlyGivenNames x; have k := x; clear k)
    | with_reducible apply judgePasses_keeps
    | with_reducible apply sendMarkers_keeps
    | with_reducible apply endTurn_keeps
    | split

theorem stutter_keeps {o} {a0} {s1 : State} (h1 : Keeps o s1) : Keeps o (stutter a0 s1) := by
  unfold stutter
  repeat' first
    | with_reducible assumption
    | (with_reducible apply keeps_mk; with_reducible assumption)
    | (extract_lets +onlyGivenNames x; refine keeps_with (o := o) (x := x) ?_ (fun hx => ?_); (on_goal 1 => (unfold x; clear x)); (on_goal 2 => clear_value x))
    | (extract_lets +onlyGivenNames x; clear_value x)
    | (extract_lets +onlyGivenNames x; have k := x; clear k)
    | with_reducible apply enterTurn_keeps
    | with_reducible apply loseIndex_keeps
    | with_reducible apply postEvent_keeps
    | split

theorem slip_keeps {o} {a0} {s1 : State} (h1 : Keeps o s1) : Keeps o (slip a0 s1) := by
  unfold slip
  repeat' first
    | with_reducible assumption
    | (with_reducible apply keeps_mk; with_reducible assumption)
    | intro _
    | (extract_lets +onlyGivenNames x; refine keeps_with (o := o) (x := x) ?_ (fun hx => ?_); (on_goal 1 => (unfold x; clear x)); (on_goal 2 => clear_value x))
    | (extract_lets +onlyGivenNames x; clear_value x)
    | (extract_lets +onlyGivenNames x; have k := x; clear k)
    | with_reducible apply postEvent_keeps
    | with_reducible apply abandonPlan_keeps
    | with_reducible apply enterTurn_keeps
    | with_reducible apply settleHalts_keeps
    | with_reducible apply keeps_foldl

theorem validCount_keeps {o} {a0} {a1} {s2 : State} (h2 : Keeps o s2) : Keeps o (validCount a0 a1 s2) := by
  unfold validCount
  extract_lets q s received own
  have hs : Keeps o s := keeps_mk h2
  split
  · split
    · exact lockAt_keeps hs
    · exact keeps_mk hs
  split
  · split
    · exact hs
    split
    · exact stutter_keeps hs
    · exact slip_keeps hs
  · exact hs

theorem badCount_keeps {o} {s0 : State} (h0 : Keeps o s0) : Keeps o (badCount s0) := by
  unfold badCount
  repeat' first
    | (with_reducible apply keeps_mk; with_reducible assumption)
    | (extract_lets +onlyGivenNames x; clear_value x)
    | (extract_lets +onlyGivenNames x; have k := x; clear k)
    | with_reducible apply postEvent_keeps
    | split

theorem spindleFrame_keeps {o} {a0} {a1} {s2 : State} (h2 : Keeps o s2) : Keeps o (spindleFrame a0 a1 s2) := by
  unfold spindleFrame
  repeat' first
    | with_reducible assumption
    | (extract_lets +onlyGivenNames x; clear_value x)
    | with_reducible apply validCount_keeps
    | with_reducible apply badCount_keeps
    | split

theorem execSpindleFrame_keeps {o} {a0} {a1} {s2 : State} (h2 : Keeps o s2) : OutKeeps o (execSpindleFrame a0 a1 s2) := by
  unfold execSpindleFrame
  repeat' first
    | with_reducible assumption
    | with_reducible apply spindleFrame_keeps
    | with_reducible apply outKeeps_next

theorem dritarMarker_keeps {o} {a0} {a1} {s2 : State} (h2 : Keeps o s2) : Keeps o (dritarMarker a0 a1 s2) := by
  unfold dritarMarker
  repeat' first
    | with_reducible assumption
    | (with_reducible apply keeps_mk; with_reducible assumption)
    | (extract_lets +onlyGivenNames x; clear_value x)
    | with_reducible apply validCount_keeps
    | with_reducible apply badCount_keeps
    | split

theorem execDritarMarker_keeps {o} {a0} {a1} {s2 : State} (h2 : Keeps o s2) : OutKeeps o (execDritarMarker a0 a1 s2) := by
  unfold execDritarMarker
  repeat' first
    | with_reducible assumption
    | with_reducible apply dritarMarker_keeps
    | with_reducible apply outKeeps_next

theorem spindleStop_keeps {o} {s0 : State} (h0 : Keeps o s0) : Keeps o (spindleStop s0) := by
  unfold spindleStop
  repeat' first
    | with_reducible assumption
    | (with_reducible apply keeps_mk; with_reducible assumption)
    | (extract_lets +onlyGivenNames x; clear_value x)
    | with_reducible apply postEvent_keeps
    | split

theorem execSpindleStop_keeps {o} {s0 : State} (h0 : Keeps o s0) : OutKeeps o (execSpindleStop s0) := by
  unfold execSpindleStop
  repeat' first
    | with_reducible assumption
    | with_reducible apply spindleStop_keeps
    | with_reducible apply outKeeps_next

theorem loseRun_keeps {o} {s0 : State} (h0 : Keeps o s0) : Keeps o (loseRun s0) := by
  unfold loseRun
  repeat' first
    | (with_reducible apply keeps_mk; with_reducible assumption)

theorem spindleResume_keeps {o} {s0 : State} (h0 : Keeps o s0) : Keeps o (spindleResume s0) := by
  unfold spindleResume
  repeat' first
    | with_reducible assumption
    | (with_reducible apply keeps_mk; with_reducible assumption)
    | (extract_lets +onlyGivenNames x; refine keeps_with (o := o) (x := x) ?_ (fun hx => ?_); (on_goal 1 => (unfold x; clear x)); (on_goal 2 => clear_value x))
    | (extract_lets +onlyGivenNames x; clear_value x)
    | (extract_lets +onlyGivenNames x; have k := x; clear k)
    | with_reducible apply loseRun_keeps
    | with_reducible apply idleMode_keeps
    | with_reducible apply postEvent_keeps
    | split

theorem execSpindleResume_keeps {o} {s0 : State} (h0 : Keeps o s0) : OutKeeps o (execSpindleResume s0) := by
  unfold execSpindleResume
  repeat' first
    | with_reducible assumption
    | with_reducible apply spindleResume_keeps
    | with_reducible apply outKeeps_next

end Sys2Proof.Machine
end

