-- ==== Sys2Proof/Laws/Keeps6.lean ====
section
/-!
SUPPORT. What commands of trust, plans, monitors and calibration keep.
-/

namespace Sys2Proof.Machine

theorem addLog_keeps {o} {a0} {a1} {a2} {a3} {s4 : State} (h4 : Keeps o s4) : Keeps o (addLog a0 a1 a2 a3 s4) := by
  unfold addLog
  repeat' first
    | with_reducible assumption
    | (with_reducible apply keeps_mk; with_reducible assumption)
    | (extract_lets +onlyGivenNames x; refine keeps_with (o := o) (x := x) ?_ (fun hx => ?_); (on_goal 1 => (unfold x; clear x)); (on_goal 2 => clear_value x))
    | (extract_lets +onlyGivenNames x; clear_value x)
    | with_reducible apply postEvent_keeps
    | split

theorem keySet_keeps {o} {a0} {s1 : State} (h1 : Keeps o s1) : RanKeeps o (keySet a0 s1) := by
  unfold keySet
  split
  · exact .ok h1
  extract_lets again
  split
  rename_i mn s hs
  have hs : Keeps o s := randomBytes_keeps' h1 hs
  extract_lets n q t u v
  have ht : Keeps o t := keeps_mk hs
  have hu : Keeps o u := by
    unfold u
    split
    · exact ht
    · exact addLog_keeps ht
  exact .ok (postEvent_keeps (writeData_keeps hu))

theorem execTenantKeySet_keeps {o} {a0} {s1 : State} (h1 : Keeps o s1) : OutKeeps o (execTenantKeySet a0 s1) := by
  unfold execTenantKeySet
  repeat' first
    | with_reducible assumption
    | intro _
    | with_reducible apply runCommand_keeps
    | with_reducible apply keySet_keeps
    | with_reducible apply outKeeps_next

theorem keyClear_keeps {o} {a0} {s1 : State} (h1 : Keeps o s1) : RanKeeps o (keyClear a0 s1) := by
  unfold keyClear
  repeat' first
    | with_reducible assumption
    | (with_reducible apply keeps_mk; with_reducible assumption)
    | (extract_lets +onlyGivenNames x; clear_value x)
    | (extract_lets +onlyGivenNames x; have k := x; clear k)
    | with_reducible apply addLog_keeps
    | with_reducible apply ranKeeps_ok
    | split

theorem execTenantKeyClear_keeps {o} {a0} {s1 : State} (h1 : Keeps o s1) : OutKeeps o (execTenantKeyClear a0 s1) := by
  unfold execTenantKeyClear
  repeat' first
    | with_reducible assumption
    | intro _
    | with_reducible apply runCommand_keeps
    | with_reducible apply keyClear_keeps
    | with_reducible apply outKeeps_next

theorem vfBind_keeps {o} {a0} {s1 : State} (h1 : Keeps o s1) : RanKeeps o (vfBind a0 s1) := by
  unfold vfBind
  repeat' first
    | (with_reducible apply keeps_mk; with_reducible assumption)
    | (extract_lets +onlyGivenNames x; clear_value x)
    | with_reducible apply ranKeeps_ok

theorem execVfBind_keeps {o} {a0} {s1 : State} (h1 : Keeps o s1) : OutKeeps o (execVfBind a0 s1) := by
  unfold execVfBind
  repeat' first
    | with_reducible assumption
    | intro _
    | with_reducible apply runCommand_keeps
    | with_reducible apply vfBind_keeps
    | with_reducible apply outKeeps_next

theorem keyRegister_keeps {o} {a0} {s1 : State} (h1 : Keeps o s1) : RanKeeps o (keyRegister a0 s1) := by
  unfold keyRegister
  repeat' first
    | (with_reducible apply keeps_mk; with_reducible assumption)
    | (extract_lets +onlyGivenNames x; clear_value x)
    | (extract_lets +onlyGivenNames x; have k := x; clear k)
    | with_reducible apply addLog_keeps
    | with_reducible apply ranKeeps_ok

theorem execPlanKeyRegister_keeps {o} {a0} {s1 : State} (h1 : Keeps o s1) : OutKeeps o (execPlanKeyRegister a0 s1) := by
  unfold execPlanKeyRegister
  repeat' first
    | with_reducible assumption
    | intro _
    | with_reducible apply runCommand_keeps
    | with_reducible apply keyRegister_keeps
    | with_reducible apply outKeeps_next

theorem keyRemove_keeps {o} {a0} {s1 : State} (h1 : Keeps o s1) : RanKeeps o (keyRemove a0 s1) := by
  unfold keyRemove
  repeat' first
    | (with_reducible apply keeps_mk; with_reducible assumption)
    | (extract_lets +onlyGivenNames x; clear_value x)
    | (extract_lets +onlyGivenNames x; have k := x; clear k)
    | with_reducible apply addLog_keeps
    | with_reducible apply ranKeeps_ok

theorem execPlanKeyRemove_keeps {o} {a0} {s1 : State} (h1 : Keeps o s1) : OutKeeps o (execPlanKeyRemove a0 s1) := by
  unfold execPlanKeyRemove
  repeat' first
    | with_reducible assumption
    | intro _
    | with_reducible apply runCommand_keeps
    | with_reducible apply keyRemove_keeps
    | with_reducible apply outKeeps_next

theorem identityRead_keeps {o} {a0} {s1 : State} (h1 : Keeps o s1) : RanKeeps o (identityRead a0 s1) := by
  unfold identityRead
  repeat' first
    | with_reducible assumption
    | with_reducible apply writeData_keeps
    | with_reducible apply ranKeeps_ok

theorem execIdentityRead_keeps {o} {a0} {s1 : State} (h1 : Keeps o s1) : OutKeeps o (execIdentityRead a0 s1) := by
  unfold execIdentityRead
  repeat' first
    | with_reducible assumption
    | intro _
    | with_reducible apply runCommand_keeps
    | with_reducible apply identityRead_keeps
    | with_reducible apply outKeeps_next

theorem logRead_keeps {o} {a0} {s1 : State} (h1 : Keeps o s1) : RanKeeps o (logRead a0 s1) := by
  unfold logRead
  repeat' first
    | with_reducible assumption
    | (extract_lets +onlyGivenNames x; clear_value x)
    | (extract_lets +onlyGivenNames x; have k := x; clear k)
    | with_reducible apply writeData_keeps
    | with_reducible apply ranKeeps_ok
    | split

theorem execLoadLogRead_keeps {o} {a0} {s1 : State} (h1 : Keeps o s1) : OutKeeps o (execLoadLogRead a0 s1) := by
  unfold execLoadLogRead
  repeat' first
    | with_reducible assumption
    | intro _
    | with_reducible apply runCommand_keeps
    | with_reducible apply logRead_keeps
    | with_reducible apply outKeeps_next

theorem clearTrims_keeps {o} {a0} {s1 : State} (h1 : Keeps o s1) : Keeps o (clearTrims a0 s1) := by
  unfold clearTrims
  repeat' first
    | (with_reducible apply keeps_mk; with_reducible assumption)

theorem calSelf_keeps {o} {a0} {s1 : State} (h1 : Keeps o s1) : RanKeeps o (calSelf a0 s1) := by
  unfold calSelf
  repeat' first
    | with_reducible assumption
    | (with_reducible apply keeps_mk; with_reducible assumption)
    | intro _
    | (extract_lets +onlyGivenNames x; refine keeps_with (o := o) (x := x) ?_ (fun hx => ?_); (on_goal 1 => (unfold x; clear x)); (on_goal 2 => clear_value x))
    | (extract_lets +onlyGivenNames x; clear_value x)
    | with_reducible apply clearTrims_keeps
    | with_reducible apply keeps_foldl
    | with_reducible apply ranKeeps_later

theorem execCalSelf_keeps {o} {a0} {s1 : State} (h1 : Keeps o s1) : OutKeeps o (execCalSelf a0 s1) := by
  unfold execCalSelf
  repeat' first
    | with_reducible assumption
    | intro _
    | with_reducible apply runCommand_keeps
    | with_reducible apply calSelf_keeps
    | with_reducible apply outKeeps_next

theorem assignSpare_keeps {o} {a0 : State × Nat × Nat} {a1} (h : Keeps o a0.1) : Keeps o (assignSpare a0 a1).1 := by
  obtain ⟨s, n, u⟩ := a0
  unfold assignSpare
  split
  rename_i s n u hq
  obtain ⟨rfl, hq⟩ := Prod.mk.inj hq
  extract_lets bad cover q s1 post s2
  have h1 : Keeps o s1 := keeps_mk h
  exact keeps_foldl (fun t x ht => postEvent_keeps ht) _ h1

theorem dropRestore_keeps {o} {a0} {s1 : State} (h1 : Keeps o s1) : Keeps o (dropRestore a0 s1) := by
  unfold dropRestore
  repeat' first
    | with_reducible assumption
    | (with_reducible apply keeps_mk; with_reducible assumption)
    | (extract_lets +onlyGivenNames x; clear_value x)
    | with_reducible apply postEvent_keeps
    | split

theorem discardFactors_keeps {o} {a0} {a1} {s2 : State} (h2 : Keeps o s2) : Keeps o (discardFactors a0 a1 s2) := by
  unfold discardFactors
  repeat' first
    | with_reducible assumption
    | (with_reducible apply keeps_mk; with_reducible assumption)
    | (extract_lets +onlyGivenNames x; refine keeps_with (o := o) (x := x) ?_ (fun hx => ?_); (on_goal 1 => (unfold x; clear x)); (on_goal 2 => clear_value x))
    | with_reducible apply dropRestore_keeps

theorem calSelfDone_keeps {o} {a0} {a1} {s2 : State} (h2 : Keeps o s2) : Keeps o (calSelfDone a0 a1 s2) := by
  unfold calSelfDone
  split
  · exact h2
  rename_i r rest hr
  extract_lets good bad count mine every trims q s
  have hs : Keeps o s := keeps_mk h2
  clear_value s
  split
  rename_i t n u ht
  have ht : Keeps o t := by
    rw [show t = (t, n, u).1 from rfl, ← ht]
    exact keeps_foldl_on Prod.fst (fun _ _ h => assignSpare_keeps h) _ hs
  extract_lets ep q s1 mask result
  have h1 : Keeps o s1 := by
    unfold s1
    split
    · exact ht
    · exact keeps_foldl (fun _ _ h => discardFactors_keeps h) _ (keeps_mk ht)
  split
  · exact complete_keeps h1
  · exact complete_keeps h1

theorem execCalSelfDone_keeps {o} {a0} {a1} {s2 : State} (h2 : Keeps o s2) : OutKeeps o (execCalSelfDone a0 a1 s2) := by
  unfold execCalSelfDone
  repeat' first
    | with_reducible assumption
    | with_reducible apply calSelfDone_keeps
    | with_reducible apply outKeeps_next

theorem trimRead_keeps {o} {a0} {s1 : State} (h1 : Keeps o s1) : RanKeeps o (trimRead a0 s1) := by
  unfold trimRead
  repeat' first
    | with_reducible assumption
    | with_reducible apply writeData_keeps
    | with_reducible apply ranKeeps_ok

theorem execAdcTrimRead_keeps {o} {a0} {s1 : State} (h1 : Keeps o s1) : OutKeeps o (execAdcTrimRead a0 s1) := by
  unfold execAdcTrimRead
  repeat' first
    | with_reducible assumption
    | intro _
    | with_reducible apply runCommand_keeps
    | with_reducible apply trimRead_keeps
    | with_reducible apply outKeeps_next

theorem setPartner_keeps {o} {a0} {a1} {s2 : State} (h2 : Keeps o s2) : Keeps o (setPartner a0 a1 s2) := by
  unfold setPartner
  repeat' first
    | with_reducible assumption
    | (extract_lets +onlyGivenNames x; clear_value x)
    | with_reducible apply setMon_keeps
    | split

theorem beginTable_keeps {o} {a0} {a1} {a2} {s3 : State} (h3 : Keeps o s3) : Keeps o (beginTable a0 a1 a2 s3) := by
  unfold beginTable
  repeat' first
    | with_reducible assumption
    | (extract_lets +onlyGivenNames x; refine keeps_with (o := o) (x := x) ?_ (fun hx => ?_); (on_goal 1 => (unfold x; clear x)); (on_goal 2 => clear_value x))
    | (extract_lets +onlyGivenNames x; clear_value x)
    | with_reducible apply setMon_keeps
    | with_reducible apply setPartner_keeps
    | split

theorem overtake_keeps {o} {a0} {s1 : State} (h1 : Keeps o s1) : Keeps o (overtake a0 s1) := by
  unfold overtake
  repeat' first
    | with_reducible assumption
    | with_reducible apply complete_keeps
    | with_reducible apply beginTable_keeps
    | split

theorem tableSet_keeps {o} {a0} {s1 : State} (h1 : Keeps o s1) : RanKeeps o (tableSet a0 s1) := by
  unfold tableSet
  repeat' first
    | with_reducible assumption
    | (extract_lets +onlyGivenNames x; refine keeps_with (o := o) (x := x) ?_ (fun hx => ?_); (on_goal 1 => (unfold x; clear x)); (on_goal 2 => clear_value x))
    | (extract_lets +onlyGivenNames x; clear_value x)
    | (extract_lets +onlyGivenNames x; have k := x; clear k)
    | with_reducible apply overtake_keeps
    | with_reducible apply setMon_keeps
    | with_reducible apply beginTable_keeps
    | with_reducible apply ranKeeps_ok
    | with_reducible apply ranKeeps_later
    | split

theorem execMonTableSet_keeps {o} {a0} {s1 : State} (h1 : Keeps o s1) : OutKeeps o (execMonTableSet a0 s1) := by
  unfold execMonTableSet
  repeat' first
    | with_reducible assumption
    | intro _
    | with_reducible apply runCommand_keeps
    | with_reducible apply tableSet_keeps
    | with_reducible apply outKeeps_next

theorem convertNow_keeps {o} {a0} {s1 : State} (h1 : Keeps o s1) : RanKeeps o (convertNow a0 s1) := by
  unfold convertNow
  repeat' first
    | with_reducible assumption
    | (extract_lets +onlyGivenNames x; clear_value x)
    | (extract_lets +onlyGivenNames x; have k := x; clear k)
    | with_reducible apply setMon_keeps
    | with_reducible apply ranKeeps_later

theorem execMonConvertNow_keeps {o} {a0} {s1 : State} (h1 : Keeps o s1) : OutKeeps o (execMonConvertNow a0 s1) := by
  unfold execMonConvertNow
  repeat' first
    | with_reducible assumption
    | intro _
    | with_reducible apply runCommand_keeps
    | with_reducible apply convertNow_keeps
    | with_reducible apply outKeeps_next

theorem ringRead_keeps {o} {a0} {s1 : State} (h1 : Keeps o s1) : RanKeeps o (ringRead a0 s1) := by
  unfold ringRead
  repeat' first
    | with_reducible assumption
    | (extract_lets +onlyGivenNames x; clear_value x)
    | (extract_lets +onlyGivenNames x; have k := x; clear k)
    | with_reducible apply writeData_keeps
    | with_reducible apply ranKeeps_ok

theorem execMonRingRead_keeps {o} {a0} {s1 : State} (h1 : Keeps o s1) : OutKeeps o (execMonRingRead a0 s1) := by
  unfold execMonRingRead
  repeat' first
    | with_reducible assumption
    | intro _
    | with_reducible apply runCommand_keeps
    | with_reducible apply ringRead_keeps
    | with_reducible apply outKeeps_next

theorem ringPut_keeps {o} {a0} {a1} {s2 : State} (h2 : Keeps o s2) : Keeps o (ringPut a0 a1 s2) := by
  unfold ringPut
  repeat' first
    | with_reducible assumption
    | (extract_lets +onlyGivenNames x; clear_value x)
    | with_reducible apply setMon_keeps

theorem queueAct_keeps {o} {a0} {a1} {a2} {a3} {s4 : State} (h4 : Keeps o s4) : Keeps o (queueAct a0 a1 a2 a3 s4) := by
  unfold queueAct
  repeat' first
    | (with_reducible apply keeps_mk; with_reducible assumption)

theorem setViol_keeps {o} {a0} {a1} {a2} {s3 : State} (h3 : Keeps o s3) : Keeps o (setViol a0 a1 a2 s3) := by
  unfold setViol
  repeat' first
    | with_reducible assumption
    | (extract_lets +onlyGivenNames x; clear_value x)
    | with_reducible apply setMon_keeps

theorem judgeResult_keeps {o} {a0} {a1} {a2} {a3} {s4 : State} (h4 : Keeps o s4) : Keeps o (judgeResult a0 a1 a2 a3 s4) := by
  unfold judgeResult
  repeat' first
    | with_reducible assumption
    | (extract_lets +onlyGivenNames x; refine keeps_with (o := o) (x := x) ?_ (fun hx => ?_); (on_goal 1 => (unfold x; clear x)); (on_goal 2 => clear_value x))
    | (extract_lets +onlyGivenNames x; clear_value x)
    | (extract_lets +onlyGivenNames x; have k := x; clear k)
    | with_reducible apply queueAct_keeps
    | with_reducible apply setViol_keeps
    | with_reducible apply postEvent_keeps
    | with_reducible apply trimRef_keeps
    | split

theorem tableResult_keeps {o} {a0} {a1} {a2} {a3} {s4 : State} (h4 : Keeps o s4) : Keeps o (tableResult a0 a1 a2 a3 s4) := by
  unfold tableResult
  repeat' first
    | with_reducible assumption
    | (extract_lets +onlyGivenNames x; refine keeps_with (o := o) (x := x) ?_ (fun hx => ?_); (on_goal 1 => (unfold x; clear x)); (on_goal 2 => clear_value x))
    | (extract_lets +onlyGivenNames x; clear_value x)
    | with_reducible apply ringPut_keeps
    | with_reducible apply judgeResult_keeps
    | with_reducible apply setMon_keeps
    | split

theorem urgentEnd_keeps {o} {a0} {a1} {a2} {s3 : State} (h3 : Keeps o s3) : Keeps o (urgentEnd a0 a1 a2 s3) := by
  unfold urgentEnd
  repeat' first
    | with_reducible assumption
    | (extract_lets +onlyGivenNames x; refine keeps_with (o := o) (x := x) ?_ (fun hx => ?_); (on_goal 1 => (unfold x; clear x)); (on_goal 2 => clear_value x))
    | (extract_lets +onlyGivenNames x; clear_value x)
    | with_reducible apply setMon_keeps
    | with_reducible apply ringPut_keeps
    | with_reducible apply judgeResult_keeps
    | with_reducible apply complete_keeps
    | split

theorem afterConversion_keeps {o} {a0} {s1 : State} (h1 : Keeps o s1) : Keeps o (afterConversion a0 s1) := by
  unfold afterConversion
  repeat' first
    | with_reducible assumption
    | (extract_lets +onlyGivenNames x; refine keeps_with (o := o) (x := x) ?_ (fun hx => ?_); (on_goal 1 => (unfold x; clear x)); (on_goal 2 => clear_value x))
    | (extract_lets +onlyGivenNames x; clear_value x)
    | with_reducible apply overtake_keeps
    | with_reducible apply setMon_keeps

theorem conversionEnd_keeps {o} {a0} {a1} {a2} {s3 : State} (h3 : Keeps o s3) : Keeps o (conversionEnd a0 a1 a2 s3) := by
  unfold conversionEnd
  repeat' first
    | with_reducible assumption
    | (extract_lets +onlyGivenNames x; clear_value x)
    | (extract_lets +onlyGivenNames x; have k := x; clear k)
    | with_reducible apply afterConversion_keeps
    | with_reducible apply urgentEnd_keeps
    | with_reducible apply endProbe_keeps
    | with_reducible apply tableResult_keeps
    | split

theorem execMonitorConversionEnd_keeps {o} {a0} {a1} {a2} {s3 : State} (h3 : Keeps o s3) : OutKeeps o (execMonitorConversionEnd a0 a1 a2 s3) := by
  unfold execMonitorConversionEnd
  repeat' first
    | with_reducible assumption
    | with_reducible apply conversionEnd_keeps
    | with_reducible apply outKeeps_next

theorem execMonitorDelayEnd_keeps {o} {a0} {s1 : State} (h1 : Keeps o s1) : OutKeeps o (execMonitorDelayEnd a0 s1) := by
  unfold execMonitorDelayEnd
  repeat' first
    | with_reducible assumption
    | (extract_lets +onlyGivenNames x; clear_value x)
    | (extract_lets +onlyGivenNames x; have k := x; clear k)
    | with_reducible apply setMon_keeps
    | with_reducible apply outKeeps_next
    | split

theorem calPolicy_keeps {o} {a0} {s1 : State} (h1 : Keeps o s1) : RanKeeps o (calPolicy a0 s1) := by
  unfold calPolicy
  repeat' first
    | (with_reducible apply keeps_mk; with_reducible assumption)
    | (extract_lets +onlyGivenNames x; clear_value x)
    | with_reducible apply ranKeeps_ok

theorem execCalPolicySet_keeps {o} {a0} {s1 : State} (h1 : Keeps o s1) : OutKeeps o (execCalPolicySet a0 s1) := by
  unfold execCalPolicySet
  repeat' first
    | with_reducible assumption
    | intro _
    | with_reducible apply runCommand_keeps
    | with_reducible apply calPolicy_keeps
    | with_reducible apply outKeeps_next

theorem factorsRead_keeps {o} {a0} {s1 : State} (h1 : Keeps o s1) : RanKeeps o (factorsRead a0 s1) := by
  unfold factorsRead
  repeat' first
    | with_reducible assumption
    | (extract_lets +onlyGivenNames x; clear_value x)
    | (extract_lets +onlyGivenNames x; have k := x; clear k)
    | with_reducible apply writeData_keeps
    | with_reducible apply ranKeeps_ok

theorem execCalFactorsRead_keeps {o} {a0} {s1 : State} (h1 : Keeps o s1) : OutKeeps o (execCalFactorsRead a0 s1) := by
  unfold execCalFactorsRead
  repeat' first
    | with_reducible assumption
    | intro _
    | with_reducible apply runCommand_keeps
    | with_reducible apply factorsRead_keeps
    | with_reducible apply outKeeps_next

theorem loadCandidate_keeps {o} {a0 : State × Nat} {a1} (h : Keeps o a0.1) : Keeps o (loadCandidate a0 a1).1 := by
  obtain ⟨s, n⟩ := a0
  unfold loadCandidate
  split
  rename_i s n hq
  obtain ⟨rfl, hq⟩ := Prod.mk.inj hq
  split
  · exact keeps_mk h
  · exact h

theorem stageRecord_keeps {o} {s0 : State} {a1} (h0 : Keeps o s0) : Keeps o (stageRecord s0 a1) := by
  unfold stageRecord
  extract_lets e swap sel q s
  have hs : Keeps o s := by
    unfold s
    split
    · exact h0
    · exact keeps_mk h0
  clear_value s
  split
  · exact hs
  split
  rename_i code t ht
  exact postEvent_keeps (keeps_mk (freeBits_keeps' hs ht))

theorem loadFactors_keeps {o} {a0} {a1} {s2 : State} (h2 : Keeps o s2) : RanKeeps o (loadFactors a0 a1 s2) := by
  unfold loadFactors
  split
  rename_i s n hs
  have hs : Keeps o s := by
    rw [show s = (s, n).1 from rfl, ← hs]
    exact keeps_foldl_on Prod.fst (fun _ _ h => loadCandidate_keeps h) _ h2
  extract_lets q t
  have ht : Keeps o t := by
    unfold t
    split
    · exact keeps_mk hs
    split
    · exact postEvent_keeps hs
    · exact keeps_mk hs
  clear_value t
  exact .ok (settle_keeps (keeps_foldl (fun _ _ h => stageRecord_keeps h) _ ht))

theorem factorsWrite_keeps {o} {a0} {s1 : State} (h1 : Keeps o s1) : RanKeeps o (factorsWrite a0 s1) := by
  unfold factorsWrite
  exact loadFactors_keeps h1

theorem execCalFactorsWrite_keeps {o} {a0} {s1 : State} (h1 : Keeps o s1) : OutKeeps o (execCalFactorsWrite a0 s1) := by
  unfold execCalFactorsWrite
  repeat' first
    | with_reducible assumption
    | intro _
    | with_reducible apply runCommand_keeps
    | with_reducible apply factorsWrite_keeps
    | with_reducible apply outKeeps_next

theorem warmup_keeps {o} {a0} {s1 : State} (h1 : Keeps o s1) : RanKeeps o (warmup a0 s1) := by
  unfold warmup
  repeat' first
    | (with_reducible apply keeps_mk; with_reducible assumption)
    | (extract_lets +onlyGivenNames x; clear_value x)
    | (extract_lets +onlyGivenNames x; have k := x; clear k)
    | with_reducible apply endWarmups_keeps
    | with_reducible apply ranKeeps_later

theorem execCalWarmup_keeps {o} {a0} {s1 : State} (h1 : Keeps o s1) : OutKeeps o (execCalWarmup a0 s1) := by
  unfold execCalWarmup
  repeat' first
    | with_reducible assumption
    | intro _
    | with_reducible apply runCommand_keeps
    | with_reducible apply warmup_keeps
    | with_reducible apply outKeeps_next

theorem calStatus_keeps {o} {a0} {s1 : State} (h1 : Keeps o s1) : RanKeeps o (calStatus a0 s1) := by
  unfold calStatus
  repeat' first
    | with_reducible assumption
    | (extract_lets +onlyGivenNames x; clear_value x)
    | with_reducible apply ranKeeps_ok

theorem execCalStatus_keeps {o} {a0} {s1 : State} (h1 : Keeps o s1) : OutKeeps o (execCalStatus a0 s1) := by
  unfold execCalStatus
  repeat' first
    | with_reducible assumption
    | intro _
    | with_reducible apply runCommand_keeps
    | with_reducible apply calStatus_keeps
    | with_reducible apply outKeeps_next

theorem planLoad_keeps {o} {a0} {s1 : State} (h1 : Keeps o s1) : RanKeeps o (planLoad a0 s1) := by
  unfold planLoad
  repeat' first
    | with_reducible assumption
    | (extract_lets +onlyGivenNames x; refine keeps_with (o := o) (x := x) ?_ (fun hx => ?_); (on_goal 1 => (unfold x; clear x)); (on_goal 2 => clear_value x))
    | (extract_lets +onlyGivenNames x; clear_value x)
    | (extract_lets +onlyGivenNames x; have k := x; clear k)
    | with_reducible apply setPlan_keeps
    | with_reducible apply addLog_keeps
    | with_reducible apply ranKeeps_ok

theorem execPlanLoad_keeps {o} {a0} {s1 : State} (h1 : Keeps o s1) : OutKeeps o (execPlanLoad a0 s1) := by
  unfold execPlanLoad
  repeat' first
    | with_reducible assumption
    | intro _
    | with_reducible apply runCommand_keeps
    | with_reducible apply planLoad_keeps
    | with_reducible apply outKeeps_next

theorem forgetReplaced_keeps {o} {a0} {s1 : State} (h1 : Keeps o s1) : Keeps o (forgetReplaced a0 s1) := by
  unfold forgetReplaced
  repeat' first
    | (with_reducible apply keeps_mk; with_reducible assumption)

theorem zeroScratch_keeps {o} {s0 : State} {a1} (h0 : Keeps o s0) : Keeps o (zeroScratch s0 a1) := by
  unfold zeroScratch
  split
  · exact h0
  · exact keeps_mem h0 id id id (wf_filter _)

theorem planArm_keeps {o} {a0} {s1 : State} (h1 : Keeps o s1) : RanKeeps o (planArm a0 s1) := by
  unfold planArm
  repeat' first
    | with_reducible assumption
    | intro _
    | (extract_lets +onlyGivenNames x; clear_value x)
    | (extract_lets +onlyGivenNames x; have k := x; clear k)
    | with_reducible apply zeroScratch_keeps
    | with_reducible apply setPlan_keeps
    | with_reducible apply forgetReplaced_keeps
    | with_reducible apply keeps_foldl
    | with_reducible apply ranKeeps_ok
    | split

theorem execPlanArm_keeps {o} {a0} {s1 : State} (h1 : Keeps o s1) : OutKeeps o (execPlanArm a0 s1) := by
  unfold execPlanArm
  repeat' first
    | with_reducible assumption
    | intro _
    | with_reducible apply runCommand_keeps
    | with_reducible apply planArm_keeps
    | with_reducible apply outKeeps_next

theorem releaseStacks_keeps {o} {a0} {s1 : State} (h1 : Keeps o s1) : Keeps o (releaseStacks a0 s1) := by
  unfold releaseStacks
  repeat' first
    | with_reducible assumption
    | intro _
    | with_reducible apply settleEnded_keeps
    | with_reducible apply dropRefs_keeps
    | with_reducible apply keeps_foldl

theorem planStop_keeps {o} {a0} {s1 : State} (h1 : Keeps o s1) : RanKeeps o (planStop a0 s1) := by
  unfold planStop
  repeat' first
    | with_reducible assumption
    | (extract_lets +onlyGivenNames x; refine keeps_with (o := o) (x := x) ?_ (fun hx => ?_); (on_goal 1 => (unfold x; clear x)); (on_goal 2 => clear_value x))
    | (extract_lets +onlyGivenNames x; clear_value x)
    | (extract_lets +onlyGivenNames x; have k := x; clear k)
    | with_reducible apply setPlan_keeps
    | with_reducible apply releaseStacks_keeps
    | with_reducible apply complete_keeps
    | with_reducible apply closePlan_keeps
    | with_reducible apply ranKeeps_ok
    | with_reducible apply ranKeeps_later
    | split

theorem execPlanStop_keeps {o} {a0} {s1 : State} (h1 : Keeps o s1) : OutKeeps o (execPlanStop a0 s1) := by
  unfold execPlanStop
  repeat' first
    | with_reducible assumption
    | intro _
    | with_reducible apply runCommand_keeps
    | with_reducible apply planStop_keeps
    | with_reducible apply outKeeps_next

theorem planUnload_keeps {o} {a0} {s1 : State} (h1 : Keeps o s1) : RanKeeps o (planUnload a0 s1) := by
  unfold planUnload
  repeat' first
    | with_reducible assumption
    | (extract_lets +onlyGivenNames x; clear_value x)
    | (extract_lets +onlyGivenNames x; have k := x; clear k)
    | with_reducible apply addLog_keeps
    | with_reducible apply setPlan_keeps
    | with_reducible apply ranKeeps_ok
    | split

theorem execPlanUnload_keeps {o} {a0} {s1 : State} (h1 : Keeps o s1) : OutKeeps o (execPlanUnload a0 s1) := by
  unfold execPlanUnload
  repeat' first
    | with_reducible assumption
    | intro _
    | with_reducible apply runCommand_keeps
    | with_reducible apply planUnload_keeps
    | with_reducible apply outKeeps_next

theorem planQuery_keeps {o} {a0} {s1 : State} (h1 : Keeps o s1) : RanKeeps o (planQuery a0 s1) := by
  unfold planQuery
  repeat' first
    | with_reducible assumption
    | with_reducible apply ranKeeps_ok

theorem execPlanQuery_keeps {o} {a0} {s1 : State} (h1 : Keeps o s1) : OutKeeps o (execPlanQuery a0 s1) := by
  unfold execPlanQuery
  repeat' first
    | with_reducible assumption
    | intro _
    | with_reducible apply runCommand_keeps
    | with_reducible apply planQuery_keeps
    | with_reducible apply outKeeps_next

end Sys2Proof.Machine
end

