-- ==== Sys2Proof/Laws/Keeps7.lean ====
section
/-!
SUPPORT. What commands of models, probes, adapters, sessions and contexts keep.
-/

namespace Sys2Proof.Machine

theorem manifestLoad_keeps {o} {a0} {s1 : State} (h1 : Keeps o s1) : RanKeeps o (manifestLoad a0 s1) := by
  unfold manifestLoad
  repeat' first
    | (with_reducible apply keeps_mk; with_reducible assumption)
    | (extract_lets +onlyGivenNames x; clear_value x)
    | (extract_lets +onlyGivenNames x; have k := x; clear k)
    | with_reducible apply addLog_keeps
    | with_reducible apply ranKeeps_ok

theorem execModelManifestLoad_keeps {o} {a0} {s1 : State} (h1 : Keeps o s1) : OutKeeps o (execModelManifestLoad a0 s1) := by
  unfold execModelManifestLoad
  repeat' first
    | with_reducible assumption
    | intro _
    | with_reducible apply runCommand_keeps
    | with_reducible apply manifestLoad_keeps
    | with_reducible apply outKeeps_next

theorem keyCreate_keeps {o} {a0} {s1 : State} (h1 : Keeps o s1) : RanKeeps o (keyCreate a0 s1) := by
  unfold keyCreate
  split
  rename_i key s hs
  have hs : Keeps o s := randomBytes_keeps' h1 hs
  split
  rename_i nonce t ht
  have ht : Keeps o t := randomBytes_keeps' hs ht
  extract_lets serial head u q v
  split
  have hu : Keeps o u := keeps_foldl (fun _ _ h => freeDeck_keeps h) _ ht
  exact .ok (writeData_keeps (keeps_mk hu))

theorem execBindKeyCreate_keeps {o} {a0} {s1 : State} (h1 : Keeps o s1) : OutKeeps o (execBindKeyCreate a0 s1) := by
  unfold execBindKeyCreate
  repeat' first
    | with_reducible assumption
    | intro _
    | with_reducible apply runCommand_keeps
    | with_reducible apply keyCreate_keeps
    | with_reducible apply outKeeps_next

theorem keySupply_keeps {o} {a0} {s1 : State} (h1 : Keeps o s1) : RanKeeps o (keySupply a0 s1) := by
  unfold keySupply
  repeat' first
    | (with_reducible apply keeps_mk; with_reducible assumption)
    | (extract_lets +onlyGivenNames x; clear_value x)
    | with_reducible apply ranKeeps_ok

theorem execBindKeySupply_keeps {o} {a0} {s1 : State} (h1 : Keeps o s1) : OutKeeps o (execBindKeySupply a0 s1) := by
  unfold execBindKeySupply
  repeat' first
    | with_reducible assumption
    | intro _
    | with_reducible apply runCommand_keeps
    | with_reducible apply keySupply_keeps
    | with_reducible apply outKeeps_next

theorem beginDeck_keeps {o} {a0} {a1} {a2} {a3} {s4 : State} (h4 : Keeps o s4) : Keeps o (beginDeck a0 a1 a2 a3 s4) := by
  unfold beginDeck
  repeat' first
    | with_reducible assumption
    | (with_reducible apply keeps_mk; with_reducible assumption)
    | (extract_lets +onlyGivenNames x; refine keeps_with (o := o) (x := x) ?_ (fun hx => ?_); (on_goal 1 => (unfold x; clear x)); (on_goal 2 => clear_value x))
    | (with_reducible apply nextCounter_keeps'; case e => with_reducible assumption)
    | with_reducible apply setDeck_keeps
    | with_reducible apply setDir_keeps
    | split

/-- What an operation over an optional state and a value keeps. -/
theorem optKeeps_map {o : State} {α : Type} {x : Option α} {f : α → State} (h : ∀ a, x = some a → Keeps o (f a)) :
    OptKeeps o (x.map f) := by
  cases x with
  | none => trivial
  | some a => exact h a rfl

theorem chooseDeck_keeps {o} {a0} {a1} {a2} {a3} {a4} {s5 : State} (h5 : Keeps o s5) :
    OptKeeps o (chooseDeck a0 a1 a2 a3 a4 s5) := by
  unfold chooseDeck
  split
  · trivial
  · exact optKeeps_map fun r hr => keeps_mk (beginDeck_keeps (allocSide_keeps' h5 hr))

theorem claimDeck_keeps {o} {a0} {a1} {a2} {a3} {a4} {a5} {s6 : State} (h6 : Keeps o s6) :
    OptKeeps o (claimDeck a0 a1 a2 a3 a4 a5 s6) :=
  optKeeps_map fun _ hr => keeps_mk (allocSide_keeps' h6 hr)

theorem setInstall_keeps {o} {a0} {s1 : State} (h1 : Keeps o s1) : Keeps o (setInstall a0 s1) := by
  unfold setInstall
  repeat' first
    | (with_reducible apply keeps_mk; with_reducible assumption)

/-- What an optional state with an install keeps. -/
def InstallKeeps (o : State) (x : Option (State × Install)) : Prop := ∀ y, x = some y → Keeps o y.1

theorem beginEntry_keeps {o} {a0} {a1} {acc} {a3} (h : InstallKeeps o acc) : InstallKeeps o (beginEntry a0 a1 acc a3) := by
  intro y hy
  obtain ⟨⟨s, x'⟩, ha, hy⟩ := Option.bind_eq_some_iff.1 hy
  have hs : Keeps o s := h _ ha
  dsimp only at hy
  split at hy
  · cases hy
    exact keeps_mk hs
  · obtain ⟨t, ht, rfl⟩ := Option.map_eq_some_iff.1 hy
    split at ht
    · exact optKeeps_eq (claimDeck_keeps hs) ht
    · exact optKeeps_eq (chooseDeck_keeps hs) ht

theorem dropUnclaimed_keeps {o} {a0} {s1 : State} (h1 : Keeps o s1) : Keeps o (dropUnclaimed a0 s1) := by
  unfold dropUnclaimed
  repeat' first
    | with_reducible assumption
    | intro _
    | (extract_lets +onlyGivenNames x; clear_value x)
    | (extract_lets +onlyGivenNames x; have k := x; clear k)
    | with_reducible apply freeDeck_keeps
    | with_reducible apply keeps_foldl

theorem keeps_fold_install {o : State} {m : Manifest} {x : Install} {acc : Option (State × Install)} (h : InstallKeeps o acc)
    (l : List Nat) : InstallKeeps o (l.foldl (beginEntry m x) acc) := by
  induction l generalizing acc with
  | nil => exact h
  | cons i l ih => exact ih (beginEntry_keeps h)

theorem startInstall_keeps {o} {a0} {s1 : State} (h1 : Keeps o s1) : InstallKeeps o (startInstall a0 s1) := by
  intro y hy
  obtain ⟨m, -, hy⟩ := Option.bind_eq_some_iff.1 hy
  obtain ⟨m', -, hy⟩ := Option.bind_eq_some_iff.1 hy
  refine keeps_fold_install ?_ _ y hy
  intro z hz
  cases hz
  dsimp only
  split
  · exact dropUnclaimed_keeps (setBank_keeps (keeps_mk h1))
  · exact setBank_keeps (keeps_mk h1)

theorem install_keeps {o} {a0} {s1 : State} (h1 : Keeps o s1) : RanKeeps o (install a0 s1) := by
  unfold install
  split
  · exact .ok h1
  · exact .later (keeps_mk (startInstall_keeps h1 _ ‹_›))

theorem failInstall_keeps {o} {a0} {a1} {s2 : State} (h2 : Keeps o s2) : Keeps o (failInstall a0 a1 s2) := by
  unfold failInstall
  repeat' first
    | with_reducible assumption
    | (with_reducible apply keeps_mk; with_reducible assumption)
    | intro _
    | (extract_lets +onlyGivenNames x; refine keeps_with (o := o) (x := x) ?_ (fun hx => ?_); (on_goal 1 => (unfold x; clear x)); (on_goal 2 => clear_value x))
    | (extract_lets +onlyGivenNames x; clear_value x)
    | (extract_lets +onlyGivenNames x; have k := x; clear k)
    | with_reducible apply freeDeck_keeps
    | with_reducible apply complete_keeps
    | with_reducible apply clearBank_keeps
    | with_reducible apply keeps_foldl
    | split

theorem tryEndInstall_keeps {o} {a0} {s1 : State} (h1 : Keeps o s1) : Keeps o (tryEndInstall a0 s1) := by
  unfold tryEndInstall
  repeat' first
    | with_reducible assumption
    | (with_reducible apply keeps_mk; with_reducible assumption)
    | (extract_lets +onlyGivenNames x; refine keeps_with (o := o) (x := x) ?_ (fun hx => ?_); (on_goal 1 => (unfold x; clear x)); (on_goal 2 => clear_value x))
    | (extract_lets +onlyGivenNames x; clear_value x)
    | with_reducible apply setBank_keeps
    | with_reducible apply postEvent_keeps
    | with_reducible apply complete_keeps
    | split

theorem execModelInstall_keeps {o} {a0} {s1 : State} (h1 : Keeps o s1) : OutKeeps o (execModelInstall a0 s1) := by
  unfold execModelInstall
  repeat' first
    | with_reducible assumption
    | intro _
    | with_reducible apply runCommand_keeps
    | with_reducible apply install_keeps
    | with_reducible apply outKeeps_next

theorem placeImage_keeps {o} {a0} {a1} {a2} {a3} {s4 : State} (h4 : Keeps o s4) : Keeps o (placeImage a0 a1 a2 a3 s4) := by
  unfold placeImage
  repeat' first
    | with_reducible assumption
    | (with_reducible apply keeps_mk; with_reducible assumption)
    | (extract_lets +onlyGivenNames x; refine keeps_with (o := o) (x := x) ?_ (fun hx => ?_); (on_goal 1 => (unfold x; clear x)); (on_goal 2 => clear_value x))
    | (extract_lets +onlyGivenNames x; clear_value x)
    | with_reducible apply moduleWrite_keeps
    | with_reducible apply packageWrite_keeps
    | split

theorem takeImages_keeps {o} {a0} {a1} {a2} {s3 : State} (h3 : Keeps o s3) : Keeps o (takeImages a0 a1 a2 s3).2.1 := by
  induction a1 generalizing a2 s3 with
  | zero => exact h3
  | succ n ih =>
    unfold takeImages
    extract_lets i p off len
    split
    · exact h3
    split
    · exact h3
    · exact ih (placeImage_keeps h3)

theorem takeImages_keeps' {o} {a0} {a1} {a2} {s3 : State} (h3 : Keeps o s3) {y0} {y1} {t} (e : takeImages a0 a1 a2 s3 = (y0, (t, y1))) : Keeps o t := by
  have k := takeImages_keeps (a0 := a0) (a1 := a1) (a2 := a2) h3
  rw [e] at k
  exact k

theorem copyTiers_keeps {o} {a0} {a1} {s2 : State} (h2 : Keeps o s2) : Keeps o (copyTiers a0 a1 s2) := by
  unfold copyTiers
  repeat' first
    | with_reducible assumption
    | intro _
    | (extract_lets +onlyGivenNames x; clear_value x)
    | with_reducible apply moduleWrite_keeps
    | with_reducible apply packageWrite_keeps
    | with_reducible apply keeps_foldl
    | split

theorem chunkRead_keeps {o} {a0} {s1 : State} (h1 : Keeps o s1) : Keeps o (chunkRead a0 s1) := by
  unfold chunkRead
  repeat' first
    | with_reducible assumption
    | (extract_lets +onlyGivenNames x; refine keeps_with (o := o) (x := x) ?_ (fun hx => ?_); (on_goal 1 => (unfold x; clear x)); (on_goal 2 => clear_value x))
    | (extract_lets +onlyGivenNames x; clear_value x)
    | (extract_lets +onlyGivenNames x; have k := x; clear k)
    | with_reducible apply failInstall_keeps
    | (with_reducible apply takeImages_keeps'; case e => with_reducible assumption)
    | with_reducible apply copyTiers_keeps
    | with_reducible apply tryEndInstall_keeps
    | with_reducible apply setInstall_keeps
    | split

theorem execModelChunkRead_keeps {o} {a0} {s1 : State} (h1 : Keeps o s1) : OutKeeps o (execModelChunkRead a0 s1) := by
  unfold execModelChunkRead
  repeat' first
    | with_reducible assumption
    | with_reducible apply chunkRead_keeps
    | with_reducible apply outKeeps_next

theorem chuckSwitch_keeps {o} {a0} {s1 : State} (h1 : Keeps o s1) : RanKeeps o (chuckSwitch a0 s1) := by
  unfold chuckSwitch
  repeat' first
    | (with_reducible apply keeps_mk; with_reducible assumption)
    | (extract_lets +onlyGivenNames x; clear_value x)
    | (extract_lets +onlyGivenNames x; have k := x; clear k)
    | with_reducible apply endSwitches_keeps
    | with_reducible apply ranKeeps_later

theorem execChuckSwitch_keeps {o} {a0} {s1 : State} (h1 : Keeps o s1) : OutKeeps o (execChuckSwitch a0 s1) := by
  unfold execChuckSwitch
  repeat' first
    | with_reducible assumption
    | intro _
    | with_reducible apply runCommand_keeps
    | with_reducible apply chuckSwitch_keeps
    | with_reducible apply outKeeps_next

theorem modelRelease_keeps {o} {a0} {s1 : State} (h1 : Keeps o s1) : RanKeeps o (modelRelease a0 s1) := by
  unfold modelRelease
  repeat' first
    | with_reducible assumption
    | (with_reducible apply keeps_mk; with_reducible assumption)
    | (extract_lets +onlyGivenNames x; clear_value x)
    | (extract_lets +onlyGivenNames x; have k := x; clear k)
    | with_reducible apply clearBank_keeps
    | with_reducible apply addLog_keeps
    | with_reducible apply ranKeeps_ok
    | split

theorem execModelRelease_keeps {o} {a0} {s1 : State} (h1 : Keeps o s1) : OutKeeps o (execModelRelease a0 s1) := by
  unfold execModelRelease
  repeat' first
    | with_reducible assumption
    | intro _
    | with_reducible apply runCommand_keeps
    | with_reducible apply modelRelease_keeps
    | with_reducible apply outKeeps_next

theorem chuckRead_keeps {o} {a0} {s1 : State} (h1 : Keeps o s1) : RanKeeps o (chuckRead a0 s1) := by
  unfold chuckRead
  repeat' first
    | with_reducible assumption
    | (extract_lets +onlyGivenNames x; clear_value x)
    | (extract_lets +onlyGivenNames x; have k := x; clear k)
    | with_reducible apply writeData_keeps
    | with_reducible apply ranKeeps_ok

theorem execChuckRead_keeps {o} {a0} {s1 : State} (h1 : Keeps o s1) : OutKeeps o (execChuckRead a0 s1) := by
  unfold execChuckRead
  repeat' first
    | with_reducible assumption
    | intro _
    | with_reducible apply runCommand_keeps
    | with_reducible apply chuckRead_keeps
    | with_reducible apply outKeeps_next

theorem modelStatus_keeps {o} {a0} {s1 : State} (h1 : Keeps o s1) : RanKeeps o (modelStatus a0 s1) := by
  unfold modelStatus
  repeat' first
    | with_reducible assumption
    | (extract_lets +onlyGivenNames x; clear_value x)
    | with_reducible apply ranKeeps_ok

theorem execModelStatus_keeps {o} {a0} {s1 : State} (h1 : Keeps o s1) : OutKeeps o (execModelStatus a0 s1) := by
  unfold execModelStatus
  repeat' first
    | with_reducible assumption
    | intro _
    | with_reducible apply runCommand_keeps
    | with_reducible apply modelStatus_keeps
    | with_reducible apply outKeeps_next

theorem storeAdapter_keeps {o} {a0} {s1 : State} (h1 : Keeps o s1) : Keeps o (storeAdapter a0 s1) := by
  unfold storeAdapter
  repeat' first
    | (with_reducible apply keeps_mk; with_reducible assumption)
    | (extract_lets +onlyGivenNames x; clear_value x)
    | with_reducible apply makePending_keeps

theorem adapterLoad_keeps {o} {a0} {s1 : State} (h1 : Keeps o s1) : RanKeeps o (adapterLoad a0 s1) := by
  unfold adapterLoad
  repeat' first
    | with_reducible assumption
    | with_reducible apply storeAdapter_keeps
    | with_reducible apply ranKeeps_ok
    | split

theorem execAdapterLoad_keeps {o} {a0} {s1 : State} (h1 : Keeps o s1) : OutKeeps o (execAdapterLoad a0 s1) := by
  unfold execAdapterLoad
  repeat' first
    | with_reducible assumption
    | intro _
    | with_reducible apply runCommand_keeps
    | with_reducible apply adapterLoad_keeps
    | with_reducible apply outKeeps_next

theorem adapterRetire_keeps {o} {a0} {s1 : State} (h1 : Keeps o s1) : RanKeeps o (adapterRetire a0 s1) := by
  unfold adapterRetire
  repeat' first
    | (with_reducible apply keeps_mk; with_reducible assumption)
    | (extract_lets +onlyGivenNames x; clear_value x)
    | with_reducible apply ranKeeps_ok

theorem execAdapterRetire_keeps {o} {a0} {s1 : State} (h1 : Keeps o s1) : OutKeeps o (execAdapterRetire a0 s1) := by
  unfold execAdapterRetire
  repeat' first
    | with_reducible assumption
    | intro _
    | with_reducible apply runCommand_keeps
    | with_reducible apply adapterRetire_keeps
    | with_reducible apply outKeeps_next

theorem adapterQuery_keeps {o} {a0} {s1 : State} (h1 : Keeps o s1) : RanKeeps o (adapterQuery a0 s1) := by
  unfold adapterQuery
  repeat' first
    | with_reducible assumption
    | (extract_lets +onlyGivenNames x; clear_value x)
    | with_reducible apply ranKeeps_ok

theorem execAdapterQuery_keeps {o} {a0} {s1 : State} (h1 : Keeps o s1) : OutKeeps o (execAdapterQuery a0 s1) := by
  unfold execAdapterQuery
  repeat' first
    | with_reducible assumption
    | intro _
    | with_reducible apply runCommand_keeps
    | with_reducible apply adapterQuery_keeps
    | with_reducible apply outKeeps_next

theorem loopStart_keeps {o} {a0} {s1 : State} (h1 : Keeps o s1) : Keeps o (loopStart a0 s1) := by
  unfold loopStart
  repeat' first
    | with_reducible assumption
    | (with_reducible apply keeps_mk; with_reducible assumption)
    | (extract_lets +onlyGivenNames x; clear_value x)
    | split

theorem execProgramLoopStart_keeps {o} {a0} {s1 : State} (h1 : Keeps o s1) : OutKeeps o (execProgramLoopStart a0 s1) := by
  unfold execProgramLoopStart
  repeat' first
    | with_reducible assumption
    | with_reducible apply loopStart_keeps
    | with_reducible apply outKeeps_next

theorem setWrite_keeps {o} {a0} {a1} {s2 : State} (h2 : Keeps o s2) : Keeps o (setWrite a0 a1 s2) := by
  unfold setWrite
  repeat' first
    | (with_reducible apply keeps_mk; with_reducible assumption)

theorem rowDone_keeps {o} {a0} {a1} {a2} {s3 : State} (h3 : Keeps o s3) : Keeps o (rowDone a0 a1 a2 s3) := by
  unfold rowDone
  repeat' first
    | with_reducible assumption
    | (with_reducible apply keeps_mk; with_reducible assumption)
    | intro _
    | (extract_lets +onlyGivenNames x; refine keeps_with (o := o) (x := x) ?_ (fun hx => ?_); (on_goal 1 => (unfold x; clear x)); (on_goal 2 => clear_value x))
    | (extract_lets +onlyGivenNames x; clear_value x)
    | (extract_lets +onlyGivenNames x; have k := x; clear k)
    | with_reducible apply setWrite_keeps
    | with_reducible apply failElement_keeps
    | with_reducible apply keeps_foldl
    | split

theorem spareDone_keeps {o} {a0} {a1} {a2} {s3 : State} (h3 : Keeps o s3) : Keeps o (spareDone a0 a1 a2 s3) := by
  unfold spareDone
  repeat' first
    | with_reducible assumption
    | (with_reducible apply keeps_mk; with_reducible assumption)
    | (extract_lets +onlyGivenNames x; refine keeps_with (o := o) (x := x) ?_ (fun hx => ?_); (on_goal 1 => (unfold x; clear x)); (on_goal 2 => clear_value x))
    | (extract_lets +onlyGivenNames x; clear_value x)
    | with_reducible apply setWindow_keeps
    | split

theorem loopDone_keeps {o} {a0} {a1} {s2 : State} (h2 : Keeps o s2) : Keeps o (loopDone a0 a1 s2) := by
  unfold loopDone
  repeat' first
    | with_reducible assumption
    | (with_reducible apply keeps_mk; with_reducible assumption)
    | (extract_lets +onlyGivenNames x; refine keeps_with (o := o) (x := x) ?_ (fun hx => ?_); (on_goal 1 => (unfold x; clear x)); (on_goal 2 => clear_value x))
    | (extract_lets +onlyGivenNames x; clear_value x)
    | with_reducible apply rowDone_keeps
    | with_reducible apply spareDone_keeps
    | split

theorem execProgramLoopDone_keeps {o} {a0} {a1} {s2 : State} (h2 : Keeps o s2) : OutKeeps o (execProgramLoopDone a0 a1 s2) := by
  unfold execProgramLoopDone
  repeat' first
    | with_reducible assumption
    | with_reducible apply loopDone_keeps
    | with_reducible apply outKeeps_next

theorem dropWrite_keeps {o} {a0} {s1 : State} (h1 : Keeps o s1) : Keeps o (dropWrite a0 s1) := by
  unfold dropWrite
  repeat' first
    | (with_reducible apply keeps_mk; with_reducible assumption)

theorem bindDeck_keeps {o} {a0} {s1 : State} (h1 : Keeps o s1) : Keeps o (bindDeck a0 s1) := by
  unfold bindDeck
  repeat' first
    | with_reducible assumption
    | (with_reducible apply keeps_mk; with_reducible assumption)
    | (extract_lets +onlyGivenNames x; refine keeps_with (o := o) (x := x) ?_ (fun hx => ?_); (on_goal 1 => (unfold x; clear x)); (on_goal 2 => clear_value x))
    | (extract_lets +onlyGivenNames x; clear_value x)
    | (extract_lets +onlyGivenNames x; have k := x; clear k)
    | with_reducible apply setDeck_keeps
    | with_reducible apply setDir_keeps
    | with_reducible apply dropWrite_keeps
    | with_reducible apply tryEndInstall_keeps
    | with_reducible apply setInstall_keeps
    | with_reducible apply setHone_keeps
    | with_reducible apply spareReady_keeps
    | split

theorem postDeckFailed_keeps {o} {a0} {a1} {s2 : State} (h2 : Keeps o s2) : Keeps o (postDeckFailed a0 a1 s2) := by
  unfold postDeckFailed
  repeat' first
    | with_reducible assumption
    | with_reducible apply postEvent_keeps

theorem nextSpare_keeps {o} {a0} {s1 : State} (h1 : Keeps o s1) : Keeps o (nextSpare a0 s1) := by
  unfold nextSpare
  repeat' first
    | with_reducible assumption
    | (with_reducible apply keeps_mk; with_reducible assumption)
    | intro _
    | (extract_lets +onlyGivenNames x; refine keeps_with (o := o) (x := x) ?_ (fun hx => ?_); (on_goal 1 => (unfold x; clear x)); (on_goal 2 => clear_value x))
    | (extract_lets +onlyGivenNames x; clear_value x)
    | (extract_lets +onlyGivenNames x; have k := x; clear k)
    | with_reducible apply freeDeck_keeps
    | with_reducible apply prepare_keeps
    | (with_reducible apply freeBits_keeps'; case e => with_reducible assumption)
    | with_reducible apply postHoneDone_keeps
    | with_reducible apply setCore_keeps
    | with_reducible apply setMark_keeps
    | with_reducible apply complete_keeps
    | with_reducible apply keeps_foldl
    | split

theorem rewriteDeck_keeps {o} {a0} {s1 : State} (h1 : Keeps o s1) : Keeps o (rewriteDeck a0 s1) := by
  unfold rewriteDeck
  repeat' first
    | with_reducible assumption
    | (extract_lets +onlyGivenNames x; refine keeps_with (o := o) (x := x) ?_ (fun hx => ?_); (on_goal 1 => (unfold x; clear x)); (on_goal 2 => clear_value x))
    | (extract_lets +onlyGivenNames x; clear_value x)
    | (extract_lets +onlyGivenNames x; have k := x; clear k)
    | with_reducible apply beginDeck_keeps
    | with_reducible apply resetDrift_keeps
    | with_reducible apply setWrite_keeps

theorem restoreFailed_keeps {o} {a0} {a1} {s2 : State} (h2 : Keeps o s2) : Keeps o (restoreFailed a0 a1 s2) := by
  unfold restoreFailed
  repeat' first
    | with_reducible assumption
    | (extract_lets +onlyGivenNames x; refine keeps_with (o := o) (x := x) ?_ (fun hx => ?_); (on_goal 1 => (unfold x; clear x)); (on_goal 2 => clear_value x))
    | (extract_lets +onlyGivenNames x; clear_value x)
    | (extract_lets +onlyGivenNames x; have k := x; clear k)
    | with_reducible apply postDeckFailed_keeps
    | with_reducible apply freeDeck_keeps
    | with_reducible apply dropWrite_keeps
    | with_reducible apply failInstall_keeps
    | with_reducible apply chooseDeck_keeps
    | (apply optKeeps_eq; case e => with_reducible assumption)
    | with_reducible apply placeImage_keeps
    | split

theorem failDeck_keeps {o} {a0} {s1 : State} (h1 : Keeps o s1) : Keeps o (failDeck a0 s1) := by
  unfold failDeck
  repeat' first
    | with_reducible assumption
    | with_reducible apply rewriteDeck_keeps
    | with_reducible apply dropWrite_keeps
    | with_reducible apply restoreFailed_keeps
    | with_reducible apply failInstall_keeps
    | with_reducible apply postDeckFailed_keeps
    | with_reducible apply nextSpare_keeps
    | split

theorem probeStart_keeps {o} {a0} {s1 : State} (h1 : Keeps o s1) : Keeps o (probeStart a0 s1) := by
  unfold probeStart
  repeat' first
    | with_reducible assumption
    | (with_reducible apply keeps_mk; with_reducible assumption)
    | (extract_lets +onlyGivenNames x; refine keeps_with (o := o) (x := x) ?_ (fun hx => ?_); (on_goal 1 => (unfold x; clear x)); (on_goal 2 => clear_value x))
    | (extract_lets +onlyGivenNames x; clear_value x)
    | split

theorem execProbeReadStart_keeps {o} {a0} {s1 : State} (h1 : Keeps o s1) : OutKeeps o (execProbeReadStart a0 s1) := by
  unfold execProbeReadStart
  repeat' first
    | with_reducible assumption
    | with_reducible apply probeStart_keeps
    | with_reducible apply outKeeps_next

theorem observeProbe_keeps {o} {a0} {a1} {a2} {s3 : State} (h3 : Keeps o s3) : Keeps o (observeProbe a0 a1 a2 s3) := by
  unfold observeProbe
  repeat' first
    | with_reducible assumption
    | with_reducible apply observe_keeps
    | split

theorem factorProbe_keeps {o} {a0} {a1} {s2 : State} (h2 : Keeps o s2) : Keeps o (factorProbe a0 a1 s2) := by
  unfold factorProbe
  repeat' first
    | with_reducible assumption
    | (with_reducible apply keeps_mk; with_reducible assumption)
    | (extract_lets +onlyGivenNames x; refine keeps_with (o := o) (x := x) ?_ (fun hx => ?_); (on_goal 1 => (unfold x; clear x)); (on_goal 2 => clear_value x))
    | (extract_lets +onlyGivenNames x; clear_value x)
    | with_reducible apply observeProbe_keeps
    | with_reducible apply pushRequest_keeps
    | split

theorem printProbe_keeps {o} {a0} {a1} {a2} {s3 : State} (h3 : Keeps o s3) : Keeps o (printProbe a0 a1 a2 s3) := by
  unfold printProbe
  repeat' first
    | with_reducible assumption
    | (with_reducible apply keeps_mk; with_reducible assumption)
    | (extract_lets +onlyGivenNames x; refine keeps_with (o := o) (x := x) ?_ (fun hx => ?_); (on_goal 1 => (unfold x; clear x)); (on_goal 2 => clear_value x))
    | (extract_lets +onlyGivenNames x; clear_value x)
    | with_reducible apply observeProbe_keeps
    | with_reducible apply setWrite_keeps
    | with_reducible apply failDeck_keeps
    | with_reducible apply bindDeck_keeps
    | split

theorem spareProbe_keeps {o} {a0} {a1} {a2} {s3 : State} (h3 : Keeps o s3) : Keeps o (spareProbe a0 a1 a2 s3) := by
  unfold spareProbe
  repeat' first
    | with_reducible assumption
    | (with_reducible apply keeps_mk; with_reducible assumption)
    | (extract_lets +onlyGivenNames x; refine keeps_with (o := o) (x := x) ?_ (fun hx => ?_); (on_goal 1 => (unfold x; clear x)); (on_goal 2 => clear_value x))
    | (extract_lets +onlyGivenNames x; clear_value x)
    | (extract_lets +onlyGivenNames x; have k := x; clear k)
    | with_reducible apply observeProbe_keeps
    | with_reducible apply setWindow_keeps
    | with_reducible apply settle_keeps
    | with_reducible apply repairColumn_keeps
    | with_reducible apply failElement_keeps
    | split

theorem probeDone_keeps {o} {a0} {s1 : State} (h1 : Keeps o s1) : Keeps o (probeDone a0 s1) := by
  unfold probeDone
  repeat' first
    | with_reducible assumption
    | (with_reducible apply keeps_mk; with_reducible assumption)
    | (extract_lets +onlyGivenNames x; refine keeps_with (o := o) (x := x) ?_ (fun hx => ?_); (on_goal 1 => (unfold x; clear x)); (on_goal 2 => clear_value x))
    | (extract_lets +onlyGivenNames x; clear_value x)
    | (extract_lets +onlyGivenNames x; have k := x; clear k)
    | with_reducible apply endWarmups_keeps
    | with_reducible apply factorProbe_keeps
    | with_reducible apply printProbe_keeps
    | with_reducible apply spareProbe_keeps
    | split

theorem execProbeReadDone_keeps {o} {a0} {s1 : State} (h1 : Keeps o s1) : OutKeeps o (execProbeReadDone a0 s1) := by
  unfold execProbeReadDone
  repeat' first
    | with_reducible assumption
    | with_reducible apply probeDone_keeps
    | with_reducible apply outKeeps_next

theorem testArrays_keeps {o} {a0} {a1} {s2 : State} (h2 : Keeps o s2) : Keeps o (testArrays a0 a1 s2) := by
  unfold testArrays
  repeat' first
    | with_reducible assumption
    | intro _
    | (extract_lets +onlyGivenNames x; clear_value x)
    | with_reducible apply nextCounter_keeps
    | with_reducible apply keeps_foldl
    | split

theorem testStore_keeps {o} {a0} {a1} {s2 : State} (h2 : Keeps o s2) : Keeps o (testStore a0 a1 s2) := by
  unfold testStore
  exact putWords_keeps (keeps_mem h2 id id id id)

theorem honeTests_keeps {o} {a0} {a1} {a2} {s3 : State} (h3 : Keeps o s3) : Keeps o (honeTests a0 a1 a2 s3) := by
  unfold honeTests
  repeat' first
    | with_reducible assumption
    | (with_reducible apply keeps_mk; with_reducible assumption)
    | (extract_lets +onlyGivenNames x; refine keeps_with (o := o) (x := x) ?_ (fun hx => ?_); (on_goal 1 => (unfold x; clear x)); (on_goal 2 => clear_value x))
    | (extract_lets +onlyGivenNames x; clear_value x)
    | (extract_lets +onlyGivenNames x; have k := x; clear k)
    | with_reducible apply testArrays_keeps
    | with_reducible apply testStore_keeps
    | with_reducible apply postHoneDone_keeps
    | with_reducible apply setCore_keeps
    | split

theorem execHoneTestsDone_keeps {o} {a0} {a1} {a2} {s3 : State} (h3 : Keeps o s3) : OutKeeps o (execHoneTestsDone a0 a1 a2 s3) := by
  unfold execHoneTestsDone
  repeat' first
    | with_reducible assumption
    | with_reducible apply honeTests_keeps
    | with_reducible apply outKeeps_next

theorem refuseBusy_keeps {o} {s0 : State} (h0 : Keeps o s0) : RanKeeps o (refuseBusy s0) := by
  unfold refuseBusy
  repeat' first
    | (with_reducible apply keeps_mk; with_reducible assumption)
    | (extract_lets +onlyGivenNames x; clear_value x)
    | with_reducible apply ranKeeps_err

theorem queueSession_keeps {o} {a0} {s1 : State} (h1 : Keeps o s1) : Keeps o (queueSession a0 s1) := by
  unfold queueSession
  repeat' first
    | (with_reducible apply keeps_mk; with_reducible assumption)

theorem sessionOpen_keeps {o} {a0} {s1 : State} (h1 : Keeps o s1) : RanKeeps o (sessionOpen a0 s1) := by
  unfold sessionOpen
  repeat' first
    | with_reducible assumption
    | (extract_lets +onlyGivenNames x; refine keeps_with (o := o) (x := x) ?_ (fun hx => ?_); (on_goal 1 => (unfold x; clear x)); (on_goal 2 => clear_value x))
    | (extract_lets +onlyGivenNames x; clear_value x)
    | (extract_lets +onlyGivenNames x; have k := x; clear k)
    | with_reducible apply refuseBusy_keeps
    | with_reducible apply setSession_keeps
    | with_reducible apply queueSession_keeps
    | with_reducible apply ranKeeps_ok
    | with_reducible apply ranKeeps_err
    | split

theorem execSessionOpen_keeps {o} {a0} {s1 : State} (h1 : Keeps o s1) : OutKeeps o (execSessionOpen a0 s1) := by
  unfold execSessionOpen
  repeat' first
    | with_reducible assumption
    | intro _
    | with_reducible apply runCommand_keeps
    | with_reducible apply sessionOpen_keeps
    | with_reducible apply outKeeps_next

theorem sessionFeed_keeps {o} {a0} {s1 : State} (h1 : Keeps o s1) : RanKeeps o (sessionFeed a0 s1) := by
  unfold sessionFeed
  repeat' first
    | with_reducible assumption
    | (extract_lets +onlyGivenNames x; clear_value x)
    | (extract_lets +onlyGivenNames x; have k := x; clear k)
    | with_reducible apply refuseBusy_keeps
    | with_reducible apply queueSession_keeps
    | with_reducible apply setSession_keeps
    | with_reducible apply ranKeeps_ok
    | with_reducible apply ranKeeps_err
    | split

theorem execSessionFeed_keeps {o} {a0} {s1 : State} (h1 : Keeps o s1) : OutKeeps o (execSessionFeed a0 s1) := by
  unfold execSessionFeed
  repeat' first
    | with_reducible assumption
    | intro _
    | with_reducible apply runCommand_keeps
    | with_reducible apply sessionFeed_keeps
    | with_reducible apply outKeeps_next

theorem sessionClose_keeps {o} {a0} {s1 : State} (h1 : Keeps o s1) : RanKeeps o (sessionClose a0 s1) := by
  unfold sessionClose
  repeat' first
    | with_reducible assumption
    | (with_reducible apply keeps_mk; with_reducible assumption)
    | (extract_lets +onlyGivenNames x; refine keeps_with (o := o) (x := x) ?_ (fun hx => ?_); (on_goal 1 => (unfold x; clear x)); (on_goal 2 => clear_value x))
    | (extract_lets +onlyGivenNames x; clear_value x)
    | (extract_lets +onlyGivenNames x; have k := x; clear k)
    | with_reducible apply setSession_keeps
    | with_reducible apply complete_keeps
    | with_reducible apply ranKeeps_ok
    | with_reducible apply ranKeeps_err
    | with_reducible apply ranKeeps_later
    | split

theorem execSessionClose_keeps {o} {a0} {s1 : State} (h1 : Keeps o s1) : OutKeeps o (execSessionClose a0 s1) := by
  unfold execSessionClose
  repeat' first
    | with_reducible assumption
    | intro _
    | with_reducible apply runCommand_keeps
    | with_reducible apply sessionClose_keeps
    | with_reducible apply outKeeps_next

theorem sessionQuery_keeps {o} {a0} {s1 : State} (h1 : Keeps o s1) : RanKeeps o (sessionQuery a0 s1) := by
  unfold sessionQuery
  repeat' first
    | with_reducible assumption
    | with_reducible apply freeBits_keeps
    | with_reducible apply ranKeeps_ok
    | with_reducible apply ranKeeps_err
    | split

theorem execSessionQuery_keeps {o} {a0} {s1 : State} (h1 : Keeps o s1) : OutKeeps o (execSessionQuery a0 s1) := by
  unfold execSessionQuery
  repeat' first
    | with_reducible assumption
    | intro _
    | with_reducible apply runCommand_keeps
    | with_reducible apply sessionQuery_keeps
    | with_reducible apply outKeeps_next

theorem flushOrphans_keeps {o} {a0} {s1 : State} (h1 : Keeps o s1) : Keeps o (flushOrphans a0 s1) := by
  unfold flushOrphans
  repeat' first
    | with_reducible assumption
    | (with_reducible apply keeps_mk; with_reducible assumption)
    | intro _
    | (extract_lets +onlyGivenNames x; refine keeps_with (o := o) (x := x) ?_ (fun hx => ?_); (on_goal 1 => (unfold x; clear x)); (on_goal 2 => clear_value x))
    | (extract_lets +onlyGivenNames x; clear_value x)
    | with_reducible apply writeRecord_keeps
    | with_reducible apply keeps_foldl
    | split

theorem outqCreate_keeps {o} {a0} {s1 : State} (h1 : Keeps o s1) : RanKeeps o (outqCreate a0 s1) := by
  unfold outqCreate
  repeat' first
    | (with_reducible apply keeps_mk; with_reducible assumption)
    | (extract_lets +onlyGivenNames x; clear_value x)
    | (extract_lets +onlyGivenNames x; have k := x; clear k)
    | with_reducible apply flushOrphans_keeps
    | with_reducible apply ranKeeps_ok

theorem execOutqCreate_keeps {o} {a0} {s1 : State} (h1 : Keeps o s1) : OutKeeps o (execOutqCreate a0 s1) := by
  unfold execOutqCreate
  repeat' first
    | with_reducible assumption
    | intro _
    | with_reducible apply runCommand_keeps
    | with_reducible apply outqCreate_keeps
    | with_reducible apply outKeeps_next

theorem outqDelete_keeps {o} {a0} {s1 : State} (h1 : Keeps o s1) : RanKeeps o (outqDelete a0 s1) := by
  unfold outqDelete
  repeat' first
    | (with_reducible apply keeps_mk; with_reducible assumption)
    | (extract_lets +onlyGivenNames x; clear_value x)
    | with_reducible apply ranKeeps_ok

theorem execOutqDelete_keeps {o} {a0} {s1 : State} (h1 : Keeps o s1) : OutKeeps o (execOutqDelete a0 s1) := by
  unfold execOutqDelete
  repeat' first
    | with_reducible assumption
    | intro _
    | with_reducible apply runCommand_keeps
    | with_reducible apply outqDelete_keeps
    | with_reducible apply outKeeps_next

theorem tenantQuota_keeps {o} {a0} {s1 : State} (h1 : Keeps o s1) : RanKeeps o (tenantQuota a0 s1) := by
  unfold tenantQuota
  repeat' first
    | with_reducible assumption
    | (extract_lets +onlyGivenNames x; clear_value x)
    | (extract_lets +onlyGivenNames x; have k := x; clear k)
    | with_reducible apply randomBytes_keeps
    | with_reducible apply setQuota_keeps
    | with_reducible apply ranKeeps_ok
    | split

theorem execCtxTenantQuota_keeps {o} {a0} {s1 : State} (h1 : Keeps o s1) : OutKeeps o (execCtxTenantQuota a0 s1) := by
  unfold execCtxTenantQuota
  repeat' first
    | with_reducible assumption
    | intro _
    | with_reducible apply runCommand_keeps
    | with_reducible apply tenantQuota_keeps
    | with_reducible apply outKeeps_next

theorem coldArea_keeps {o} {a0} {s1 : State} (h1 : Keeps o s1) : RanKeeps o (coldArea a0 s1) := by
  unfold coldArea
  repeat' first
    | with_reducible assumption
    | (extract_lets +onlyGivenNames x; clear_value x)
    | (extract_lets +onlyGivenNames x; have k := x; clear k)
    | with_reducible apply setQuota_keeps
    | with_reducible apply ranKeeps_ok

theorem execCtxColdArea_keeps {o} {a0} {s1 : State} (h1 : Keeps o s1) : OutKeeps o (execCtxColdArea a0 s1) := by
  unfold execCtxColdArea
  repeat' first
    | with_reducible assumption
    | intro _
    | with_reducible apply runCommand_keeps
    | with_reducible apply coldArea_keeps
    | with_reducible apply outKeeps_next

theorem ctxCreate_keeps {o} {a0} {s1 : State} (h1 : Keeps o s1) : RanKeeps o (ctxCreate a0 s1) := by
  unfold ctxCreate
  repeat' first
    | with_reducible assumption
    | with_reducible apply setCtx_keeps
    | with_reducible apply ranKeeps_ok

theorem execCtxCreate_keeps {o} {a0} {s1 : State} (h1 : Keeps o s1) : OutKeeps o (execCtxCreate a0 s1) := by
  unfold execCtxCreate
  repeat' first
    | with_reducible assumption
    | intro _
    | with_reducible apply runCommand_keeps
    | with_reducible apply ctxCreate_keeps
    | with_reducible apply outKeeps_next

theorem ctxDelete_keeps {o} {a0} {s1 : State} (h1 : Keeps o s1) : RanKeeps o (ctxDelete a0 s1) := by
  unfold ctxDelete
  repeat' first
    | with_reducible assumption
    | (with_reducible apply keeps_mk; with_reducible assumption)
    | (extract_lets +onlyGivenNames x; refine keeps_with (o := o) (x := x) ?_ (fun hx => ?_); (on_goal 1 => (unfold x; clear x)); (on_goal 2 => clear_value x))
    | (extract_lets +onlyGivenNames x; clear_value x)
    | with_reducible apply setCtx_keeps
    | with_reducible apply ranKeeps_ok
    | with_reducible apply ranKeeps_err
    | split

theorem execCtxDelete_keeps {o} {a0} {s1 : State} (h1 : Keeps o s1) : OutKeeps o (execCtxDelete a0 s1) := by
  unfold execCtxDelete
  repeat' first
    | with_reducible assumption
    | intro _
    | with_reducible apply runCommand_keeps
    | with_reducible apply ctxDelete_keeps
    | with_reducible apply outKeeps_next

theorem ctxQuery_keeps {o} {a0} {s1 : State} (h1 : Keeps o s1) : RanKeeps o (ctxQuery a0 s1) := by
  unfold ctxQuery
  repeat' first
    | with_reducible assumption
    | (extract_lets +onlyGivenNames x; clear_value x)
    | with_reducible apply ranKeeps_ok
    | with_reducible apply ranKeeps_err
    | split

theorem execCtxQuery_keeps {o} {a0} {s1 : State} (h1 : Keeps o s1) : OutKeeps o (execCtxQuery a0 s1) := by
  unfold execCtxQuery
  repeat' first
    | with_reducible assumption
    | intro _
    | with_reducible apply runCommand_keeps
    | with_reducible apply ctxQuery_keeps
    | with_reducible apply outKeeps_next

theorem ctxExport_keeps {o} {a0} {s1 : State} (h1 : Keeps o s1) : RanKeeps o (ctxExport a0 s1) := by
  unfold ctxExport
  repeat' first
    | with_reducible assumption
    | with_reducible apply randomBytes_keeps
    | with_reducible apply writeData_keeps
    | with_reducible apply ranKeeps_ok
    | with_reducible apply ranKeeps_err
    | split

theorem execCtxExport_keeps {o} {a0} {s1 : State} (h1 : Keeps o s1) : OutKeeps o (execCtxExport a0 s1) := by
  unfold execCtxExport
  repeat' first
    | with_reducible assumption
    | intro _
    | with_reducible apply runCommand_keeps
    | with_reducible apply ctxExport_keeps
    | with_reducible apply outKeeps_next

theorem ctxImport_keeps {o} {a0} {s1 : State} (h1 : Keeps o s1) : RanKeeps o (ctxImport a0 s1) := by
  unfold ctxImport
  repeat' first
    | with_reducible assumption
    | (extract_lets +onlyGivenNames x; clear_value x)
    | (extract_lets +onlyGivenNames x; have k := x; clear k)
    | with_reducible apply setCtx_keeps
    | with_reducible apply ranKeeps_ok
    | with_reducible apply ranKeeps_err
    | split

theorem execCtxImport_keeps {o} {a0} {s1 : State} (h1 : Keeps o s1) : OutKeeps o (execCtxImport a0 s1) := by
  unfold execCtxImport
  repeat' first
    | with_reducible assumption
    | intro _
    | with_reducible apply runCommand_keeps
    | with_reducible apply ctxImport_keeps
    | with_reducible apply outKeeps_next

theorem consolidate_keeps {o} {a0} {s1 : State} (h1 : Keeps o s1) : RanKeeps o (consolidate a0 s1) := by
  unfold consolidate
  repeat' first
    | with_reducible assumption
    | (with_reducible apply keeps_mk; with_reducible assumption)
    | (extract_lets +onlyGivenNames x; refine keeps_with (o := o) (x := x) ?_ (fun hx => ?_); (on_goal 1 => (unfold x; clear x)); (on_goal 2 => clear_value x))
    | (extract_lets +onlyGivenNames x; clear_value x)
    | with_reducible apply setCtx_keeps
    | with_reducible apply ranKeeps_ok
    | with_reducible apply ranKeeps_err
    | split

theorem execCtxConsolidate_keeps {o} {a0} {s1 : State} (h1 : Keeps o s1) : OutKeeps o (execCtxConsolidate a0 s1) := by
  unfold execCtxConsolidate
  repeat' first
    | with_reducible assumption
    | intro _
    | with_reducible apply runCommand_keeps
    | with_reducible apply consolidate_keeps
    | with_reducible apply outKeeps_next

theorem jobCancel_keeps {o} {a0} {s1 : State} (h1 : Keeps o s1) : RanKeeps o (jobCancel a0 s1) := by
  unfold jobCancel
  repeat' first
    | with_reducible assumption
    | (extract_lets +onlyGivenNames x; refine keeps_with (o := o) (x := x) ?_ (fun hx => ?_); (on_goal 1 => (unfold x; clear x)); (on_goal 2 => clear_value x))
    | (extract_lets +onlyGivenNames x; have k := x; clear k)
    | with_reducible apply setCtx_keeps
    | with_reducible apply complete_keeps
    | with_reducible apply ranKeeps_err
    | with_reducible apply ranKeeps_later
    | split

theorem execCtxJobCancel_keeps {o} {a0} {s1 : State} (h1 : Keeps o s1) : OutKeeps o (execCtxJobCancel a0 s1) := by
  unfold execCtxJobCancel
  repeat' first
    | with_reducible assumption
    | intro _
    | with_reducible apply runCommand_keeps
    | with_reducible apply jobCancel_keeps
    | with_reducible apply outKeeps_next

end Sys2Proof.Machine
end

