-- ==== Sys2Proof/Laws/Keeps8.lean ====
section
/-!
SUPPORT. What commands of integrity, queues, SPDM and boot keep.
-/

namespace Sys2Proof.Machine

theorem policySet_keeps {o} {a0} {s1 : State} (h1 : Keeps o s1) : RanKeeps o (policySet a0 s1) := by
  unfold policySet
  repeat' first
    | (with_reducible apply keeps_mk; with_reducible assumption)
    | (extract_lets +onlyGivenNames x; clear_value x)
    | with_reducible apply ranKeeps_ok

theorem execIntegrityPolicySet_keeps {o} {a0} {s1 : State} (h1 : Keeps o s1) : OutKeeps o (execIntegrityPolicySet a0 s1) := by
  unfold execIntegrityPolicySet
  repeat' first
    | with_reducible assumption
    | intro _
    | with_reducible apply runCommand_keeps
    | with_reducible apply policySet_keeps
    | with_reducible apply outKeeps_next

theorem clearMark_keeps {o} {a0} {a1} {s2 : State} (h2 : Keeps o s2) : RanKeeps o (clearMark a0 a1 s2) := by
  unfold clearMark
  repeat' first
    | with_reducible assumption
    | (with_reducible apply keeps_mk; with_reducible assumption)
    | (extract_lets +onlyGivenNames x; clear_value x)
    | (extract_lets +onlyGivenNames x; have k := x; clear k)
    | with_reducible apply setCore_keeps
    | with_reducible apply unmark_keeps
    | with_reducible apply ranKeeps_ok
    | with_reducible apply ranKeeps_later
    | split

theorem honeRequest_keeps {o} {a0} {s1 : State} (h1 : Keeps o s1) : RanKeeps o (honeRequest a0 s1) := by
  unfold honeRequest
  extract_lets st core
  split
  · exact clearMark_keeps h1
  have k := startHone_keeps (a0 := some a0.tag) (a1 := st) (a2 := a0.at 42 2) (a3 := a0.at 44 1 == 1) (a4 := honeNamed a0) h1
  split
  · exact .err h1
  · rename_i hq
    rw [hq] at k
    exact .later k
  · rename_i hq
    rw [hq] at k
    exact .ok (keeps_mk k)

theorem execHoneRequest_keeps {o} {a0} {s1 : State} (h1 : Keeps o s1) : OutKeeps o (execHoneRequest a0 s1) := by
  unfold execHoneRequest
  repeat' first
    | with_reducible assumption
    | intro _
    | with_reducible apply runCommand_keeps
    | with_reducible apply honeRequest_keeps
    | with_reducible apply outKeeps_next

theorem honeStatus_keeps {o} {a0} {s1 : State} (h1 : Keeps o s1) : RanKeeps o (honeStatus a0 s1) := by
  unfold honeStatus
  repeat' first
    | with_reducible assumption
    | (extract_lets +onlyGivenNames x; clear_value x)
    | (extract_lets +onlyGivenNames x; have k := x; clear k)
    | with_reducible apply freeBits_keeps
    | with_reducible apply ranKeeps_ok
    | split

theorem execHoneStatus_keeps {o} {a0} {s1 : State} (h1 : Keeps o s1) : OutKeeps o (execHoneStatus a0 s1) := by
  unfold execHoneStatus
  repeat' first
    | with_reducible assumption
    | intro _
    | with_reducible apply runCommand_keeps
    | with_reducible apply honeStatus_keeps
    | with_reducible apply outKeeps_next

theorem integrityStats_keeps {o} {a0} {s1 : State} (h1 : Keeps o s1) : RanKeeps o (integrityStats a0 s1) := by
  unfold integrityStats
  repeat' first
    | with_reducible assumption
    | (extract_lets +onlyGivenNames x; clear_value x)
    | with_reducible apply ranKeeps_ok

theorem execIntegrityStats_keeps {o} {a0} {s1 : State} (h1 : Keeps o s1) : OutKeeps o (execIntegrityStats a0 s1) := by
  unfold execIntegrityStats
  repeat' first
    | with_reducible assumption
    | intro _
    | with_reducible apply runCommand_keeps
    | with_reducible apply integrityStats_keeps
    | with_reducible apply outKeeps_next

theorem bbRelease_keeps {o} {a0} {s1 : State} (h1 : Keeps o s1) : RanKeeps o (bbRelease a0 s1) := by
  unfold bbRelease
  repeat' first
    | (with_reducible apply keeps_mk; with_reducible assumption)
    | (extract_lets +onlyGivenNames x; clear_value x)
    | with_reducible apply ranKeeps_ok

theorem execBbRelease_keeps {o} {a0} {s1 : State} (h1 : Keeps o s1) : OutKeeps o (execBbRelease a0 s1) := by
  unfold execBbRelease
  repeat' first
    | with_reducible assumption
    | intro _
    | with_reducible apply runCommand_keeps
    | with_reducible apply bbRelease_keeps
    | with_reducible apply outKeeps_next

theorem postResolved_keeps {o} {a0} {a1} {s2 : State} (h2 : Keeps o s2) : Keeps o (postResolved a0 a1 s2) := by
  unfold postResolved
  repeat' first
    | with_reducible assumption
    | (extract_lets +onlyGivenNames x; clear_value x)
    | with_reducible apply postPlan_keeps

theorem replaceStep_keeps {o} {a0} {a1} {a2} {s3 : State} (h3 : Keeps o s3) : Keeps o (replaceStep a0 a1 a2 s3) := by
  unfold replaceStep
  repeat' first
    | with_reducible assumption
    | (with_reducible apply keeps_mk; with_reducible assumption)
    | intro _
    | (extract_lets +onlyGivenNames x; refine keeps_with (o := o) (x := x) ?_ (fun hx => ?_); (on_goal 1 => (unfold x; clear x)); (on_goal 2 => clear_value x))
    | (extract_lets +onlyGivenNames x; clear_value x)
    | (extract_lets +onlyGivenNames x; have k := x; clear k)
    | with_reducible apply setReplay_keeps
    | with_reducible apply markSuspect_keeps
    | with_reducible apply keeps_foldl

theorem resolveReplayStep_keeps {o} {a0} {a1} {a2} {s3 : State} (h3 : Keeps o s3) : Keeps o (resolveReplayStep a0 a1 a2 s3) := by
  unfold resolveReplayStep
  repeat' first
    | with_reducible assumption
    | (with_reducible apply keeps_mk; with_reducible assumption)
    | (extract_lets +onlyGivenNames x; refine keeps_with (o := o) (x := x) ?_ (fun hx => ?_); (on_goal 1 => (unfold x; clear x)); (on_goal 2 => clear_value x))
    | (extract_lets +onlyGivenNames x; clear_value x)
    | with_reducible apply setReplay_keeps
    | with_reducible apply replaceStep_keeps
    | with_reducible apply postResolved_keeps
    | split

theorem replayResult_keeps {o} {a0} {a1} {s2 : State} (h2 : Keeps o s2) : Keeps o (replayResult a0 a1 s2) := by
  unfold replayResult
  repeat' first
    | with_reducible assumption
    | with_reducible apply setReplay_keeps
    | with_reducible apply returnResult_keeps
    | with_reducible apply resolveReplayStep_keeps
    | split

theorem execReplayResult_keeps {o} {a0} {a1} {s2 : State} (h2 : Keeps o s2) : OutKeeps o (execReplayResult a0 a1 s2) := by
  unfold execReplayResult
  repeat' first
    | with_reducible assumption
    | with_reducible apply replayResult_keeps
    | with_reducible apply outKeeps_next

theorem replayExpiry_keeps {o} {a0} {s1 : State} (h1 : Keeps o s1) : Keeps o (replayExpiry a0 s1) := by
  unfold replayExpiry
  repeat' first
    | with_reducible assumption
    | (with_reducible apply keeps_mk; with_reducible assumption)
    | (extract_lets +onlyGivenNames x; refine keeps_with (o := o) (x := x) ?_ (fun hx => ?_); (on_goal 1 => (unfold x; clear x)); (on_goal 2 => clear_value x))
    | (extract_lets +onlyGivenNames x; clear_value x)
    | (extract_lets +onlyGivenNames x; have k := x; clear k)
    | with_reducible apply postPlan_keeps
    | with_reducible apply discardTail_keeps
    | split

theorem execReplayWaitExpiry_keeps {o} {a0} {s1 : State} (h1 : Keeps o s1) : OutKeeps o (execReplayWaitExpiry a0 s1) := by
  unfold execReplayWaitExpiry
  repeat' first
    | with_reducible assumption
    | with_reducible apply replayExpiry_keeps
    | with_reducible apply outKeeps_next

theorem freezeBox_keeps {o} {a0} {s1 : State} (h1 : Keeps o s1) : Keeps o (freezeBox a0 s1) := by
  unfold freezeBox
  repeat' first
    | (with_reducible apply keeps_mk; with_reducible assumption)

theorem haltAll_keeps {o} {s0 : State} (h0 : Keeps o s0) : Keeps o (haltAll s0) := by
  unfold haltAll
  repeat' first
    | with_reducible assumption
    | intro _
    | with_reducible apply abandonPlan_keeps
    | with_reducible apply haltPlan_keeps
    | with_reducible apply keeps_foldl
    | split

theorem dropReplays_keeps {o} {s0 : State} (h0 : Keeps o s0) : Keeps o (dropReplays s0) := by
  unfold dropReplays
  repeat' first
    | with_reducible assumption
    | (with_reducible apply keeps_mk; with_reducible assumption)
    | intro _
    | (extract_lets +onlyGivenNames x; clear_value x)
    | (extract_lets +onlyGivenNames x; have k := x; clear k)
    | with_reducible apply sweepServed_keeps
    | with_reducible apply discardTail_keeps
    | with_reducible apply keeps_foldl

theorem zeroize_keeps {o} {s0 : State} (h0 : Keeps o s0) : Keeps o (zeroize s0) := by
  unfold zeroize
  repeat' first
    | (with_reducible apply keeps_mk; with_reducible assumption)

theorem idlePorts_keeps {o} {s0 : State} (h0 : Keeps o s0) : Keeps o (idlePorts s0) := by
  unfold idlePorts
  repeat' first
    | (with_reducible apply keeps_mk; with_reducible assumption)

theorem diagSnapshot_keeps {o} {a0} {s1 : State} (h1 : Keeps o s1) : RanKeeps o (diagSnapshot a0 s1) := by
  unfold diagSnapshot
  repeat' first
    | (with_reducible apply keeps_mk; with_reducible assumption)
    | (extract_lets +onlyGivenNames x; clear_value x)
    | with_reducible apply ranKeeps_ok

theorem execDiagSnapshot_keeps {o} {a0} {s1 : State} (h1 : Keeps o s1) : OutKeeps o (execDiagSnapshot a0 s1) := by
  unfold execDiagSnapshot
  repeat' first
    | with_reducible assumption
    | intro _
    | with_reducible apply runCommand_keeps
    | with_reducible apply diagSnapshot_keeps
    | with_reducible apply outKeeps_next

theorem commandFetch_keeps {o} {a0} {a1} {s2 : State} (h2 : Keeps o s2) : Keeps o (commandFetch a0 a1 s2) := by
  unfold commandFetch
  repeat' first
    | with_reducible assumption
    | (with_reducible apply keeps_mk; with_reducible assumption)
    | (extract_lets +onlyGivenNames x; clear_value x)
    | split

theorem execCommandFetch_keeps {o} {a0} {a1} {s2 : State} (h2 : Keeps o s2) : OutKeeps o (execCommandFetch a0 a1 s2) := by
  unfold execCommandFetch
  repeat' first
    | with_reducible assumption
    | with_reducible apply commandFetch_keeps
    | with_reducible apply outKeeps_next

theorem unknownOpcode_keeps {o} {a0} {s1 : State} (h1 : Keeps o s1) : Keeps o (unknownOpcode a0 s1) := by
  unfold unknownOpcode
  repeat' first
    | with_reducible assumption
    | (with_reducible apply gate_keeps'; case e => with_reducible assumption)
    | with_reducible apply markBegun_keeps
    | with_reducible apply complete_keeps
    | split

theorem execUnknownOpcode_keeps {o} {a0} {s1 : State} (h1 : Keeps o s1) : OutKeeps o (execUnknownOpcode a0 s1) := by
  unfold execUnknownOpcode
  repeat' first
    | with_reducible assumption
    | with_reducible apply unknownOpcode_keeps
    | with_reducible apply outKeeps_next

theorem cqCreate_keeps {o} {a0} {s1 : State} (h1 : Keeps o s1) : RanKeeps o (cqCreate a0 s1) := by
  unfold cqCreate
  repeat' first
    | (with_reducible apply keeps_mk; with_reducible assumption)
    | (extract_lets +onlyGivenNames x; clear_value x)
    | with_reducible apply ranKeeps_ok

theorem execCqCreate_keeps {o} {a0} {s1 : State} (h1 : Keeps o s1) : OutKeeps o (execCqCreate a0 s1) := by
  unfold execCqCreate
  repeat' first
    | with_reducible assumption
    | intro _
    | with_reducible apply runCommand_keeps
    | with_reducible apply cqCreate_keeps
    | with_reducible apply outKeeps_next

theorem sqCreate_keeps {o} {a0} {s1 : State} (h1 : Keeps o s1) : RanKeeps o (sqCreate a0 s1) := by
  unfold sqCreate
  repeat' first
    | (with_reducible apply keeps_mk; with_reducible assumption)
    | (extract_lets +onlyGivenNames x; clear_value x)
    | with_reducible apply ranKeeps_ok

theorem execSqCreate_keeps {o} {a0} {s1 : State} (h1 : Keeps o s1) : OutKeeps o (execSqCreate a0 s1) := by
  unfold execSqCreate
  repeat' first
    | with_reducible assumption
    | intro _
    | with_reducible apply runCommand_keeps
    | with_reducible apply sqCreate_keeps
    | with_reducible apply outKeeps_next

theorem evqCreate_keeps {o} {a0} {s1 : State} (h1 : Keeps o s1) : RanKeeps o (evqCreate a0 s1) := by
  unfold evqCreate
  repeat' first
    | (with_reducible apply keeps_mk; with_reducible assumption)
    | (extract_lets +onlyGivenNames x; clear_value x)
    | with_reducible apply ranKeeps_ok

theorem execEvqCreate_keeps {o} {a0} {s1 : State} (h1 : Keeps o s1) : OutKeeps o (execEvqCreate a0 s1) := by
  unfold execEvqCreate
  repeat' first
    | with_reducible assumption
    | intro _
    | with_reducible apply runCommand_keeps
    | with_reducible apply evqCreate_keeps
    | with_reducible apply outKeeps_next

theorem dropBell_keeps {o} {a0} {a1} {s2 : State} (h2 : Keeps o s2) : Keeps o (dropBell a0 a1 s2) := by
  unfold dropBell
  repeat' first
    | (with_reducible apply keeps_mk; with_reducible assumption)

theorem queueDelete_keeps {o} {a0} {s1 : State} (h1 : Keeps o s1) : RanKeeps o (queueDelete a0 s1) := by
  unfold queueDelete
  repeat' first
    | with_reducible assumption
    | (with_reducible apply keeps_mk; with_reducible assumption)
    | (extract_lets +onlyGivenNames x; refine keeps_with (o := o) (x := x) ?_ (fun hx => ?_); (on_goal 1 => (unfold x; clear x)); (on_goal 2 => clear_value x))
    | (extract_lets +onlyGivenNames x; clear_value x)
    | (extract_lets +onlyGivenNames x; have k := x; clear k)
    | with_reducible apply dropBell_keeps
    | with_reducible apply ranKeeps_ok
    | with_reducible apply ranKeeps_later
    | split

theorem execQueueDelete_keeps {o} {a0} {s1 : State} (h1 : Keeps o s1) : OutKeeps o (execQueueDelete a0 s1) := by
  unfold execQueueDelete
  repeat' first
    | with_reducible assumption
    | intro _
    | with_reducible apply runCommand_keeps
    | with_reducible apply queueDelete_keeps
    | with_reducible apply outKeeps_next

theorem identify_keeps {o} {a0} {s1 : State} (h1 : Keeps o s1) : RanKeeps o (identify a0 s1) := by
  unfold identify
  repeat' first
    | with_reducible assumption
    | with_reducible apply writeData_keeps
    | with_reducible apply ranKeeps_ok

theorem execIdentify_keeps {o} {a0} {s1 : State} (h1 : Keeps o s1) : OutKeeps o (execIdentify a0 s1) := by
  unfold execIdentify
  repeat' first
    | with_reducible assumption
    | intro _
    | with_reducible apply runCommand_keeps
    | with_reducible apply identify_keeps
    | with_reducible apply outKeeps_next

theorem postFault_keeps {o} {a0} {a1} {a2} {a3} {s4 : State} (h4 : Keeps o s4) : Keeps o (postFault a0 a1 a2 a3 s4) := by
  unfold postFault
  repeat' first
    | with_reducible assumption
    | with_reducible apply setHostFlag_keeps
    | with_reducible apply postEvent_keeps

theorem adminFault_keeps {o} {a0} {s1 : State} (h1 : Keeps o s1) : Keeps o (adminFault a0 s1) := by
  unfold adminFault
  repeat' first
    | with_reducible assumption
    | (with_reducible apply keeps_mk; with_reducible assumption)
    | (extract_lets +onlyGivenNames x; clear_value x)
    | split

theorem ringFault_keeps {o} {a0} {a1} {a2} {s3 : State} (h3 : Keeps o s3) : Keeps o (ringFault a0 a1 a2 s3) := by
  unfold ringFault
  repeat' first
    | with_reducible assumption
    | (with_reducible apply keeps_mk; with_reducible assumption)
    | (extract_lets +onlyGivenNames x; clear_value x)
    | (extract_lets +onlyGivenNames x; have k := x; clear k)
    | with_reducible apply postFault_keeps
    | with_reducible apply adminFault_keeps
    | split

theorem commandFault_keeps {o} {a0} {s1 : State} (h1 : Keeps o s1) : Keeps o (commandFault a0 s1) := by
  unfold commandFault
  repeat' first
    | with_reducible assumption
    | with_reducible apply failInstall_keeps
    | with_reducible apply complete_keeps
    | split

theorem recordFault_keeps {o} {a0} {a1} {s2 : State} (h2 : Keeps o s2) : Keeps o (recordFault a0 a1 s2) := by
  unfold recordFault
  repeat' first
    | with_reducible assumption
    | (with_reducible apply keeps_mk; with_reducible assumption)
    | (extract_lets +onlyGivenNames x; clear_value x)
    | with_reducible apply postFault_keeps
    | split

theorem accessFault_keeps {o} {a0} {s1 : State} (h1 : Keeps o s1) : Keeps o (accessFault a0 s1) := by
  unfold accessFault
  repeat' first
    | with_reducible assumption
    | with_reducible apply ringFault_keeps
    | with_reducible apply recordFault_keeps
    | with_reducible apply commandFault_keeps
    | split

theorem execHostAccessFault_keeps {o} {a0} {s1 : State} (h1 : Keeps o s1) : OutKeeps o (execHostAccessFault a0 s1) := by
  unfold execHostAccessFault
  repeat' first
    | with_reducible assumption
    | with_reducible apply accessFault_keeps
    | with_reducible apply outKeeps_next

theorem functionReset_keeps {o} {a0} {s1 : State} (h1 : Keeps o s1) : Keeps o (functionReset a0 s1) := by
  unfold functionReset
  repeat' first
    | with_reducible assumption
    | (with_reducible apply keeps_mk; with_reducible assumption)
    | (extract_lets +onlyGivenNames x; clear_value x)
    | (extract_lets +onlyGivenNames x; have k := x; clear k)
    | with_reducible apply finishAdmin_keeps
    | with_reducible apply finishDeletes_keeps
    | split

theorem execFunctionLevelReset_keeps {o} {a0} {s1 : State} (h1 : Keeps o s1) : OutKeeps o (execFunctionLevelReset a0 s1) := by
  unfold execFunctionLevelReset
  repeat' first
    | with_reducible assumption
    | with_reducible apply functionReset_keeps
    | with_reducible apply outKeeps_next

theorem configRequest_keeps {o} {a0} {s1 : State} (h1 : Keeps o s1) : Keeps o (configRequest a0 s1) := by
  unfold configRequest
  repeat' first
    | with_reducible assumption
    | (with_reducible apply keeps_mk; with_reducible assumption)
    | (extract_lets +onlyGivenNames x; clear_value x)
    | split

theorem execConfigRequest_keeps {o} {a0} {s1 : State} (h1 : Keeps o s1) : OutKeeps o (execConfigRequest a0 s1) := by
  unfold execConfigRequest
  repeat' first
    | with_reducible assumption
    | with_reducible apply configRequest_keeps
    | with_reducible apply outKeeps_next

theorem startMonitors_keeps {o} {a0} {s1 : State} (h1 : Keeps o s1) : Keeps o (startMonitors a0 s1) := by
  unfold startMonitors
  repeat' first
    | with_reducible assumption
    | intro _
    | with_reducible apply setMon_keeps
    | with_reducible apply keeps_foldl

theorem endTables_keeps {o} {a0} {s1 : State} (h1 : Keeps o s1) : Keeps o (endTables a0 s1) := by
  unfold endTables
  repeat' first
    | with_reducible assumption
    | intro _
    | with_reducible apply complete_keeps
    | with_reducible apply keeps_foldl
    | split

theorem endClears_keeps {o} {a0} {s1 : State} (h1 : Keeps o s1) : Keeps o (endClears a0 s1) := by
  unfold endClears
  repeat' first
    | with_reducible assumption
    | (with_reducible apply keeps_mk; with_reducible assumption)
    | intro _
    | (extract_lets +onlyGivenNames x; clear_value x)
    | (extract_lets +onlyGivenNames x; have k := x; clear k)
    | with_reducible apply complete_keeps
    | with_reducible apply keeps_foldl

theorem resetStack_keeps {o} {s0 : State} {a1} (h0 : Keeps o s0) : Keeps o (resetStack s0 a1) := by
  unfold resetStack
  repeat' first
    | with_reducible assumption
    | (with_reducible apply keeps_mk; with_reducible assumption)
    | (extract_lets +onlyGivenNames x; refine keeps_with (o := o) (x := x) ?_ (fun hx => ?_); (on_goal 1 => (unfold x; clear x)); (on_goal 2 => clear_value x))
    | with_reducible apply clearStack_keeps
    | with_reducible apply endClears_keeps
    | with_reducible apply endTables_keeps

theorem stackReset_keeps {o} {a0} {s1 : State} (h1 : Keeps o s1) : RanKeeps o (stackReset a0 s1) := by
  unfold stackReset
  repeat' first
    | with_reducible assumption
    | (with_reducible apply keeps_mk; with_reducible assumption)
    | intro _
    | (extract_lets +onlyGivenNames x; refine keeps_with (o := o) (x := x) ?_ (fun hx => ?_); (on_goal 1 => (unfold x; clear x)); (on_goal 2 => clear_value x))
    | (extract_lets +onlyGivenNames x; clear_value x)
    | (extract_lets +onlyGivenNames x; have k := x; clear k)
    | with_reducible apply resetStack_keeps
    | with_reducible apply keeps_foldl
    | with_reducible apply ranKeeps_later

theorem execStackReset_keeps {o} {a0} {s1 : State} (h1 : Keeps o s1) : OutKeeps o (execStackReset a0 s1) := by
  unfold execStackReset
  repeat' first
    | with_reducible assumption
    | intro _
    | with_reducible apply runCommand_keeps
    | with_reducible apply stackReset_keeps
    | with_reducible apply outKeeps_next

theorem stackResetDone_keeps {o} {s0 : State} (h0 : Keeps o s0) : Keeps o (stackResetDone s0) := by
  unfold stackResetDone
  repeat' first
    | with_reducible assumption
    | (with_reducible apply keeps_mk; with_reducible assumption)
    | (extract_lets +onlyGivenNames x; refine keeps_with (o := o) (x := x) ?_ (fun hx => ?_); (on_goal 1 => (unfold x; clear x)); (on_goal 2 => clear_value x))
    | (extract_lets +onlyGivenNames x; clear_value x)
    | with_reducible apply startMonitors_keeps
    | with_reducible apply complete_keeps
    | split

theorem execStackResetDone_keeps {o} {s0 : State} (h0 : Keeps o s0) : OutKeeps o (execStackResetDone s0) := by
  unfold execStackResetDone
  repeat' first
    | with_reducible assumption
    | with_reducible apply stackResetDone_keeps
    | with_reducible apply outKeeps_next

theorem setSpdm_keeps {o} {a0} {a1} {s2 : State} (h2 : Keeps o s2) : Keeps o (setSpdm a0 a1 s2) := by
  unfold setSpdm
  repeat' first
    | (with_reducible apply keeps_mk; with_reducible assumption)

theorem spdmSend_keeps {o} {a0} {a1} {a2} {s3 : State} (h3 : Keeps o s3) : Keeps o (spdmSend a0 a1 a2 s3) := by
  unfold spdmSend
  repeat' first
    | (with_reducible apply keeps_mk; with_reducible assumption)

theorem spdmAnswer_keeps {o} {a0} {a1} {a2} {a3} {s4 : State} (h4 : Keeps o s4) : Keeps o (spdmAnswer a0 a1 a2 a3 s4) := by
  unfold spdmAnswer
  repeat' first
    | with_reducible assumption
    | (extract_lets +onlyGivenNames x; refine keeps_with (o := o) (x := x.2) ?_ (fun hx => ?_); (on_goal 1 => (unfold x; clear x)); (on_goal 2 => clear_value x))
    | with_reducible apply fresh_keeps
    | with_reducible apply spdmSend_keeps

theorem spdmError_keeps {o} {a0} {a1} {s2 : State} (h2 : Keeps o s2) : Keeps o (spdmError a0 a1 s2) := by
  unfold spdmError
  repeat' first
    | with_reducible assumption
    | with_reducible apply spdmSend_keeps

theorem spdmRequest_keeps {o} {a0} {a1} {a2} {a3} {a4} {s5 : State} (h4 : ∀ z0 t0, Keeps o t0 → Keeps o (a4 z0 t0)) (h5 : Keeps o s5) : Keeps o (spdmRequest a0 a1 a2 a3 a4 s5) := by
  unfold spdmRequest
  repeat' first
    | with_reducible assumption
    | with_reducible apply h4
    | with_reducible apply spdmError_keeps
    | split

theorem execSpdmGetVersion_keeps {o} {a0} {a1} {s2 : State} (h2 : Keeps o s2) : OutKeeps o (execSpdmGetVersion a0 a1 s2) := by
  unfold execSpdmGetVersion
  repeat' first
    | with_reducible assumption
    | intro _
    | with_reducible apply spdmRequest_keeps
    | with_reducible apply spdmAnswer_keeps
    | with_reducible apply setSpdm_keeps
    | with_reducible apply outKeeps_next

theorem execSpdmGetCapabilities_keeps {o} {a0} {a1} {s2 : State} (h2 : Keeps o s2) : OutKeeps o (execSpdmGetCapabilities a0 a1 s2) := by
  unfold execSpdmGetCapabilities
  repeat' first
    | with_reducible assumption
    | intro _
    | (extract_lets +onlyGivenNames x; clear_value x)
    | (extract_lets +onlyGivenNames x; have k := x; clear k)
    | with_reducible apply spdmRequest_keeps
    | with_reducible apply spdmError_keeps
    | with_reducible apply freeBits_keeps
    | with_reducible apply spdmAnswer_keeps
    | with_reducible apply setSpdm_keeps
    | with_reducible apply outKeeps_next
    | split

theorem execSpdmNegotiateAlgorithms_keeps {o} {a0} {a1} {s2 : State} (h2 : Keeps o s2) : OutKeeps o (execSpdmNegotiateAlgorithms a0 a1 s2) := by
  unfold execSpdmNegotiateAlgorithms
  repeat' first
    | with_reducible assumption
    | intro _
    | with_reducible apply spdmRequest_keeps
    | with_reducible apply spdmSend_keeps
    | with_reducible apply setSpdm_keeps
    | with_reducible apply outKeeps_next

theorem execSpdmGetDigests_keeps {o} {a0} {a1} {s2 : State} (h2 : Keeps o s2) : OutKeeps o (execSpdmGetDigests a0 a1 s2) := by
  unfold execSpdmGetDigests
  repeat' first
    | with_reducible assumption
    | intro _
    | with_reducible apply spdmRequest_keeps
    | with_reducible apply spdmAnswer_keeps
    | with_reducible apply outKeeps_next

theorem execSpdmGetCertificate_keeps {o} {a0} {a1} {s2 : State} (h2 : Keeps o s2) : OutKeeps o (execSpdmGetCertificate a0 a1 s2) := by
  unfold execSpdmGetCertificate
  repeat' first
    | with_reducible assumption
    | intro _
    | (extract_lets +onlyGivenNames x; clear_value x)
    | with_reducible apply spdmRequest_keeps
    | with_reducible apply spdmError_keeps
    | with_reducible apply spdmSend_keeps
    | with_reducible apply outKeeps_next
    | split

theorem execSpdmChallenge_keeps {o} {a0} {a1} {s2 : State} (h2 : Keeps o s2) : OutKeeps o (execSpdmChallenge a0 a1 s2) := by
  unfold execSpdmChallenge
  repeat' first
    | with_reducible assumption
    | intro _
    | with_reducible apply spdmRequest_keeps
    | with_reducible apply spdmError_keeps
    | with_reducible apply spdmAnswer_keeps
    | with_reducible apply outKeeps_next
    | split

theorem execSpdmGetMeasurements_keeps {o} {a0} {a1} {s2 : State} (h2 : Keeps o s2) : OutKeeps o (execSpdmGetMeasurements a0 a1 s2) := by
  unfold execSpdmGetMeasurements
  repeat' first
    | with_reducible assumption
    | intro _
    | (extract_lets +onlyGivenNames x; clear_value x)
    | (extract_lets +onlyGivenNames x; have k := x; clear k)
    | with_reducible apply spdmRequest_keeps
    | with_reducible apply spdmError_keeps
    | with_reducible apply spdmAnswer_keeps
    | with_reducible apply outKeeps_next
    | split

theorem execSpdmKeyExchange_keeps {o} {a0} {a1} {s2 : State} (h2 : Keeps o s2) : OutKeeps o (execSpdmKeyExchange a0 a1 s2) := by
  unfold execSpdmKeyExchange
  repeat' first
    | with_reducible assumption
    | intro _
    | with_reducible apply spdmRequest_keeps
    | with_reducible apply spdmError_keeps
    | with_reducible apply freeBits_keeps
    | with_reducible apply fresh_keeps
    | with_reducible apply spdmAnswer_keeps
    | with_reducible apply setSpdm_keeps
    | with_reducible apply outKeeps_next
    | split

theorem securedRequest_keeps {o} {a0} {a1} {a2} {a3} {a4} {s5 : State} (h4 : ∀ z0 z1 t0, Keeps o t0 → Keeps o (a4 z0 z1 t0)) (h5 : Keeps o s5) : Keeps o (securedRequest a0 a1 a2 a3 a4 s5) := by
  unfold securedRequest
  repeat' first
    | with_reducible assumption
    | (extract_lets +onlyGivenNames x; clear_value x)
    | with_reducible apply h4
    | with_reducible apply spdmError_keeps
    | split

theorem execSpdmFinish_keeps {o} {a0} {a1} {s2 : State} (h2 : Keeps o s2) : OutKeeps o (execSpdmFinish a0 a1 s2) := by
  unfold execSpdmFinish
  repeat' first
    | with_reducible assumption
    | intro _
    | with_reducible apply securedRequest_keeps
    | with_reducible apply spdmAnswer_keeps
    | with_reducible apply setSpdm_keeps
    | with_reducible apply outKeeps_next

theorem execSpdmHeartbeat_keeps {o} {a0} {a1} {s2 : State} (h2 : Keeps o s2) : OutKeeps o (execSpdmHeartbeat a0 a1 s2) := by
  unfold execSpdmHeartbeat
  repeat' first
    | with_reducible assumption
    | intro _
    | with_reducible apply securedRequest_keeps
    | with_reducible apply spdmAnswer_keeps
    | with_reducible apply outKeeps_next

theorem execSpdmKeyUpdate_keeps {o} {a0} {a1} {s2 : State} (h2 : Keeps o s2) : OutKeeps o (execSpdmKeyUpdate a0 a1 s2) := by
  unfold execSpdmKeyUpdate
  repeat' first
    | with_reducible assumption
    | intro _
    | with_reducible apply securedRequest_keeps
    | with_reducible apply fresh_keeps
    | with_reducible apply spdmAnswer_keeps
    | with_reducible apply setSpdm_keeps
    | with_reducible apply outKeeps_next

theorem execSpdmEndSession_keeps {o} {a0} {a1} {s2 : State} (h2 : Keeps o s2) : OutKeeps o (execSpdmEndSession a0 a1 s2) := by
  unfold execSpdmEndSession
  repeat' first
    | with_reducible assumption
    | intro _
    | with_reducible apply securedRequest_keeps
    | with_reducible apply spdmAnswer_keeps
    | with_reducible apply setSpdm_keeps
    | with_reducible apply outKeeps_next

theorem ideRequest_keeps {o} {a0} {s1 : State} (h1 : Keeps o s1) : Keeps o (ideRequest a0 s1) := by
  unfold ideRequest
  repeat' first
    | with_reducible assumption
    | (with_reducible apply keeps_mk; with_reducible assumption)
    | (extract_lets +onlyGivenNames x; clear_value x)
    | split

theorem execSpdmVendorDefinedRequest_keeps {o} {a0} {a1} {s2 : State} (h2 : Keeps o s2) : OutKeeps o (execSpdmVendorDefinedRequest a0 a1 s2) := by
  unfold execSpdmVendorDefinedRequest
  repeat' first
    | with_reducible assumption
    | intro _
    | with_reducible apply securedRequest_keeps
    | with_reducible apply spdmError_keeps
    | with_reducible apply spdmAnswer_keeps
    | with_reducible apply ideRequest_keeps
    | with_reducible apply outKeeps_next
    | split

end Sys2Proof.Machine
end

