-- ==== Sys2Proof/Tests/Slice0.lean ====
section
/-!
SUPPORT. Tests of the model: an ill-formed command for each check of WellFormed, and for each statement of
Certificates/Slice0/Obligations.lean states and operands that meet its hypotheses.
-/

namespace Sys2Proof.Tests

open Sys2Proof Sys2Proof.Machine

set_option Elab.async false

/-! ### States and packets -/

/-- A command packet (R474): opcode, tenant, inline bytes, lengths of the parameter block and of the data. -/
def pkt (op tenant : Nat) (inl : Bytes) (paramLen dataLen : Nat := 0) : Bytes :=
  le 2 op ++ [0#8, 1#8] ++ le 4 7 ++ le 2 tenant ++ zeros 2 ++ le 4 paramLen ++ le 8 (if paramLen = 0 then 0 else 4096) ++
    le 8 (if dataLen = 0 then 0 else 8192) ++ le 8 dataLen ++ padTo 24 inl

/-- Running firmware with an admin pair of 16 entries (R459, R460). -/
def up : State :=
  { State.reset with
    phys := { Phys.reset with state := 3, bootState := 4 }
    bar := { Bar.reset with asqExp := 4, acqExp := 4, enable := true, active := true }
    host := { Queues.reset with
      sqs := [(0, some ⟨0, 4, 0, 0, 1, 1, false⟩)]
      cqs := [(0, some ⟨4096, 4, 0, 0, 0, true, false⟩)] } }

/-- A state whose tag 0 is a packet fetched from the admin queue. -/
def held (p : Bytes) (s : State) : State :=
  { s with host := { s.host with fetched := [(0, some ⟨0, 0, 0, p, 1, false, false⟩)] } }

/-- Whether the command at tag 0 begins, passes steps 1 to 4 of R475 and those checks of its own that `keep` keeps. -/
def beginsWith (keep : Check → Bool) (op : Nat) (checks : Cmd → State → List Check) (c : CmdIn) (s : State) : Bool :=
  match tget none s.host.fetched c.tag with
  | none => false
  | some f =>
    let g := gate f c (markBegun c.tag f s)
    !f.begun && opcodeOf f.raw == op && mayBegin s c.tag f && g.2.isNone &&
      (firstFail ((checks ⟨c.tag, f, c.param, c.data, needsTag f.raw f.fn g.1⟩ g.1).filter keep)).isNone

theorem beginsWith_sound {keep op checks c s} (h : beginsWith keep op checks c s = true) :
    ∃ cmd t, Begins op c s cmd t ∧ firstFail ((checks cmd t).filter keep) = none := by
  unfold beginsWith at h
  split at h
  · cases h
  · rename_i f hf
    simp only [Bool.and_eq_true, Bool.not_eq_true', beq_iff_eq, Option.isNone_iff_eq_none] at h
    obtain ⟨⟨⟨⟨h1, h2⟩, h3⟩, h4⟩, h5⟩ := h
    exact ⟨_, _, ⟨hf, h1, h2, h3, Prod.ext rfl h4, rfl⟩, h5⟩

/-- The command of packet `p`, with its parameter block and data, is accepted in `s`. -/
def accepts (op : Nat) (checks : Cmd → State → List Check) (p : Bytes) (s : State) (param data : Bytes := []) : Bool :=
  beginsWith (fun _ => true) op checks ⟨0, param, data⟩ (held p s)

/-- What `accepts` says is the hypothesis of the statements on commands. -/
theorem accepts_sound {op checks p s param data} (h : accepts op checks p s param data = true) :
    ∃ cmd t, Accepted op checks ⟨0, param, data⟩ (held p s) cmd t := by
  obtain ⟨cmd, t, hb, hf⟩ := beginsWith_sound h
  exact ⟨cmd, t, hb, by simpa using hf⟩

/-- The same for a command whose acceptance rests on a cipher or a signature. -/
def acceptsBut (op : Nat) (checks : Cmd → State → List Check) (p : Bytes) (s : State) (param data : Bytes := []) : Bool :=
  beginsWith (fun x => x.2.status != 7) op checks ⟨0, param, data⟩ (held p s)

theorem acceptsBut_sound {op checks p s param data} (h : acceptsBut op checks p s param data = true) :
    ∃ cmd t, AcceptedBut op checks ⟨0, param, data⟩ (held p s) cmd t := beginsWith_sound h

/-- Some state and operands meet the hypothesis of the statements on accepted commands. -/
abbrev Takes (op : Nat) (checks : Cmd → State → List Check) (p : Bytes) (s : State) (param data : Bytes := []) : Prop :=
  ∃ cmd t, Accepted op checks ⟨0, param, data⟩ (held p s) cmd t

theorem firstFail_append {l : List Check} {x : Check} (h : firstFail (l ++ [x]) = none) : firstFail l = none ∧ x.1 = false := by
  induction l with
  | nil => cases hx : x.1 <;> simp_all [firstFail]
  | cons y l ih =>
    obtain ⟨b, f⟩ := y
    cases b <;> simp_all [firstFail]

/-- The hypothesis of a statement on accepted commands that also asks for something of the command and the state. -/
abbrev TakesIf (also : Cmd → State → Bool) (op : Nat) (checks : Cmd → State → List Check) (p : Bytes) (s : State)
    (param data : Bytes := []) : Prop :=
  ∃ cmd t, Accepted op checks ⟨0, param, data⟩ (held p s) cmd t ∧ also cmd t = true

theorem takes_if {also op checks p s param data}
    (h : accepts op (fun c t => checks c t ++ [(!also c t, ⟨0, 0, 0⟩)]) p s param data = true) :
    TakesIf also op checks p s param data := by
  obtain ⟨cmd, t, hb, hf⟩ := accepts_sound h
  obtain ⟨h1, h2⟩ := firstFail_append hf
  exact ⟨cmd, t, ⟨hb, h1⟩, by simpa using h2⟩

/-- A command begins in a state, passes steps 1 to 4 of R475 and the checks of a list, and meets a condition. -/
abbrev PassesIf (also : Cmd → State → Bool) (op : Nat) (checks : Cmd → State → List Check) (p : Bytes) (s : State)
    (param data : Bytes := []) : Prop :=
  ∃ cmd t, Begins op ⟨0, param, data⟩ (held p s) cmd t ∧ firstFail (checks cmd t) = none ∧ also cmd t = true

theorem passes_if {also op checks p s param data}
    (h : accepts op (fun c t => checks c t ++ [(!also c t, ⟨0, 0, 0⟩)]) p s param data = true) :
    PassesIf also op checks p s param data := by
  obtain ⟨cmd, t, ⟨hb, h1⟩, h2⟩ := takes_if h
  exact ⟨cmd, t, hb, h1, h2⟩

/-- A plan with one partition on stack 0, in a state. -/
def plan (state : Nat) : Plan :=
  let d : PartDef := ⟨0, 1, 1, 100, 0, 0, 0, 0, [], [], [⟨3, 2, 0⟩], [(0, [])]⟩
  loadedPlan ⟨5, 1, 0, 0, 0, 2, false, [], [d], [], [], []⟩ false |> fun q => { q with state := state }

/-- Running firmware that holds the plan. -/
def withPlan (state : Nat) : State :=
  { up with
    plans := { Plans.reset with loaded := [(planKey 5 1, some (plan state))] }
    spin := { Spin.reset with state := 2, source := 1, everLocked := true } }

/-- Its partition as it runs. -/
def part : Part := newPart up (planKey 5 1) ⟨0, 1, 1, 100, 0, 0, 0, 0, [], [], [⟨3, 2, 0⟩], [(0, [])]⟩ 0

/-- The plan runs. -/
def running (p : Part) : State := setPart (partKey (planKey 5 1) 0) (some p) (withPlan 2)

/-- Inline bytes that name the plan. -/
def planName : Bytes := le 4 5 ++ le 2 1

/-! ### Accepted commands: queues, resets, power, plans -/

/-- Completion queue 1 and submission queue 2, empty. -/
def queues : State :=
  { up with host := { up.host with
      sqs := up.host.sqs ++ [(2, some ⟨0, 4, 0, 1, 3, 5, false⟩)]
      cqs := up.host.cqs ++ [(1, some ⟨0, 4, 0, 0, 0, true, false⟩), (9, some ⟨0, 4, 0, 0, 0, true, false⟩)]
      evqs := [(0, some ⟨0, 4, 6, 0, 0, true, false⟩)] } }

theorem test_queue_creates :
    Takes 0x0101 cqCreateChecks (pkt 0x0101 0 [1, 0, 4] 0 512) up ∧
    Takes 0x0102 sqCreateChecks (pkt 0x0102 0 [1, 0, 16, 1] 0 4194304) queues ∧
    Takes 0x0103 evqCreateChecks (pkt 0x0103 0 [7, 0, 4, 0, 0, 0, 0, 0, 0xFE, 0x3F] 0 512) up := by
  and_intros <;> exact accepts_sound (by decide +kernel)

theorem test_queue_deletes :
    Takes 0x0104 queueDeleteChecks (pkt 0x0104 0 [0, 2]) queues ∧ Takes 0x0104 queueDeleteChecks (pkt 0x0104 0 [1, 9]) queues ∧
    Takes 0x0104 queueDeleteChecks (pkt 0x0104 0 [2, 0]) queues := by
  and_intros <;> exact accepts_sound (by decide +kernel)

theorem test_identify_and_resets :
    Takes 0x0105 identifyChecks (pkt 0x0105 0 [] 0 4096) up ∧ Takes 0x0106 plainChecks (pkt 0x0106 0 []) up ∧
    Takes 0x0107 stackResetChecks (pkt 0x0107 0 [1, 0x80]) up := by
  and_intros <;> exact accepts_sound (by decide +kernel)

theorem test_power_and_spindle_commands :
    Takes 0x0120 pwrModeChecks (pkt 0x0120 0 [2]) up ∧ Takes 0x0201 sourceSetChecks (pkt 0x0201 0 [3, 0, 1]) up ∧
    Takes 0x0202 spindleStatusChecks (pkt 0x0202 0 []) up ∧ Takes 0x0220 syncQueryChecks (pkt 0x0220 0 [0xFF, 0x0F]) up := by
  and_intros <;> exact accepts_sound (by decide +kernel)

/-- A pending power mode that no partition waits for any more. -/
def pendingMode : PendMode := ⟨1, 0, 0, false, []⟩

theorem test_power_mode_turn : ∃ s : State, s.spin.pend = some pendingMode ∧ s.spin.state ≠ 3 ∧
    (s.spin.state = 2 → pendingMode.turn ≤ s.spin.count / 8192) :=
  ⟨{ up with spin := { Spin.reset with pend := some pendingMode } }, rfl, by decide, by decide⟩

theorem test_stack_reset_done : ∃ s : State, s.host.stackResets = [(0, 1)] := ⟨{ up with host := { up.host with stackResets := [(0, 1)] } }, rfl⟩

theorem test_integrity_commands :
    Takes 0x0801 policyChecks (pkt 0x0801 0 [3, 0]) up ∧ Takes 0x0804 integrityStatsChecks (pkt 0x0804 0 [15]) up ∧
    Takes 0x0805 plainChecks (pkt 0x0805 0 []) up ∧ Takes 0x0B01 plainChecks (pkt 0x0B01 0 []) up := by
  and_intros <;> exact accepts_sound (by decide +kernel)

/-- Core 0 of stack 0 is intensified, and the stack is trimmed. -/
def honing (s : State) : State :=
  { s with
    integ := { s.integ with intense := [(0, true)], cores := [(0, 1)] }
    conv := { s.conv with valid := [0] } }

theorem test_hone_commands :
    Takes 0x0803 honeStatusChecks (pkt 0x0803 0 [0, 0, 1]) up ∧ Takes 0x0802 honeChecks (pkt 0x0802 0 [0, 0, 0, 0, 0, 0, 0xFF, 0xFF]) (honing up) ∧
    Takes 0x0802 honeChecks (pkt 0x0802 0 [0, 0, 0, 0, 2, 0, 0xFF, 0xFF]) (honing up) ∧
    Takes 0x0802 honeChecks (pkt 0x0802 0 [0, 0, 0, 0, 2, 0, 0xFF, 0xFF]) (honing (running part)) ∧
    idleStack (honing up) 0 = true ∧ idleStack (honing (running part)) 0 = false := by
  and_intros <;> first | exact accepts_sound (by decide +kernel) | decide +kernel

/-- The plan that a command names is in a state. -/
def inState (k : Nat) (c : Cmd) (t : State) : Bool := (planAt t (planKey (c.at 40 4) (c.at 44 2))).any fun q => q.state == k

theorem test_plan_commands :
    TakesIf (inState 0) 0x0211 planArmChecks (pkt 0x0211 0 (planName ++ zeros 2 ++ le 8 2)) (withPlan 0) ∧
    TakesIf (inState 1) 0x0212 planStopChecks (pkt 0x0212 0 planName) (withPlan 1) ∧
    TakesIf (inState 2) 0x0212 planStopChecks (pkt 0x0212 0 planName) (running part) ∧
    TakesIf (inState 3) 0x0212 planStopChecks (pkt 0x0212 0 planName) (withPlan 3) ∧
    TakesIf (inState 0) 0x0213 planUnloadChecks (pkt 0x0213 0 planName) (withPlan 0) ∧
    TakesIf (inState 0) 0x0214 planQueryChecks (pkt 0x0214 0 planName) (withPlan 0) := by
  and_intros <;> exact takes_if (by decide +kernel)

/-! ### Accepted commands: trust -/

/-- Tenant 7 is protected. -/
def tenant7 : Tenant := ⟨zeros 32, zeros 32, zeros 32, 0, []⟩

/-- Running firmware with tenant 7 protected. -/
def protected7 : State := { up with trust := { Trust.resetWith 0 with tenants := [(7, some tenant7)] } }

theorem test_tenant_keys :
    (∃ cmd t, AcceptedBut 0x0A01 keySetChecks ⟨0, zeros 512, []⟩ (held (pkt 0x0A01 7 [] 512 64) up) cmd t) ∧
    Takes 0x0A02 keyClearChecks (pkt 0x0A02 7 []) protected7 ∧ Takes 0x0A03 vfBindChecks (pkt 0x0A03 0 [31, 0, 7]) up := by
  and_intros <;> first | exact acceptsBut_sound (by decide +kernel) | exact accepts_sound (by decide +kernel)

/-- A plan signing key in slot 7. -/
def withKey : State := { up with trust := { Trust.resetWith 0 with planKeys := [(7, some (zeros 388))] } }

theorem test_plan_keys :
    Takes 0x0A04 keyRegisterChecks (pkt 0x0A04 0 [7] 0 388) up [] (zeros 384 ++ le 4 65537) ∧
    Takes 0x0A05 keyRemoveChecks (pkt 0x0A05 0 [7]) withKey :=
  ⟨accepts_sound (by decide +kernel), accepts_sound (by decide +kernel)⟩

theorem test_log_and_svn :
    Takes 0x0A06 plainChecks (pkt 0x0A06 0 []) up ∧ Takes 0x0A08 logReadChecks (pkt 0x0A08 0 [] 0 64) up :=
  ⟨accepts_sound (by decide +kernel), accepts_sound (by decide +kernel)⟩

theorem test_identity_read :
    PassesIf (fun _ _ => true) 0x0A07 (fun c _ => pfOnly c :: headChecks c .none .some 64 ++ [inlineZero c 40 24])
      (pkt 0x0A07 0 [] 0 4096) up := passes_if (by decide +kernel)

/-! ### Accepted commands: models and adapters -/

/-- A reduction section of one record. -/
def reduction : Bytes := [0, 1] ++ zeros 78

/-- Its SHA-256 digest and that of an owner's key of zeros, computed outside the model. -/
def reductionDigest : Bytes :=
  [0x6E, 0x79, 0x0F, 0x3A, 0x8A, 0x28, 0xB6, 0xE7, 0x36, 0xB7, 0x2C, 0x33, 0xE5, 0xF1, 0xF1, 0x68, 0x61, 0x1E, 0xEE, 0xD6, 0x25, 0x9C, 0xA2, 0x56, 0xC8, 0x3D, 0xCD, 0x58, 0x3E, 0x3D, 0xD7, 0x9A]
def keyDigest : Bytes :=
  [0x8D, 0xE7, 0x6E, 0xE7, 0xEB, 0x6B, 0x32, 0xC3, 0x07, 0xD4, 0xA4, 0x6A, 0x43, 0xAC, 0x55, 0xBC, 0x15, 0xB9, 0x17, 0xE2, 0xA2, 0x4D, 0x36, 0xC3, 0xD0, 0x01, 0x87, 0x8A, 0x97, 0xFD, 0x39, 0xD6]

/-- A manifest of one deck image without stream (R242). -/
def manifest : Bytes :=
  le 4 0x4D4D394B ++ le 2 1 ++ zeros 2 ++ le 4 9 ++ le 2 1 ++ zeros 2 ++ le 4 1 ++ zeros 8 ++ le 4 1 ++ reductionDigest ++
    zeros 16 ++ le 8 266240 ++ zeros 8 ++ keyDigest ++ zeros 128 ++ zeros 48 ++ reduction ++ zeros 388 ++ zeros 384

/-- The manifest is held, a binding key too, stack 0 is trimmed, and the mode is not Economy. -/
def withModel : State :=
  { up with
    model := { Model.reset with manifests := [⟨9, 1, 7, manifest, [], none, []⟩], bindKey := some (zeros 32) }
    conv := { Conv.reset with valid := [0] }
    spin := { Spin.reset with power := 0 } }

/-- Version 1 of image 9 is bound in bank 1, standby. -/
def withBank : State := setBank 9 1 (some ⟨1, true, 0⟩) withModel

/-- Whether the install of a command can begin. -/
def startable (c : Cmd) (t : State) : Bool := (startInstall c t).isSome

theorem test_manifest_and_keys :
    (∃ cmd t, AcceptedBut 0x0301 manifestChecks ⟨0, [], manifest⟩ (held (pkt 0x0301 7 [] 0 1156) up) cmd t) ∧
    Takes 0x0305 keyCreateChecks (pkt 0x0305 0 [] 0 128) up ∧
    (∃ cmd t, AcceptedBut 0x0306 keySupplyChecks ⟨0, [], le 4 0x4B42394B ++ le 2 1 ++ zeros 122⟩ (held (pkt 0x0306 0 [] 0 128) up) cmd t) := by
  and_intros <;> first | exact acceptsBut_sound (by decide +kernel) | exact accepts_sound (by decide +kernel)

theorem test_model_commands :
    TakesIf startable 0x0302 installChecks (pkt 0x0302 7 (le 4 9 ++ le 2 1) 8 64) withModel (zeros 8) ∧
    Takes 0x0303 switchChecks (pkt 0x0303 7 (le 4 9 ++ [1, 0]) 16) withBank (zeros 16) ∧
    Takes 0x0304 releaseChecks (pkt 0x0304 7 (le 4 9 ++ le 2 1 ++ [1])) withBank ∧
    Takes 0x0304 releaseChecks (pkt 0x0304 7 (le 4 9 ++ le 2 1 ++ [0xFF])) withModel ∧
    Takes 0x0307 chuckReadChecks (pkt 0x0307 0 [1, 15] 0 10485760) up ∧ Takes 0x0308 modelStatusChecks (pkt 0x0308 7 (le 4 9)) withModel := by
  and_intros <;> first | exact takes_if (by decide +kernel) | exact accepts_sound (by decide +kernel)

theorem test_adapter_names :
    Takes 0x0402 adapterNameChecks (pkt 0x0402 7 (le 3 1)) up ∧ Takes 0x0403 adapterNameChecks (pkt 0x0403 7 (le 3 1)) up :=
  ⟨accepts_sound (by decide +kernel), accepts_sound (by decide +kernel)⟩

/-! ### Accepted commands: serving -/

/-- A context of tenant 6 with one layer of keys and values, 32 tokens logged. -/
def ctxBlock : Bytes :=
  le 4 1 ++ le 4 9 ++ le 4 1024 ++ [1, 0, 1, 0] ++ zeros 48 ++ (le 2 0 ++ le 2 1 ++ [1, 1, 1, 4] ++ le 4 0x3F800000 ++ le 4 0x3F800000 ++ zeros 16)
def ctx6 : Ctx := { newCtx 6 ctxBlock (List.replicate 32 5) with mark := 32 }

/-- Tenant 6 has a quota, a context, an adapter and an output queue. -/
def serving : State :=
  { up with
    serve := { Serve.reset with
      ctxs := [(6 * 2 ^ 32 + 1, some ctx6)]
      quotas := [(6, some ⟨16, 16, 16, 16, none, [], 0⟩)] }
    model := { Model.reset with
      adapters := [(257, some ⟨6, 9, 1, 0, 0, [], false⟩)], current := [(1, some 1)] }
    host := { up.host with outqs := [(0, some ⟨0, 6, 0, 65536, 0, 0, true, [], false, [], 1⟩)] } }

/-- SESSION_OPEN's block: session 3, context 1, output queue 0, no tree, no adapter (R312). -/
def sessionBlock : Bytes :=
  le 4 3 ++ le 4 1 ++ zeros 8 ++ zeros 8 ++ le 4 0 ++ zeros 4 ++ le 4 0x3F800000 ++ zeros 4 ++ le 4 0x3F800000 ++ zeros 8 ++
    List.replicate 16 0xFF ++ zeros 60

/-- Session 3 of tenant 6 is Queued, Idle, or admitted. -/
def session (st : Nat) : Session :=
  { id := 3, tenant := 6, ctx := 6 * 2 ^ 32 + 1, seed := 0, follow := false, digref := false, outq := 0, tree := [], adapter := none
    temp := 0, topK := 0, window := 0, topP := 0x3F800000, minP := 0, repPen := 0x3F800000, presPen := 0, maxNew := 0, stops := []
    state := st, part := 5242896, slot := 0, pending := [], run := 0, total := 0, bank := 0, pinned := none, drafts := [], stop := none
    requeue := false, moving := false, closing := none }
def withSession (x : Session) : State :=
  { serving with serve := { serving.serve with sessions := [(3, some x)], queue := if x.state = 0 then [3] else [] } }

/-- The session that a command names satisfies `p`. -/
def sessionIs (p : Session → Bool) (c : Cmd) (t : State) : Bool := (tget none t.serve.sessions (c.at 40 4)).any fun x => x.id == c.at 40 4 && p x

theorem test_session_open :
    TakesIf (fun c t => (firstFail (sessionStateChecks c t)).isNone && (newSession c).pending.isEmpty) 0x0501 sessionOpenChecks
      (pkt 0x0501 6 [] 128 0) serving sessionBlock ∧
    TakesIf (fun c t => (firstFail (sessionStateChecks c t)).isSome) 0x0501 sessionOpenChecks (pkt 0x0501 6 [] 128 0)
      (withSession (session 0)) sessionBlock ∧
    TakesIf (fun c t => !(newSession c).pending.isEmpty && decide (4096 ≤ t.serve.queue.length)) 0x0501 sessionOpenChecks
      (pkt 0x0501 6 [] 128 4) { serving with serve := { serving.serve with queue := List.replicate 4096 1 } } sessionBlock (le 4 2) := by
  and_intros <;> exact takes_if (by decide +kernel)

theorem test_session_feed :
    TakesIf (sessionIs fun x => x.state == 3) 0x0502 sessionFeedChecks (pkt 0x0502 6 (le 4 3) 0 4) (withSession (session 3)) [] (le 4 2) ∧
    TakesIf (fun c t => sessionIs (fun x => x.state == 3) c t && decide (4096 ≤ t.serve.queue.length)) 0x0502 sessionFeedChecks
      (pkt 0x0502 6 (le 4 3) 0 4)
      { withSession (session 3) with serve := { (withSession (session 3)).serve with queue := List.replicate 4096 1 } } [] (le 4 2) :=
  ⟨takes_if (by decide +kernel), takes_if (by decide +kernel)⟩

theorem test_session_close_and_query :
    TakesIf (sessionIs fun x => !x.admitted) 0x0503 sessionChecks (pkt 0x0503 6 (le 4 3)) (withSession (session 0)) ∧
    TakesIf (sessionIs fun x => x.admitted) 0x0503 sessionChecks (pkt 0x0503 6 (le 4 3)) (withSession (session 1)) ∧
    TakesIf (sessionIs fun x => !x.admitted) 0x0504 sessionChecks (pkt 0x0504 6 (le 4 3)) (withSession (session 3)) ∧
    TakesIf (sessionIs fun x => x.admitted) 0x0504 sessionChecks (pkt 0x0504 6 (le 4 3)) (withSession (session 2)) := by
  and_intros <;> exact takes_if (by decide +kernel)

theorem test_output_queues :
    Takes 0x0505 outqCreateChecks (pkt 0x0505 6 [63, 0] 0 65536) up ∧ Takes 0x0506 outqDeleteChecks (pkt 0x0506 6 [0]) serving :=
  ⟨accepts_sound (by decide +kernel), accepts_sound (by decide +kernel)⟩

/-- The context that a command names exists, and has a job where asked. -/
def ctxIs (p : Ctx → Bool) (c : Cmd) (t : State) : Bool := (ctxAt t (c.tenant * 2 ^ 32 + c.at 40 4)).any p

theorem test_context_commands :
    Takes 0x0601 quotaChecks (pkt 0x0601 6 (zeros 4 ++ le 4 1 ++ le 4 1 ++ le 4 1 ++ le 4 1)) up ∧
    Takes 0x0602 coldAreaChecks (pkt 0x0602 6 [] 0 4096) up ∧ Takes 0x0602 coldAreaChecks (pkt 0x0602 6 [] 0 0) up ∧
    Takes 0x0603 ctxCreateChecks (pkt 0x0603 6 (le 4 1) 96)
      { serving with serve := { serving.serve with ctxs := [] } } ctxBlock ∧
    TakesIf (ctxIs fun _ => true) 0x0604 ctxDeleteChecks (pkt 0x0604 6 (le 4 1)) serving ∧
    TakesIf (ctxIs fun _ => true) 0x0605 ctxQueryChecks (pkt 0x0605 6 (le 4 1)) serving := by
  and_intros <;> first | exact accepts_sound (by decide +kernel) | exact takes_if (by decide +kernel)

/-- CTX_CONSOLIDATE's block: adapter 1, positions 0 to 32, chunks of 16, one epoch. -/
def jobBlock : Bytes := le 4 1 ++ le 4 0 ++ le 4 32 ++ le 2 16 ++ [1, 0] ++ le 4 0x3F800000 ++ zeros 44

theorem test_consolidation_commands :
    TakesIf (ctxIs fun _ => true) 0x0608 consolidateChecks (pkt 0x0608 6 (le 4 1) 64) serving jobBlock ∧
    TakesIf (ctxIs fun x => x.job.isSome) 0x0609 jobCancelChecks (pkt 0x0609 6 (le 4 1))
      { serving with serve := { serving.serve with ctxs := [(6 * 2 ^ 32 + 1, some { ctx6 with job := some (newJob jobBlock) })] } } :=
  ⟨takes_if (by decide +kernel), takes_if (by decide +kernel)⟩
/-! ### PLAN_LOAD -/

/-- A plan image (R58 to R71): a header, the section table, one partition on stack 0 with a NOP, no slots, links or
barriers, and one signature. -/
def image : Bytes :=
  le 4 0x5054394B ++ le 2 1 ++ le 2 256 ++ le 4 5 ++ le 2 1 ++ zeros 2 ++ le 8 912 ++ zeros 6 ++ [2, 1] ++ zeros 2 ++ le 2 5 ++ le 4 256 ++
    le 4 464 ++ zeros 212 ++
    ([1, 0, 0xFF, 0] ++ le 4 4 ++ le 8 336) ++ ([2, 0, 0, 0] ++ le 4 1 ++ le 8 400) ++ ([3, 0, 0xFF, 0] ++ le 4 1 ++ le 8 416) ++
    ([4, 0, 0xFF, 0] ++ le 4 1 ++ le 8 432) ++ ([5, 0, 0xFF, 0] ++ le 4 1 ++ le 8 448) ++
    ([0, 1] ++ le 2 1 ++ le 4 100 ++ zeros 12 ++ le 4 0x80000000 ++ le 4 0x80000000 ++ zeros 36) ++ zeros 64 ++
    (1 :: zeros 15) ++ zeros 432

theorem test_plan_load :
    PassesIf (fun c t => c.f.fn == 0 && decide (∀ p ∈ (parsePlan c.data).parts, ∀ st ∈ p.stacks, plansOn t st < 4) &&
        decide (t.trust.log.length < 16384))
      0x0210 (fun c t => headChecks c .none .some 64 ++ [inlineZero c 44 20] ++ imageChecks c.data c.dataLen (c.at 40 4) ++
        [badImage 8 (planAt t (imageKey c.data)).isSome, badImage 48 ((planManifest t (parsePlan c.data)).any (reductionBad (parsePlan c.data)))])
      (pkt 0x0210 0 (le 4 5) 0 912) up [] image := passes_if (by decide +kernel)

/-! ### Commands under a tag -/

/-- A packet with a tag in bytes 48 to 63 (R447); the tags below are for tenant 7, computed outside the model. -/
def signed7 (p tag : Bytes) : Bytes := p.take 48 ++ tag

/-- Tenant 7 is protected and has a context. -/
def serving7 : State :=
  { protected7 with serve := { Serve.reset with
      ctxs := [(7 * 2 ^ 32 + 1, some (newCtx 7 ctxBlock [5]))], quotas := [(7, some ⟨16, 16, 16, 16, none, [], 0⟩)] } }

theorem test_ctx_export :
    TakesIf (fun c t => ctxIs (fun _ => true) c t && (tget none t.trust.tenants c.tenant).isSome) 0x0606 ctxExportChecks
      (signed7 (pkt 0x0606 7 (le 4 1) 0 4096) [0xF7, 0xD6, 0x2A, 0xCB, 0x56, 0xAB, 0x5C, 0xDE, 0x33, 0x44, 0xCB, 0xA7, 0x3D, 0x21, 0x16, 0x46])
      serving7 := takes_if (by decide +kernel)

/-- An export blob of one token under context 2, whatever it holds (R302). -/
def blob : Bytes := le 4 0x5843394B ++ le 2 1 ++ le 2 7 ++ le 4 2 ++ le 4 1 ++ zeros 148

theorem test_ctx_import :
    PassesIf (fun _ _ => true) 0x0607 (fun c t =>
      let d := c.data
      headChecks c .none .some 64 ++
      [ badTenant c, inlineZero c 40 24, badData 0 (fld d 0 4 != 0x5843394B), badData 4 (fld d 4 2 != 1), badData 6 (noTenant (fld d 6 2)),
        badData 8 (fld d 8 4 == 0),
        badData 12 (decide (4194304 < fld d 12 4)), badData 28 (!zeroAt d 28 4), badData 48 (!zeroAt d 48 16),
        badLength 32 (decide (c.dataLen < 160 + 4 * fld d 12 4)), unauthorised 3 (tenantOf t c.tenant).isNone,
        unauthorised 4 (fld d 6 2 != c.tenant), exhausted (noCtxRoom t c.tenant (fld d 12 4)),
        conflict (ctxAt t (c.tenant * 2 ^ 32 + fld d 8 4)).isSome ])
      (signed7 (pkt 0x0607 7 [] 0 164) [0x8A, 0x6C, 0xAC, 0x30, 0xD8, 0x33, 0x75, 0x26, 0x98, 0xF8, 0x1E, 0x8B, 0x73, 0xF6, 0x8D, 0x48])
      serving7 [] blob := passes_if (by decide +kernel)

/-- An envelope of adapter 1, version 2, whatever it holds (R449). -/
def envelope : Bytes := le 4 0x4541394B ++ le 2 7 ++ zeros 2 ++ (le 3 1 ++ [2]) ++ zeros 100

theorem test_adapter_load :
    PassesIf (fun _ _ => true) 0x0401 (fun c t =>
      let b := c.data
      let a := fld b 8 4 % 2 ^ 24
      headChecks c .none .some 64 ++
      [ badTenant c, inlineZero c 40 24, badData 0 (fld b 0 4 != 0x4541394B), badData 4 (noTenant (fld b 4 2)), badData 6 (fld b 6 2 != 0), badData 40 (!zeroAt b 40 8),
        badLength 32 (decide (c.dataLen < 112)), unauthorised 3 (tenantOf t c.tenant).isNone,
        unauthorised 4 (fld b 4 2 != c.tenant || foreignAdapter c t a),
        exhausted (decide (65536 ≤ (tkeys t.model.adapters).length) || decide (4 ≤ (residents t a).length)),
        inUse (tget none t.model.adapters (a * 256 + fld b 8 4 / 2 ^ 24)).isSome ])
      (signed7 (pkt 0x0401 7 [] 0 112) [0x72, 0x09, 0xFC, 0xC5, 0x63, 0xCC, 0x88, 0x77, 0x78, 0xB2, 0x60, 0xB8, 0x9C, 0x87, 0x40, 0x47])
      protected7 [] envelope := passes_if (by decide +kernel)

/-! ### Accepted commands: converters, calibration, fabric -/

/-- A partition that has completed a pass, on a trimmed stack. -/
def passed : State := running { part with last := some (1, 0, 0) }
def trimmed : State := { up with conv := { Conv.reset with valid := [0] } }

theorem test_converter_commands :
    Takes 0x0701 calSelfChecks (pkt 0x0701 0 [1, 0x80]) up ∧ Takes 0x0702 trimReadChecks (pkt 0x0702 0 [0xFF, 0xF9] 0 560) up ∧
    Takes 0x0710 tableSetChecks (pkt 0x0710 0 [33, 0]) up ∧
    Takes 0x0710 tableSetChecks (pkt 0x0710 0 [33, 1] 16) up ([0, 0, 2, 0, 1, 0, 0, 0] ++ zeros 8) ∧
    Takes 0x0711 convertNowChecks (pkt 0x0711 0 ([0, 64, 0, 0] ++ le 4 0x30000)) up ∧
    Takes 0x0712 ringReadChecks (pkt 0x0712 0 [33] 0 1024) up ∧ underway up 33 = false := by
  and_intros <;> first | exact accepts_sound (by decide +kernel) | decide +kernel

/-- The head of a factor blob of stack 0; the bytes after it are zeros (R237). -/
def factorHead : Bytes := le 4 0x4643394B ++ le 2 1 ++ zeros 58

theorem firstFail_none_iff {l : List Check} : firstFail l = none ↔ ∀ x ∈ l, x.1 = false := by
  induction l with
  | nil => simp [firstFail]
  | cons y l ih =>
    obtain ⟨b, f⟩ := y
    cases b <;> simp_all [firstFail]

theorem recordChecks_beyond {b : Bytes} (hb : b.length ≤ 64) (j : Nat) : ∀ x ∈ recordChecks b j, x.1 = false := by
  have hz : ∀ o n, 64 ≤ o → (b.drop o).take n = [] := fun o n ho => by rw [List.drop_eq_nil_of_le (by omega), List.take_nil]
  have hf : ∀ o n, 64 ≤ o → fld b o n = 0 := fun o n ho => by rw [fld, hz o n ho]; rfl
  simp [recordChecks, badData, zeroAt, hf, hz, show 64 ≤ 64 + 6336 * j + 6320 by omega, show 64 ≤ 64 + 6336 * j + 6321 by omega,
    show 64 ≤ 64 + 6336 * j + 6322 by omega, show 64 ≤ 64 + 6336 * (j / 4 * 4) + 6321 by omega]

/-- CAL_FACTORS_WRITE's checks but those of the engine records. -/
def factorChecks (c : Cmd) (s : State) : List Check :=
  let b := c.data
  let st := c.at 40 1
  pfOnly c :: headChecks c .none .some 64 ++ [badField 40 (decide (15 < st)), inlineZero c 41 23] ++
  [ badData 0 (fld b 0 4 != 0x4643394B), badData 4 (fld b 4 2 != 1), badData 6 (fld b 6 1 != st), badData 7 !zeroAt b 7 1,
    badData 36 !zeroAt b 36 28 ] ++
  [ badLength 32 (c.dataLen != blobLength),
    uncalibrated !calibrated s st, conflict (s.cal.warmups.any fun w => w.mask.testBit st) ]

theorem test_factors_write :
    ∃ cmd t, AcceptedBut 0x0732 factorsWriteChecks ⟨0, [], factorHead⟩ (held (pkt 0x0732 0 [0] 0 16220256) trimmed) cmd t := by
  obtain ⟨cmd, t, hb, hc, hd⟩ : PassesIf (fun c _ => c.data == factorHead) 0x0732 factorChecks (pkt 0x0732 0 [0] 0 16220256) trimmed []
    factorHead := passes_if (by decide +kernel)
  refine ⟨cmd, t, hb, firstFail_none_iff.2 fun x hx => ?_⟩
  rw [firstFail_none_iff] at hc
  have hd : cmd.data = factorHead := by simpa using hd
  have hr := recordChecks_beyond (b := cmd.data) (by rw [hd]; decide)
  simp only [List.mem_filter, factorsWriteChecks, List.mem_append] at hx
  obtain ⟨hx, hk⟩ := hx
  rcases hx with (hx | hx) | hx
  · exact hc x (by simp only [factorChecks, List.mem_append]; tauto)
  · split at hx
    · rcases List.mem_append.1 hx with hx | hx
      · exact hc x (by simp only [factorChecks, List.mem_append]; tauto)
      · obtain ⟨j, -, hj⟩ := List.mem_flatMap.1 hx
        exact hr j x hj
    · cases hx
  · simp only [List.mem_cons, List.not_mem_nil, or_false] at hx
    rcases hx with rfl | rfl | rfl | rfl
    · exact hc _ (by simp [factorChecks])
    · simp [integrity] at hk
    · exact hc _ (by simp [factorChecks])
    · exact hc _ (by simp [factorChecks])

theorem test_calibration_commands :
    Takes 0x0730 calPolicyChecks (pkt 0x0730 0 []) up ∧ Takes 0x0731 factorsReadChecks (pkt 0x0731 0 [0] 0 16220256) trimmed ∧
    Takes 0x0733 warmupChecks (pkt 0x0733 0 [1]) trimmed ∧ Takes 0x0734 calStatusChecks (pkt 0x0734 0 [15]) up ∧
    TakesIf (fun c t => (lastPass t (c.at 40 1)).isSome) 0x0720 trueStatsChecks (pkt 0x0720 0 [0]) passed := by
  and_intros <;> first | exact accepts_sound (by decide +kernel) | exact takes_if (by decide +kernel)

theorem test_fabric_commands :
    Takes 0x0901 portEnableChecks (pkt 0x0901 0 (le 4 0x7FFFFF ++ [0])) up ∧ Takes 0x0901 portEnableChecks (pkt 0x0901 0 (le 4 1 ++ [1])) up ∧
    Takes 0x0902 fabricChecks (pkt 0x0902 0 [] 64) up (le 2 1 ++ le 2 1 ++ zeros 12 ++ le 2 2 ++ [0, 0, 1, 0] ++ zeros 42) ∧
    Takes 0x0903 portStatusChecks (pkt 0x0903 0 [22] 0 64) up := by
  and_intros <;> exact accepts_sound (by decide +kernel)
/-! ### Commands before their own checks, registers, events -/

/-- A fetched packet. -/
def fetched (p : Bytes) : Fetched := ⟨0, 0, 0, p, 1, false, false⟩

theorem test_failed_checks :
    -- a check of its own fails
    (∃ row ∈ hostRows, ∃ c s f, tget none s.host.fetched c.tag = some f ∧ f.begun = false ∧ opcodeOf f.raw = row.2.1 ∧
      mayBegin s c.tag f = true ∧ (gate f c (markBegun c.tag f s)).2 = none ∧
      ∃ e, firstFail (row.2.2.1 ⟨c.tag, f, c.param, c.data, needsTag f.raw f.fn (gate f c (markBegun c.tag f s)).1⟩
        (gate f c (markBegun c.tag f s)).1) = some e) ∧
    -- an earlier one fails
    (∃ row ∈ hostRows, ∃ c s f, tget none s.host.fetched c.tag = some f ∧ f.begun = false ∧ opcodeOf f.raw = row.2.1 ∧
      mayBegin s c.tag f = true ∧ ∃ e, (gate f c (markBegun c.tag f s)).2 = some e) ∧
    -- none fails
    (∃ row ∈ hostRows, ∃ c s cmd t, Accepted row.2.1 row.2.2.1 c s cmd t) :=
  ⟨⟨(.cqCreate, 0x0101, cqCreateChecks, cqCreate), by simp [hostRows], ⟨0, [], []⟩, held (pkt 0x0101 0 [0, 0, 4] 0 512) up,
      fetched (pkt 0x0101 0 [0, 0, 4] 0 512), rfl, rfl, by decide +kernel, by decide +kernel, by decide +kernel,
      ⟨4, 40, 0⟩, by decide +kernel⟩,
    ⟨(.cqCreate, 0x0101, cqCreateChecks, cqCreate), by simp [hostRows], ⟨0, [], []⟩, held (pkt 0x0101 0 [1, 0, 4] 0 512) State.reset,
      fetched (pkt 0x0101 0 [1, 0, 4] 0 512), rfl, rfl, by decide +kernel, by decide +kernel, ⟨1, 1, 0⟩, by decide +kernel⟩,
    ⟨(.svnCommit, 0x0A06, plainChecks, svnCommit), by simp [hostRows], ⟨0, [], []⟩, held (pkt 0x0A06 0 []) up,
      accepts_sound (by decide +kernel)⟩⟩

theorem test_unknown_opcode :
    (∃ c s f, tget none s.host.fetched c.tag = some f ∧ f.begun = false ∧ opcodeOf f.raw ∉ opcodes ∧ mayBegin s c.tag f = true ∧
      (gate f c (markBegun c.tag f s)).2 = none) ∧
    (∃ c s f, tget none s.host.fetched c.tag = some f ∧ f.begun = false ∧ opcodeOf f.raw ∉ opcodes ∧ mayBegin s c.tag f = true ∧
      ∃ e, (gate f c (markBegun c.tag f s)).2 = some e) :=
  ⟨⟨⟨0, [], []⟩, held (pkt 0x0B02 0 []) up, fetched (pkt 0x0B02 0 []), rfl, rfl, by decide +kernel, by decide +kernel, by decide +kernel⟩,
    ⟨⟨0, [], []⟩, held (pkt 0x0B02 0 []) State.reset, fetched (pkt 0x0B02 0 []), rfl, rfl, by decide +kernel, by decide +kernel,
      ⟨1, 1, 0⟩, by decide +kernel⟩⟩

theorem test_first_checks : ∃ (f : Fetched) (s : State), f.fn = 0 ∧ tget none s.trust.tenants (fld f.raw 8 2) = none :=
  ⟨fetched (pkt 0x0105 0 []), up, rfl, by decide +kernel⟩

/-- Virtual function 1 is bound to tenant 7. -/
def bound7 (tenants : Tab (Option Tenant)) : State := { up with trust := { Trust.resetWith 0 with tenants := tenants, binds := [(1, 7)] } }

/-- A packet of tenant 7 on virtual function 1, its tag computed outside the model; its sequence is 7. -/
def vf7 (tag : Bytes) : Fetched := { fetched (signed7 (pkt 0x0504 7 (le 4 1)) tag) with fn := 1 }

/-- The right tag of that packet. -/
def tag7 : Bytes := [0xF7, 0x17, 0x09, 0x24, 0x05, 0x58, 0x85, 0x7C, 0x9C, 0x56, 0xFE, 0x8E, 0xF9, 0xEE, 0x32, 0x39]

theorem tag7_right : commandTag (macKey 7 tenant7) (vf7 tag7).raw [] [] = tag7 := by decide +kernel

theorem same_tag (k a b : Bytes) : commandTag k (vf7 a).raw [] [] = commandTag k (vf7 b).raw [] [] := rfl

theorem test_tags_of_virtual_functions :
    (∃ (f : Fetched) (s : State), s.phys.state = 3 ∧ f.fn ≠ 0 ∧ tget 0 s.trust.binds f.fn = 0) ∧
    (∃ (f : Fetched) (s : State), s.phys.state = 3 ∧ f.fn ≠ 0 ∧ tget 0 s.trust.binds f.fn = fld f.raw 8 2 ∧ fld f.raw 8 2 ≠ 0 ∧
      tget none s.trust.tenants (fld f.raw 8 2) = none) ∧
    (∃ (f : Fetched) (s : State), s.phys.state = 3 ∧ f.fn ≠ 0 ∧ tget 0 s.trust.binds f.fn = fld f.raw 8 2 ∧ fld f.raw 8 2 ≠ 0 ∧
      tget none s.trust.tenants (fld f.raw 8 2) = some tenant7 ∧ commandTag (macKey 7 tenant7) f.raw [] [] ≠ (f.raw.drop 48).take 16) :=
  ⟨⟨vf7 tag7, up, rfl, by decide, by decide⟩, ⟨vf7 tag7, bound7 [], rfl, by decide, by decide +kernel, by decide +kernel, by decide +kernel⟩,
    ⟨vf7 (zeros 16), bound7 [(7, some tenant7)], rfl, by decide, by decide +kernel, by decide +kernel, by decide +kernel, by
      rw [same_tag _ _ tag7, tag7_right]; decide +kernel⟩⟩

/-- The right tag, with a fresh and with a stale sequence. -/
theorem test_tag_and_sequence :
    commandTag (macKey 7 tenant7) (vf7 tag7).raw [] [] = ((vf7 tag7).raw.drop 48).take 16 ∧
    fld (vf7 tag7).raw 4 4 = 7 ∧ ¬(7 ≤ tenant7.high) ∧ (let n := { tenant7 with high := 9, seen := [9, 7] }
      macKey 7 n = macKey 7 tenant7 ∧ 7 ≤ n.high ∧ 7 ∈ n.seen) :=
  ⟨tag7_right.trans (by decide +kernel), by decide +kernel, by decide, rfl, by decide, by decide⟩

theorem test_completion_entry : ∃ (s : State) (f : Fetched) (r : Cq), tget none s.host.fetched 0 = some f ∧ f.lost = false ∧
    f.raw.length = 64 ∧ s.phys.link = true ∧ tget none s.host.cqs f.cq = some r ∧ r.faulted = false ∧ s.spin.count < 2 ^ 64 ∧
    f.head < 2 ^ 16 ∧ f.sq < 2 ^ 8 :=
  ⟨held (pkt 0x0105 0 []) up, fetched (pkt 0x0105 0 []), ⟨4096, 4, 0, 0, 0, true, false⟩, rfl, rfl, by decide +kernel, rfl, rfl, rfl,
    by decide, by decide, by decide⟩

/-- One packet waits on the admin queue and two on queue 2. -/
def waiting : State :=
  { queues with host := { queues.host with sqs := [(0, some ⟨0, 4, 0, 0, 0, 1, false⟩), (2, some ⟨0, 4, 0, 1, 3, 5, false⟩)] } }

theorem test_command_fetch :
    (fetching waiting = true ∧ mayFetch waiting 0 = true ∧ waiting.host.lastSq < 64 ∧ waiting.host.zeroNext = true ∧
      (pkt 0x0105 0 []).length = 64 ∧ (tget none waiting.host.sqs 0).isSome = true) ∧
    (let s := { waiting with host := { waiting.host with zeroNext := false } }
     fetching s = true ∧ mayFetch s 2 = true ∧ s.host.zeroNext = false ∧ (tget none s.host.sqs 2).isSome = true ∧
      ∀ p < 64, 0 < p → mayFetch s p = true → (2 + 62 - s.host.lastSq) % 63 ≤ (p + 62 - s.host.lastSq) % 63) := by
  decide +kernel

theorem test_event_records : ∃ src code seq count sev : Nat, ∃ pay : Bytes, src < 2 ^ 16 ∧ code < 2 ^ 16 ∧ seq + 1 < 2 ^ 32 ∧
    count < 2 ^ 64 ∧ sev < 16 ∧ 15 < pay.length ∧ pay.length ≤ 38 :=
  ⟨13312, 0x0A04, 4294967294, 2 ^ 64 - 1, 15, zeros 38, by decide, by decide, by decide, by decide, by decide, by decide, by decide⟩

theorem test_posting_an_event :
    (up.ev.frozen = false ∧ evqOf up 1 = none) ∧ { up.ev with frozen := true }.frozen = true ∧
    (∃ q e, evqOf queues 1 = some q ∧ tget none queues.host.evqs q = some e ∧ queues.phys.link = true ∧ e.faulted = false ∧
      2 ≤ ringFree e.exp e.head e.tail) ∧
    (let s := { queues with host := { queues.host with evqs := [(0, some ⟨0, 4, 6, 1, 0, true, false⟩)] } }
     ∃ q e, evqOf s 1 = some q ∧ tget none s.host.evqs q = some e ∧ s.phys.link = true ∧ ringFree e.exp e.head e.tail < 1) :=
  ⟨by decide +kernel, rfl, ⟨0, ⟨0, 4, 6, 0, 0, true, false⟩, by decide +kernel, rfl, rfl, rfl, by decide +kernel⟩,
    ⟨0, ⟨0, 4, 6, 1, 0, true, false⟩, by decide +kernel, rfl, rfl, by decide +kernel⟩⟩

theorem test_registers : up.phys.link = true ∧ (1 ≠ (0 : Nat)) ∧ (∀ j, tget 0 up.bar.hostSets j ≤ 255 ∧ tget 0 up.bar.syncSets j ≤ 255) := by
  refine ⟨rfl, by decide, fun j => ?_⟩
  have h : up.bar.hostSets = [] ∧ up.bar.syncSets = [] := ⟨rfl, rfl⟩
  rw [h.1, h.2]
  simp [tget]

/-- A record in the black box, and a snapshot taken or not. -/
theorem test_windows : (tget [] [(65535, zeros 32)] 65535 : Bytes).length = 32 ∧ up.ev.snapSeq = 0 ∧ { up.ev with snapSeq := 1 }.snapSeq ≠ 0 := by
  decide

theorem test_link_events : up.phys.link = true ∧ (up.phys.rate, up.phys.width) ≠ (16, 8) ∧
    (let s := { up with phys := { up.phys with link := false } }
     s.phys.link = false ∧ s.phys.perst = false ∧ s.phys.pwrGood = true) := by decide

theorem test_access_faults :
    (∃ r, tget none queues.host.sqs 2 = some r ∧ r.faulted = false) ∧ (∃ r, tget none queues.host.cqs 9 = some r ∧ r.faulted = false) ∧
    (∃ r, tget none queues.host.evqs 0 = some r ∧ r.faulted = false) ∧ (∃ r, tget none serving.host.outqs 0 = some r ∧ r.marks = []) :=
  ⟨⟨_, rfl, rfl⟩, ⟨_, rfl, rfl⟩, ⟨_, rfl, rfl⟩, ⟨_, rfl, rfl⟩⟩

/-- An output queue with a record of 128 bytes, and its two writes on their way. -/
def recorded : Outq := ⟨0, 6, 4096, 65536, 0, 128, true, [128], false, [], 2⟩
def recording : State :=
  { up with
    host := { up.host with outqs := [(0, some recorded)] }
    out := { up.out with host := [⟨0, 4096 + 64, zeros 64⟩, ⟨0, 4096, zeros 64⟩] } }

theorem test_record_faults :
    tget none recording.host.outqs 0 = some recorded ∧ recorded.marks = [] ++ [128] ∧ ¬(4096 + 0 ≤ 4095 ∧ 4095 < 4096 + 128) ∧
      (4096 + 0 ≤ 4223 ∧ 4223 < 4096 + 128) ∧ recording.host.waitOut = [] ∧
      recording.out.host = [] ++ [⟨0, 4096 + 64, zeros 64⟩, ⟨0, 4096, zeros 64⟩] ∧ recorded.owner = 0 := by decide +kernel

/-- A command with a parameter block, begun or not, in running firmware and before it. -/
theorem test_command_faults :
    (∀ s ∈ [up, State.reset], let t := held (pkt 0x0501 6 [] 128 0) s
      (∃ f, tget none t.host.fetched 0 = some f ∧ f.begun = false ∧ mayBegin t 0 f = true ∧ fld f.raw 12 4 ≠ 0) ∧ installAt t 0 = none) ∧
    (∃ f, tget none (held (pkt 0x0105 0 []) up).host.fetched 0 = some f ∧ fld f.raw 12 4 = 0 ∧ fld f.raw 32 8 = 0) ∧
    State.reset.phys.state < 3 ∧ (⟨0, 0, 0, pkt 0x0501 6 [] 128 0, 1, true, false⟩ : Fetched).begun = true := by
  refine ⟨fun s hs => ?_, ⟨_, rfl, by decide +kernel, by decide +kernel⟩, by decide, rfl⟩
  simp only [List.mem_cons, List.not_mem_nil, or_false] at hs
  rcases hs with rfl | rfl <;> exact ⟨⟨_, rfl, rfl, by decide +kernel, by decide +kernel⟩, by decide +kernel⟩

theorem test_identify_page : up.phys.rate < 256 ∧ up.phys.width < 256 ∧ up.spin.power < 256 ∧ up.spin.state < 256 ∧ up.cal.epoch < 2 ^ 32 := by
  decide

theorem test_load_log_and_fuses : (sha256 []).length = 32 ∧ up.spin.count < 2 ^ 64 ∧ (16383 + 1 = 16384) ∧ 31 + 1 ≤ 32 := by decide +kernel

theorem test_retry_after :
    (up.serve.admits.filter fun t => decide (up.spin.count / 8192 < t + 64)).length = 0 ∧
    (let s := { up with serve := { up.serve with admits := [0], queue := [1] } }
     0 < (s.serve.admits.filter fun t => decide (s.spin.count / 8192 < t + 64)).length ∧ s.serve.queue.length ≠ 0) := by decide +kernel

/-! ### Invariants -/

theorem test_inv_of_a_step : ∃ s t : State, s.Inv ∧ step s = .next t :=
  ⟨State.reset, State.reset, by
    refine ⟨by decide +kernel, ?_⟩
    constructor <;> first | exact ⟨0, by decide⟩ | decide, rfl⟩

theorem test_fuse : ∃ s : State, s.phys.svnFuses.getLsbD 0 = true ∧ step s = .next s :=
  ⟨{ up with phys := { up.phys with svnFuses := 1#32 } }, by decide, rfl⟩
/-! ### Power, resets, boot, fatal faults -/

theorem test_power_events :
    (let s := { up with phys := { up.phys with powered := false } }
     s.phys.powered = false ∧ s.phys.trip = false) ∧
    (up.phys.powered = true ∧ up.phys.trip = false) ∧ { up.phys with trip := true }.trip = true := by decide

theorem test_reset_events :
    (let s := { up with phys := { up.phys with perst := true } }
     s.phys.pwrGood = true ∧ s.phys.perst = true) ∧
    (up.phys.pwrGood = true ∧ up.phys.perst = false ∧ up.phys.link = true) ∧ { up.phys with resetDue := true }.resetDue = true := by decide

theorem test_boot_steps :
    { Phys.reset with link := false }.link = false ∧ { Phys.reset with bootState := 2 }.link = true ∧
    (State.reset.phys.pwrGood = true ∧ State.reset.phys.perst = false ∧ State.reset.phys.link = true ∧ State.reset.phys.state = 0 ∧
      State.reset.phys.bootState = 0 ∧ State.reset.phys.pufFailed = false) ∧
    { Phys.reset with pufFailed := true }.pufFailed = true ∧ { Phys.reset with bootState := 2 }.bootState = 2 ∧
    (let p := { Phys.reset with state := 2 }
     p.state = 2 ∧ p.trainFailed = false) ∧
    (let p := { Phys.reset with bootState := 3, image := some (zeros 1024) }
     p.pwrGood = true ∧ p.perst = false ∧ p.bootState = 3 ∧ p.image = some (zeros 1024)) := by decide +kernel

theorem test_fatal_faults : (up.phys.state ≠ 4 ∧ up.phys.pwrGood = true) ∧ { up.phys with state := 4 }.state = 4 ∧
    { up.phys with pwrGood := false }.pwrGood = false := by decide

/-- Function 31 has queue 5 beside the admin pair of function 0, and tag 1 waits for queue 2 to be deleted. -/
def shared : State :=
  let s := held (zeros 64) queues
  { s with host := { s.host with sqs := s.host.sqs ++ [(5, some ⟨0, 4, 31, 1, 0, 0, false⟩)], deleting := [(1, 2, 0)] } }

theorem test_function_reset :
    (shared.phys.pwrGood = true ∧ shared.phys.perst = false) ∧
    (∃ r, (5, some r) ∈ shared.host.sqs ∧ r.owner = 31) ∧
    (∃ r, (2, some r) ∈ shared.host.sqs ∧ ∀ x, (2, some x) ∈ shared.host.sqs → x.owner ≠ 31) ∧
    (∃ r, tget none shared.host.cqs 9 = some r ∧ ∀ x, (9, some x) ∈ shared.host.cqs → x.owner ≠ 31) ∧
    (∃ r, (0, some r) ∈ serving.host.outqs ∧ ∀ x, (0, some x) ∈ serving.host.outqs → x.owner ≠ 31) ∧
    (∃ f, (0, some f) ∈ shared.host.fetched ∧ f.fn ≠ 31 ∧ 0 ∉ shared.host.deleting.map (·.1)) := by
  refine ⟨by decide, ⟨_, List.mem_append_right _ (List.mem_singleton.2 rfl), rfl⟩, ?_, ?_, ?_, ⟨_, List.mem_singleton.2 rfl, by decide⟩⟩
  · exact ⟨_, List.mem_append_left _ (List.mem_append_right _ (List.mem_singleton.2 rfl)), by
      simp +decide [shared, held, queues, up]⟩
  · exact ⟨_, rfl, by simp +decide [shared, held, queues, up]⟩
  · exact ⟨_, List.mem_singleton.2 rfl, by simp +decide [serving, up]⟩

/-! ### SPDM -/

/-- A function has an SPDM connection at a stage, with one session. -/
def spdmed (fn stage : Nat) (done : Bool) : State :=
  { up with trust := { Trust.resetWith 0 with spdm := [(fn, some ⟨stage, 0x12, [(0x10002, done, 0#512)]⟩)] } }

/-- A request: version and code, with zeros after them. -/
def ask (version code : Nat) : Bytes := le 1 version ++ le 1 code ++ zeros 2

/-- At its stage, at an earlier one, under another version, of another code, and on a mailbox that is down. -/
theorem test_spdm_requests :
    (∀ fn ∈ [0, 31], ∀ r ∈ ([(0x84, 0), (0xE1, 1), (0xE3, 2), (0x81, 3), (0x82, 3), (0x83, 3), (0xE0, 3), (0xE4, 3)] : List (Nat × Nat)),
      let s := spdmed fn r.2 false
      let v := if r.1 = 0x84 then 0x10 else 0x12
      (fn ≤ 31 ∧ s.phys.state = 3 ∧ s.phys.link = true) ∧ r.2 ≤ (spdmAt s fn).stage ∧ (r.1 = 0x84 ∨ (spdmAt s fn).version = v) ∧
        fld (ask v r.1) 1 1 = r.1 ∧ fld (ask v r.1) 0 1 = v ∧ fld (ask 0x11 r.1) 0 1 ≠ v ∧ fld (ask v 0) 1 1 ≠ r.1 ∧
        (0 < r.2 → (spdmAt (spdmed fn (r.2 - 1) false) fn).stage < r.2)) ∧ State.reset.phys.state ≠ 3 := by decide +kernel

/-- In a session of the right or the wrong state, in none, at an earlier stage and under another version. -/
theorem test_secured_requests :
    (∀ r ∈ ([(0xE5, false), (0xE8, true), (0xE9, true), (0xEC, true), (0xFE, true)] : List (Nat × Bool)), ∀ done, ∀ stage ∈ [2, 3],
      let s := spdmed 0 stage done
      let req := fun version code : Nat => le 4 0x10002 ++ ask version code
      (spdmAt s 0).sessions.find? (fun y => y.1 == fld (req 0x12 r.1) 0 4) = some (fld (req 0x12 r.1) 0 4, done, 0#512) ∧
        (spdmAt s 0).stage = stage ∧ fld (req 0x12 r.1) 5 1 = r.1 ∧ fld (req 0x12 0) 5 1 ≠ r.1 ∧
        fld (req 0x12 r.1) 4 1 = (spdmAt s 0).version ∧ fld (req 0x13 r.1) 4 1 ≠ (spdmAt s 0).version) ∧
    (spdmAt (spdmed 0 3 true) 0).sessions.find? (fun y => y.1 == fld (zeros 8) 0 4) = none := by decide +kernel

/-! ### Plan operations -/

/-- A plan operation of a code on a unit kind, without options and with operands 0. -/
def op (code kind : Nat) : PlanOp := ⟨0, kind, 0, code, false, false, false, 0#80, 0⟩

/-- The key of the running partition. -/
def pk : Nat := partKey (planKey 5 1) 0

/-- The partition with one operation due on stack 0, and the machine that runs it. -/
def partWith (o : PlanOp) : Part := { part with due := [(0, o)] }
def dueState (o : PlanOp) : State := running (partWith o)

/-- For every code there is a due operation, whatever its options. -/
theorem test_due (o : PlanOp) : Due o.code 0 o (dueState o) pk (partWith o) := by
  have h : parts (dueState o) = [(pk, partWith o)] := by rfl
  have h2 : (partWith o).d.mask = 1 := rfl
  exact ⟨by simp [partOfStack, h, h2], rfl, List.mem_singleton.2 rfl⟩

/-- For every code there is an operation that is not due. -/
theorem test_not_due (code : Nat) (o : PlanOp) : ∀ pk p, ¬Due code 0 o up pk p := fun _ _ h => by
  have : partOfStack up 0 = none := rfl
  rw [h.part] at this
  cases this

/-- An operation in flight in a body. -/
def fly (code : Nat) (wait : Wait) (body : Body) : Fly :=
  { st := 0, part := pk, op := op code 2, issue := 0, due := 0, wait := wait, stall := 0, count := 0, gain := 0, settle := none, on := false, rate := 0, seed := 0, body := body }

/-- The machine with that operation in flight under number 0. -/
def flying (f : Fly) : State :=
  let s := running part
  { s with plans := { s.plans with flies := [(0, some f)], nextFly := 1 } }

theorem test_held_results (code : Nat) :
    ∃ s f, flyAt s 0 = some f ∧ f.body = .out [(0, zeros 32)] ∧ f.op.code = code ∧ f.wait = .none ∧ ¬(s.spin.tick < f.due) :=
  ⟨flying (fly code .none (.out [(0, zeros 32)])), fly code .none (.out [(0, zeros 32)]), rfl, rfl, rfl, rfl, Nat.lt_irrefl 0⟩

/-- A half of a read's record with a number of clips, and a read of it. -/
def half (clips : Nat) : HalfRead :=
  { kind := 0, dest := 0, accs := [], checks := [], refs := [], clip := [], clipCheck := [], clipRef := [], redo := [], redoCheck := []
    zero := false, split := false, clamp := false, weight := 1, xs := [], clips := clips }
def readJob (clips : Nat) : ReadJob :=
  { engine := 0, phys := 0, deck := 0, reverse := false, a8 := false, burnish := 0, gain := 0, unsettled := false
    notBound := false, strokes := 1, count := 0, offset := 0, rate := 12, seed := 0, halves := [half clips], ready := some 0, done := false
    drive := some 0 }

theorem test_records :
    (∃ s f, flyAt s 0 = some f ∧ f.body = .read (readJob 32) ∧ f.wait = .none ∧ f.due ≤ s.spin.tick ∧ f.op.code = 0x10 ∧
      (readJob 32).done = false ∧ ∀ h ∈ (readJob 32).halves, h.clips ≤ 32) ∧
    (∃ s f, flyAt s 0 = some f ∧ f.body = .read (readJob 33) ∧ f.wait = .none ∧ (readJob 33).done = false ∧
      (∃ h ∈ (readJob 33).halves, (readJob 33).unsettled = false ∧ h.kind ≠ 3 ∧ 32 < h.clips) ∧ (readJob 33).drive = some 0 ∧
      0 + 4 * (readJob 33).strokes + 1 ≤ s.spin.tick) :=
  ⟨⟨flying (fly 0x10 .none (.read (readJob 32))), _, rfl, rfl, rfl, by decide, rfl, rfl, by decide⟩,
    ⟨(let s := flying (fly 0x10 .none (.read (readJob 33)))
      { s with spin := { s.spin with tick := 5 } }), _, rfl, rfl, rfl, rfl, by decide, rfl, by decide⟩⟩

theorem test_digits : (-112 : Int) ≤ -112 ∧ highDigit (-112) = -7 ∧ lowDigit (-112) = -7 ∧ highDigit 8 = 1 ∧ lowDigit 8 = -7 ∧ highDigit (-8) = -1 := by
  decide

/-- An untrimmed ADC gives codes and clips. -/
theorem test_accumulators : (∃ x ∈ [(15, (7 : Int)), (1, 128)], adcCode 0 x.2 = none) ∧ (∀ x ∈ [(15, (127 : Int)), (1, -127)], adcCode 0 x.2 ≠ none) ∧
    adcCode 0 127 = some 127 := by decide +kernel

/-- A TRUE of the record at word 0, opened or not. -/
def trueJob (opened : Bool) (replay : List (Nat × Int)) : TrueJob :=
  { record := 0, written := 0, kind := 0, flags := 0, engine := 0, phys := 0, deck := 0, burnish := 0, q := 0, parts := [], signs := [], adds := []
    exact := [], split := [], checks := [], exactChecks := [], splitChecks := [], residuals := [], compare := [], replay := replay, chosen := []
    got := [], overCap := false, added := 0, refs := [], weight := 1, left := [], opened := opened
    inputs := ⟨0, 0, 0, false, 0, 0, [], 0, [], []⟩ }

/-- A request of the recompute service, for an exact value or a paired sample. -/
def request (paired : Bool) : Request :=
  { id := 4, part := pk, record := 0, engine := 0, phys := 0, deck := 0, col := 0, extra := false, paired := paired, group := none
    inputs := ⟨0, 0, 0, false, 0, 0, [], 0, [], []⟩, acc := 0, weight := 1, queued := 0, counted := false, started := some 0 }

/-- The machine with the request in stack 0's service, 12 indices later. -/
def requested (paired : Bool) : State :=
  let s := running part
  { s with plans := { s.plans with queues := [(0, [request paired])] }, spin := { s.spin with tick := 12 } }

theorem test_true_stages :
    (∃ s f, flyAt s 0 = some f ∧ f.body = .true (trueJob false []) ∧ f.due ≤ s.spin.tick ∧ earlierTrue s f = false) ∧
    (∀ paired, request paired ∈ serviceOf (requested paired) 0 ∧
      (∀ r ∈ serviceOf (requested paired) 0, r.id = 4 → r = request paired) ∧ 0 + 12 ≤ (requested paired).spin.tick) ∧
    (∃ s f, flyAt s 0 = some f ∧ f.body = .true (trueJob true [(3, 1)]) ∧
      (trueJob true [(3, 1)]).replay.find? (fun x => x.1 == 3) = some (3, 1) ∧ replayReady (trueJob true [(3, 1)]) 3 = false) ∧
    replayReady { trueJob true [(3, 1)] with got := (3003, 0) :: (List.range 512).map fun c => (c, 0) } 3 = true :=
  ⟨⟨flying (fly 0x24 .none (.true (trueJob false []))), _, rfl, rfl, by decide, by decide +kernel⟩,
    fun paired => ⟨List.mem_singleton.2 rfl, fun _ h _ => List.mem_singleton.1 h, Nat.le_refl 12⟩,
    ⟨flying (fly 0x24 .none (.true (trueJob true [(3, 1)]))), _, rfl, rfl, rfl, by decide +kernel⟩, by decide +kernel⟩

/-- A transfer is next in its channel. -/
def transferring (f : Fly) : State :=
  let s := flying f
  { s with mem := { s.mem with order := [(channelKey f, [0])] } }

theorem test_transfers :
    (let f := fly 0x32 .none (.memRead 0 0 32 0)
     flyAt (transferring f) 0 = some f ∧ f.due ≤ (transferring f).spin.tick ∧
      (tget [] (transferring f).mem.order (channelKey f)).head? = some 0) ∧
    (let f := fly 0x33 .none (.memWrite 0 0 (zeros 32))
     flyAt (transferring f) 0 = some f ∧ f.due ≤ (transferring f).spin.tick ∧
      (tget [] (transferring f).mem.order (channelKey f)).head? = some 0) := by
  decide +kernel
/-! ### Contexts, barriers, waits, stores -/

/-- A step of slot 0, empty or not. -/
def step0 (empty : Bool) : Machine.Step :=
  { slot := 0, kind := 0, empty := empty, sess := none, ctx := none, job := 0, replay := none, base := 0, cpos := 0, seed := 0, sid := 0, avail := 0
    final := false, tokens := [], tree := [], adapter := none, bank := 0, delta := 0, run := 0 }

/-- The machine with an operation in flight, and step `x` in slot 0, at its due index or before. -/
def stepping (x : Machine.Step) (f : Fly) : State :=
  let s := running { part with steps := [x] }
  { s with plans := { s.plans with flies := [(0, some f)] }, serve := { Serve.reset with ctxs := [(6 * 2 ^ 32 + 1, some ctx6)] } }

/-- An ATTEND that holds what it read. -/
def attending (due : Nat) : Fly := { fly 0x41 .none (.held (List.replicate 7 [])) with due := due }

theorem test_attend :
    (flyAt (stepping (step0 true) (attending 1)) 0 = some (attending 1) ∧ (stepping (step0 true) (attending 1)).spin.tick < (attending 1).due) ∧
    (attending 0).due ≤ (stepping (step0 true) (attending 0)).spin.tick ∧
    (attendOut (stepping (step0 true) (attending 0)) (attending 0) (List.replicate 7 [])).isSome = true ∧
    (attendOut (stepping (step0 false) (attending 0)) (attending 0) (List.replicate 7 [])).isNone = true := by decide +kernel

theorem test_kv_append :
    let f := fly 0x42 .none (.kv (6 * 2 ^ 32 + 1) 0 [(0, [1]), (1, [2])])
    let s := stepping (step0 false) f
    flyAt s 0 = some f ∧ f.due ≤ s.spin.tick ∧ (partAt s (slotPart s f.part (opBits f.op 47 34))).isSome = true ∧ (ctxAt s (6 * 2 ^ 32 + 1)).isSome = true ∧
      (stepOf s f.part (opBits f.op 47 34)).isSome = true ∧ ((ctxAt s (6 * 2 ^ 32 + 1)).bind fun c => c.group 0).isSome = true ∧
      ([(0, [1]), (1, [2])] : List (Nat × Bytes)).Pairwise (fun a b => a.1 ≠ b.1) := by decide +kernel

/-- BARRIER_ARRIVE at barrier 3, of two participants, from unit 0 of stack 0. -/
def arriveOp (code : Nat) : PlanOp := { op code 2 with opnd := 3#80 }

/-- The machine with that operation due, at a number of arrivals of the unit and a state of the barrier. -/
def arriving (code arrivals : Nat) (b : Barrier) : State :=
  let s := dueState (arriveOp code)
  { s with plans := { s.plans with loaded := [(planKey 5 1, some { plan 2 with
      arrivals := [(unitPos 0 (arriveOp code) * 4096 + 3, arrivals)], barriers := [(3, some b)] })] } }

theorem test_arrivals :
    -- distances 0, 1, 2, 32,767 and 32,768
    ∀ a ∈ [5, 6, 7, 5 + 32767, 5 + 32768], ∃ q, tget none (arriving 0x50 a ⟨5, 0, 0, 0, []⟩).plans.loaded (pk / 16) = some q ∧
      tget 0 q.arrivals (unitPos 0 (arriveOp 0x50) * 4096 + 3) = a ∧ (barrierAt q 3).g = 5 ∧ (barrierDef q 3).map (·.scope) = some 0 ∧
      partOfStack (arriving 0x50 a ⟨5, 0, 0, 0, []⟩) 0 = some (pk, partWith (arriveOp 0x50)) ∧
      flyAt (arriving 0x50 a ⟨5, 0, 0, 0, []⟩) (arriving 0x50 a ⟨5, 0, 0, 0, []⟩).plans.nextFly = none := by
  intro a ha
  refine ⟨{ plan 2 with arrivals := [(unitPos 0 (arriveOp 0x50) * 4096 + 3, a)], barriers := [(3, some ⟨5, 0, 0, 0, []⟩)] }, rfl, ?_⟩
  simp only [List.mem_cons, List.not_mem_nil, or_false] at ha
  rcases ha with rfl | rfl | rfl | rfl | rfl <;> decide +kernel

theorem test_generations : (0 < 2 ∧ 5 < 65536 ∧ 1 < 2) ∧ (2 ≤ (⟨5, 2, 1, 0, []⟩ : Barrier).c0 ∧ (⟨5, 2, 1, 0, []⟩ : Barrier).c1 < 2) ∧
    (2 ≤ (⟨65535, 2, 2, 0, []⟩ : Barrier).c0 ∧ 2 ≤ (⟨65535, 2, 2, 0, []⟩ : Barrier).c1) := by decide

theorem test_barrier_waits :
    (∃ q, tget none (arriving 0x51 6 ⟨5, 0, 0, 0, []⟩).plans.loaded (pk / 16) = some q ∧
      partOfStack (arriving 0x51 6 ⟨5, 0, 0, 0, []⟩) 0 = some (pk, partWith (arriveOp 0x51))) ∧
    (let f := fly 0x51 (.release 5) (.barrier 3 5)
     flyAt (flying f) 0 = some f ∧ f.body = .barrier 3 5 ∧ f.wait = .release 5 ∧ (tget none (flying f).plans.loaded (f.part / 16)).isSome = true) := by
  refine ⟨⟨{ plan 2 with arrivals := [(unitPos 0 (arriveOp 0x51) * 4096 + 3, 6)], barriers := [(3, some ⟨5, 0, 0, 0, []⟩)] }, rfl, ?_⟩, ?_⟩ <;>
    decide +kernel

theorem test_waits :
    (let f := fly 0x20 .none .fresh
     flyAt (flying f) 0 = some f ∧ f.wait = .none) ∧
    (let f := { fly 0x20 (.guard [0]) .fresh with stall := 8192 }
     flyAt (flying f) 0 = some f ∧ stalledOut (flying f) f = true) ∧
    (let f := fly 0x20 (.guard [0]) .fresh
     flyAt (flying f) 0 = some f ∧ stalledOut (flying f) f = false ∧ f.wait = .guard [0]) ∧
    (let f := fly 0x20 (.fill [0]) (.out [(0, zeros 32)])
     flyAt (flying f) 0 = some f ∧ stalledOut (flying f) f = false ∧ f.wait = .fill [0] ∧ f.body = .out [(0, zeros 32)]) ∧
    (let f := fly 0x10 (.fill [0]) (.read (readJob 0))
     flyAt (flying f) 0 = some f ∧ stalledOut (flying f) f = false ∧ f.wait = .fill [0] ∧ f.body = .read (readJob 0)) ∧
    (let f := fly 0x24 (.fill [0]) (.true (trueJob true []))
     flyAt (flying f) 0 = some f ∧ stalledOut (flying f) f = false ∧ f.wait = .fill [0] ∧ f.body = .true (trueJob true []) ∧
      ¬(0 ∈ (trueJob true []).left ∧ earlierTrue (flying f) f = true)) ∧
    (let f := fly 0x50 .arrival (.barrier 3 2)
     flyAt (flying f) 0 = some f ∧ stalledOut (flying f) f = false ∧ f.wait = .arrival ∧ f.body = .barrier 3 2 ∧ (tget none (flying f).plans.loaded (f.part / 16)).isSome = true) := by
  decide +kernel

/-- Two TRUEs of a unit whose first writes come in one index, the earlier of them refused. -/
theorem test_overtaking :
    let f := fly 0x24 .none (.true { trueJob true [] with left := [0] })
    let w := fun (id issue : Nat) => ((.op id, ⟨id, 7, issue, 0, true, [(0, zeros 32)]⟩) : Landing × PendWrite)
    let s := { up with plans := { up.plans with flies := [(0, some f), (1, some f)] } }
    overtakes s [w 0 0] (w 1 1) = true ∧ overtakes s [] (w 1 1) = false := by decide +kernel

/-- A frame that stands before link 0, whose slots the partition holds or does not. -/
def grain : GrainFrame := ⟨9, 0, pk, 0, 0, 1, [0], [], false, 0, false⟩
def sending (links : List LinkRes) : State :=
  let q := plan 2
  let s := running { part with d := { part.d with links := links } }
  { s with
    plans := { s.plans with loaded := [(planKey 5 1, some { q with d := { q.d with parts := [{ part.d with links := links }] } })] }
    net := { s.net with frames := [grain] } }

theorem test_grain_frames :
    (sending []).net.frames.find? (fun h => h.id == 9) = some grain ∧ grainCan (sending []) grain = false ∧
    grainCan (sending [⟨0, 0xFFFF, 1⟩]) grain = true ∧
    linkRetrains (sending []) 0 = false ∧ linkRetrains { up with host := { up.host with stackResets := [(0, 1)] } } 0 = true ∧
    flyAt (flying (fly 0x30 .none (.send 1))) grain.fly = some (fly 0x30 .none (.send 1)) ∧
    flyAt (flying (fly 0x30 .link (.send 1))) grain.fly = some (fly 0x30 .link (.send 1)) := by decide +kernel

/-! ### The spindle and passes -/

theorem test_index_boundary : indexOpen (dueState (op 0 1)) = true ∧ (indexOpen up = false ∧ up.phys.pwrGood = true) ∧
    { up.phys with pwrGood := false }.pwrGood = false := by decide +kernel

/-- Tiles of a core store, a token log and an adapter's image that may fail. -/
theorem test_failing_tiles :
    (partOfStack (dueState (op 0 1)) (wordStack 5) = some (pk, partWith (op 0 1)) ∧ partAt (dueState (op 0 1)) pk = some (partWith (op 0 1))) ∧
    ctxAt serving (6 * 2 ^ 32 + 1) = some ctx6 ∧ (tget none serving.model.adapters 257).isSome = true := by
  refine ⟨⟨rfl, rfl⟩, rfl, by decide +kernel⟩

theorem test_frames_and_markers : (withPlan 0).spin.state ≠ 0 ∧ (withPlan 0).spin.source = 1 ∧ 2 ^ 51 - 1 < 2 ^ 51 ∧ 0xD2 < 2 ^ 8 ∧
    (let s := { up with spin := { up.spin with state := 1, source := 2, port := 4 }, net := { up.net with conns := [(4, some { connAt up 4 with state := 4 })] } }
     s.spin.state ≠ 0 ∧ s.spin.source = 2 ∧ (connAt s s.spin.port).state = 4) ∧ (0 : Nat) ≠ crc16 [] % 2 ^ 16 := by decide +kernel

theorem test_spindle_stops :
    (let s := { up with spin := { up.spin with state := 1, selfStart := some (0, 0) } }
     s.spin.selfStart = some (0, 0) ∧ s.spin.state = 1) ∧
    ((withPlan 0).spin.state = 2 ∧ (withPlan 0).spin.source ≠ 3) ∧ up.spin.state ≠ 2 ∧ { up.spin with state := 3 }.state = 3 := by decide

/-- The armed plan at a turn boundary. -/
def armed : State :=
  let s := withPlan 1
  { s with
    plans := { s.plans with loaded := [(planKey 5 1, some { plan 1 with waiting := [0] })] }
    spin := { s.spin with atTurn := true } }

/-- A pass whose turns are gone at a turn boundary. -/
def overdue : State :=
  let s := running { part with p := 8192, ending := true }
  { s with spin := { s.spin with atTurn := true, count := 8192 } }

theorem test_passes :
    (∃ q d, tget none armed.plans.loaded (5 * 65536 + 1) = some q ∧ q.d.parts.find? (fun d => d.part == 0) = some d ∧ q.state = 1 ∧
      0 ∈ q.waiting ∧ q.stop = none ∧ armed.spin.atTurn = true ∧ armed.spin.state = 2 ∧ q.startTurn ≤ armed.spin.count / 8192 ∧
      parts armed = [] ∧ partBusy armed d = false ∧ nextBoundary armed ((5 * 65536 + 1) * 16) = true ∧ d.part = 0) ∧
    (∃ q d, tget none (withPlan 1).plans.loaded (5 * 65536 + 1) = some q ∧ q.d.parts.find? (fun d => d.part == 0) = some d ∧
      0 ∉ q.waiting ∧ d.part = 0) ∧
    (∃ p, tget none overdue.plans.parts ((5 * 65536 + 1) * 16) = some p ∧ overdue.spin.atTurn = true ∧ overdue.spin.state = 2 ∧ p.ending = true ∧
      nextBoundary overdue ((5 * 65536 + 1) * 16) = true ∧ p.due = [] ∧ p.d.turns * 8192 - p.d.slack ≤ p.p ∧
      p.start + p.d.turns * 8192 ≤ overdue.spin.count ∧ fliesOf overdue ((5 * 65536 + 1) * 16) = [] ∧ overdue.plans.queues = []) ∧
    (∃ p, tget none (running part).plans.parts ((5 * 65536 + 1) * 16) = some p ∧ ¬((running part).spin.atTurn = true)) := by
  refine ⟨⟨_, _, rfl, rfl, rfl, ?_, rfl, rfl, rfl, ?_, rfl, ?_, ?_, rfl⟩, ⟨_, _, rfl, rfl, ?_, rfl⟩, ⟨_, rfl, rfl, rfl, rfl, ?_, rfl, ?_, ?_, rfl, rfl⟩,
    ⟨_, rfl, ?_⟩⟩ <;> decide +kernel
/-! ### Loops, probes, tests, chunks -/

/-- A deck of engine 0 being written, at a row. -/
def deckWrite (row : Nat) : DeckWrite :=
  { engine := 0, deck := 2, image := 9, version := 1, index := 0, bank := 0, planDeck := 0, install := none, hone := none, entry := zeros 128
    writing := true, row := row, again := false, prints := 0, failed := false, phi := [] }
def programming (row : Nat) (loops : Tab (Option LoopRun)) (probes : Tab (Option ProbeRun)) : State :=
  { trimmed with model := { Model.reset with writes := [deckWrite row], loops := loops, probes := probes } }

theorem test_loops_and_probes :
    (let s := programming 0 [] []
     engineIdle s 0 = true ∧ stackHeld s (engineStack 0) = false ∧ (tvals s.model.loops).length < loopCap s.spin.power ∧
      engineQuiet s 0 2 25002 = true ∧ (nextLoop s 0).isSome = true ∧ nextLoop s 4 = none) ∧
    (let s := programming 1024 [] []
     engineIdle s 0 = true ∧ engineQuiet s 0 0 8 = true ∧ strokesLow s (engineStack 0) = true ∧ calibrated s (engineStack 0) = true ∧
      (nextProbe s 0).isSome = true) ∧
    (let s := programming 5 [(0, some ⟨2, 5, none, 0⟩)] []
     tget none s.model.loops 0 = some ⟨2, 5, none, 0⟩ ∧ s.model.writes = [deckWrite 5] ∧ (deckWrite 5).row = 5) ∧
    (let s := programming 5 [(0, some ⟨2, 5, some 512, 0⟩)] []
     tget none s.model.loops 0 = some ⟨2, 5, some 512, 0⟩ ∧ tget none s.model.loops 1 = none) ∧
    (let s := programming 1024 [] [(0, some ⟨2, false, .factors, 0, 0⟩)]
     let late := { s with spin := { s.spin with tick := 8 } }
     tget none s.model.probes 0 = some ⟨2, false, .factors, 0, 0⟩ ∧ s.spin.tick < 0 + 8 ∧ 0 + 8 ≤ late.spin.tick) := by
  decide +kernel

theorem test_hone_tests_done : (639 < 640) ∧ tget 0 up.integ.cores 639 ≠ 3 ∧
    tget 0 { up.integ with cores := [(639, 3)] }.cores 639 = 3 ∧ deckState up (gea 0 639 3 * 32 + 0) = 0 := by decide +kernel

/-- An install of a manifest with one chunk of 4 bytes. -/
def chunkManifest : Bytes := zeros 16 ++ le 4 0 ++ le 4 1 ++ zeros 40 ++ le 8 4 ++ zeros 184 ++ zeros 32
def installing (chunks : Nat) : Install :=
  { tag := 0, image := 9, version := 1, bank := 0, restore := false, rewrite := false, place := [], stream := [], chunks := chunks, taken := 0
    copied := false, made := 0, written := 0, restored := 0, shared := 0, read := none }
def withInstall (chunks : Nat) : State :=
  { up with model := { Model.reset with manifests := [⟨9, 1, 7, chunkManifest, [], none, []⟩], installs := [installing chunks] } }

theorem test_chunks :
    (∀ x ∈ (withInstall 1).model.installs, ∀ m, manifestOf (withInstall 1) x.image x.version = some m → mfChunks m.raw ≤ x.chunks) ∧
    ((withInstall 0).phys.link = true ∧
      ∃ m, (withInstall 0).model.installs = installing 0 :: [] ∧ manifestOf (withInstall 0) 9 1 = some m ∧ (installing 0).chunks < mfChunks m.raw) ∧
    { (withInstall 0).phys with link := false }.link = false := by
  refine ⟨fun x hx m hm => ?_, ⟨rfl, ⟨9, 1, 7, chunkManifest, [], none, []⟩, rfl, by decide +kernel, by decide +kernel⟩, rfl⟩
  obtain rfl := List.mem_singleton.1 hx
  have : manifestOf (withInstall 1) 9 1 = some ⟨9, 1, 7, chunkManifest, [], none, []⟩ := by decide +kernel
  obtain rfl := Option.some.inj (this.symm.trans hm)
  decide +kernel

/-- A command that installs. -/
theorem test_install_faults :
    let s := held (pkt 0x0302 7 []) (withInstall 0)
    (tget none s.host.fetched 0).isSome = true ∧ installAt s 0 = some (installing 0) := by decide +kernel

/-- Engine 0's ADC 131 measured once, and another ADC not. -/
theorem test_self_calibration_results :
    let rs : List AdcResult := [⟨0, 131, 0, 0, false⟩]
    (∃ x ∈ rs, (x.engine, x.adc) = (0, 131) ∧ ∀ y ∈ rs, (y.engine, y.adc) = (0, 131) → y = x) ∧
      (∀ x ∈ rs, (x.engine, x.adc) ≠ (0, 0)) ∧ 0 % 4096 < 2560 := by decide

theorem test_self_calibration : up.conv.runs = [] ∧ (∃ r rest, { up.conv with runs := [⟨0, 1⟩] }.runs = r :: rest ∧ (r : CalRun).mask.testBit 0 = true) :=
  ⟨rfl, ⟨0, 1⟩, [], rfl, by decide⟩

/-! ### Monitors -/

/-- Monitor 0 in a condition. -/
def monitored (m : Mon) : State := { up with conv := { Conv.reset with mons := [(0, some m), (1, some (freshMon (defaultTable 1)))] } }

/-- A monitor with one entry, of an on-die supply channel. -/
def mon1 : Mon := freshMon [monEntry 2 0 1 0 2850 3150 30 1 2 false]

/-- A monitor with one entry, of the first reference column. -/
def monRef : Mon := freshMon [monEntry 4 0 1 0 0 4095 0 0 0 false]

theorem test_monitor_conversions :
    converting up 0 = false ∧ converting (monitored mon1) 0 = true ∧ (monAt (monitored mon1) 0).urgentNow = false ∧
    (monAt (monitored mon1) 0).suspended = false ∧ (monAt (monitored mon1) 0).interleave = false ∧
    (monAt (monitored { mon1 with urgentNow := true }) 0).urgentNow = true ∧
    (let s := monitored { mon1 with interleave := true, oddNext := true }
     converting s 0 = true ∧ (monAt s 0).interleave = true ∧ (monAt s 0).oddNext = true) ∧
    (let s := { up with conv := { Conv.reset with mons := [(0, some { mon1 with interleave := true, oddNext := true }), (1, some { mon1 with suspended := true })] } }
     converting s 1 = true ∧ (monAt s 1).urgentNow = false ∧ (monAt s 1).suspended = true) ∧ underway (monitored mon1) 0 = true ∧
    ((channelNow (monitored mon1) 0).bind (refEngine 0) = none ∧ canEnd (monitored mon1) 0 false = true) ∧
    -- a read reference, with its probe over and without one
    (let s := monitored { monRef with probed := true, probe := some (0, 0) }
     (channelNow s 0).bind (refEngine 0) = some 0 ∧ canEnd s 0 false = false ∧
      canEnd { s with spin := { s.spin with tick := 6 } } 0 false = true) ∧
    (let s := monitored { monRef with asked := some 0 }
     (channelNow s 0).bind (refEngine 0) = some 0 ∧ canEnd s 0 true = false ∧
      canEnd { s with spin := { s.spin with tick := 8192 } } 0 true = true) := by
  decide +kernel

theorem test_results_judged :
    (let s := monitored mon1
     ∃ e, (monAt s 0).table[0]? = some e ∧ bits 0x20000 19 16 ≠ 0 ∧ 0 < (monAt s 0).viol.length ∧ (monAt s 0).viol[0]? = some none ∧
      3150 < 3151 ∧ (3151 < e.low ∨ e.high < 3151)) ∧
    (let s := monitored { mon1 with viol := [some ⟨0, true, 4⟩] }
     ∃ e v, (monAt s 0).table[0]? = some e ∧ (monAt s 0).viol[0]? = some (some v) ∧ 0x20000 % 65536 = v.select ∧ v.high = true ∧
      3120 + e.hyst ≤ e.high) :=
  ⟨⟨_, rfl, by decide, by decide, rfl, by decide, by decide⟩, ⟨_, _, rfl, rfl, rfl, rfl, by decide⟩⟩

/-! ### Pages and replays -/

/-- Context 1 of tenant 6 with one page of layer 0 in a tier, and a move of it. -/
def page (tier : Nat) : Page := ⟨tier, 0, [], 0, 0, 1, []⟩
def paged (tier : Nat) (moves : List Move) : State :=
  { serving with serve := { serving.serve with
      ctxs := [(6 * 2 ^ 32 + 1, some { ctx6 with pages := [(pageKey 0 0, some (page tier))] })], moves := moves
      sessions := [(3, some (session 0))], queue := [3] } }

theorem test_pages :
    let k := 6 * 2 ^ 32 + 1
    (∃ c, ctxAt (paged 0 []) k = some c ∧ tget none c.pages (pageKey 0 0) = some (page 0)) ∧ moveOf (paged 0 []) k (pageKey 0 0) = none ∧
    moveOf (paged 0 [⟨k, pageKey 0 0, 1, 0, false⟩]) k (pageKey 0 0) = some ⟨k, pageKey 0 0, 1, 0, false⟩ ∧
    moveOf (paged 1 [⟨k, pageKey 0 0, 2, 0, false⟩]) k (pageKey 0 0) = some ⟨k, pageKey 0 0, 2, 0, false⟩ ∧
    (paged 2 []).phys.link = true ∧ { up.phys with link := false }.link = false ∧ (page 2).tier = 2 ∧ ctxAwaits (paged 2 []) k = true ∧ moveOf (paged 2 []) k (pageKey 0 0) = none := by
  refine ⟨⟨{ ctx6 with pages := [(pageKey 0 0, some (page 0))] }, rfl, rfl⟩, ?_⟩
  decide +kernel

/-- A replay in a state, of the step of session 3. -/
def replay (st turn : Nat) (result : Bytes) : Replay :=
  { part := pk, slot := 0, step := step0 false, sess := session 2, causes := 1, decision := [1], tail := [], cores := [], noTest := false, turn := turn
    state := st, host := none, partner := none, result := result, own := [], updates := [], origin := none }
def replaying (r : Replay) : State := { up with serve := { Serve.reset with replays := [(0, some r)] } }

theorem test_replays :
    (replayAt (replaying (replay 0 0 [])) 0 = some (replay 0 0 []) ∧ (replay 0 0 []).state ≠ 1) ∧
    (replayAt (replaying (replay 1 0 [1])) 0 = some (replay 1 0 [1]) ∧ (replay 1 0 [1]).partner = none ∧ (replay 1 0 [1]).result ≠ []) ∧
    replayOutcome 0 (replay 1 0 []) (replaying (replay 1 0 [])) = none ∧
    (replayOutcome 0 (replay 1 0 [1]) (replaying (replay 1 0 [1])) = some ([1], []) ∧ (replay 1 0 [1]).origin = none) ∧
    (let r := { replay 1 0 [1] with origin := some (9, 4, 1) }
     replayAt (replaying r) 0 = some r ∧ replayOutcome 0 r (replaying r) = some ([1], []) ∧ r.origin ≠ none) ∧
    (replaying (replay 0 0 [])).spin.count / 8192 < (replay 0 0 []).turn + (replaying (replay 0 0 [])).integ.wait ∧
    (let s := { replaying (replay 0 0 []) with spin := { up.spin with count := 256 * 8192 } }
     (replay 0 0 []).turn + s.integ.wait ≤ s.spin.count / 8192) := by decide +kernel

/-- A context without pages, and the replay of a step in it. -/
def ctx9 : Ctx := { ctx6 with pages := [], log := [11, 12] }
def replay9 : Replay :=
  { replay 0 0 [] with step := { step0 false with ctx := some 5, base := 7, tokens := [some 3, none], avail := 2 } }
/-- What module 9 sends of it, and the state that has received it, or another number of its parts. -/
def asking9 (n : Nat) : State :=
  { up with net := { up.net with inbox := ((messageParts 1 4 (replayWords 2 replay9 ctx9)).map fun b => (9, 2, b)).take n } }

/-- A partner's request, once all of it has arrived: a replay waits here with the captured inputs and its context. -/
theorem test_partner_request :
    let t := takeRequests (asking9 1)
    t.net.inbox = [] ∧ (replayAt t 0).map (·.origin) = some (some (9, 4, 2)) ∧
      (replayAt t 0).map (fun r => (r.step.base, r.step.tokens)) = some (7, [some 3, none]) ∧
      (ctxAt t (2 ^ 48)).map (fun c => (c.image, c.log, c.groups)) = some (ctx9.image, ctx9.log, ctx9.groups) := by
  decide +kernel

/-! ### The fabric -/

/-- A port in a state. -/
def ported (c : Conn) : State := setConn 4 c up

/-- A port state with its partner's identity, all zeros. -/
def conn (st : Nat) : Conn := { Conn.blank with state := st, identity := zeros 32 }

/-- An unsealed frame of a type (R372). -/
def openFrame (type : Nat) (pay : Bytes) : Bytes :=
  let b := BitVec.ofNat 8 type :: zeros 15 ++ pay
  b ++ le 4 (crc32c b) ++ zeros 12

/-- A hello of a module or a switch, and a message of an attestation. -/
def hello (kind : Nat) : Bytes := openFrame 1 (zeros 32 ++ le 1 kind ++ zeros 31)
def attFrame (kind : Nat) : Bytes := openFrame 1 (zeros 32 ++ le 1 kind ++ zeros 31)

theorem test_ports :
    (∀ p < 23, (connAt up p).waiting = false) ∧
    (let s := ported { Conn.blank with waiting := true }
     (connAt s 4).waiting = true ∧ ∀ p < 4, (connAt s p).waiting = false) ∧
    (connAt (ported (conn 3)) 4).state = 3 ∧ (connAt (ported (conn 4)) 4).state = 4 ∧ (connAt (ported (conn 5)) 4).state = 5 := by
  decide +kernel

/-- What HellosAreJudged asks of a valid hello. -/
def validHello (s : State) (b : Bytes) : Bool :=
  let p := (b.drop 16).take (b.length - 32)
  crcGood b && decide (frameType b = 1 ∧ p.length = 64 ∧ (byteAt p 32).toNat ≤ 1) && zeroAt p 41 23 && decide (2 ≤ (connAt s 4).state)

theorem test_hellos :
    validHello up (hello 0) = false ∧ (∀ st ∈ [2, 3, 4, 5], validHello (ported (conn st)) (hello 0) = true ∧ (connAt (ported (conn st)) 4).state = st) ∧
    validHello (ported (conn 2)) (hello 1) = true ∧ (byteAt (((hello 1).drop 16).take 64) 32).toNat = 1 ∧
    (byteAt (((hello 0).drop 16).take 64) 32).toNat = 0 := by decide +kernel

/-- An attempt that waits for its partner's messages. -/
def attempting : State := ported { conn 3 with att := some ⟨[], [], [], [], false, [], [], []⟩ }

theorem test_attestation :
    (∀ kind ∈ [0x10, 0x11, 0x12, 0x13], (attMessage attempting 4 (attFrame kind) kind).isSome = true ∧
      (attMessage up 4 (attFrame kind) kind).isNone = true ∧ crcGood (attFrame kind) = true) ∧ crcGood (zeros 31) = false := by decide +kernel

/-- An Attached connection with a frame that was sent `tries` times. -/
def kept (tries : Nat) : Unacked := ⟨2, tries, zeros 32, ⟨4, 4, 4, 0, 0, 0, 0, 0, none, []⟩⟩
def wired (tries : Nat) : State := ported { conn 4 with wire := some ⟨zeros 32, true, 3, 5, [kept tries]⟩ }

theorem test_nacks_and_sealed_frames :
    crcGood (zeros 32) = false ∧ (crcGood (openFrame 1 []) = true ∧ frameType (openFrame 1 []) ≠ 6) ∧ (crcGood (openFrame 6 []) = true ∧ frameType (openFrame 6 []) = 6) ∧
    (∀ tries ∈ [1, 8], (connAt (wired tries) (connFor (wired tries) 4 (openFrame 6 []))).wire =
      some ⟨zeros 32, true, 3, 5, [kept tries]⟩) ∧
    extend 3 (fld (openFrame 6 []) 6 2) ≤ 2 ∧
    (∀ type ∈ [2, 3, 4, 5], frameType (openFrame type []) = type ∧ (connAt (wired 1) (connFor (wired 1) 4 (openFrame type []))).state = 4 ∧
      (connAt up (connFor up 4 (openFrame type []))).state ≠ 4) := by decide +kernel

/-! ### Worked values -/

/-- The example of R430: fuses 7, running version 5. -/
theorem test_svn_example : burnFuses (5 - 3) 7#32 = 0x1F#32 := by decide

/-- The example of R359: a set races the clear of a flag whose counter is 3. -/
theorem test_flag_example :
    let s := { up with bar := { up.bar with syncFlags := 1#6, syncSets := [(0, 3)] } }
    (clearSyncFlags 1#32 1#6 s).bar.syncFlags = 1#6 ∧ tget 0 (clearSyncFlags 1#32 1#6 s).bar.syncSets 0 = 4 := by decide +kernel

/-- The published check value of CRC-32C: that of the digits 1 to 9. -/
theorem test_crc32c : crc32c (ascii "123456789") = 0xE3069283 := by decide +kernel

/-- The digest of "abc" that FIPS 180-4 gives. -/
theorem test_sha256 : fld (sha256 (ascii "abc")).reverse 0 32 = 0xBA7816BF8F01CFEA414140DE5DAE2223B00361A396177A9CB410FF61F20015AD := by
  decide +kernel

/-- The zero-key vector of the GCM submission's test cases: one block of zeros, no additional data. -/
theorem test_gcm_zero_key :
    gcmSeal (zeros 32) (zeros 12) [] (zeros 16) =
      ((le 16 0xCEA7403D4D606B6E074EC5D3BAF39D18).reverse, (le 16 0xD0D1C8A799996BF0265B98B5D48AB919).reverse) ∧
    gcmOpen (zeros 32) (zeros 12) [] (le 16 0xCEA7403D4D606B6E074EC5D3BAF39D18).reverse (zeros 16) = none := by decide +kernel
/-! ### Well-formedness -/

/-- For each check of WellFormed one command that it refuses. -/
theorem test_ill_formed_small :
    -- functions, stacks, ports, engines, monitors, queues
    (Instr.configRequest 32).wf = false ∧ (Instr.functionLevelReset 0).wf = false ∧ (Instr.honeTestsDone 16 0 0).wf = false ∧
    (Instr.fecLockLoss 23).wf = false ∧ (Instr.probeReadStart 65536).wf = false ∧ (Instr.probeReadStart 2560).wf = false ∧
    (Instr.monitorDelayEnd 34).wf = false ∧ (Instr.sqTail 0 64 0).wf = false ∧ (Instr.sqTail 0 0 (2 ^ 32)).wf = false ∧
    -- packets, frames, lists
    (Instr.commandFetch 0 (zeros 63)).wf = false ∧ (Instr.dritarHello 0 (zeros 31)).wf = false ∧ (Instr.dritarMarker 0 (zeros 15)).wf = false ∧
    (Instr.fecLock 0 [1]).wf = false ∧ (Instr.spdmGetVersion 0 (zeros 3)).wf = false ∧
    -- cut-list words
    (Instr.nop 0 { op 0 0 with offset := 2 ^ 20 }).wf = false ∧ (Instr.nop 0 (op 0 16)).wf = false ∧
    (Instr.nop 0 { op 0 0 with unit := 4096 }).wf = false ∧ (Instr.nop 0 (op 256 0)).wf = false ∧ (Instr.nop 16 (op 0 0)).wf = false ∧
    -- partitions
    (Instr.planStart ⟨2 ^ 32, 0, 0⟩).wf = false ∧ (Instr.passBoundary ⟨0, 65536, 0⟩).wf = false ∧ (Instr.stallLimit ⟨0, 0, 16⟩).wf = false := by
  decide +kernel

theorem test_ill_formed_ranges :
    -- failed accesses
    (Instr.hostAccessFault (.ring 3 0 0)).wf = false ∧ (Instr.hostAccessFault (.ring 0 64 0)).wf = false ∧
    (Instr.hostAccessFault (.ring 2 8 0)).wf = false ∧ (Instr.hostAccessFault (.ring 0 0 (2 ^ 64))).wf = false ∧
    (Instr.hostAccessFault (.record 64 0)).wf = false ∧ (Instr.hostAccessFault (.record 0 (2 ^ 64))).wf = false ∧
    -- what CAL_SELF measured
    (Instr.calSelfDone 0 [⟨2560, 0, 0, 0, false⟩]).wf = false ∧ (Instr.calSelfDone 0 [⟨0, 132, 0, 0, false⟩]).wf = false ∧
    -- registers, rates, causes, codes, cores, pages
    (Instr.lowWordRead 0 4).wf = false ∧ (Instr.registerWrite 0 6 0 4 0).wf = false ∧ (Instr.registerWrite 0 0 (2 ^ 32) 4 0).wf = false ∧
    (Instr.registerWrite 0 0 0 9 0).wf = false ∧ (Instr.linkReturn 256 16).wf = false ∧ (Instr.linkRateChange 32 256).wf = false ∧
    (Instr.analogueTrip 4).wf = false ∧ (Instr.fatalFault 0 0).wf = false ∧ (Instr.fatalFault 6 0).wf = false ∧
    (Instr.monitorConversionEnd 0 4096 false).wf = false ∧ (Instr.honeTestsDone 0 640 0).wf = false ∧
    (Instr.indexBoundary [.store 436207616]).wf = false ∧ (Instr.indexBoundary [.log (2 ^ 48)]).wf = false ∧
    (Instr.indexBoundary [.adapter (2 ^ 32)]).wf = false ∧ (Instr.indexBoundary [.area 4 [⟨0, 0, 0⟩] 0 0]).wf = false ∧
    (Instr.indexBoundary [.area 10 [⟨0, 0, 0⟩] 0 0]).wf = false ∧ (Instr.indexBoundary [.area 5 [⟨0, 0, 16⟩] 0 0]).wf = false ∧
    (Instr.indexBoundary [.area 5 [⟨0, 0, 0⟩] 32 0]).wf = false ∧ (Instr.indexBoundary [.hub 4095]).wf = false ∧
    (Instr.indexBoundary [.hub 8208]).wf = false ∧
    (Instr.readReplayResolve 0 8).wf = false ∧ (Instr.pageMoveDone 0 4096 0 true).wf = false ∧
    (Instr.coldPageFetchDone 0 0 (2 ^ 20) []).wf = false ∧ (Instr.attestRetry 40).wf = false := by decide +kernel

theorem test_ill_formed_lengths :
    (Instr.identify ⟨0, List.replicate (2 ^ 32) 0, []⟩).wf = false ∧ (Instr.identify ⟨0, [], List.replicate (2 ^ 64) 0⟩).wf = false ∧
    (Instr.bootFetchDone (List.replicate (2 ^ 32) 0) true).wf = false ∧ (Instr.modelChunkRead (List.replicate 4194305 0)).wf = false := by
  simp only [Instr.wf, CmdIn.wf, List.length_replicate, List.length_nil]
  decide

/-- Well-formed commands at the ends of their ranges. -/
theorem test_well_formed :
    (Instr.functionLevelReset 31).wf = true ∧ (Instr.probeReadStart 63999).wf = true ∧ (Instr.sqTail 31 63 (2 ^ 32 - 1)).wf = true ∧
    (Instr.dritarHello 22 (zeros 32)).wf = true ∧ (Instr.attestRetry 64).wf = true ∧ (Instr.honeTestsDone 15 639 0).wf = true ∧
    (Instr.nop 15 ⟨2 ^ 20 - 1, 4, 4095, 255, true, true, true, 0#80, 0⟩).wf = true := by decide +kernel

/-- The table gives no row bits, so no word spells a command. -/
theorem test_no_word_spells_a_command : decodeTableWord 32 0x0101 = none := rfl

/-- A step takes the front of the queue, and the rest waits. -/
theorem test_step_takes_the_front :
    (match step { up with pending := [.indexBoundary [], .portTrainingStart] } with
      | .next t => t.pending == [.portTrainingStart]
      | _ => false) = true := by decide +kernel
/-! ### Long plan operations -/

/-- An operation of a management core with its source, destination and low operand bits, under both source flags. -/
def lop (code src dst low : Nat) : PlanOp := ⟨0, 3, 0, code, false, true, true, BitVec.ofNat 80 (src * 2 ^ 48 + dst * 2 ^ 16 + low), 0⟩

/-- Word `n` of a stack store as an address, and the words of stack 0's store from byte lists. -/
def sw (n : Nat) : Nat := 2 ^ 31 + n
def stored (l : List (Nat × Bytes)) : Tab Byte := l.foldl (fun m x => mwrite m (32 * (stackBase 0 + x.1)) x.2) []

/-- Full words of stack 0's store. -/
def filled (n : Nat) : List Nat := span (stackBase 0) n

/-- A partition whose slots 0, 1 and 2 are a decode, a prefill and a consolidation slot, with one operation due. -/
def longPart (o : PlanOp) (x : Machine.Step) : Part :=
  { partWith o with d := { part.d with gainBase := sw 900, descBase := sw 1000, slots := [⟨0, 0, 0, 0, 0⟩, ⟨1, 1, 0, 0, 0⟩, ⟨2, 2, 0, 0, 0⟩] }, steps := [x] }

/-- The machine with an operation due, its descriptor at word 1000 and its source at word 0, both of stack 0. -/
def long (o : PlanOp) (x : Machine.Step) (desc src : Bytes) : State :=
  let s := running (longPart o x)
  { s with
    stores := { s.stores with mem := stored [(0, src), (1000, desc)], full := (filled 700).map fun g => (g, true) }
    serve := { Serve.reset with ctxs := [(6 * 2 ^ 32 + 1, some ctx6)] } }

/-- What the statement asks of an operation is asked of this state. -/
def taken0 (o : PlanOp) (x : Machine.Step) (desc src : Bytes) : State := taken 0 o pk (longPart o x) (long o x desc src)
def fly0 (o : PlanOp) (x : Machine.Step) (desc src : Bytes) : Fly := freshFly 0 o pk (long o x desc src)

/-- The operation is due. -/
theorem long_due (o : PlanOp) (x : Machine.Step) (desc src : Bytes) : Due o.code 0 o (long o x desc src) pk (longPart o x) := by
  have h : parts (long o x desc src) = [(pk, longPart o x)] := by rfl
  have h2 : (longPart o x).d.mask = 1 := rfl
  exact ⟨by simp [partOfStack, h, h2], rfl, List.mem_singleton.2 rfl⟩

/-- Its source words, up to 700, are full. -/
theorem long_full (o : PlanOp) (x : Machine.Step) (desc src : Bytes) : ∀ w ∈ filled 700, fullAt (taken0 o x desc src) w = true := by
  have : ∀ w ∈ filled 700, fullAt (taken0 (lop 0 0 0 0) (step0 true) [] []) w = true := by decide +kernel
  exact this

/-- The descriptor and the header of an operation in that state. -/
def descOf (o : PlanOp) (x : Machine.Step) (desc src : Bytes) : Bytes :=
  wordsAt (taken0 o x desc src) (descWord (taken0 o x desc src) (fly0 o x desc src)) 2
def headOf (o : PlanOp) (x : Machine.Step) (desc src : Bytes) : Bytes :=
  wordAt (taken0 o x desc src) (srcWord (taken0 o x desc src) (fly0 o x desc src))

theorem test_long_reads : (∀ code ∈ [0x10, 0x11], ∀ w ∈ span (srcWord (taken0 (lop code (sw 0) (sw 800) 0) (step0 true) [] [])
    (fly0 (lop code (sw 0) (sw 800) 0) (step0 true) [] [])) (inputWords (lop code (sw 0) (sw 800) 0)), w ∈ filled 700) := by decide +kernel

theorem test_long_reductions :
    (let o := lop 0x21 (sw 800) (sw 0) 0
     ∀ w ∈ (coreSources (taken0 o (step0 true) [] []) (fly0 o (step0 true) [] [])).flatMap (fun x => span x.2.1 (trueWords x.2.2)), w ∈ filled 700) ∧
    (let o := lop 0x22 (sw 0) (sw 800) 0
     let t := taken0 o (step0 true) [] []
     let f := fly0 o (step0 true) [] []
     listBad t f (wordsAt t (srcWord t f) 3) = false ∧ contributions t f (wordsAt t (srcWord t f) 3) = some [] ∧
      blocksBad t f (wordsAt t (srcWord t f) 3) [] = false ∧ ∀ w ∈ span (srcWord t f) 3, w ∈ filled 700) := by decide +kernel

/-- A FUSE to BF16 values without biases or a gate, its quotient 1. -/
def fuseDesc : Bytes := [0x23, 0, 2, 0] ++ zeros 12 ++ le 4 0x3F800000

theorem test_long_fuse_and_true :
    (let o := lop 0x23 (sw 0) (sw 800) 0
     let t := taken0 o (step0 true) fuseDesc []
     let f := fly0 o (step0 true) fuseDesc []
     let d := (fuseIssue t f).getD 0 []
     let h := headOf o (step0 true) fuseDesc []
     fuseBad t f d = false ∧ fuseUnfit t f d h (wordAt t (wordOf t 0 (opOwn o) (fld d 24 4))) = false ∧ fuseGated d = false ∧
      ∀ w ∈ span (srcWord t f) (blockWords h), w ∈ filled 700) ∧
    (let o := lop 0x24 (sw 0) (sw 800) 0
     let t := taken0 o (step0 true) [0x24] []
     let f := fly0 o (step0 true) [0x24] []
     let d := descOf o (step0 true) [0x24] []
     let v := drainWords (trueSources t f d (kindOf t f)) t
     let x := formTrue v { f with body := .desc d (kindOf t f) } d (kindOf t f)
     trueBad t f d (kindOf t f) = false ∧ (∀ w ∈ trueSources t f d (kindOf t f), w ∈ filled 700) ∧
      (byteAt d 1).toNat = (if x.flags.testBit 6 = true ∨ kindOf t f = 3 then 0 else ((chuckOf v (bankOf v pk) x.engine x.deck).map channelCount).getD 0)) := by
  decide +kernel

theorem test_long_transfers :
    (let o := lop 0x30 (sw 0) (sw 800) 600
     ∀ w ∈ span (srcWord (taken0 o (step0 true) [] []) (fly0 o (step0 true) [] [])) (opBits o 11 0), w ∈ filled 700) ∧
    (let o := lop 0x31 (sw 0) 0 2
     ∀ w ∈ span (srcWord (taken0 o (step0 true) [] []) (fly0 o (step0 true) [] [])) (32 * opBits o 5 0), w ∈ filled 700) ∧
    -- a transfer of two words of scratch at word 0 of the stack's store, and one beyond its window
    (let o : PlanOp := { lop 0x32 0 0 2 with opnd := BitVec.ofNat 80 (2 ^ 77 + sw 0 * 2 ^ 10 + 2) }
     memPlace (taken0 o (step0 true) [] []) (fly0 o (step0 true) [] []) (memSpace o) (memAddr o) 64 = some (3, 0)) ∧
    (let o : PlanOp := { lop 0x32 0 0 2 with opnd := BitVec.ofNat 80 (2 ^ 77 + 2 ^ 23 * 2 ^ 42 + sw 0 * 2 ^ 10 + 2) }
     memPlace (taken0 o (step0 true) [] []) (fly0 o (step0 true) [] []) (memSpace o) (memAddr o) 64 = none) ∧
    (let o : PlanOp := { lop 0x33 0 0 2 with opnd := BitVec.ofNat 80 (2 ^ 77 + sw 0 * 2 ^ 10 + 2) }
     memPlace (taken0 o (step0 true) [] []) (fly0 o (step0 true) [] []) (memSpace o) (memAddr o) (32 * opBits o 9 0) = some (3, 0) ∧
      ∀ w ∈ span (wordOf (taken0 o (step0 true) [] []) 0 (opOwn o) (opBits o 41 10)) (opBits o 9 0), w ∈ filled 700) := by decide +kernel

/-- A matmul of kind 0 on one input block of BF16 with INT4 weights, its tile at word 100. -/
def mmDesc : Bytes := [0x40, 0, 3, 0, 1, 0, 0, 0] ++ le 4 (sw 100)

theorem test_long_matmul :
    let o := lop 0x40 (sw 0) (sw 800) 0
    let t := taken0 o (step0 true) mmDesc []
    let f := fly0 o (step0 true) mmDesc []
    let d := descOf o (step0 true) mmDesc []
    mmBad t f d = false ∧ mmUnfit t f d (headOf o (step0 true) mmDesc []) = false ∧ mmKind d = 0 ∧
      (∀ w ∈ span (srcWord t f) (mmSource d (headOf o (step0 true) mmDesc [])), w ∈ filled 700) ∧
      ∀ w ∈ span (wordOf t 0 (opOwn o) (fld d 8 4)) (tileWords d), w ∈ filled 700 := by decide +kernel

/-- An ATTEND of one entry and eight queries of head dimension 32 in the step of a context. -/
def attendDesc : Bytes := [0x41, 0] ++ le 2 0 ++ le 2 0 ++ le 2 8 ++ [8, 0, 0, 0] ++ le 4 0x3F800000
def stepIn (slot : Nat) : Machine.Step := { step0 false with slot := slot, ctx := some (6 * 2 ^ 32 + 1) }

theorem test_long_attend :
    let o := lop 0x41 (sw 0) (sw 800) 0
    let src : Bytes := le 2 0 ++ le 2 0 ++ le 2 1
    let t := taken0 o (stepIn 0) attendDesc src
    let f := fly0 o (stepIn 0) attendDesc src
    let d := descOf o (stepIn 0) attendDesc src
    let h := headOf o (stepIn 0) attendDesc src
    let a := askOf d h
    askBad d h = false ∧ a.tree = false ∧ a.back = false ∧ slotEmpty t pk a.slot = false ∧ (∀ e ∈ a.entries, pathOf a [] e ≠ none) ∧
      (∃ sd, slotDefOf t pk a.slot = some sd ∧ ∃ g, attendGroup t { f with body := .held [d] } a = some g ∧
        askShapeBad t { f with body := .held [d] } a g sd.kind = false ∧
        ∀ w ∈ span (srcWord t f) (1 + a.count * a.q * g.dim / 16), w ∈ filled 700) := by
  refine ⟨by decide +kernel, by decide +kernel, by decide +kernel, by decide +kernel, by decide +kernel, ⟨0, 0, 0, 0, 0⟩, by decide +kernel,
    groupAt ctxBlock 0, by decide +kernel, by decide +kernel, by decide +kernel⟩

theorem test_long_kv_append :
    let o := lop 0x42 (sw 0) 0 0
    let src : Bytes := le 2 0 ++ le 2 1
    (∀ x ∈ [stepIn 0, { stepIn 0 with empty := true }], kvUnfit (taken0 o x [0x42] src) (fly0 o x [0x42] src) (descOf o x [0x42] src) (headOf o x [0x42] src) = false ∧
      slotEmpty (taken0 o x [0x42] src) pk (kvSlot o) = x.empty ∧ groupFor (taken0 o x [0x42] src) pk 0 0 = some (groupAt ctxBlock 0) ∧
      stepOf (taken0 o x [0x42] src) pk (kvSlot o) = some x ∧
      ∀ w ∈ span (srcWord (taken0 o x [0x42] src) (fly0 o x [0x42] src)) (kvWords (headOf o x [0x42] src) (some (groupAt ctxBlock 0))), w ∈ filled 700) := by
  decide +kernel

theorem test_long_sample :
    let src : Bytes := le 4 8 ++ le 2 1
    (∀ slot ∈ [1, 2], ∀ e ∈ [true, false],
      let o := lop 0x43 (sw 0) (sw 800) slot
      let x := { stepIn slot with empty := e }
      let t := taken0 o x [] src
      let f := fly0 o x [] src
      let v := nameSlot f slot t
      decideSlot o = slot ∧ slotKind t pk slot = some slot ∧ slotNamed t pk slot = false ∧ sampleUnfit v f (headOf o x [] src) = false ∧
        stepOf v pk slot = some x ∧ ∀ w ∈ span (srcWord t f) 2, w ∈ filled 700) := by decide +kernel

theorem test_long_finish :
    let src : Bytes := le 4 8 ++ zeros 28 ++ le 4 (sw 30)
    let o := lop 0x44 (sw 0) (sw 800) 0
    let t := taken0 o (step0 true) [] src
    let f := fly0 o (step0 true) [] src
    let v := nameSlot f 0 t
    let dir := wordsAt t (stackBase 0) 22
    decideSlot o = 0 ∧ slotKind t pk 0 = some 0 ∧ slotNamed t pk 0 = false ∧ rangeOf v 0 (opOwn o) (opBits o 79 48) 22 = some (stackBase 0) ∧
      dirBad v f dir (((stepOf v pk 0).map (·.tree)).getD []) = false ∧ stepRun v pk 0 = none ∧
      (∀ w ∈ span (stackBase 0) 22, w ∈ filled 700) ∧ wordOf v 0 (opOwn o) (dirPtr dir 0) ∈ filled 700 := by decide +kernel

/-- A gather of one row of one word from the start of scratch, and an adapter update of element 0. -/
def gatherDesc : Bytes := [0x60, 2, 0, 0] ++ le 2 1 ++ le 2 1 ++ le 8 (2 ^ 35) ++ le 4 (sw 800) ++ zeros 4 ++ le 4 1
def updateDesc : Bytes := [0x60, 1]

/-- A job whose adapter has one site of one input block, rank 1. -/
def job0 : Job :=
  { adapter := 1, version := 1, first := 0, last := 1, chunk := 1, epochs := 1, lr := 0, momentum := 0, place := none, sweep := 0, next := 0, steps := 0
    masters := [], momenta := [], form := zeros 14 ++ le 2 1 ++ zeros 2 ++ le 2 1 ++ zeros 48 ++ le 2 32 ++ zeros 60, staged := [], cancel := none }

theorem test_long_tasks :
    (let o := lop 0x60 (sw 0) 0 0
     let t := taken0 o (step0 true) gatherDesc []
     let f := fly0 o (step0 true) gatherDesc []
     gatherBad t f (descOf o (step0 true) gatherDesc []) = false ∧ rangeOf t 0 none (opBits o 79 48) 8 ≠ none ∧
      ∀ w ∈ span (srcWord t f) 8, w ∈ filled 700) ∧
    (let o := lop 0x60 (sw 0) 0 0
     let t := taken0 o (step0 true) updateDesc []
     let d := descOf o (step0 true) updateDesc []
     byteAt d 0 = 0x60#8 ∧ byteAt d 1 = 1#8 ∧ (byteAt d 4).toNat ≤ 1 ∧ zeroAt d 5 3 = true ∧ fld d 8 4 % 256 = 0 ∧ zeroAt d 12 52 = true ∧
      byteAt (headOf o (step0 true) updateDesc []) 2 = 0#8 ∧ rangeOf t 0 none (opBits o 79 48) (blockWords (headOf o (step0 true) updateDesc [])) ≠ none ∧
      (∀ w ∈ span (srcWord t (fly0 o (step0 true) updateDesc [])) (blockWords (headOf o (step0 true) updateDesc [])), w ∈ filled 700) ∧
      updateJob t pk = none ∧ siteAt job0.form (fld d 2 2) = some ⟨1, 65536, 0⟩ ∧
      fld d 8 4 < matrixRows job0.form ⟨1, 65536, 0⟩ (byteAt d 4 == 1#8) * rowElems job0.form ⟨1, 65536, 0⟩ (byteAt d 4 == 1#8)) ∧
    (let o := lop 0x60 (sw 0) 0 0
     let c := { ctx6 with job := some job0 }
     let t := { taken0 o { stepIn 2 with job := 2 } updateDesc [] with serve := { Serve.reset with ctxs := [(6 * 2 ^ 32 + 1, some c)] } }
     updateJob t pk = some (6 * 2 ^ 32 + 1, c, job0, none)) := by decide +kernel

end Sys2Proof.Tests
end

/-!
PROOFS. The driven values of an A8 block and their digits (R96).
-/

namespace Sys2Proof.Machine

/-! ### Words as signed numbers, clamping and rounding -/

theorem signed_toNat {w : Nat} (x : BitVec w) : signed w x.toNat = x.toInt := by
  have hcond : x.toNat < 2 ^ (w - 1) ↔ 2 * x.toNat < 2 ^ w := by
    cases w with
    | zero => simp [BitVec.of_length_zero]
    | succ v => rw [Nat.pow_succ, Nat.add_sub_cancel]; omega
  simp only [signed, hcond, BitVec.toInt_eq_toNat_cond]

theorem clampI_eq_ite {lo hi : Int} (h : lo ≤ hi) (z : Int) :
    clampI lo hi z = if z < lo then lo else if hi < z then hi else z := by
  unfold clampI
  split
  · omega
  · split <;> omega

theorem divAway_of_nonneg {a : Int} (ha : 0 ≤ a) (b : Nat) : divAway a b = (2 * a + b) / (2 * b) := by
  simp [divAway, ha, abs_of_nonneg]

theorem divAway_of_neg {a : Int} (ha : a < 0) (b : Nat) : divAway a b = -((b - 2 * a) / (2 * b)) := by
  have hnum : 2 * |a| + (b : Int) = b - 2 * a := by rw [abs_of_neg ha]; ring
  simp [divAway, not_le.mpr ha, hnum]

/-! ### The driven values of an A8 block -/

theorem driveA8_fst (b : Bytes) (n : Nat) :
    (driveA8 b n).1 = (List.range n).map fun r => clampI (-112) 112 (byteAt b r).toInt := by
  simp [driveA8, signed_toNat]

theorem driveA8_snd_iff (b : Bytes) (n : Nat) :
    (driveA8 b n).2 = true ↔ ∃ r < n, (byteAt b r).toInt < -112 ∨ 112 < (byteAt b r).toInt := by
  simp [driveA8, signed_toNat]

theorem driveA8_getElem? (b : Bytes) {n r : Nat} (h : r < n) :
    (driveA8 b n).1[r]? = some (clampI (-112) 112 (byteAt b r).toInt) := by
  simp [driveA8_fst, h]

/-! ### The digits of an accepted value and their strokes -/

theorem highDigit_eq (a : Int) :
    highDigit a = if 0 ≤ a then (2 * a + 15) / 30 else -((15 - 2 * a) / 30) := by
  split
  case isTrue ha => exact divAway_of_nonneg ha 15
  case isFalse ha => exact divAway_of_neg (not_le.mp ha) 15

/-- Rounding to nearest leaves a rest of at most half of 15, whatever the value. -/
theorem lowDigit_bounds (a : Int) : -7 ≤ lowDigit a ∧ lowDigit a ≤ 7 := by
  rw [lowDigit, highDigit_eq]
  split <;> omega

theorem highDigit_bounds {a : Int} (hlo : -112 ≤ a) (hhi : a ≤ 112) : -7 ≤ highDigit a ∧ highDigit a ≤ 7 := by
  rw [highDigit_eq]
  split <;> omega

theorem strokesOf_a8 (xs : List Int) :
    strokesOf true xs = [(15, xs.all (highDigit · == 0)), (1, xs.all (lowDigit · == 0))] := rfl

theorem all_beq_zero_iff (f : Int → Int) (xs : List Int) :
    xs.all (f · == 0) = true ↔ ∀ x ∈ xs, f x = 0 := by
  simp only [List.all_eq_true, beq_iff_eq]

/-- Settles O45: the block's values are its bytes clamped to ±112, and rounding to nearest bounds both digits. -/
theorem digitsOfA8Values : Obligations.DigitsOfA8Values := by
  refine ⟨fun b n => ⟨?length, fun r hr => ?value, driveA8_snd_iff b n⟩, fun a hlo hhi => ?digits, fun xs => ?strokes⟩
  case length => simp [driveA8_fst]
  case value => rw [driveA8_getElem? b hr, clampI_eq_ite (by decide)]
  case digits =>
    obtain ⟨hhigh, hhigh'⟩ := highDigit_bounds hlo hhi
    obtain ⟨hlow, hlow'⟩ := lowDigit_bounds a
    exact ⟨highDigit_eq a, rfl, hhigh, hhigh', hlow, hlow'⟩
  case strokes =>
    exact ⟨_, _, strokesOf_a8 xs, all_beq_zero_iff highDigit xs, all_beq_zero_iff lowDigit xs⟩

end Sys2Proof.Machine

/-!
PROOFS. The W1C flag registers: settings, clears that a setting races, and reads (R359).
-/

namespace Sys2Proof.Machine

/-! ### A flag register and its set counters -/

/-- What HOST_FLAGS and SYNC_FLAGS have in common: six flags and their set counters. -/
structure FlagReg where
  flags : BitVec 6
  sets : Tab Nat

namespace FlagReg

/-- Hardware sets flag `k`. -/
def set (r : FlagReg) (k : Nat) : FlagReg := ⟨r.flags ||| BitVec.ofNat 6 (2 ^ k), bump r.sets k⟩

/-- Hardware sets flag `k` where `raced` has it. -/
def race (raced : BitVec 6) (r : FlagReg) (k : Nat) : FlagReg := if raced.getLsbD k then r.set k else r

/-- The flags in `which` are cleared with their counters. -/
def clear (r : FlagReg) (which : BitVec 6) : FlagReg := ⟨r.flags &&& ~~~which, clearSets r.sets which⟩

/-- A write of `value`, raced by settings of the flags in `raced`. -/
def write (r : FlagReg) (value : BitVec 32) (raced : BitVec 6) : FlagReg :=
  (List.range 6).foldl (race raced) (r.clear (value.setWidth 6 &&& ~~~raced))

end FlagReg

/-- HOST_FLAGS of a state, and the state with another value of it. -/
def hostReg (s : State) : FlagReg := ⟨s.bar.hostFlags, s.bar.hostSets⟩
def withHostReg (s : State) (r : FlagReg) : State :=
  { s with bar := { s.bar with hostFlags := r.flags, hostSets := r.sets } }

/-- SYNC_FLAGS of a state, and the state with another value of it. -/
def syncReg (s : State) : FlagReg := ⟨s.bar.syncFlags, s.bar.syncSets⟩
def withSyncReg (s : State) (r : FlagReg) : State :=
  { s with bar := { s.bar with syncFlags := r.flags, syncSets := r.sets } }

theorem setHostFlag_eq_withHostReg (k : Nat) (s : State) :
    setHostFlag k s = withHostReg s ((hostReg s).set k) := rfl

theorem setSyncFlag_eq_withSyncReg (k : Nat) (s : State) :
    setSyncFlag k s = withSyncReg s ((syncReg s).set k) := rfl

theorem clearHostFlags_eq_withHostReg (value : BitVec 32) (raced : BitVec 6) (s : State) :
    clearHostFlags value raced s = withHostReg s ((hostReg s).write value raced) := by
  refine List.foldl_hom (withHostReg s) (g₁ := FlagReg.race raced)
    (init := (hostReg s).clear (value.setWidth 6 &&& ~~~raced)) (fun r k => ?_)
  simp only [FlagReg.race]
  split <;> rfl

theorem clearSyncFlags_eq_withSyncReg (value : BitVec 32) (raced : BitVec 6) (s : State) :
    clearSyncFlags value raced s = withSyncReg s ((syncReg s).write value raced) := by
  refine List.foldl_hom (withSyncReg s) (g₁ := FlagReg.race raced)
    (init := (syncReg s).clear (value.setWidth 6 &&& ~~~raced)) (fun r k => ?_)
  simp only [FlagReg.race]
  split <;> rfl

theorem exec_hostFlagsClear {s : State} (hlink : s.phys.link = true) (value : BitVec 32) (raced : BitVec 6) :
    exec (.hostFlagsClear value raced) s = .next (withHostReg s ((hostReg s).write value raced)) := by
  rw [← clearHostFlags_eq_withHostReg]
  exact congrArg _ (if_pos hlink)

theorem exec_syncFlagsClear {s : State} (hlink : s.phys.link = true) (value : BitVec 32) (raced : BitVec 6) :
    exec (.syncFlagsClear value raced) s = .next (withSyncReg s ((syncReg s).write value raced)) := by
  rw [← clearSyncFlags_eq_withSyncReg]
  exact congrArg _ (if_pos hlink)

/-! ### Set counters -/

theorem tget_tmod {α : Type} [DecidableEq α] (d : α) (t : Tab α) (k j : Nat) (f : α → α) :
    tget d (tmod d t k f) j = if j = k then f (tget d t j) else tget d t j := by
  unfold tmod
  split
  case isTrue h => rw [h, tget_tset_self]
  case isFalse h => exact tget_tset_of_ne h

/-- Changing the chosen entries of a list without repetition changes each of them once. -/
theorem tget_foldl_tmod {α : Type} [DecidableEq α] (d : α) (c : Nat → Bool) (f : α → α) (j : Nat) {l : List Nat}
    (hl : l.Nodup) (t : Tab α) :
    tget d (l.foldl (fun t k => if c k then tmod d t k f else t) t) j =
      if j ∈ l ∧ c j = true then f (tget d t j) else tget d t j := by
  induction l generalizing t with
  | nil => simp
  | cons k l ih =>
    obtain ⟨hk, hl⟩ := List.nodup_cons.mp hl
    rw [List.foldl_cons, ih hl]
    by_cases hjk : j = k
    · subst hjk
      by_cases hc : c j = true <;> simp [hk, hc, tget_tmod]
    · by_cases hc : c k = true <;> simp [hjk, hc, tget_tmod]

theorem tget_bump (t : Tab Nat) (k j : Nat) :
    tget 0 (bump t k) j = if j = k then min 255 (tget 0 t k + 1) else tget 0 t j := by
  rw [bump, tget_tmod]
  split
  case isTrue h => rw [h]
  case isFalse => rfl

theorem tget_clearSets (t : Tab Nat) (clear : BitVec 6) {j : Nat} (hj : j < 6) :
    tget 0 (clearSets t clear) j = if clear.getLsbD j then 0 else tget 0 t j := by
  refine (tget_foldl_tmod 0 clear.getLsbD (fun _ => 0) j List.nodup_range t).trans ?_
  simp only [List.mem_range, hj, true_and]

/-! ### Settings and writes of a flag register -/

theorem getLsbD_ofNat_two_pow {k : Nat} (hk : k < 6) (j : Nat) :
    (BitVec.ofNat 6 (2 ^ k)).getLsbD j = decide (j = k) := by
  rw [BitVec.getLsbD_ofNat, Nat.testBit_two_pow]
  by_cases hjk : j = k
  · simp [hjk, hk]
  · simp [hjk, Ne.symm hjk]

namespace FlagReg

theorem set_flags (r : FlagReg) {k : Nat} (hk : k < 6) (j : Nat) :
    (r.set k).flags.getLsbD j = (decide (j = k) || r.flags.getLsbD j) := by
  rw [set, BitVec.getLsbD_or, getLsbD_ofNat_two_pow hk, Bool.or_comm]

theorem set_sets (r : FlagReg) (k j : Nat) :
    tget 0 (r.set k).sets j = if j = k then min 255 (tget 0 r.sets k + 1) else tget 0 r.sets j :=
  tget_bump r.sets k j

theorem race_flags (raced : BitVec 6) (r : FlagReg) {k : Nat} (hk : k < 6) (j : Nat) :
    (race raced r k).flags.getLsbD j = ((decide (j = k) && raced.getLsbD j) || r.flags.getLsbD j) := by
  unfold race
  split
  case isTrue hc =>
    rw [set_flags r hk]
    by_cases hjk : j = k <;> simp [hjk, hc]
  case isFalse hc => by_cases hjk : j = k <;> simp [hjk, hc]

theorem foldl_race_flags (raced : BitVec 6) (j : Nat) {l : List Nat} (hl : ∀ k ∈ l, k < 6) (r : FlagReg) :
    (l.foldl (race raced) r).flags.getLsbD j = ((decide (j ∈ l) && raced.getLsbD j) || r.flags.getLsbD j) := by
  induction l generalizing r with
  | nil => simp
  | cons k l ih =>
    obtain ⟨hk, hl⟩ := List.forall_mem_cons.mp hl
    rw [List.foldl_cons, ih hl, race_flags raced r hk, ← Bool.or_assoc, ← Bool.and_or_distrib_right]
    simp only [List.mem_cons, Bool.decide_or, Bool.or_comm]

theorem foldl_race_sets (raced : BitVec 6) (l : List Nat) (r : FlagReg) :
    (l.foldl (race raced) r).sets = l.foldl (fun t k => if raced.getLsbD k then bump t k else t) r.sets := by
  refine (List.foldl_hom FlagReg.sets (fun r k => ?_)).symm
  simp only [race]
  split <;> rfl

theorem clear_flags (r : FlagReg) (which : BitVec 6) {j : Nat} (hj : j < 6) :
    (r.clear which).flags.getLsbD j = (r.flags.getLsbD j && !which.getLsbD j) := by
  simp only [clear, BitVec.getLsbD_and, BitVec.getLsbD_not, hj, decide_true, Bool.true_and]

theorem clear_sets (r : FlagReg) (which : BitVec 6) {j : Nat} (hj : j < 6) :
    tget 0 (r.clear which).sets j = if which.getLsbD j then 0 else tget 0 r.sets j :=
  tget_clearSets r.sets which hj

/-- Which flags a write clears: those written 1 that no setting races. -/
theorem getLsbD_written (value : BitVec 32) (raced : BitVec 6) {j : Nat} (hj : j < 6) :
    (value.setWidth 6 &&& ~~~raced).getLsbD j = (value.getLsbD j && !raced.getLsbD j) := by
  simp only [BitVec.getLsbD_and, BitVec.getLsbD_setWidth, BitVec.getLsbD_not, hj, decide_true, Bool.true_and]

/-- A raced flag stays set whatever is written; another is cleared where 1 is written. -/
theorem write_flags (r : FlagReg) (value : BitVec 32) (raced : BitVec 6) {j : Nat} (hj : j < 6) :
    (r.write value raced).flags.getLsbD j = (raced.getLsbD j || (r.flags.getLsbD j && !value.getLsbD j)) := by
  rw [write, foldl_race_flags raced j (fun k hk => List.mem_range.mp hk), clear_flags r _ hj, getLsbD_written value raced hj]
  cases raced.getLsbD j <;> simp [hj]

/-- A raced counter is not cleared and increments; another is cleared where 1 is written. -/
theorem write_sets (r : FlagReg) (value : BitVec 32) (raced : BitVec 6) {j : Nat} (hj : j < 6) :
    tget 0 (r.write value raced).sets j =
      if raced.getLsbD j then min 255 (tget 0 r.sets j + 1) else if value.getLsbD j then 0 else tget 0 r.sets j := by
  rw [write, foldl_race_sets]
  refine (tget_foldl_tmod 0 raced.getLsbD _ j List.nodup_range _).trans ?_
  rw [clear_sets r _ hj, getLsbD_written value raced hj]
  cases raced.getLsbD j <;> simp [hj]

end FlagReg

/-! ### Reads of the flag registers -/

/-- The offsets of the 64-bit registers. -/
def wideOffsets : List Nat := [0x08, 0x18, 0x40, 0x48, 0x100]

theorem wideRegister_eq_none (s : State) (fn : Nat) {off : Nat} (h : off ∉ wideOffsets) : wideRegister s fn off = none := by
  simp only [wideOffsets, List.mem_cons, List.not_mem_nil, or_false, not_or] at h
  obtain ⟨h08, h18, h40, h48, h100⟩ := h
  simp [wideRegister, *]

theorem readWord_eq_narrowRegister (s : State) {off : Nat} (hlow : off ∉ wideOffsets) (hhigh : off - 4 ∉ wideOffsets) :
    readWord s 0 off = narrowRegister s off := by
  simp [readWord, wideRegister_eq_none s 0 hlow, wideRegister_eq_none s 0 hhigh, narrowOf]

theorem setCounts_zero (t : Tab Nat) (k : Nat) : setCounts t k 0 = 0 := rfl

theorem setCounts_succ {t : Tab Nat} (ht : ∀ j, tget 0 t j ≤ 255) (k n : Nat) :
    setCounts t k (n + 1) = tget 0 t k + 256 * setCounts t (k + 1) n := by
  have hspan : span k (n + 1) = k :: span (k + 1) n := by
    simp [span, List.range_succ_eq_map, Nat.add_comm, Nat.add_left_comm]
  have hbyte : (BitVec.ofNat 8 (tget 0 t k)).toNat = tget 0 t k :=
    Nat.mod_eq_of_lt (Nat.lt_succ_of_le (ht k))
  rw [setCounts, hspan, List.map_cons, leNat, hbyte, setCounts]

theorem setCounts_two {t : Tab Nat} (ht : ∀ j, tget 0 t j ≤ 255) (k : Nat) :
    setCounts t k 2 = tget 0 t k + 2 ^ 8 * tget 0 t (k + 1) := by
  simp only [setCounts_succ ht, setCounts_zero]
  omega

theorem setCounts_four {t : Tab Nat} (ht : ∀ j, tget 0 t j ≤ 255) (k : Nat) :
    setCounts t k 4 =
      tget 0 t k + 2 ^ 8 * tget 0 t (k + 1) + 2 ^ 16 * tget 0 t (k + 2) + 2 ^ 24 * tget 0 t (k + 3) := by
  simp only [setCounts_succ ht, setCounts_zero, Nat.add_assoc, Nat.reduceAdd]
  omega

/-- Settles O8: both registers set and clear as one flag register does, which changes each flag and counter once. -/
theorem flagsCountTheirSettings : Obligations.FlagsCountTheirSettings := by
  refine ⟨fun s k hk => ?setting, fun s value raced hlink => ?hostClear, fun s value raced hlink => ?syncClear,
    fun s hsets => ?reads⟩
  case setting =>
    simp only [setHostFlag_eq_withHostReg, setSyncFlag_eq_withSyncReg]
    exact ⟨(hostReg s).set_flags hk, (hostReg s).set_sets k, (syncReg s).set_flags hk, (syncReg s).set_sets k, rfl, rfl⟩
  case hostClear =>
    exact ⟨_, exec_hostFlagsClear hlink value raced, rfl, fun j hj =>
      ⟨(hostReg s).write_flags value raced hj, (hostReg s).write_sets value raced hj⟩⟩
  case syncClear =>
    exact ⟨_, exec_syncFlagsClear hlink value raced, rfl, fun j hj =>
      ⟨(syncReg s).write_flags value raced hj, (syncReg s).write_sets value raced hj⟩⟩
  case reads =>
    have hhost := fun j => (hsets j).1
    have hsync := fun j => (hsets j).2
    have hread : ∀ off ∈ [0x80, 0x84, 0x88, 0x90, 0x94, 0x98], readWord s 0 off = narrowRegister s off :=
      fun off hoff => readWord_eq_narrowRegister s (by revert off; decide) (by revert off; decide)
    exact ⟨hread 0x80 (by decide), (hread 0x84 (by decide)).trans (setCounts_four hhost 0),
      (hread 0x88 (by decide)).trans (setCounts_two hhost 4), hread 0x90 (by decide),
      (hread 0x94 (by decide)).trans (setCounts_four hsync 0), (hread 0x98 (by decide)).trans (setCounts_two hsync 4)⟩

end Sys2Proof.Machine

/-!
PROOFS. The registers of a virtual function's BAR0 (R462).
-/

namespace Sys2Proof.Machine

/-! ### Reads of a virtual function's BAR0 -/

section
variable {fn : Nat} (hfn : fn ≠ 0) (s : State)
include hfn

/-- SPINDLE_NOW is the only 64-bit register of a virtual function. -/
theorem wideRegister_vf (off : Nat) : wideRegister s fn off = if off = 0x18 then some s.spin.count else none := by
  rw [wideRegister, if_pos hfn]

/-- The 32-bit registers of a virtual function. -/
theorem readWord_vf_narrow {off : Nat} (hlow : off ≠ 0x18) (hhigh : off ≠ 0x1C) : readWord s fn off =
    if off = 0x00 then partWord else if off = 0x10 then s.phys.state else if off = 0x40 then vfTenant s fn else 0 := by
  have hprev : off - 4 ≠ 0x18 := by omega
  simp [readWord, wideRegister_vf hfn, hlow, hprev, narrowOf, hfn]

theorem readWord_vf_part : readWord s fn 0x00 = readWord s 0 0x00 :=
  calc readWord s fn 0x00 = partWord := readWord_vf_narrow hfn s (by decide) (by decide)
    _ = readWord s 0 0x00 := (readWord_eq_narrowRegister s (off := 0x00) (by decide) (by decide)).symm

theorem readWord_vf_state : readWord s fn 0x10 = s.phys.state :=
  readWord_vf_narrow hfn s (by decide) (by decide)

theorem readWord_vf_tenant : readWord s fn 0x40 = vfTenant s fn :=
  readWord_vf_narrow hfn s (by decide) (by decide)

theorem readWord_vf_spindleNow : readWord s fn 0x18 = s.spin.count % 2 ^ 32 := by
  simp [readWord, wideRegister_vf hfn]

theorem readWord_vf_spindleNow_high : readWord s fn 0x1C = tget 0 s.bar.latches (fn * 65536 + 0x18) := by
  simp [readWord, wideRegister_vf hfn]

/-- A read of the low word of SPINDLE_NOW latches the high word (R458). -/
theorem lowWordRead_vf_latches (hlink : s.phys.link = true) :
    (lowWordRead fn 0x18 s).bar.latches = tset 0 s.bar.latches (fn * 65536 + 0x18) (s.spin.count / 2 ^ 32) := by
  simp [lowWordRead, wideRegister_vf hfn, hlink]

/-- No write reaches a register of a virtual function. -/
theorem registerWrite_vf (bar off size : Nat) (v : BitVec 32) : registerWrite fn bar off size v s = s := by
  simp [registerWrite, hfn]

end

/-- VF_TENANT: 0xFFFF of an unbound function, else its tenant and in bit 16 whether that tenant is protected. -/
theorem vfTenant_eq (s : State) (fn : Nat) : vfTenant s fn =
    if tget 0 s.trust.binds fn = 0 then 0xFFFF
    else tget 0 s.trust.binds fn + if (tenantOf s (tget 0 s.trust.binds fn)).isSome then 0x10000 else 0 := by
  unfold vfTenant
  by_cases hunbound : tget 0 s.trust.binds fn = 0
  · simp [hunbound, b2n]
  · by_cases hprotected : (tenantOf s (tget 0 s.trust.binds fn)).isSome = true <;> simp [hunbound, hprotected, b2n]

theorem exec_lowWordRead (fn off : Nat) (s : State) : exec (.lowWordRead fn off) s = .next (lowWordRead fn off s) := rfl

theorem exec_registerWrite (fn bar off size : Nat) (v : BitVec 32) (s : State) :
    exec (.registerWrite fn bar off size v) s = .next (registerWrite fn bar off size v s) := rfl

/-- Settles O7, register by register: only SPINDLE_NOW has two words, and its high word is the one latched. -/
theorem virtualFunctionRegisters : Obligations.VirtualFunctionRegisters := by
  intro s fn hfn
  refine ⟨readWord_vf_part hfn s, readWord_vf_state hfn s, readWord_vf_spindleNow hfn s, ?spindleHigh,
    (readWord_vf_tenant hfn s).trans (vfTenant_eq s fn), ?reserved, ?writes⟩
  case spindleHigh =>
    intro t ht hlink
    obtain rfl : lowWordRead fn 0x18 s = t := by simpa only [exec_lowWordRead, Host.Outcome.next.injEq] using ht
    rw [readWord_vf_spindleNow_high hfn, lowWordRead_vf_latches hfn s hlink, tget_tset_self]
  case reserved =>
    intro off _ hoff
    simp only [List.mem_cons, List.not_mem_nil, or_false, not_or] at hoff
    obtain ⟨hpart, hstate, hlow, hhigh, htenant⟩ := hoff
    rw [readWord_vf_narrow hfn s hlow hhigh, if_neg hpart, if_neg hstate, if_neg htenant]
  case writes =>
    intro bar off size v
    rw [exec_registerWrite, registerWrite_vf hfn]

end Sys2Proof.Machine

/-!
PROOFS. A completion entry and what its writing changes (R467, R470, R479).
-/

namespace Sys2Proof.Machine

/-! ### Fields of a string put together from little-endian numbers -/

theorem fld_le {len n : Nat} (h : n < 256 ^ len) : fld (le len n) 0 len = n := by
  rw [fld, List.drop_zero, List.take_of_length_le (le_length len n).le, leNat_le h]

/-- The first field of a string. -/
theorem fld_le_append {len n : Nat} (h : n < 256 ^ len) (b : Bytes) : fld (le len n ++ b) 0 len = n := by
  rw [fld, List.drop_zero, List.take_left' (le_length len n), leNat_le h]

/-- A field behind a prefix. -/
theorem fld_append_of_length_le {a : Bytes} {off : Nat} (h : a.length ≤ off) (b : Bytes) (len : Nat) :
    fld (a ++ b) off len = fld b (off - a.length) len := by
  rw [fld, List.drop_append, List.drop_eq_nil_of_le h, List.nil_append, fld]

theorem fld_le_append_of_le {k off : Nat} (h : k ≤ off) (n : Nat) (b : Bytes) (len : Nat) :
    fld (le k n ++ b) off len = fld b (off - k) len := by
  rw [fld_append_of_length_le (by rwa [le_length]), le_length]

/-! ### The bytes of a completion -/

/-- An entry whose last byte is zero has its phase alone in that byte. -/
theorem withPhase_append_zero {a : Bytes} (ha : a.length = 31) (phase : Bool) :
    withPhase (a ++ le 1 0) phase = a ++ le 1 (128 * b2n phase) := by
  have hlast : byteAt (a ++ le 1 0) 31 = 0#8 := by simp [byteAt, ha, le]
  rw [withPhase, hlast, List.take_left' ha]
  simp [le]

/-- The table of a completion's fields (R479). -/
def cplFields (word : Bytes) (status sub result count head sq phase : Nat) : Bytes :=
  word ++ (le 2 status ++ (le 2 sub ++ (le 8 result ++ (le 8 count ++ (le 2 head ++ (le 1 sq ++ (le 4 0 ++ le 1 phase)))))))

theorem withPhase_cplEntry (s : State) {f : Fetched} (hraw : f.raw.length = 64) (status sub result : Nat) (phase : Bool) :
    withPhase (cplEntry s f status sub result) phase =
      cplFields ((f.raw.drop 4).take 4) status sub result (if s.spin.everLocked then s.spin.count else 0) f.head f.sq
        (128 * b2n phase) := by
  have hzeros : zeros 5 = le 4 0 ++ le 1 0 := rfl
  rw [cplEntry, hzeros, ← List.append_assoc, withPhase_append_zero (by simp [hraw])]
  simp only [cplFields, List.append_assoc]

section
variable {word : Bytes} (hword : word.length = 4) {status sub result count head sq phase : Nat}
include hword

theorem cplFields_length : (cplFields word status sub result count head sq phase).length = 32 := by
  simp [cplFields, hword]

theorem cplFields_take_word : (cplFields word status sub result count head sq phase).take 4 = word :=
  List.take_left' hword

/-- Each field reads at its offset as it was written, where it fits its width. -/
theorem cplFields_fields (hstatus : status < 2 ^ 16) (hsub : sub < 2 ^ 16) (hresult : result < 2 ^ 64) (hcount : count < 2 ^ 64)
    (hhead : head < 2 ^ 16) (hsq : sq < 2 ^ 8) (hphase : phase < 2 ^ 8) :
    let e := cplFields word status sub result count head sq phase
    fld e 4 2 = status ∧ fld e 6 2 = sub ∧ fld e 8 8 = result ∧ fld e 16 8 = count ∧ fld e 24 2 = head ∧ fld e 26 1 = sq ∧
      fld e 27 4 = 0 ∧ fld e 31 1 = phase := by
  have behindWord (off len : Nat) (hoff : 4 ≤ off) (b : Bytes) : fld (word ++ b) off len = fld b (off - 4) len := by
    rw [fld_append_of_length_le (by omega), hword]
  refine ⟨?_, ?_, ?_, ?_, ?_, ?_, ?_, ?_⟩ <;>
    simp (disch := omega) only [cplFields, behindWord, fld_le_append_of_le, fld_le_append, fld_le, Nat.reduceSub]

end

/-! ### Writing a completion -/

theorem hostWrite_of_link {s : State} (hlink : s.phys.link = true) (fn addr : Nat) (b : Bytes) :
    hostWrite fn addr b s = { s with out := { s.out with host := s.out.host ++ [⟨fn, addr, b⟩] } } :=
  if_pos hlink

/-- The completion queue after one more entry: the phase toggles where the tail wraps. -/
def Cq.advance (r : Cq) : Cq :=
  { r with tail := (r.tail + 1) % 2 ^ r.exp, phase := if (r.tail + 1) % 2 ^ r.exp = 0 then !r.phase else r.phase }

theorem cqPut_of_link {s : State} {q : Nat} {r : Cq} (hq : tget none s.host.cqs q = some r) (hsound : r.faulted = false)
    (hlink : s.phys.link = true) (e : Bytes) :
    cqPut q e s = { s with
      out := { s.out with host := s.out.host ++ [⟨r.owner, r.base + 32 * r.tail, withPhase e r.phase⟩] }
      host := { s.host with cqs := tset none s.host.cqs q (some r.advance) } } := by
  simp only [cqPut, hq, if_neg (ne_true_of_eq_false hsound), hostWrite_of_link hlink]
  rfl

theorem completeOne_of_link {s : State} {tag : Nat} {f : Fetched} (hf : tget none s.host.fetched tag = some f)
    (hkept : f.lost = false) (hlink : s.phys.link = true) (status sub result : Nat) :
    completeOne tag status sub result s =
      cqPut f.cq (cplEntry s f status sub result) { s with host := { s.host with fetched := tdel s.host.fetched tag } } := by
  simp only [completeOne, hf, hkept, hlink, Bool.false_eq_true, if_false, if_true]

/-- Settles O15: the entry is the table of R479 with the queue's phase; `complete_hostOnly` gives the frame. -/
theorem completionEntryLayout : Obligations.CompletionEntryLayout := by
  refine ⟨?entry, complete_hostOnly⟩
  case entry =>
    intro s tag f r status sub result hf hkept hraw hlink hr hsound hstatus hsub hresult hcount hhead hsq
    have hword : ((f.raw.drop 4).take 4).length = 4 := by simp [hraw]
    have hlocked : (if s.spin.everLocked then s.spin.count else 0) < 2 ^ 64 := by split <;> omega
    have hphase : 128 * b2n r.phase = if r.phase then 128 else 0 := by cases r.phase <;> rfl
    obtain ⟨fstatus, fsub, fresult, fcount, fhead, fsq, fzero, fphase⟩ :=
      cplFields_fields hword hstatus hsub hresult hlocked hhead hsq (phase := 128 * b2n r.phase) (by rw [hphase]; split <;> decide)
    refine ⟨_, cplFields_length hword, cplFields_take_word hword, fstatus, fsub, fresult, fcount, fhead, fsq, fzero,
      fphase.trans hphase, ?_⟩
    rw [completeOne_of_link hf hkept hlink, cqPut_of_link (by exact hr) hsound (by exact hlink), withPhase_cplEntry s hraw]
    rfl

end Sys2Proof.Machine

/-!
PROOFS. What every command keeps: the commands that wait behind it, the canonical memories, the legal boot and fault
registers and the programmed fuses (R427, R459, R461).
-/

namespace Sys2Proof.Machine

/-! ### Fuses -/

/-- SVN_FUSES with its `k` lowest bits programmed (R427). -/
def fuseCode (k : Nat) : BitVec 32 := BitVec.ofNat 32 (2 ^ k - 1)

theorem thermometer_iff (f : BitVec 32) : thermometer f ↔ ∃ k, k ≤ 32 ∧ f = fuseCode k := Iff.rfl

theorem getLsbD_fuseCode {k j : Nat} (hj : j < 32) : (fuseCode k).getLsbD j = decide (j < k) := by
  rw [fuseCode, BitVec.getLsbD_ofNat, Nat.testBit_two_pow_sub_one]
  simp [hj]

/-- The lowest clear fuse of a code. -/
theorem find_clear_fuseCode {k : Nat} (hk : k < 32) :
    (List.range 32).find? (fun j => !(fuseCode k).getLsbD j) = some k := by
  rw [List.find?_range_eq_some]
  refine ⟨by simp [getLsbD_fuseCode hk], List.mem_range.2 hk, fun j hj => ?_⟩
  simp [getLsbD_fuseCode (hj.trans hk), hj]

/-- A full code has no clear fuse. -/
theorem find_clear_fuseCode_full : (List.range 32).find? (fun j => !(fuseCode 32).getLsbD j) = none := by
  rw [List.find?_eq_none]
  intro j hj
  have hj := List.mem_range.1 hj
  simp [getLsbD_fuseCode hj, hj]

/-- Programming the lowest clear fuse gives the next code. -/
theorem fuseCode_or (k : Nat) : fuseCode k ||| BitVec.ofNat 32 (2 ^ k) = fuseCode (k + 1) := by
  refine BitVec.eq_of_getLsbD_eq fun j hj => ?_
  rw [BitVec.getLsbD_or, getLsbD_fuseCode hj, getLsbD_fuseCode hj, BitVec.getLsbD_ofNat, Nat.testBit_two_pow]
  by_cases h : k = j
  · simp [h, hj]
  · have : (j < k + 1) = (j < k) := propext (by omega)
    simp [h, this]

/-- Burning `n` fuses of a code gives the code of `n` more, up to the full one (R430). -/
theorem burnFuses_fuseCode (n : Nat) {k : Nat} (hk : k ≤ 32) : burnFuses n (fuseCode k) = fuseCode (min 32 (k + n)) := by
  induction n generalizing k with
  | zero => simp [burnFuses, hk]
  | succ n ih =>
    rw [burnFuses]
    obtain h | rfl : k < 32 ∨ k = 32 := by omega
    · rw [find_clear_fuseCode h]
      simp only [fuseCode_or]
      rw [ih h, Nat.succ_add_eq_add_succ]
    · rw [find_clear_fuseCode_full]
      simp only [ih hk]
      congr 1
      omega

theorem burnFuses_thermometer (n : Nat) {f : BitVec 32} (h : thermometer f) : thermometer (burnFuses n f) := by
  obtain ⟨k, hk, rfl⟩ := (thermometer_iff f).1 h
  exact ⟨_, Nat.min_le_left 32 (k + n), burnFuses_fuseCode n hk⟩

/-- Burning clears no fuse. -/
theorem burnFuses_keeps_set (n : Nat) (f : BitVec 32) {k : Nat} (h : f.getLsbD k = true) : (burnFuses n f).getLsbD k = true := by
  induction n generalizing f with
  | zero => exact h
  | succ n ih =>
    rw [burnFuses]
    refine ih _ ?_
    split
    · exact h
    · rw [BitVec.getLsbD_or, h, Bool.true_or]

/-! ### What a command may change of the registers -/

/-- From `p` to `q` the boot and fault registers stay legal and no programmed fuse is cleared. -/
structure Phys.Advances (p q : Phys) : Prop where
  legal : p.Legal → q.Legal
  fuses : ∀ k, p.svnFuses.getLsbD k = true → q.svnFuses.getLsbD k = true

/-- From `o` to `t` the waiting commands stay, memories stay canonical and the registers advance. -/
structure Advances (o t : State) : Prop where
  pending : t.pending = o.pending
  memory : o.memOk = true → t.memOk = true
  phys : o.phys.Advances t.phys

theorem Phys.Advances.refl (p : Phys) : p.Advances p := ⟨id, fun _ => id⟩

theorem Phys.Advances.trans {p q r : Phys} (h : p.Advances q) (k : q.Advances r) : p.Advances r :=
  ⟨fun l => k.legal (h.legal l), fun j l => k.fuses j (h.fuses j l)⟩

/-- The registers advance where those of the boot and of the fuses are as before. -/
theorem Phys.advances_of_eq {p q : Phys} (state : q.state = p.state) (fatal : q.fatal = p.fatal)
    (bootState : q.bootState = p.bootState) (bootError : q.bootError = p.bootError)
    (attempts : q.bootAttempts = p.bootAttempts) (fuses : q.svnFuses = p.svnFuses) : p.Advances q := by
  refine ⟨fun h => ?_, fun k h => by rw [fuses]; exact h⟩
  constructor <;> simp only [state, fatal, bootState, bootError, attempts, fuses]
  · exact h.state
  · exact h.fatal
  · exact h.hold
  · exact h.bootState
  · exact h.bootError
  · exact h.attempts
  · exact h.busy
  · exact h.handed
  · exact h.fuses

theorem Advances.refl (o : State) : Advances o o := ⟨rfl, id, .refl _⟩

theorem Advances.trans {o s t : State} (h : Advances o s) (k : Advances s t) : Advances o t :=
  ⟨k.pending.trans h.pending, fun m => k.memory (h.memory m), h.phys.trans k.phys⟩

theorem Advances.of_keeps {o t : State} (h : Keeps o t) : Advances o t :=
  ⟨h.pending, h.memory, by rw [h.phys]; exact .refl _⟩

/-- An update of the registers. -/
theorem advances_phys {o : State} {p : Phys} (h : o.phys.Advances p) : Advances o { o with phys := p } := ⟨rfl, id, h⟩

/-- An update of the registers before what keeps them. -/
theorem advances_phys_keeps {o t : State} {p : Phys} (h : Keeps { o with phys := p } t) (hp : o.phys.Advances p) : Advances o t :=
  (advances_phys hp).trans (.of_keeps h)

/-- An update of the registers after what keeps them. -/
theorem Keeps.advances_phys {o t : State} {p : Phys} (h : Keeps o t) (hp : o.phys.Advances p) :
    Advances o { t with phys := p } := ⟨h.pending, h.memory, hp⟩

theorem Advances.inv {o t : State} (h : Advances o t) (ho : o.Inv) : t.Inv := ⟨h.memory ho.memory, h.phys.legal ho.legal⟩

/-! ### Resets and power -/

theorem thermometer_zero : thermometer 0#32 := ⟨0, by decide, rfl⟩

/-- The registers after a reset are legal where the fuses are a code. -/
theorem Phys.legal_reset {f : BitVec 32} (h : thermometer f) : Phys.Legal { Phys.reset with svnFuses := f } := by
  constructor <;> simp [Phys.reset, h]

theorem Phys.advances_reset (p : Phys) : p.Advances { Phys.reset with svnFuses := p.svnFuses } :=
  ⟨fun h => Phys.legal_reset h.fuses, fun _ => id⟩

theorem coldReset_advances (s : State) : Advances s (coldReset s) :=
  ⟨rfl, fun _ => rfl, s.phys.advances_reset⟩

theorem warmReset_advances (s : State) : Advances s (warmReset s) :=
  ⟨rfl, fun _ => rfl, s.phys.advances_reset⟩

theorem startRom_advances (pufOk : Bool) (s : State) : Advances s (startRom pufOk s) := by
  refine advances_phys ⟨fun h => ?_, fun _ => id⟩
  obtain ⟨state, fatal, hold, bootState, -, attempts, busy, handed, fuses⟩ := h
  refine ⟨state, fatal, hold, bootState, ?_, attempts, busy, handed, fuses⟩
  change (if pufOk = true then 0 else 1) ≤ 9
  split <;> decide

theorem powerApply_advances (s : State) : Advances s (powerApply s) := by
  unfold powerApply
  split
  · exact .refl s
  · exact advances_phys (Phys.advances_of_eq rfl rfl rfl rfl rfl rfl)

theorem resetRelease_advances (pufOk : Bool) (s : State) : Advances s (resetRelease pufOk s) := by
  unfold resetRelease
  split
  · exact .refl s
  · refine .trans ?_ (startRom_advances pufOk _)
    split
    · exact coldReset_advances s
    · exact advances_phys (Phys.advances_of_eq rfl rfl rfl rfl rfl rfl)

theorem perstAssert_advances (s : State) : Advances s (perstAssert s) := by
  unfold perstAssert
  split
  · exact .refl s
  · exact (warmReset_advances s).trans (advances_phys (Phys.advances_of_eq rfl rfl rfl rfl rfl rfl))

theorem d3hotToD0_advances (pufOk : Bool) (s : State) : Advances s (d3hotToD0 pufOk s) := by
  unfold d3hotToD0
  split
  · exact .refl s
  · exact (warmReset_advances s).trans (startRom_advances pufOk _)

theorem warmResetBegin_advances (pufOk : Bool) (s : State) : Advances s (warmResetBegin pufOk s) := by
  unfold warmResetBegin
  split
  · exact .refl s
  · exact ((warmReset_advances s).trans (startRom_advances pufOk _)).trans
      (advances_phys (Phys.advances_of_eq rfl rfl rfl rfl rfl rfl))

theorem analogueTrip_advances (cause : Nat) (s : State) : Advances s (analogueTrip cause s) := by
  unfold analogueTrip
  split
  · exact .refl s
  · exact (coldReset_advances s).trans (advances_phys (Phys.advances_of_eq rfl rfl rfl rfl rfl rfl))

theorem tripLatchRelease_advances (s : State) : Advances s (tripLatchRelease s) := by
  unfold tripLatchRelease
  split
  · exact .refl s
  · exact (coldReset_advances s).trans (advances_phys (Phys.advances_of_eq rfl rfl rfl rfl rfl rfl))

/-! ### Boot -/

theorem maskRomReady_advances (s : State) : Advances s (maskRomReady s) := by
  unfold maskRomReady
  split
  · exact .refl s
  · rename_i hgo
    obtain ⟨⟨-, hstate⟩, -⟩ : (alive s = true ∧ s.phys.state = 0) ∧ s.phys.bootState = 0 := by simpa using hgo
    refine advances_phys ⟨fun h => ?_, fun _ => id⟩
    obtain ⟨-, fatal, hold, -, bootError, attempts, -, -, fuses⟩ := h
    have hfatal : s.phys.fatal = 0 := by simpa [hstate] using hold
    exact ⟨by simp, fatal, by simp [hfatal], by simp, bootError, attempts, by simp, by simp, fuses⟩

/-- While BOOT_STATE is 1, 2 or 3 the module has no firmware, so BOOT_STATE may move and BOOT_ERROR may be set. -/
theorem Phys.advances_boot {p q : Phys} (hboot : p.bootState ≠ 0 ∧ p.bootState ≠ 4) (hq : q.bootState ≤ 4)
    (herr : p.bootError ≤ 9 → q.bootError ≤ 9) (hatt : p.bootAttempts ≤ 65535 → q.bootAttempts ≤ 65535)
    (state : q.state = p.state) (fatal : q.fatal = p.fatal)
    (fuses : q.svnFuses = p.svnFuses) : p.Advances q := by
  refine ⟨fun h => ?_, fun k h => by rw [fuses]; exact h⟩
  have hnone : p.state ≠ 0 ∧ ¬(p.state = 2 ∨ p.state = 3) := ⟨fun e => hboot.1 (h.busy e), fun e => hboot.2 (h.handed e)⟩
  exact ⟨state ▸ h.state, fatal ▸ h.fatal, by rw [state, fatal]; exact h.hold, hq, herr h.bootError, hatt h.attempts,
    fun e => absurd (state ▸ e) hnone.1, fun e => absurd (state ▸ e) hnone.2, fuses ▸ h.fuses⟩

/-- BOOT_ERROR and BOOT_ATTEMPTS may change to other legal values. -/
theorem Phys.advances_bootError {p q : Phys} (herr : q.bootError ≤ 9) (hatt : p.bootAttempts ≤ 65535 → q.bootAttempts ≤ 65535)
    (state : q.state = p.state) (fatal : q.fatal = p.fatal) (bootState : q.bootState = p.bootState)
    (fuses : q.svnFuses = p.svnFuses) : p.Advances q := by
  refine ⟨fun h => ?_, fun k h => by rw [fuses]; exact h⟩
  exact ⟨state ▸ h.state, fatal ▸ h.fatal, by rw [state, fatal]; exact h.hold, bootState ▸ h.bootState, herr, hatt h.attempts,
    fun e => bootState ▸ h.busy (state ▸ e), fun e => bootState ▸ h.handed (state ▸ e), fuses ▸ h.fuses⟩

theorem bootLoad_advances (value : BitVec 32) (s : State) : Advances s (bootLoad value s) := by
  unfold bootLoad
  split
  · exact .refl s
  dsimp only
  have hattempts : min 65535 (s.phys.bootAttempts + 1) ≤ 65535 := Nat.min_le_left _ _
  split
  · refine advances_phys (Phys.advances_bootError ?_ id rfl rfl rfl rfl)
    change (if s.phys.pufFailed = true then 1 else 2) ≤ 9
    split <;> decide
  split
  · exact advances_phys (Phys.advances_bootError (by simp) (fun _ => hattempts) rfl rfl rfl rfl)
  split
  · exact advances_phys (Phys.advances_bootError (by simp) (fun _ => hattempts) rfl rfl rfl rfl)
  · rename_i hready
    have hready : s.phys.bootState = 1 := by simpa using hready
    exact advances_phys (Phys.advances_boot (by simp [hready]) (by simp) (fun _ => by simp) (fun _ => hattempts) rfl rfl rfl)

theorem bootFails_advances {cause : Nat} {s : State} (hcause : cause ≤ 9) (hboot : s.phys.bootState ≠ 0 ∧ s.phys.bootState ≠ 4) :
    Advances s (bootFails cause s) :=
  advances_phys (Phys.advances_boot hboot (by simp) (fun _ => hcause) id rfl rfl rfl)

theorem bootFetchDone_advances (image : Bytes) (accessOk : Bool) (s : State) : Advances s (bootFetchDone image accessOk s) := by
  unfold bootFetchDone
  split
  · exact .refl s
  rename_i hgo
  have hboot : s.phys.bootState ≠ 0 ∧ s.phys.bootState ≠ 4 := by
    have : s.phys.bootState = 2 := by_contra fun h => hgo (.inl h)
    omega
  dsimp only
  split
  · exact bootFails_advances (by decide) hboot
  split
  · exact bootFails_advances (by decide) hboot
  · exact advances_phys (Phys.advances_boot hboot (by simp) id id rfl rfl rfl)

theorem imageFault_le (fuses b : Bytes) : imageFault fuses b ≤ 9 := by
  unfold imageFault
  dsimp only
  repeat' split
  all_goals omega

theorem bootVerifyDone_advances (s : State) : Advances s (bootVerifyDone s) := by
  unfold bootVerifyDone
  split
  · exact .refl s
  rename_i hgo
  have hboot : s.phys.bootState = 3 := by_contra fun h => hgo (.inl h)
  split
  · exact .refl s
  rename_i b _
  dsimp only
  split
  · exact bootFails_advances (imageFault_le _ b) (by omega)
  · refine advances_phys ⟨fun h => ?_, fun _ => id⟩
    obtain ⟨-, fatal, hold, -, bootError, attempts, -, -, fuses⟩ := h
    have hstate : (if s.phys.state = 4 then 4 else 2) = 4 ↔ s.phys.state = 4 := by split <;> simp_all
    exact ⟨by dsimp only; split <;> decide, fatal, hstate.trans hold, by simp, bootError, attempts,
      by dsimp only; split <;> simp, by simp, fuses⟩

theorem firmwareRunning_advances (trainOk : Bool) (s : State) : Advances s (firmwareRunning trainOk s) := by
  unfold firmwareRunning
  split
  · exact .refl s
  rename_i hgo
  have hstate : s.phys.state = 2 := by_contra fun h => hgo (.inl h)
  split
  · refine advances_phys_keeps (startMonitors_keeps (.refl _)) ⟨fun h => ?_, fun _ => id⟩
    obtain ⟨-, fatal, hold, bootState, bootError, attempts, -, handed, fuses⟩ := h
    have hfatal : s.phys.fatal = 0 := by simpa [hstate] using hold
    exact ⟨by simp, fatal, by simp [hfatal], bootState, bootError, attempts, by simp, fun _ => handed (.inl hstate), fuses⟩
  · exact advances_phys (Phys.advances_of_eq rfl rfl rfl rfl rfl rfl)

/-! ### The link, register writes and fatal faults -/

theorem linkDown_advances (s : State) :
    Advances s (if !s.phys.link then s else postLink 1 { s with phys := { s.phys with link := false } }) := by
  split
  · exact .refl s
  · exact advances_phys_keeps (postLink_keeps (.refl _)) (Phys.advances_of_eq rfl rfl rfl rfl rfl rfl)

theorem linkReturn_advances (rate width : Nat) (s : State) :
    Advances s (if s.phys.link || s.phys.perst || !s.phys.pwrGood then s else
      postLink 2 (flagRate (flushWaiting { s with phys := { s.phys with link := true, rate := rate, width := width } }))) := by
  split
  · exact .refl s
  · exact advances_phys_keeps (postLink_keeps (flagRate_keeps (flushWaiting_keeps (.refl _))))
      (Phys.advances_of_eq rfl rfl rfl rfl rfl rfl)

theorem linkRateChange_advances (rate width : Nat) (s : State) :
    Advances s (if s.phys.rate = rate ∧ s.phys.width = width ∨ !s.phys.link then s else
      postLink 0 (flagRate { s with phys := { s.phys with rate := rate, width := width } })) := by
  split
  · exact .refl s
  · exact advances_phys_keeps (postLink_keeps (flagRate_keeps (.refl _))) (Phys.advances_of_eq rfl rfl rfl rfl rfl rfl)

theorem storeRegister_advances (off v : Nat) (s : State) : Advances s (storeRegister off v s) := by
  unfold storeRegister
  dsimp only
  split
  · exact advances_phys (Phys.advances_of_eq rfl rfl rfl rfl rfl rfl)
  split
  · exact advances_phys (Phys.advances_of_eq rfl rfl rfl rfl rfl rfl)
  refine .of_keeps ?_
  repeat' split
  all_goals exact keeps_mk (.refl s)

theorem registerWrite_advances (fn bar off size : Nat) (v : BitVec 32) (s : State) :
    Advances s (registerWrite fn bar off size v s) := by
  unfold registerWrite
  split
  · exact storeRegister_advances off _ s
  · exact .refl s

theorem fatalFault_advances (code loc : Nat) (s : State) : Advances s (fatalFault code loc s) := by
  unfold fatalFault
  split
  · exact .refl s
  rename_i hgo
  obtain ⟨hlow, hhigh⟩ : ¬code < 1 ∧ ¬5 < code := ⟨fun h => hgo (.inl h), fun h => hgo (.inr (.inl h))⟩
  have hfrozen := freezeBox_keeps (a0 := code) (postEvent_keeps (a0 := 1) (a1 := 0) (a2 := 0x080B) (a3 := 4)
    (a4 := le 2 code ++ le 4 loc) (.refl s))
  have hkeeps := idlePorts_keeps (zeroize_keeps (dropReplays_keeps (settleHalts_keeps hfrozen (haltAll_keeps hfrozen))))
  dsimp only
  refine hkeeps.advances_phys ?_
  rw [hkeeps.phys]
  refine ⟨fun h => ?_, fun _ => id⟩
  obtain ⟨-, -, -, bootState, bootError, attempts, -, -, fuses⟩ := h
  exact ⟨by simp, by simpa using hhigh, by simp; omega, bootState, bootError, attempts, by simp, by simp, fuses⟩

/-! ### Host commands that change registers -/

/-- What a command's effect advances, whatever its status. -/
def RanAdvances (o : State) : Ran → Prop
  | .ok t _ => Advances o t
  | .err _ t => Advances o t
  | .later t => Advances o t

theorem finish_advances {o : State} {tag : Nat} {r : Ran} (h : RanAdvances o r) : Advances o (finish tag r) := by
  cases r with
  | ok t n => exact .trans h (.of_keeps (complete_keeps (.refl t)))
  | err f t => exact .trans h (.of_keeps (complete_keeps (.refl t)))
  | later t => exact h

theorem runCommand_advances {op : Nat} {checks : Cmd → State → List Check} {act : Cmd → State → Ran}
    (hact : ∀ c t, RanAdvances t (act c t)) (c : CmdIn) (s : State) : Advances s (runCommand op checks act c s) := by
  unfold runCommand
  split
  · exact .refl s
  split
  · exact .refl s
  split
  · rename_i e
    exact .of_keeps (complete_keeps (gate_keeps' (markBegun_keeps (.refl s)) e))
  · rename_i e
    have hgate := Advances.of_keeps (gate_keeps' (markBegun_keeps (.refl s)) e)
    dsimp only
    split
    · exact hgate.trans (.of_keeps (complete_keeps (.refl _)))
    · exact hgate.trans (finish_advances (hact _ _))

theorem moduleReset_advances (c : Cmd) (t : State) : RanAdvances t (moduleReset c t) :=
  (Advances.of_keeps (complete_keeps (.refl t))).trans (advances_phys (Phys.advances_of_eq rfl rfl rfl rfl rfl rfl))

theorem svnCommit_advances (c : Cmd) (t : State) : RanAdvances t (svnCommit c t) := by
  unfold svnCommit
  dsimp only
  split
  · exact .refl t
  · refine advances_phys_keeps (postEvent_keeps (.refl _)) ⟨fun h => ?_, fun _ => burnFuses_keeps_set _ _⟩
    obtain ⟨state, fatal, hold, bootState, bootError, attempts, busy, handed, fuses⟩ := h
    exact ⟨state, fatal, hold, bootState, bootError, attempts, busy, handed, burnFuses_thermometer _ fuses⟩

/-! ### Every command -/

/-- Every command answers a next state, in which what waits is as before, memories stay canonical and the registers advance. -/
theorem exec_advances (c : Instr) (s : State) : ∃ t, exec c s = .next t ∧ Advances s t := by
  cases c with
  | powerApply => exact ⟨_, rfl, powerApply_advances s⟩
  | resetRelease pufOk => exact ⟨_, rfl, resetRelease_advances pufOk s⟩
  | perstAssert => exact ⟨_, rfl, perstAssert_advances s⟩
  | d3hotToD0 pufOk => exact ⟨_, rfl, d3hotToD0_advances pufOk s⟩
  | warmResetBegin pufOk => exact ⟨_, rfl, warmResetBegin_advances pufOk s⟩
  | functionLevelReset _ => exact ⟨_, rfl, .of_keeps (execFunctionLevelReset_keeps (.refl s))⟩
  | maskRomReady => exact ⟨_, rfl, maskRomReady_advances s⟩
  | configRequest _ => exact ⟨_, rfl, .of_keeps (execConfigRequest_keeps (.refl s))⟩
  | load value => exact ⟨_, rfl, bootLoad_advances value s⟩
  | bootFetchDone image accessOk => exact ⟨_, rfl, bootFetchDone_advances image accessOk s⟩
  | bootVerifyDone => exact ⟨_, rfl, bootVerifyDone_advances s⟩
  | firmwareRunning trainOk => exact ⟨_, rfl, firmwareRunning_advances trainOk s⟩
  | analogueTrip cause => exact ⟨_, rfl, analogueTrip_advances cause s⟩
  | tripLatchRelease => exact ⟨_, rfl, tripLatchRelease_advances s⟩
  | linkDown => exact ⟨_, rfl, linkDown_advances s⟩
  | linkReturn rate width => exact ⟨_, rfl, linkReturn_advances rate width s⟩
  | linkRateChange rate width => exact ⟨_, rfl, linkRateChange_advances rate width s⟩
  | hostAccessFault _ => exact ⟨_, rfl, .of_keeps (execHostAccessFault_keeps (.refl s))⟩
  | aqEnable => exact ⟨_, rfl, .of_keeps (execAqEnable_keeps (.refl s))⟩
  | aqDisable => exact ⟨_, rfl, .of_keeps (execAqDisable_keeps (.refl s))⟩
  | hostFlagsClear _ _ => exact ⟨_, rfl, .of_keeps (execHostFlagsClear_keeps (.refl s))⟩
  | syncFlagsClear _ _ => exact ⟨_, rfl, .of_keeps (execSyncFlagsClear_keeps (.refl s))⟩
  | sqTail _ _ _ => exact ⟨_, rfl, .of_keeps (execSqTail_keeps (.refl s))⟩
  | cqHead _ _ _ => exact ⟨_, rfl, .of_keeps (execCqHead_keeps (.refl s))⟩
  | evqHead _ _ _ => exact ⟨_, rfl, .of_keeps (execEvqHead_keeps (.refl s))⟩
  | outqHead _ _ _ => exact ⟨_, rfl, .of_keeps (execOutqHead_keeps (.refl s))⟩
  | doorbellConsume => exact ⟨_, rfl, .of_keeps (execDoorbellConsume_keeps (.refl s))⟩
  | lowWordRead _ _ => exact ⟨_, rfl, .of_keeps (execLowWordRead_keeps (.refl s))⟩
  | registerWrite fn bar off size v => exact ⟨_, rfl, registerWrite_advances fn bar off size v s⟩
  | commandFetch _ _ => exact ⟨_, rfl, .of_keeps (execCommandFetch_keeps (.refl s))⟩
  | unknownOpcode _ => exact ⟨_, rfl, .of_keeps (execUnknownOpcode_keeps (.refl s))⟩
  | cqCreate _ => exact ⟨_, rfl, .of_keeps (execCqCreate_keeps (.refl s))⟩
  | sqCreate _ => exact ⟨_, rfl, .of_keeps (execSqCreate_keeps (.refl s))⟩
  | evqCreate _ => exact ⟨_, rfl, .of_keeps (execEvqCreate_keeps (.refl s))⟩
  | queueDelete _ => exact ⟨_, rfl, .of_keeps (execQueueDelete_keeps (.refl s))⟩
  | identify _ => exact ⟨_, rfl, .of_keeps (execIdentify_keeps (.refl s))⟩
  | moduleReset c => exact ⟨_, rfl, runCommand_advances moduleReset_advances c s⟩
  | stackReset _ => exact ⟨_, rfl, .of_keeps (execStackReset_keeps (.refl s))⟩
  | stackResetDone => exact ⟨_, rfl, .of_keeps (execStackResetDone_keeps (.refl s))⟩
  | pwrModeSet _ => exact ⟨_, rfl, .of_keeps (execPwrModeSet_keeps (.refl s))⟩
  | powerModeEffectTurn => exact ⟨_, rfl, .of_keeps (execPowerModeEffectTurn_keeps (.refl s))⟩
  | spindleSourceSet _ => exact ⟨_, rfl, .of_keeps (execSpindleSourceSet_keeps (.refl s))⟩
  | spindleStatus _ => exact ⟨_, rfl, .of_keeps (execSpindleStatus_keeps (.refl s))⟩
  | planLoad _ => exact ⟨_, rfl, .of_keeps (execPlanLoad_keeps (.refl s))⟩
  | planArm _ => exact ⟨_, rfl, .of_keeps (execPlanArm_keeps (.refl s))⟩
  | planStop _ => exact ⟨_, rfl, .of_keeps (execPlanStop_keeps (.refl s))⟩
  | planUnload _ => exact ⟨_, rfl, .of_keeps (execPlanUnload_keeps (.refl s))⟩
  | planQuery _ => exact ⟨_, rfl, .of_keeps (execPlanQuery_keeps (.refl s))⟩
  | syncQuery _ => exact ⟨_, rfl, .of_keeps (execSyncQuery_keeps (.refl s))⟩
  | modelManifestLoad _ => exact ⟨_, rfl, .of_keeps (execModelManifestLoad_keeps (.refl s))⟩
  | modelInstall _ => exact ⟨_, rfl, .of_keeps (execModelInstall_keeps (.refl s))⟩
  | modelChunkRead _ => exact ⟨_, rfl, .of_keeps (execModelChunkRead_keeps (.refl s))⟩
  | chuckSwitch _ => exact ⟨_, rfl, .of_keeps (execChuckSwitch_keeps (.refl s))⟩
  | modelRelease _ => exact ⟨_, rfl, .of_keeps (execModelRelease_keeps (.refl s))⟩
  | bindKeyCreate _ => exact ⟨_, rfl, .of_keeps (execBindKeyCreate_keeps (.refl s))⟩
  | bindKeySupply _ => exact ⟨_, rfl, .of_keeps (execBindKeySupply_keeps (.refl s))⟩
  | chuckRead _ => exact ⟨_, rfl, .of_keeps (execChuckRead_keeps (.refl s))⟩
  | modelStatus _ => exact ⟨_, rfl, .of_keeps (execModelStatus_keeps (.refl s))⟩
  | adapterLoad _ => exact ⟨_, rfl, .of_keeps (execAdapterLoad_keeps (.refl s))⟩
  | adapterRetire _ => exact ⟨_, rfl, .of_keeps (execAdapterRetire_keeps (.refl s))⟩
  | adapterQuery _ => exact ⟨_, rfl, .of_keeps (execAdapterQuery_keeps (.refl s))⟩
  | sessionOpen _ => exact ⟨_, rfl, .of_keeps (execSessionOpen_keeps (.refl s))⟩
  | sessionFeed _ => exact ⟨_, rfl, .of_keeps (execSessionFeed_keeps (.refl s))⟩
  | sessionClose _ => exact ⟨_, rfl, .of_keeps (execSessionClose_keeps (.refl s))⟩
  | sessionQuery _ => exact ⟨_, rfl, .of_keeps (execSessionQuery_keeps (.refl s))⟩
  | outqCreate _ => exact ⟨_, rfl, .of_keeps (execOutqCreate_keeps (.refl s))⟩
  | outqDelete _ => exact ⟨_, rfl, .of_keeps (execOutqDelete_keeps (.refl s))⟩
  | ctxTenantQuota _ => exact ⟨_, rfl, .of_keeps (execCtxTenantQuota_keeps (.refl s))⟩
  | ctxColdArea _ => exact ⟨_, rfl, .of_keeps (execCtxColdArea_keeps (.refl s))⟩
  | ctxCreate _ => exact ⟨_, rfl, .of_keeps (execCtxCreate_keeps (.refl s))⟩
  | ctxDelete _ => exact ⟨_, rfl, .of_keeps (execCtxDelete_keeps (.refl s))⟩
  | ctxQuery _ => exact ⟨_, rfl, .of_keeps (execCtxQuery_keeps (.refl s))⟩
  | ctxExport _ => exact ⟨_, rfl, .of_keeps (execCtxExport_keeps (.refl s))⟩
  | ctxImport _ => exact ⟨_, rfl, .of_keeps (execCtxImport_keeps (.refl s))⟩
  | ctxConsolidate _ => exact ⟨_, rfl, .of_keeps (execCtxConsolidate_keeps (.refl s))⟩
  | ctxJobCancel _ => exact ⟨_, rfl, .of_keeps (execCtxJobCancel_keeps (.refl s))⟩
  | calSelf _ => exact ⟨_, rfl, .of_keeps (execCalSelf_keeps (.refl s))⟩
  | calSelfDone _ _ => exact ⟨_, rfl, .of_keeps (execCalSelfDone_keeps (.refl s))⟩
  | adcTrimRead _ => exact ⟨_, rfl, .of_keeps (execAdcTrimRead_keeps (.refl s))⟩
  | monTableSet _ => exact ⟨_, rfl, .of_keeps (execMonTableSet_keeps (.refl s))⟩
  | monConvertNow _ => exact ⟨_, rfl, .of_keeps (execMonConvertNow_keeps (.refl s))⟩
  | monRingRead _ => exact ⟨_, rfl, .of_keeps (execMonRingRead_keeps (.refl s))⟩
  | trueStats _ => exact ⟨_, rfl, .of_keeps (execTrueStats_keeps (.refl s))⟩
  | calPolicySet _ => exact ⟨_, rfl, .of_keeps (execCalPolicySet_keeps (.refl s))⟩
  | calFactorsRead _ => exact ⟨_, rfl, .of_keeps (execCalFactorsRead_keeps (.refl s))⟩
  | calFactorsWrite _ => exact ⟨_, rfl, .of_keeps (execCalFactorsWrite_keeps (.refl s))⟩
  | calWarmup _ => exact ⟨_, rfl, .of_keeps (execCalWarmup_keeps (.refl s))⟩
  | calStatus _ => exact ⟨_, rfl, .of_keeps (execCalStatus_keeps (.refl s))⟩
  | integrityPolicySet _ => exact ⟨_, rfl, .of_keeps (execIntegrityPolicySet_keeps (.refl s))⟩
  | honeRequest _ => exact ⟨_, rfl, .of_keeps (execHoneRequest_keeps (.refl s))⟩
  | honeStatus _ => exact ⟨_, rfl, .of_keeps (execHoneStatus_keeps (.refl s))⟩
  | integrityStats _ => exact ⟨_, rfl, .of_keeps (execIntegrityStats_keeps (.refl s))⟩
  | bbRelease _ => exact ⟨_, rfl, .of_keeps (execBbRelease_keeps (.refl s))⟩
  | dritarPortEnable _ => exact ⟨_, rfl, .of_keeps (execDritarPortEnable_keeps (.refl s))⟩
  | fabricMapSet _ => exact ⟨_, rfl, .of_keeps (execFabricMapSet_keeps (.refl s))⟩
  | dritarPortStatus _ => exact ⟨_, rfl, .of_keeps (execDritarPortStatus_keeps (.refl s))⟩
  | tenantKeySet _ => exact ⟨_, rfl, .of_keeps (execTenantKeySet_keeps (.refl s))⟩
  | tenantKeyClear _ => exact ⟨_, rfl, .of_keeps (execTenantKeyClear_keeps (.refl s))⟩
  | vfBind _ => exact ⟨_, rfl, .of_keeps (execVfBind_keeps (.refl s))⟩
  | planKeyRegister _ => exact ⟨_, rfl, .of_keeps (execPlanKeyRegister_keeps (.refl s))⟩
  | planKeyRemove _ => exact ⟨_, rfl, .of_keeps (execPlanKeyRemove_keeps (.refl s))⟩
  | svnCommit c => exact ⟨_, rfl, runCommand_advances svnCommit_advances c s⟩
  | identityRead _ => exact ⟨_, rfl, .of_keeps (execIdentityRead_keeps (.refl s))⟩
  | loadLogRead _ => exact ⟨_, rfl, .of_keeps (execLoadLogRead_keeps (.refl s))⟩
  | diagSnapshot _ => exact ⟨_, rfl, .of_keeps (execDiagSnapshot_keeps (.refl s))⟩
  | spdmGetVersion _ _ => exact ⟨_, rfl, .of_keeps (execSpdmGetVersion_keeps (.refl s))⟩
  | spdmGetCapabilities _ _ => exact ⟨_, rfl, .of_keeps (execSpdmGetCapabilities_keeps (.refl s))⟩
  | spdmNegotiateAlgorithms _ _ => exact ⟨_, rfl, .of_keeps (execSpdmNegotiateAlgorithms_keeps (.refl s))⟩
  | spdmGetDigests _ _ => exact ⟨_, rfl, .of_keeps (execSpdmGetDigests_keeps (.refl s))⟩
  | spdmGetCertificate _ _ => exact ⟨_, rfl, .of_keeps (execSpdmGetCertificate_keeps (.refl s))⟩
  | spdmChallenge _ _ => exact ⟨_, rfl, .of_keeps (execSpdmChallenge_keeps (.refl s))⟩
  | spdmGetMeasurements _ _ => exact ⟨_, rfl, .of_keeps (execSpdmGetMeasurements_keeps (.refl s))⟩
  | spdmKeyExchange _ _ => exact ⟨_, rfl, .of_keeps (execSpdmKeyExchange_keeps (.refl s))⟩
  | spdmFinish _ _ => exact ⟨_, rfl, .of_keeps (execSpdmFinish_keeps (.refl s))⟩
  | spdmHeartbeat _ _ => exact ⟨_, rfl, .of_keeps (execSpdmHeartbeat_keeps (.refl s))⟩
  | spdmKeyUpdate _ _ => exact ⟨_, rfl, .of_keeps (execSpdmKeyUpdate_keeps (.refl s))⟩
  | spdmEndSession _ _ => exact ⟨_, rfl, .of_keeps (execSpdmEndSession_keeps (.refl s))⟩
  | spdmVendorDefinedRequest _ _ => exact ⟨_, rfl, .of_keeps (execSpdmVendorDefinedRequest_keeps (.refl s))⟩
  | indexBoundary _ => exact ⟨_, rfl, .of_keeps (execIndexBoundary_keeps (.refl s))⟩
  | spindleFrame _ _ => exact ⟨_, rfl, .of_keeps (execSpindleFrame_keeps (.refl s))⟩
  | dritarMarker _ _ => exact ⟨_, rfl, .of_keeps (execDritarMarker_keeps (.refl s))⟩
  | selfSpindleLock => exact ⟨_, rfl, .of_keeps (execSelfSpindleLock_keeps (.refl s))⟩
  | spindleStop => exact ⟨_, rfl, .of_keeps (execSpindleStop_keeps (.refl s))⟩
  | spindleResume => exact ⟨_, rfl, .of_keeps (execSpindleResume_keeps (.refl s))⟩
  | planStart _ => exact ⟨_, rfl, .of_keeps (execPlanStart_keeps (.refl s))⟩
  | passBoundary _ => exact ⟨_, rfl, .of_keeps (execPassBoundary_keeps (.refl s))⟩
  | stallLimit _ => exact ⟨_, rfl, .of_keeps (execStallLimit_keeps (.refl s))⟩
  | waitingOperationResume _ => exact ⟨_, rfl, .of_keeps (execWaitingOperationResume_keeps (.refl s))⟩
  | nop _ _ => exact ⟨_, rfl, .of_keeps (execNop_keeps (.refl s))⟩
  | refOn _ _ => exact ⟨_, rfl, .of_keeps (execRefOn_keeps (.refl s))⟩
  | refOff _ _ => exact ⟨_, rfl, .of_keeps (execRefOff_keeps (.refl s))⟩
  | deckSel _ _ => exact ⟨_, rfl, .of_keeps (execDeckSel_keeps (.refl s))⟩
  | stroke _ _ => exact ⟨_, rfl, .of_keeps (execStroke_keeps (.refl s))⟩
  | strokeRecordWrite _ => exact ⟨_, rfl, .of_keeps (execStrokeRecordWrite_keeps (.refl s))⟩
  | rangeSplitReread _ => exact ⟨_, rfl, .of_keeps (execRangeSplitReread_keeps (.refl s))⟩
  | reverseRead _ _ => exact ⟨_, rfl, .of_keeps (execReverseRead_keeps (.refl s))⟩
  | reverseReadRecordWrite _ => exact ⟨_, rfl, .of_keeps (execReverseReadRecordWrite_keeps (.refl s))⟩
  | move _ _ => exact ⟨_, rfl, .of_keeps (execMove_keeps (.refl s))⟩
  | trueOp _ _ => exact ⟨_, rfl, .of_keeps (execTrueOp_keeps (.refl s))⟩
  | trueOutputWrite _ => exact ⟨_, rfl, .of_keeps (execTrueOutputWrite_keeps (.refl s))⟩
  | recomputeResult _ _ _ => exact ⟨_, rfl, .of_keeps (execRecomputeResult_keeps (.refl s))⟩
  | readReplayResolve _ _ => exact ⟨_, rfl, .of_keeps (execReadReplayResolve_keeps (.refl s))⟩
  | pairedSampleResult _ _ => exact ⟨_, rfl, .of_keeps (execPairedSampleResult_keeps (.refl s))⟩
  | coreReduce _ _ => exact ⟨_, rfl, .of_keeps (execCoreReduce_keeps (.refl s))⟩
  | coreReduceWrite _ => exact ⟨_, rfl, .of_keeps (execCoreReduceWrite_keeps (.refl s))⟩
  | stackReduce _ _ => exact ⟨_, rfl, .of_keeps (execStackReduce_keeps (.refl s))⟩
  | stackReduceWrite _ => exact ⟨_, rfl, .of_keeps (execStackReduceWrite_keeps (.refl s))⟩
  | fuse _ _ => exact ⟨_, rfl, .of_keeps (execFuse_keeps (.refl s))⟩
  | fuseWrite _ => exact ⟨_, rfl, .of_keeps (execFuseWrite_keeps (.refl s))⟩
  | grainSend _ _ => exact ⟨_, rfl, .of_keeps (execGrainSend_keeps (.refl s))⟩
  | grainFrameArrival _ _ => exact ⟨_, rfl, .of_keeps (execGrainFrameArrival_keeps (.refl s))⟩
  | dritarSend _ _ => exact ⟨_, rfl, .of_keeps (execDritarSend_keeps (.refl s))⟩
  | memRead _ _ => exact ⟨_, rfl, .of_keeps (execMemRead_keeps (.refl s))⟩
  | memReadArrival _ _ => exact ⟨_, rfl, .of_keeps (execMemReadArrival_keeps (.refl s))⟩
  | memWrite _ _ => exact ⟨_, rfl, .of_keeps (execMemWrite_keeps (.refl s))⟩
  | memWriteDone _ => exact ⟨_, rfl, .of_keeps (execMemWriteDone_keeps (.refl s))⟩
  | clusterMatmul _ _ => exact ⟨_, rfl, .of_keeps (execClusterMatmul_keeps (.refl s))⟩
  | clusterMatmulWrite _ => exact ⟨_, rfl, .of_keeps (execClusterMatmulWrite_keeps (.refl s))⟩
  | attend _ _ => exact ⟨_, rfl, .of_keeps (execAttend_keeps (.refl s))⟩
  | attendWrite _ => exact ⟨_, rfl, .of_keeps (execAttendWrite_keeps (.refl s))⟩
  | kvAppend _ _ => exact ⟨_, rfl, .of_keeps (execKvAppend_keeps (.refl s))⟩
  | kvAppendWrite _ => exact ⟨_, rfl, .of_keeps (execKvAppendWrite_keeps (.refl s))⟩
  | sample _ _ => exact ⟨_, rfl, .of_keeps (execSample_keeps (.refl s))⟩
  | sampleWrite _ => exact ⟨_, rfl, .of_keeps (execSampleWrite_keeps (.refl s))⟩
  | finish _ _ => exact ⟨_, rfl, .of_keeps (execFinish_keeps (.refl s))⟩
  | finishDecisionWrite _ => exact ⟨_, rfl, .of_keeps (execFinishDecisionWrite_keeps (.refl s))⟩
  | barrierArrive _ _ => exact ⟨_, rfl, .of_keeps (execBarrierArrive_keeps (.refl s))⟩
  | barrierWait _ _ => exact ⟨_, rfl, .of_keeps (execBarrierWait_keeps (.refl s))⟩
  | barrierReleaseReach _ => exact ⟨_, rfl, .of_keeps (execBarrierReleaseReach_keeps (.refl s))⟩
  | feWait _ _ => exact ⟨_, rfl, .of_keeps (execFeWait_keeps (.refl s))⟩
  | feEmpty _ _ => exact ⟨_, rfl, .of_keeps (execFeEmpty_keeps (.refl s))⟩
  | gatherTask _ _ => exact ⟨_, rfl, .of_keeps (execGatherTask_keeps (.refl s))⟩
  | gatherTaskWrite _ => exact ⟨_, rfl, .of_keeps (execGatherTaskWrite_keeps (.refl s))⟩
  | adapterUpdateTask _ _ => exact ⟨_, rfl, .of_keeps (execAdapterUpdateTask_keeps (.refl s))⟩
  | probeReadStart _ => exact ⟨_, rfl, .of_keeps (execProbeReadStart_keeps (.refl s))⟩
  | probeReadDone _ => exact ⟨_, rfl, .of_keeps (execProbeReadDone_keeps (.refl s))⟩
  | programLoopStart _ => exact ⟨_, rfl, .of_keeps (execProgramLoopStart_keeps (.refl s))⟩
  | programLoopDone _ _ => exact ⟨_, rfl, .of_keeps (execProgramLoopDone_keeps (.refl s))⟩
  | honeTestsDone _ _ _ => exact ⟨_, rfl, .of_keeps (execHoneTestsDone_keeps (.refl s))⟩
  | monitorConversionEnd _ _ _ => exact ⟨_, rfl, .of_keeps (execMonitorConversionEnd_keeps (.refl s))⟩
  | monitorDelayEnd _ => exact ⟨_, rfl, .of_keeps (execMonitorDelayEnd_keeps (.refl s))⟩
  | pageMoveDone _ _ _ _ => exact ⟨_, rfl, .of_keeps (execPageMoveDone_keeps (.refl s))⟩
  | coldPageFetchDone _ _ _ _ => exact ⟨_, rfl, .of_keeps (execColdPageFetchDone_keeps (.refl s))⟩
  | replayResult _ _ => exact ⟨_, rfl, .of_keeps (execReplayResult_keeps (.refl s))⟩
  | replayWaitExpiry _ => exact ⟨_, rfl, .of_keeps (execReplayWaitExpiry_keeps (.refl s))⟩
  | fatalFault code loc => exact ⟨_, rfl, fatalFault_advances code loc s⟩
  | portTrainingStart => exact ⟨_, rfl, .of_keeps (execPortTrainingStart_keeps (.refl s))⟩
  | fecLock _ _ => exact ⟨_, rfl, .of_keeps (execFecLock_keeps (.refl s))⟩
  | trainingTimeout _ => exact ⟨_, rfl, .of_keeps (execTrainingTimeout_keeps (.refl s))⟩
  | fecLockLoss _ => exact ⟨_, rfl, .of_keeps (execFecLockLoss_keeps (.refl s))⟩
  | helloTimer _ => exact ⟨_, rfl, .of_keeps (execHelloTimer_keeps (.refl s))⟩
  | helloTimeout _ => exact ⟨_, rfl, .of_keeps (execHelloTimeout_keeps (.refl s))⟩
  | dritarHello _ _ => exact ⟨_, rfl, .of_keeps (execDritarHello_keeps (.refl s))⟩
  | attCert _ _ => exact ⟨_, rfl, .of_keeps (execAttCert_keeps (.refl s))⟩
  | attOffer _ _ => exact ⟨_, rfl, .of_keeps (execAttOffer_keeps (.refl s))⟩
  | attSign _ _ => exact ⟨_, rfl, .of_keeps (execAttSign_keeps (.refl s))⟩
  | attAbort _ _ => exact ⟨_, rfl, .of_keeps (execAttAbort_keeps (.refl s))⟩
  | attestTimeout _ => exact ⟨_, rfl, .of_keeps (execAttestTimeout_keeps (.refl s))⟩
  | attestRetry _ => exact ⟨_, rfl, .of_keeps (execAttestRetry_keeps (.refl s))⟩
  | dritarNack _ _ => exact ⟨_, rfl, .of_keeps (execDritarNack_keeps (.refl s))⟩
  | dritarPlanData _ _ => exact ⟨_, rfl, .of_keeps (execDritarPlanData_keeps (.refl s))⟩
  | dritarBarrierArrival _ _ => exact ⟨_, rfl, .of_keeps (execDritarBarrierArrival_keeps (.refl s))⟩
  | dritarManagement _ _ => exact ⟨_, rfl, .of_keeps (execDritarManagement_keeps (.refl s))⟩
  | dritarBulk _ _ => exact ⟨_, rfl, .of_keeps (execDritarBulk_keeps (.refl s))⟩

theorem step_advances {s t : State} (h : step s = .next t) : Advances { s with pending := s.pending.tail } t := by
  unfold step at h
  split at h
  case _ hempty =>
    obtain rfl := Host.Outcome.next.inj h
    exact ⟨by simp [hempty], id, .refl _⟩
  case _ c rest hfront =>
    obtain ⟨u, hu, hadv⟩ := exec_advances c { s with pending := rest }
    obtain rfl := Host.Outcome.next.inj (hu.symm.trans h)
    rw [hfront]
    exact hadv

/-- Settles O4: a step takes the queue's front, and what its command then does advances memories and registers. -/
theorem stepKeepsTheInvariant : Obligations.StepKeepsTheInvariant :=
  fun _ _ hs h => (step_advances h).inv ⟨hs.memory, hs.legal⟩

/-- Settles O2: every command answers a next state, and advances it. -/
theorem everyCommandKeepsTheQueue : Obligations.EveryCommandKeepsTheQueue := by
  intro c s
  obtain ⟨t, ht, hadv⟩ := exec_advances c s
  exact ⟨t, ht, hadv.pending⟩

/-- Settles O5: no command clears a programmed fuse; only SVN_COMMIT touches the fuses, and it programs clear ones. -/
theorem fusesAreNeverCleared : Obligations.FusesAreNeverCleared :=
  fun _ _ h => (step_advances h).phys.fuses

/-- Settles O3: reset has empty memories, and its registers are those of a reset with no fuse programmed. -/
theorem resetIsLegal : Obligations.ResetIsLegal :=
  ⟨reset_memOk, Phys.legal_reset thermometer_zero⟩

/-- Settles O1: both cases are the definition of a step. -/
theorem stepRunsTheFrontCommand : Obligations.StepRunsTheFrontCommand := by
  refine ⟨fun c rest s => rfl, fun s hempty => ?idle⟩
  case idle => rw [step, hempty]

end Sys2Proof.Machine

/-!
PROOFS. How a host command runs: its checks, its tag and its effect (R446 to R448, R469, R475).
-/

namespace Sys2Proof.Machine

/-! ### The host rows -/

/-- Every command of the host rows runs as its row says. -/
theorem exec_hostRow : ∀ row ∈ hostRows, ∀ (c : CmdIn) (s : State),
    exec (row.1 c) s = .next (runCommand row.2.1 row.2.2.1 row.2.2.2 c s) := by
  simp only [hostRows, List.forall_mem_append, List.forall_mem_cons, List.not_mem_nil, false_imp_iff, implies_true, and_true]
  and_intros <;> exact fun _ _ => rfl

/-! ### Running a command up to the gate -/

section
variable {c : CmdIn} {s : State} {f : Fetched} (hf : tget none s.host.fetched c.tag = some f) (hb : f.begun = false)
  (hm : mayBegin s c.tag f = true)
include hf hb hm

/-- A command that the gate refuses completes with the gate's status. -/
theorem runCommand_refused {e : Fail} (he : (gate f c (markBegun c.tag f s)).2 = some e) (checks : Cmd → State → List Check)
    (act : Cmd → State → Ran) : runCommand (opcodeOf f.raw) checks act c s =
      complete c.tag e.status e.sub e.result (gate f c (markBegun c.tag f s)).1 := by
  have hg : gate f c (markBegun c.tag f s) = ((gate f c (markBegun c.tag f s)).1, some e) := by rw [← he]
  unfold runCommand
  rw [hf]
  simp only [hb, hm, bne_self_eq_false, Bool.not_true, Bool.or_self, Bool.false_eq_true, if_false]
  rw [hg]

/-- A command that the gate lets pass begins. -/
theorem begins_of_gate (hg : (gate f c (markBegun c.tag f s)).2 = none) :
    Begins (opcodeOf f.raw) c s ⟨c.tag, f, c.param, c.data, needsTag f.raw f.fn (gate f c (markBegun c.tag f s)).1⟩
      (gate f c (markBegun c.tag f s)).1 :=
  ⟨hf, hb, rfl, hm, by rw [← hg], rfl⟩

/-- An opcode outside the table is INVALID_OPCODE, unless the gate refuses its command for another cause. -/
theorem unknownOpcode_eq (hop : opcodeOf f.raw ∉ opcodes) : unknownOpcode c s =
    match (gate f c (markBegun c.tag f s)).2 with
    | some e => if e.status = 3 then complete c.tag 3 0 0 (gate f c (markBegun c.tag f s)).1
        else complete c.tag e.status e.sub e.result (gate f c (markBegun c.tag f s)).1
    | none => complete c.tag 3 0 0 (gate f c (markBegun c.tag f s)).1 := by
  have hop : opcodes.contains (opcodeOf f.raw) = false := by simpa using hop
  unfold unknownOpcode
  rw [hf]
  simp only [hb, hm, hop, Bool.not_true, Bool.or_self, Bool.false_eq_true, if_false]
  rcases gate f c (markBegun c.tag f s) with ⟨t, _ | e⟩ <;> rfl

end

/-! ### The gate -/

/-- Outside a tenant's protection the physical function's commands pass step 2 of R475. -/
theorem checkTenant_unprotected {raw : Bytes} {c : CmdIn} {s : State} (h : tget none s.trust.tenants (fld raw 8 2) = none) :
    checkTenant raw 0 c s = (s, none) := by
  simp [checkTenant, tenantOf, h]

theorem gate_unprotected {f : Fetched} (c : CmdIn) {s : State} (hfn : f.fn = 0)
    (h : tget none s.trust.tenants (fld f.raw 8 2) = none) : gate f c s = (s,
      if s.phys.state < 3 then some ⟨1, 1, 0⟩
      else if s.phys.state = 4 ∧ opcodeOf f.raw ≠ 0x0106 then some ⟨0xD, 0, 0⟩
      else if fld f.raw 3 1 ≠ 1 then some ⟨4, 3, 0⟩
      else if opcodeOf f.raw / 256 = 1 ∧ f.sq ≠ 0 then some ⟨3, 1, 0⟩
      else none) := by
  have hqueue : queueFail f = if opcodeOf f.raw / 256 = 1 ∧ f.sq ≠ 0 then some ⟨3, 1, 0⟩ else none := by
    unfold queueFail
    by_cases hop : opcodeOf f.raw / 256 = 1 <;> by_cases hsq : f.sq = 0 <;> simp [hop, hsq, hfn]
  unfold gate
  rw [hfn, checkTenant_unprotected h, hqueue]
  split <;> [rfl; skip]
  split <;> [rfl; skip]
  dsimp only
  split <;> rfl

/-- Settles O13: a host command runs as its row says, and what it does then rests on the gate and its first failed check. -/
theorem failedChecksCompleteCommands : Obligations.FailedChecksCompleteCommands := by
  refine ⟨fun row hrow c s f hf hb hop hm => ⟨fun e he => ?refused, fun hg e he => ?failed, fun cmd t hacc => ?accepted⟩,
    fun f c s hfn h => gate_unprotected c hfn h, fun c s f hf hb hop hm => ⟨fun hg => ?unknown, fun e he => ?unknownRefused⟩⟩
  case refused =>
    rw [exec_hostRow row hrow, ← hop, runCommand_refused hf hb hm he]
  case failed =>
    have hbegins := begins_of_gate hf hb hm hg
    rw [exec_hostRow row hrow, ← hop, runCommand_begins hbegins, he]
  case accepted =>
    rw [exec_hostRow row hrow, runCommand_accepted hacc]
    cases row.2.2.2 cmd t <;> rfl
  case unknown =>
    refine congrArg Host.Outcome.next ((unknownOpcode_eq hf hb hm hop).trans ?_)
    rw [hg]
  case unknownRefused =>
    refine congrArg Host.Outcome.next ((unknownOpcode_eq hf hb hm hop).trans ?_)
    rw [he]

/-! ### Tags of virtual functions -/

theorem checkTag_wrong {raw : Bytes} {fn : Nat} {c : CmdIn} {t : Nat} {n : Tenant} {s : State}
    (h : commandTag (macKey t n) raw c.param c.data ≠ (raw.drop 48).take 16) :
    checkTag raw fn c t n s = (rejectTag t fn 1 s, some ⟨6, 1, 0⟩) := by
  simp [checkTag, h]

theorem freshSeq_eq_false_iff (n : Tenant) (q : Nat) :
    freshSeq n q = false ↔ q = 0 ∨ (q ≤ n.high ∧ (q + 1024 ≤ n.high ∨ q ∈ n.seen)) := by
  simp only [freshSeq, Bool.and_eq_false_iff, Bool.or_eq_false_iff, bne_eq_false_iff_eq, decide_eq_false_iff_not, not_lt,
    Bool.not_eq_false', List.contains_iff_mem]

theorem checkTag_stale {raw : Bytes} {fn : Nat} {c : CmdIn} {t : Nat} {n : Tenant} {s : State}
    (h : commandTag (macKey t n) raw c.param c.data = (raw.drop 48).take 16) (hq : freshSeq n (fld raw 4 4) = false) :
    checkTag raw fn c t n s = (rejectTag t fn 2 s, some ⟨6, 2, 0⟩) := by
  simp [checkTag, h, hq]

theorem checkTag_fresh {raw : Bytes} {fn : Nat} {c : CmdIn} {t : Nat} {n : Tenant} {s : State}
    (h : commandTag (macKey t n) raw c.param c.data = (raw.drop 48).take 16) (hq : freshSeq n (fld raw 4 4) = true) :
    checkTag raw fn c t n s =
      ({ s with trust := { s.trust with tenants := tset none s.trust.tenants t (some (consumeSeq n (fld raw 4 4))) } }, none) := by
  simp [checkTag, h, hq]

/-- In running firmware the gate refuses for what step 2 finds; what it leaves of the state is what step 2 leaves. -/
theorem gate_running {f : Fetched} {c : CmdIn} {s : State} (h : s.phys.state = 3) :
    (gate f c s).1 = (checkTenant f.raw f.fn c s).1 ∧
      ∀ e, (checkTenant f.raw f.fn c s).2 = some e → gate f c s = ((checkTenant f.raw f.fn c s).1, some e) := by
  unfold gate
  rw [h]
  rcases checkTenant f.raw f.fn c s with ⟨t, _ | e⟩
  · refine ⟨?_, by simp⟩
    simp only [show ¬3 < 3 by decide, show ¬(3 = 4 ∧ opcodeOf f.raw ≠ 262) by omega, if_false]
    split <;> rfl
  · simp

/-- A virtual function's command names the tenant that is bound to its function. -/
theorem checkTenant_bound {raw : Bytes} {fn : Nat} {c : CmdIn} {s : State} (hfn : fn ≠ 0) (h0 : fld raw 8 2 ≠ 0)
    (hb : tget 0 s.trust.binds fn = fld raw 8 2) : checkTenant raw fn c s =
      match tget none s.trust.tenants (fld raw 8 2) with
      | none => (s, some ⟨6, 3, 0⟩)
      | some n => checkTag raw fn c (fld raw 8 2) n s := by
  have hneeds : needsTag raw fn s = true := by simp [needsTag, hfn]
  unfold checkTenant tenantOf
  dsimp only
  cases tget none s.trust.tenants (fld raw 8 2) <;> simp [hb, hfn, h0, hneeds]

/-- Settles O14: the gate of a virtual function's command rests on its binding, then on its tag, then on its sequence. -/
theorem tagsOfVirtualFunctions : Obligations.TagsOfVirtualFunctions := by
  intro f c s hstate hfn
  obtain ⟨hleft, hrefuse⟩ := gate_running (f := f) (c := c) hstate
  refine ⟨fun hunbound => ?unbound, fun hb h0 hnone => ?unprotected, fun n hb h0 hn => ⟨fun htag => ?wrong, fun htag hstale => ?stale,
    fun htag hfresh => ?fresh⟩⟩
  case unbound =>
    have h : checkTenant f.raw f.fn c s = (s, some ⟨6, 4, 0⟩) := by
      simp only [checkTenant, bne_iff_ne, beq_iff_eq, Bool.and_eq_true, Bool.or_eq_true]
      rw [if_pos ⟨hfn, hunbound⟩]
    have := hrefuse ⟨6, 4, 0⟩ (by rw [h])
    rwa [h] at this
  case unprotected =>
    have h := checkTenant_bound (c := c) hfn h0 hb
    rw [hnone] at h
    have := hrefuse ⟨6, 3, 0⟩ (by rw [h])
    rwa [h] at this
  all_goals
    have h := checkTenant_bound (c := c) hfn h0 hb
    rw [hn] at h
    dsimp only at h
  case wrong =>
    rw [checkTag_wrong htag] at h
    have := hrefuse ⟨6, 1, 0⟩ (by rw [h])
    rwa [h] at this
  case stale =>
    rw [checkTag_stale htag ((freshSeq_eq_false_iff n _).2 hstale)] at h
    have := hrefuse ⟨6, 2, 0⟩ (by rw [h])
    rwa [h] at this
  case fresh =>
    have hq : freshSeq n (fld f.raw 4 4) = true := by
      rw [← Bool.not_eq_false, freshSeq_eq_false_iff]
      exact hfresh
    rw [hleft, h, checkTag_fresh htag hq]
    rfl

end Sys2Proof.Machine

/-!
PROOFS. Event records, and what posting an event does to the black box, the queues and the flags (R416 to R418, R482 to
R490).
-/

namespace Sys2Proof.Machine

/-! ### The bytes of a record -/

/-- A padded string in two parts. -/
theorem padTo_append_padTo_drop (m n : Nat) (b : Bytes) : padTo m b ++ padTo n (b.drop m) = padTo (m + n) b := by
  obtain h | h := Nat.le_total b.length m
  · simp only [padTo, List.drop_eq_nil_of_le h, List.take_of_length_le h, List.take_of_length_le (h.trans (Nat.le_add_right m n)),
      List.take_nil, List.length_nil, Nat.sub_zero, List.nil_append, List.append_assoc, zeros, List.replicate_append_replicate]
    congr 2
    omega
  · have hlen : n - (b.length - m) = m + n - b.length := by omega
    simp [padTo, zeros, Nat.sub_eq_zero_of_le h, List.take_add, hlen]

theorem padTo_of_length_ge {n : Nat} {b : Bytes} (h : n ≤ b.length) : padTo n b = b.take n := by
  simp [padTo, zeros, Nat.sub_eq_zero_of_le h]

/-- The first record of an event (R482). -/
def eventHead (src code seq count : Nat) (pay : Bytes) (ctrl : Nat) : Bytes :=
  le 2 src ++ (le 2 code ++ (le 4 seq ++ (le 8 count ++ (padTo 15 pay ++ le 1 ctrl))))

/-- The second record of an event (R483). -/
def eventRest (src seq : Nat) (pay : Bytes) (ctrl : Nat) : Bytes :=
  le 2 src ++ (le 2 0xFFFF ++ (le 4 seq ++ (padTo 23 (pay.drop 15) ++ le 1 ctrl)))

theorem eventRecords_short {pay : Bytes} (h : pay.length ≤ 15) (src code seq count sev : Nat) :
    eventRecords src code seq count sev pay = [eventHead src code seq count pay sev] := by
  simp only [eventRecords, if_pos h, eventHead, List.append_assoc, le]

theorem eventRecords_long {pay : Bytes} (h : ¬pay.length ≤ 15) (src code seq count sev : Nat) :
    eventRecords src code seq count sev pay =
      [eventHead src code seq count pay (sev + 16), eventRest src (seq + 1) pay sev] := by
  have hpad : padTo 8 (pay.drop 15) ++ padTo 15 (pay.drop 23) = padTo 23 (pay.drop 15) := by
    rw [← padTo_append_padTo_drop 8 15, List.drop_drop]
  simp only [eventRecords, if_neg h, eventHead, eventRest, ← hpad, List.append_assoc, le]

/-- An event has one record or two. -/
theorem eventRecords_length (src code seq count sev : Nat) (pay : Bytes) :
    (eventRecords src code seq count sev pay).length = if pay.length ≤ 15 then 1 else 2 := by
  split
  · rw [eventRecords_short ‹_›]; rfl
  · rw [eventRecords_long ‹_›]; rfl

/-- The part of a string behind a prefix of known length. -/
theorem take_drop_append {a : Bytes} {off : Nat} (ha : a.length ≤ off) (b : Bytes) (len : Nat) :
    ((a ++ b).drop off).take len = (b.drop (off - a.length)).take len := by
  rw [List.drop_append, List.drop_eq_nil_of_le ha, List.nil_append]

theorem eventHead_fields {src code seq count ctrl : Nat} (pay : Bytes) (hsrc : src < 2 ^ 16) (hcode : code < 2 ^ 16)
    (hseq : seq < 2 ^ 32) (hcount : count < 2 ^ 64) (hctrl : ctrl < 2 ^ 8) :
    let r := eventHead src code seq count pay ctrl
    (r.length = 32 ∧ fld r 0 2 = src ∧ fld r 2 2 = code ∧ fld r 4 4 = seq ∧ fld r 8 8 = count) ∧
      (r.drop 16).take 15 = padTo 15 pay ∧ fld r 31 1 = ctrl := by
  have behindPay (off len : Nat) (hoff : 15 ≤ off) (b : Bytes) : fld (padTo 15 pay ++ b) off len = fld b (off - 15) len := by
    rw [fld_append_of_length_le (by simpa using hoff), padTo_length]
  refine ⟨⟨by simp [eventHead], ?_, ?_, ?_, ?_⟩, ?pay, ?_⟩
  case pay =>
    simp (disch := simp) only [eventHead, take_drop_append, le_length, Nat.reduceSub, List.drop_zero]
    exact List.take_left' (padTo_length 15 pay)
  all_goals
    simp (disch := omega) only [eventHead, behindPay, fld_le_append_of_le, fld_le_append, fld_le, Nat.reduceSub]

theorem eventRest_fields {src seq ctrl : Nat} (pay : Bytes) (hsrc : src < 2 ^ 16) (hseq : seq < 2 ^ 32) (hctrl : ctrl < 2 ^ 8) :
    let r := eventRest src seq pay ctrl
    r.length = 32 ∧ fld r 0 2 = src ∧ fld r 2 2 = 0xFFFF ∧ fld r 4 4 = seq ∧ (r.drop 8).take 23 = padTo 23 (pay.drop 15) ∧
      fld r 31 1 = ctrl := by
  have behindPay (off len : Nat) (hoff : 23 ≤ off) (b : Bytes) :
      fld (padTo 23 (pay.drop 15) ++ b) off len = fld b (off - 23) len := by
    rw [fld_append_of_length_le (by simpa using hoff), padTo_length]
  refine ⟨by simp [eventRest], ?_, ?_, ?_, ?rest, ?_⟩
  case rest =>
    simp (disch := simp) only [eventRest, take_drop_append, le_length, Nat.reduceSub, List.drop_zero]
    exact List.take_left' (padTo_length 23 _)
  all_goals
    simp (disch := omega) only [eventRest, behindPay, fld_le_append_of_le, fld_le_append, fld_le, Nat.reduceSub]

/-! ### The black box -/

/-- The last number of a source's records is `n` (R488). -/
def Ev.number (e : Ev) (src n : Nat) : Ev := { e with seqs := tset none e.seqs src (some n) }

theorem Ev.number_seqs (e : Ev) (src n : Nat) : (e.number src n).seqs = tset none e.seqs src (some n) := rfl

/-- The black box with one more record, or one more drop while it is frozen. -/
def Ev.record (e : Ev) (r : Bytes) : Ev :=
  if e.frozen then { e with dropped := min (2 ^ 32 - 1) (e.dropped + 1) }
  else { e with box := tset [] e.box (e.written % 65536) r, written := e.written + 1 }

theorem boxRecord_eq (r : Bytes) (s : State) : boxRecord r s = { s with ev := s.ev.record r } := by
  unfold boxRecord Ev.record
  split <;> rfl

theorem foldl_boxRecord (rs : List Bytes) (s : State) :
    rs.foldl (fun s r => boxRecord r s) s = { s with ev := rs.foldl Ev.record s.ev } := by
  induction rs generalizing s with
  | nil => rfl
  | cons r rs ih => rw [List.foldl_cons, ih, boxRecord_eq]; rfl

theorem Ev.record_seqs (e : Ev) (r : Bytes) : (e.record r).seqs = e.seqs := by unfold Ev.record; split <;> rfl
theorem Ev.record_frozen (e : Ev) (r : Bytes) : (e.record r).frozen = e.frozen := by unfold Ev.record; split <;> rfl

theorem Ev.records_seqs (rs : List Bytes) (e : Ev) : (rs.foldl Ev.record e).seqs = e.seqs := by
  induction rs generalizing e with
  | nil => rfl
  | cons r rs ih => rw [List.foldl_cons, ih, Ev.record_seqs]

theorem Ev.records_frozen (rs : List Bytes) (e : Ev) : (rs.foldl Ev.record e).frozen = e.frozen := by
  induction rs generalizing e with
  | nil => rfl
  | cons r rs ih => rw [List.foldl_cons, ih, Ev.record_frozen]

/-- A frozen box only counts. -/
theorem Ev.records_of_frozen (r : Bytes) (rs : List Bytes) {e : Ev} (h : e.frozen = true) :
    (r :: rs).foldl Ev.record e = { e with dropped := min (2 ^ 32 - 1) (e.dropped + (r :: rs).length) } := by
  have hone (r : Bytes) : e.record r = { e with dropped := min (2 ^ 32 - 1) (e.dropped + 1) } := if_pos h
  induction rs generalizing e r with
  | nil => exact hone r
  | cons q rs ih =>
    rw [List.foldl_cons, ih q ((e.record_frozen r).trans h) (fun _ => if_pos ((e.record_frozen r).trans h)), hone]
    simp only [List.length_cons]
    congr 1
    omega

section
variable {e : Ev} (h : e.frozen = false)
include h

theorem Ev.record_of_thawed (r : Bytes) :
    e.record r = { e with box := tset [] e.box (e.written % 65536) r, written := e.written + 1 } :=
  if_neg (ne_true_of_eq_false h)

theorem Ev.records_written (rs : List Bytes) :
    (rs.foldl Ev.record e).written = e.written + rs.length ∧ (rs.foldl Ev.record e).dropped = e.dropped := by
  induction rs generalizing e with
  | nil => exact ⟨rfl, rfl⟩
  | cons r rs ih =>
    obtain ⟨hw, hd⟩ := ih (e := e.record r) ((e.record_frozen r).trans h)
    rw [List.foldl_cons, hw, hd, Ev.record_of_thawed h]
    exact ⟨by simp; omega, rfl⟩

/-- Records leave the ring's other places alone. -/
theorem Ev.records_box_other (rs : List Bytes) {j : Nat} (hj : ∀ i, i < rs.length → (e.written + i) % 65536 ≠ j) :
    tget [] (rs.foldl Ev.record e).box j = tget [] e.box j := by
  induction rs generalizing e with
  | nil => rfl
  | cons r rs ih =>
    rw [List.foldl_cons, ih ((e.record_frozen r).trans h), Ev.record_of_thawed h]
    · exact tget_tset_of_ne (Ne.symm (hj 0 (by simp)))
    · intro i hi
      rw [Ev.record_of_thawed h]
      simpa [Nat.add_assoc, Nat.add_comm 1] using hj (i + 1) (by simpa using hi)

/-- As many records as the ring holds take the next places in turn. -/
theorem Ev.records_box (rs : List Bytes) (hlen : rs.length ≤ 65536) {i : Nat} {r : Bytes} (hi : rs[i]? = some r) :
    tget [] (rs.foldl Ev.record e).box ((e.written + i) % 65536) = r := by
  induction rs generalizing e i with
  | nil => simp at hi
  | cons q rs ih =>
    have hthaw := (e.record_frozen q).trans h
    have hwritten : (e.record q).written = e.written + 1 := by rw [Ev.record_of_thawed h]
    rw [List.length_cons] at hlen
    rw [List.foldl_cons]
    cases i with
    | zero =>
      obtain rfl : q = r := by simpa using hi
      rw [Ev.records_box_other hthaw rs, Ev.record_of_thawed h]
      · exact tget_tset_self _ _ _
      · intro i hi
        rw [hwritten]
        omega
    | succ i =>
      have := ih hthaw (by omega) (i := i) (by simpa using hi)
      rwa [hwritten, Nat.add_assoc, Nat.add_comm 1] at this

end

/-! ### Delivery -/

theorem evqPut_ev (q : Nat) (r : Bytes) (s : State) : (evqPut q r s).ev = s.ev := by
  unfold evqPut
  split
  · rfl
  · change (hostWrite _ _ _ s).ev = s.ev
    unfold hostWrite
    split <;> rfl

theorem foldl_ev {α : Type} {f : State → α → State} (hf : ∀ s x, (f s x).ev = s.ev) (l : List α) (s : State) :
    (l.foldl f s).ev = s.ev := by
  induction l generalizing s with
  | nil => rfl
  | cons x l ih => rw [List.foldl_cons, ih, hf]

theorem evqDeliver_ev (q : Nat) (rs : List Bytes) (s : State) : (evqDeliver q rs s).ev = s.ev := by
  unfold evqDeliver
  split
  · rfl
  split
  · rfl
  · exact foldl_ev (fun s r => evqPut_ev q r s) rs s

theorem routeRecords_ev (cls : Nat) (rs : List Bytes) (s : State) : (routeRecords cls rs s).ev = s.ev := by
  unfold routeRecords
  split
  · exact foldl_ev (fun s _ => setHostFlag_ev flagUnrouted s) rs s
  split
  · exact evqDeliver_ev _ rs s
  · rfl

/-- The event queue after one more entry: the phase toggles where the tail wraps. -/
def Evq.advance (e : Evq) : Evq :=
  { e with tail := (e.tail + 1) % 2 ^ e.exp, phase := if (e.tail + 1) % 2 ^ e.exp = 0 then !e.phase else e.phase }

theorem evqPut_of_link {s : State} {q : Nat} {e : Evq} (hq : tget none s.host.evqs q = some e) (hlink : s.phys.link = true)
    (r : Bytes) : evqPut q r s = { s with
      out := { s.out with host := s.out.host ++ [⟨0, e.base + 32 * e.tail, withPhase r e.phase⟩] }
      host := { s.host with evqs := tset none s.host.evqs q (some e.advance) } } := by
  simp only [evqPut, hq, hostWrite_of_link hlink]
  rfl

/-- Records that are delivered take the next places of the queue. -/
theorem foldl_evqPut {q : Nat} (rs : List Bytes) {s : State} {e : Evq} (hq : tget none s.host.evqs q = some e)
    (hlink : s.phys.link = true) :
    (rs.foldl (fun s r => evqPut q r s) s).bar = s.bar ∧
    (rs.foldl (fun s r => evqPut q r s) s).out.host.length = s.out.host.length + rs.length ∧
    ∃ e', tget none (rs.foldl (fun s r => evqPut q r s) s).host.evqs q = some e' ∧ e'.exp = e.exp ∧
      (rs ≠ [] → e'.tail = (e.tail + rs.length) % 2 ^ e.exp) := by
  induction rs generalizing s e with
  | nil => exact ⟨rfl, rfl, e, hq, rfl, fun h => absurd rfl h⟩
  | cons r rs ih =>
    have hput := evqPut_of_link hq hlink r
    obtain ⟨hbar, hout, e', he', hexp, htail⟩ := ih (s := evqPut q r s) (e := e.advance)
      (by rw [hput]; exact tget_tset_self s.host.evqs q (some e.advance)) (by rw [hput]; exact hlink)
    rw [List.foldl_cons]
    refine ⟨hbar.trans (by rw [hput]), hout.trans (by rw [hput]; simp; omega), e', he', hexp, fun _ => ?_⟩
    cases rs with
    | nil =>
      rw [List.foldl_nil, hput] at he'
      obtain rfl := Option.some.inj ((tget_tset_self s.host.evqs q (some e.advance)).symm.trans he')
      rfl
    | cons r' rs =>
      rw [htail (by simp)]
      simp only [Evq.advance, Nat.mod_add_mod, List.length_cons]
      congr 1
      omega

/-- Settings of one flag without a clear between them. -/
theorem foldl_setHostFlag {k : Nat} (hk : k < 6) (r : Bytes) (rs : List Bytes) (s : State) :
    let t := (r :: rs).foldl (fun s _ => setHostFlag k s) s
    t.host = s.host ∧ t.out = s.out ∧ t.bar.hostFlags.getLsbD k = true ∧
      tget 0 t.bar.hostSets k = min 255 (tget 0 s.bar.hostSets k + (r :: rs).length) := by
  induction rs generalizing r s with
  | nil =>
    refine ⟨rfl, rfl, ?_, ?_⟩
    · exact ((hostReg s).set_flags hk k).trans (by simp)
    · exact ((hostReg s).set_sets k k).trans (by simp [hostReg])
  | cons q rs ih =>
    obtain ⟨hhost, hout, hflag, hsets⟩ := ih q (setHostFlag k s)
    refine ⟨hhost, hout, hflag, hsets.trans ?_⟩
    have hset : tget 0 (setHostFlag k s).bar.hostSets k = _ := (hostReg s).set_sets k k
    rw [hset, if_pos rfl]
    simp only [hostReg, List.length_cons]
    omega

/-- Records of a class that no queue claims set EVENT_UNROUTED once each. -/
theorem routeRecords_unrouted {cls : Nat} {s : State} (h : evqOf s cls = none) (r : Bytes) (rs : List Bytes) :
    let t := routeRecords cls (r :: rs) s
    t.host = s.host ∧ t.out = s.out ∧ t.bar.hostFlags.getLsbD 1 = true ∧
      tget 0 t.bar.hostSets 1 = min 255 (tget 0 s.bar.hostSets 1 + (r :: rs).length) := by
  unfold routeRecords
  rw [h]
  exact foldl_setHostFlag (k := flagUnrouted) (by decide) r rs s

section
variable {cls q : Nat} {s : State} {e : Evq} (hq : evqOf s cls = some q) (he : tget none s.host.evqs q = some e)
  (hlink : s.phys.link = true)
include hq he hlink

theorem routeRecords_of_link (rs : List Bytes) : routeRecords cls rs s =
    if e.faulted = true ∨ ringFree e.exp e.head e.tail < rs.length then setHostFlag flagOverflow s
    else rs.foldl (fun s r => evqPut q r s) s := by
  unfold routeRecords
  rw [hq]
  simp only [hlink, if_true, evqDeliver, he, Bool.or_eq_true, decide_eq_true_eq]

/-- Records that find too few free entries set EVQ_OVERFLOW. -/
theorem routeRecords_overflow {rs : List Bytes} (h : e.faulted = true ∨ ringFree e.exp e.head e.tail < rs.length) :
    let t := routeRecords cls rs s
    t.host = s.host ∧ t.out = s.out ∧ t.bar.hostFlags.getLsbD 0 = true := by
  rw [routeRecords_of_link hq he hlink, if_pos h]
  refine ⟨rfl, rfl, ((hostReg s).set_flags (k := flagOverflow) (by decide) 0).trans ?_⟩
  simp [flagOverflow]

theorem routeRecords_delivered {rs : List Bytes} (hrs : rs ≠ []) (hsound : e.faulted = false)
    (hfree : rs.length ≤ ringFree e.exp e.head e.tail) :
    let t := routeRecords cls rs s
    t.bar = s.bar ∧ t.out.host.length = s.out.host.length + rs.length ∧
      (tget none t.host.evqs q).map (·.tail) = some ((e.tail + rs.length) % 2 ^ e.exp) := by
  rw [routeRecords_of_link hq he hlink, if_neg (by simpa [hsound] using hfree)]
  obtain ⟨hbar, hout, e', he', -, htail⟩ := foldl_evqPut rs he hlink
  exact ⟨hbar, hout, by rw [he']; exact congrArg some (htail hrs)⟩

end

/-! ### Posting -/

/-- The records of a source have been numbered and recorded in the box. -/
def recorded (src : Nat) (rs : List Bytes) (s : State) : State :=
  { s with ev := rs.foldl Ev.record (s.ev.number src ((nextSeq s src + rs.length - 1) % 2 ^ 32)) }

theorem recorded_seqs (src : Nat) (rs : List Bytes) (s : State) : (recorded src rs s).ev.seqs =
    tset none s.ev.seqs src (some ((nextSeq s src + rs.length - 1) % 2 ^ 32)) :=
  (Ev.records_seqs _ _).trans (Ev.number_seqs _ _ _)

/-- Posting numbers the records, records them in the box and delivers them. -/
theorem postEvent_eq (cls inst code sev : Nat) (pay : Bytes) (s : State) :
    let src := cls * 1024 + inst
    let rs := eventRecords src code (nextSeq s src) s.spin.count sev pay
    postEvent cls inst code sev pay s = routeRecords cls rs (recorded src rs s) :=
  congrArg (routeRecords cls _) (foldl_boxRecord _ _)

/-- Settles O17: the records by their layout, the posting by what the box, the queue and the flags each make of the records. -/
theorem eventRecordsArePosted : Obligations.EventRecordsArePosted := by
  refine ⟨fun src code seq count sev pay hsrc hcode hseq hcount hsev hpay => ?layout, fun cls inst code sev pay s => ?posting⟩
  case layout =>
    dsimp only
    split
    · obtain ⟨hhead, hpay, hctrl⟩ := eventHead_fields pay hsrc hcode (show seq < 2 ^ 32 by omega) hcount (show sev < 2 ^ 8 by omega)
      exact ⟨_, eventRecords_short ‹_› .., hhead, hpay, hctrl⟩
    · obtain ⟨hhead, hpay, hctrl⟩ :=
        eventHead_fields pay hsrc hcode (show seq < 2 ^ 32 by omega) hcount (show sev + 16 < 2 ^ 8 by omega)
      exact ⟨_, _, eventRecords_long ‹_› .., hhead, hpay.trans (padTo_of_length_ge (by omega)), hctrl,
        eventRest_fields pay hsrc hseq (show sev < 2 ^ 8 by omega)⟩
  case posting =>
    intro src seq rs t
    have hseq : seq = nextSeq s src := rfl
    have hpost : t = routeRecords cls rs (recorded src rs s) := postEvent_eq cls inst code sev pay s
    have hrs : rs = eventRecords src code seq s.spin.count sev pay := rfl
    clear_value t rs seq src
    subst hpost hseq
    have hlen : rs.length = 1 ∨ rs.length = 2 := by
      rw [hrs, eventRecords_length]
      split <;> simp
    clear hrs
    obtain ⟨r, rs, rfl⟩ : ∃ r rs', rs = r :: rs' := List.exists_cons_of_length_pos (by omega)
    simp only [routeRecords_ev]
    refine ⟨?seqs, fun j hj => ?others, ?frozen, fun h => ?thawed, fun h => ?frozenBox, fun h => ?unrouted,
      fun q e hq he hlink => ⟨fun h => ?overflow, fun hsound hfree => ?delivered⟩⟩
    case seqs => rw [recorded_seqs, tget_tset_self]
    case others => rw [recorded_seqs, tget_tset_of_ne hj]
    case frozen => exact Ev.records_frozen _ _
    case thawed =>
      have h : (s.ev.number src ((nextSeq s src + (r :: rs).length - 1) % 2 ^ 32)).frozen = false := h
      obtain ⟨hwritten, hdropped⟩ := Ev.records_written h (r :: rs)
      exact ⟨hwritten, hdropped, fun i x hx => Ev.records_box h (r :: rs) (by omega) hx,
        fun j hj => Ev.records_box_other h (r :: rs) hj⟩
    case frozenBox =>
      have h : (s.ev.number src ((nextSeq s src + (r :: rs).length - 1) % 2 ^ 32)).frozen = true := h
      rw [recorded, Ev.records_of_frozen r rs h]
      exact ⟨rfl, rfl, rfl⟩
    case unrouted => exact routeRecords_unrouted (s := recorded src (r :: rs) s) h r rs
    case overflow => exact routeRecords_overflow (s := recorded src (r :: rs) s) hq he hlink h
    case delivered => exact routeRecords_delivered (s := recorded src (r :: rs) s) hq he hlink (List.cons_ne_nil r rs) hsound hfree

end Sys2Proof.Machine

/-!
PROOFS. What posting leaves of BAR0, and arrivals and releases at barriers (R350 to R352).
-/

namespace Sys2Proof.Machine

/-! ### What posting leaves of the state -/

section
variable {α : Type} {π : State → α} (hflag : ∀ k s, π (setHostFlag k s) = π s) (hhost : ∀ s x, π { s with host := x } = π s)
  (hout : ∀ s x, π { s with out := x } = π s)
include hflag hhost hout

omit hflag hhost hout in
theorem preserves_foldl {β : Type} {f : State → β → State} (hf : ∀ s x, π (f s x) = π s) (l : List β) (s : State) :
    π (l.foldl f s) = π s := by
  induction l generalizing s with
  | nil => rfl
  | cons x l ih => rw [List.foldl_cons, ih, hf]

omit hflag in
theorem hostWrite_preserves (fn addr : Nat) (b : Bytes) (s : State) : π (hostWrite fn addr b s) = π s := by
  unfold hostWrite
  split
  · exact hout s _
  · exact hhost s _

omit hflag in
theorem evqPut_preserves (q : Nat) (r : Bytes) (s : State) : π (evqPut q r s) = π s := by
  unfold evqPut
  split
  · rfl
  · exact (hhost _ _).trans (hostWrite_preserves hhost hout _ _ _ s)

theorem evqDeliver_preserves (q : Nat) (rs : List Bytes) (s : State) : π (evqDeliver q rs s) = π s := by
  unfold evqDeliver
  split
  · rfl
  split
  · exact hflag _ s
  · exact preserves_foldl (fun s r => evqPut_preserves hhost hout q r s) rs s

theorem routeRecords_preserves (cls : Nat) (rs : List Bytes) (s : State) : π (routeRecords cls rs s) = π s := by
  unfold routeRecords
  split
  · exact preserves_foldl (fun s _ => hflag _ s) rs s
  split
  · exact evqDeliver_preserves hflag hhost hout _ rs s
  · exact hhost s _

/-- Posting preserves what flags of HOST_FLAGS, queues, records and what leaves the module do not change. -/
theorem postEvent_preserves (hev : ∀ s x, π { s with ev := x } = π s) (cls inst code sev : Nat) (pay : Bytes) (s : State) :
    π (postEvent cls inst code sev pay s) = π s :=
  (congrArg π (postEvent_eq cls inst code sev pay s)).trans ((routeRecords_preserves hflag hhost hout _ _ _).trans (hev s _))

end

@[simp] theorem postEvent_syncFlags (cls inst code sev : Nat) (pay : Bytes) (s : State) :
    (postEvent cls inst code sev pay s).bar.syncFlags = s.bar.syncFlags :=
  postEvent_preserves (π := fun s => s.bar.syncFlags) (fun _ _ => rfl) (fun _ _ => rfl) (fun _ _ => rfl) (fun _ _ => rfl) ..

@[simp] theorem postOncePerPass_syncFlags (pk code sev sub : Nat) (pay : Bytes) (s : State) :
    (postOncePerPass pk code sev sub pay s).bar.syncFlags = s.bar.syncFlags := by
  unfold postOncePerPass
  split
  · rfl
  split
  · rfl
  · exact postEvent_syncFlags ..

@[simp] theorem postOncePerPass_loaded (pk code sev sub : Nat) (pay : Bytes) (s : State) :
    (postOncePerPass pk code sev sub pay s).plans.loaded = s.plans.loaded := by
  obtain h | ⟨p, -, h⟩ := postOncePerPass_frame pk code sev sub pay s <;> rw [h.plans]; rfl

/-! ### What the operations of barriers change -/

section
variable (pk b x gen : Nat) (s : State)

@[simp] theorem noteLap_stores : (noteLap pk b x gen s).stores = s.stores := postOncePerPass_stores ..
@[simp] theorem noteLap_flies : (noteLap pk b x gen s).plans.flies = s.plans.flies := postOncePerPass_flies ..
@[simp] theorem noteLap_loaded : (noteLap pk b x gen s).plans.loaded = s.plans.loaded := postOncePerPass_loaded ..
@[simp] theorem noteLap_syncFlags : (noteLap pk b x gen s).bar.syncFlags = (setSyncFlag 0 s).bar.syncFlags :=
  postOncePerPass_syncFlags ..

@[simp] theorem noteExcess_stores : (noteExcess pk b x gen s).stores = s.stores := postOncePerPass_stores ..
@[simp] theorem noteExcess_flies : (noteExcess pk b x gen s).plans.flies = s.plans.flies := postOncePerPass_flies ..
@[simp] theorem noteExcess_loaded : (noteExcess pk b x gen s).plans.loaded = s.plans.loaded := postOncePerPass_loaded ..
@[simp] theorem noteExcess_syncFlags : (noteExcess pk b x gen s).bar.syncFlags = s.bar.syncFlags :=
  postOncePerPass_syncFlags ..

end

@[simp] theorem setBarrier_eq (key : Nat) (p : Plan) (b : Nat) (c : Barrier) (s : State) :
    setBarrier key p b c s = setPlan key (some { p with barriers := tset none p.barriers b (some c) }) s := rfl

theorem flyAt_setPlan (key : Nat) (p : Option Plan) (s : State) (id : Nat) : flyAt (setPlan key p s) id = flyAt s id := rfl

theorem loaded_setPlan (key : Nat) (p : Plan) (s : State) : tget none (setPlan key (some p) s).plans.loaded key = some p :=
  tget_tset_self s.plans.loaded key (some p)

/-- A barrier's copy after one more refusal. -/
def countLap (c : Barrier) : Barrier := { c with refused := min 65535 (c.refused + 1) }

theorem countRefusal_eq {key : Nat} {s : State} {p : Plan} (h : tget none s.plans.loaded key = some p) (b : Nat) :
    countRefusal key b s = setPlan key (some { p with
      barriers := tset none p.barriers b (some (countLap (barrierAt p b))) }) s := by
  simp only [countRefusal, planAt, h, setBarrier_eq, countLap]

theorem setSyncFlag_getLsbD {k : Nat} (hk : k < 6) (s : State) (j : Nat) :
    (setSyncFlag k s).bar.syncFlags.getLsbD j = (decide (j = k) || s.bar.syncFlags.getLsbD j) :=
  (syncReg s).set_flags hk j

theorem tget_barriers_of_ne (p : Plan) {b x : Nat} (h : x ≠ b) (c : Barrier) :
    tget none { p with barriers := tset none p.barriers b (some c) }.barriers x = tget none p.barriers x := by
  dsimp only
  rw [tget_tset_of_ne h]

theorem barrierAt_tset (p : Plan) (a : Tab Nat) (b : Nat) (c : Barrier) :
    barrierAt { p with arrivals := a, barriers := tset none p.barriers b (some c) } b = c := by
  simp only [barrierAt, tget_tset_self, Option.getD_some]

/-! ### BARRIER_ARRIVE -/

/-- A plan once a unit's arrival number has advanced. -/
def arrived (q : Plan) (key : Nat) : Plan :=
  { q with arrivals := tset 0 q.arrivals key ((tget 0 q.arrivals key + 1) % 65536) }

section
variable {f : Fly} {s : State} {q : Plan} {b : Nat} (hq : tget none s.plans.loaded (f.part / 16) = some q)
  (hb : barrierOf f.op = b) (hscope : ((barrierDef q b).map (·.scope)).getD 0 < 2)
include hq hb hscope

/-- An arrival of scope 0 or 1, by its distance from the base generation. -/
theorem startArrive_near (id : Nat) : startArrive id f s =
    let a := tget 0 q.arrivals (arrivalKey f b)
    let d := genDist a (barrierAt q b).g
    let p := arrived q (arrivalKey f b)
    let t := setPlan (f.part / 16) (some p) s
    if d ≤ 1 then setBarrier (f.part / 16) p b (countArrival (barrierAt q b) d) t
    else if d ≤ 32767 then
      noteLap f.part b (unitField f.op) a
        (setPlan (f.part / 16) (some { p with barriers := tset none p.barriers b (some (countLap (barrierAt q b))) })
          (setFly id (some { f with wait := .arrival, body := .barrier b a }) t))
    else noteExcess f.part b (selfFor (setSyncFlag 1 t) (some f.part)) a (setSyncFlag 1 t) := by
  have hplan : planOfFly s f = some (f.part / 16, q) := by simp [planOfFly, planAt, hq]
  have hbase : ∀ a, barrierAt { q with arrivals := a } b = barrierAt q b := fun _ => rfl
  unfold startArrive
  simp only [hplan, hb, arrive, hbase, barrierDef, arrived] at hscope ⊢
  simp only [if_neg (Nat.not_le.2 hscope)]
  by_cases h1 : genDist (tget 0 q.arrivals (arrivalKey f b)) (barrierAt q b).g ≤ 1
  · simp only [h1, if_true, if_neg (Nat.not_le.2 (Nat.lt_succ_of_le h1)), Bool.false_eq_true, if_false]
  · have h2 : 2 ≤ genDist (tget 0 q.arrivals (arrivalKey f b)) (barrierAt q b).g := by omega
    by_cases h3 : genDist (tget 0 q.arrivals (arrivalKey f b)) (barrierAt q b).g ≤ 32767
    · simp only [h1, h3, if_true, if_false]
      refine congrArg _ (countRefusal_eq (p := arrived q (arrivalKey f b)) ?_ b)
      exact loaded_setPlan (f.part / 16) (arrived q (arrivalKey f b)) s
    · simp only [h1, h2, h3, if_true, Bool.false_eq_true, if_false]

end

/-! ### Releases -/

section
variable {need : Nat} (tick : Nat) {c : Barrier}

theorem releaseAll_below (n : Nat) (h : c.c0 < need) : releaseAll need tick n c = c := by
  cases n with
  | zero => rfl
  | succ n => rw [releaseAll, if_pos h]

theorem releaseAll_reached (n : Nat) (h : need ≤ c.c0) (hlen : c.released.length ≤ 511) :
    releaseAll need tick (n + 1) c = releaseAll need tick n
      { c with g := (c.g + 1) % 65536, c0 := c.c1, c1 := 0, released := (c.g, tick) :: c.released } := by
  rw [releaseAll, if_neg (Nat.not_lt.2 h), List.take_of_length_le (by simp; omega)]

end

/-- Settles O48: an arrival by its distance, and releases one generation at a time while its count is reached. -/
theorem arrivalsAndReleases : Obligations.ArrivalsAndReleases := by
  refine ⟨fun st op s pk p q hdue hq => ?arrivals, fun need tick c hneed hg hlen => ⟨fun h0 => ?below, fun h0 h1 => ?one, fun h0 h1 => ?two⟩⟩
  case below => exact releaseAll_below tick 3 h0
  case one => rw [releaseAll_reached tick 2 h0 (by omega), releaseAll_below tick 2 (by exact h1)]
  case two =>
    rw [releaseAll_reached tick 2 h0 (by omega), releaseAll_reached tick 1 (by exact h1) (by simp; omega),
      releaseAll_below tick 1 (by exact hneed)]
    simp [Nat.add_assoc]
  case arrivals =>
    intro b key a c d scope hdef hlow
    have hscope : ((barrierDef q b).map (·.scope)).getD 0 < 2 := by rw [hdef]; exact hlow
    have hstart := startArrive_near (f := freshFly st op pk s) (s := taken st op pk p s) (q := q) (b := b) hq rfl hscope
      s.plans.nextFly
    have hexec : exec (.barrierArrive st op) s = .next (startArrive s.plans.nextFly (freshFly st op pk s) (taken st op pk p s)) :=
      congrArg Host.Outcome.next (issue_due hdue startArrive)
    have hkey : arrivalKey (freshFly st op pk s) b = key := rfl
    have harr (k : Nat) (hk : k ≠ key) : tget 0 (arrived q key).arrivals k = tget 0 q.arrivals k := tget_tset_of_ne hk
    have hone : tget 0 (arrived q key).arrivals key = (a + 1) % 65536 := tget_tset_self _ _ _
    by_cases h1 : d ≤ 1
    · have ht := hexec.trans (congrArg Host.Outcome.next (hstart.trans (if_pos h1)))
      refine ⟨_, ht, rfl, ⟨_, loaded_setPlan .., hone, harr, rfl, fun x hx => ?_, ?_⟩, fun hfly => ?_, ?_, ?_⟩
      · exact tget_barriers_of_ne _ hx _
      · refine (barrierAt_tset q _ b _).trans ?_
        change (if d = 0 then _ else _) = _
        split
        · rfl
        · rw [if_pos (by omega)]
      · rw [if_neg (by omega)]
        exact congrArg (Option.map _) hfly
      · simp [show ¬2 ≤ d by omega, taken]
      · simp [show ¬32768 ≤ d by omega, taken]
    by_cases h2 : d ≤ 32767
    · have ht := hexec.trans (congrArg Host.Outcome.next (hstart.trans ((if_neg h1).trans (if_pos h2))))
      refine ⟨_, ht, by simp [taken], ⟨_, (congrArg (tget none · _) (noteLap_loaded ..)).trans (loaded_setPlan ..), hone, harr, rfl,
        fun x hx => ?_, ?_⟩, fun _ => ?_, ?_, ?_⟩
      · exact tget_barriers_of_ne _ hx _
      · refine (barrierAt_tset q _ b _).trans ?_
        rw [if_neg (by omega), if_neg (by omega), if_pos h2]
        rfl
      · rw [if_pos (by omega), flyAt_eq (noteLap_flies ..), flyAt_setPlan, flyAt_setFly]
        rfl
      · rw [noteLap_syncFlags, setSyncFlag_getLsbD (by decide)]
        simp [show 2 ≤ d by omega, h2]
      · rw [noteLap_syncFlags, setSyncFlag_getLsbD (by decide)]
        simp [show ¬32768 ≤ d by omega, taken]
    · have ht := hexec.trans (congrArg Host.Outcome.next (hstart.trans ((if_neg h1).trans (if_neg h2))))
      refine ⟨_, ht, by simp [taken], ⟨_, (congrArg (tget none · _) (noteExcess_loaded ..)).trans (loaded_setPlan (pk / 16) _ (taken st op pk p s)), hone, harr, rfl,
        fun x hx => rfl, ?_⟩, fun hfly => ?_, ?_, ?_⟩
      · rw [if_neg (by omega), if_neg (by omega), if_neg h2]
        rfl
      · rw [if_neg (by omega), flyAt_eq (noteExcess_flies ..)]
        exact congrArg (Option.map _) hfly
      · rw [noteExcess_syncFlags, setSyncFlag_getLsbD (by decide)]
        simp [h2, taken]
      · rw [noteExcess_syncFlags, setSyncFlag_getLsbD (by decide)]
        simp [show 32768 ≤ d by omega]

end Sys2Proof.Machine

/-!
PROOFS. What a write of less than a word does at the end of an index: it is padded with zeros (R22, R340).
-/

namespace Sys2Proof.Machine

/-- After reset, byte 0 of the stores holds 1, and a write of word 0 without bytes lands at the end of the index. -/
def emptyWriteState : State :=
  { State.reset with stores := { Stores.reset with mem := [(0, 1#8)], writes := [⟨0, 0, 0, 0, false, [(0, [])]⟩] } }

theorem judge_emptyWriteState : judge emptyWriteState = ⟨[(.op 0, ⟨0, 0, 0, 0, false, [(0, [])]⟩)], [], []⟩ := rfl

theorem landWrites_emptyWriteState_mem : (landWrites emptyWriteState).stores.mem = [] := rfl

/-- Refutes O50: a write takes a whole word, padded with zeros, so a byte of the word that the write's own bytes do not reach
does not keep its value. -/
theorem not_storesFillInOrder : ¬ Obligations.StoresFillInOrder := by
  rintro ⟨-, hstores⟩
  obtain ⟨-, hmem, -, -⟩ := hstores emptyWriteState
  have hkept := hmem 0 (by rw [judge_emptyWriteState]; simp)
  rw [landWrites_emptyWriteState_mem] at hkept
  exact absurd hkept (by decide)

end Sys2Proof.Machine

/-!
PROOFS. Sealed frames and nacks of Dritar connections, and the slots that waiting frames use (R362, R372 to R374, R441).
-/

namespace Sys2Proof.Machine

/-! ### Opening a sealed frame -/

theorem one_sub_out (w : Wire) : 1 - w.out = if w.lo then 1 else 0 := by
  unfold Wire.out
  split <;> rfl

theorem headAad_take (b : Bytes) : headAad (b.take 16) = (b.take 8) ++ zeros 2 ++ ((b.take 16).drop 10) := by
  simp [headAad, List.take_take]

/-- What a sealed frame opens to under the key and nonce of its extended sequence. -/
def openedFrame (w : Wire) (b : Bytes) : Option Bytes :=
  let e := extend w.recvE (fld b 6 2)
  let dir := if w.lo then 1 else 0
  gcmOpen (frameKey w dir (e / 2 ^ 48)) (frameNonce w dir e) ((b.take 8) ++ zeros 2 ++ ((b.take 16).drop 10)) (payloadOf b)
    (b.drop (b.length - 16))

/-- The state once a frame has been accepted: the expected sequence has advanced, and what it acknowledges is kept no more. -/
def acceptFrame (k : Nat) (w : Wire) (b : Bytes) (s : State) : State :=
  setConn k { connAt s k with
    wire := some (Wire.acked { w with recvE := extend w.recvE (fld b 6 2) + 1 } (fld b 8 2)) } s

/-- A frame that opens in sequence is accepted; any other is nacked. -/
theorem openSealed_eq {k : Nat} {s : State} {w : Wire} (hw : (connAt s k).wire = some w) (b : Bytes) : openSealed k b s =
    match openedFrame w b with
    | none => (none, sendNack k s)
    | some pay =>
      if extend w.recvE (fld b 6 2) ≠ w.recvE ∨ b.length < 32 then (none, sendNack k s) else (some pay, acceptFrame k w b s) := by
  unfold openSealed openedFrame
  simp only [hw, one_sub_out, headAad_take]
  generalize gcmOpen _ _ _ _ _ = o
  cases o with
  | none => rfl
  | some pay => rfl

/-! ### The effects of accepted frames -/

/-- An accepted plan-data frame: held for its stack, or counted as without receiver (R382, R384). -/
def placePlanData (k : Nat) (b : Bytes) (d : Nat × Nat) (pay : Bytes) (u : State) : State :=
  let n := 32 * (byteAt b 1).toNat
  match partOfStack u d.1, placeOf u d.1 none d.2 with
  | some (pk, _), some (g, room) =>
    if (partnerEntry u (mapFor u pk) k).any (fun x => x.mask.testBit (pk % 16)) = false ∨ room < n ∨ pay.length < 32 * n then
      noReceiver (frameSrc b) d.1 u
    else { u with net := { u.net with incoming := u.net.incoming ++
      [⟨frameSrc b, d.1, toWords g (pay.take (32 * n)), (byteAt b 14).toNat.testBit 0, u.spin.tick + 1, false⟩] } }
  | _, _ => noReceiver (frameSrc b) d.1 u

theorem planData_eq {port : Nat} {b : Bytes} {s : State} (htype : frameType b = 3) (hstate : (connAt s (connFor s port b)).state = 4) :
    planData port b s = match openSealed (connFor s port b) b s with
      | (none, t) => t
      | (some pay, t) => placePlanData (connFor s port b) b (dritarDest (fld b 10 4)) pay t := by
  unfold planData
  extract_lets k n
  rw [if_neg (by rw [htype, hstate]; decide)]
  rcases openSealed k b s with ⟨_ | pay, t⟩
  · rfl
  · unfold placePlanData
    generalize dritarDest (fld b 10 4) = d
    obtain ⟨st, a⟩ := d
    dsimp only
    cases partOfStack t st with
    | none => rfl
    | some x =>
      cases placeOf t st none a with
      | none => rfl
      | some y => exact if_congr (by simp only [Bool.or_eq_true, decide_eq_true_eq, Bool.not_eq_true', or_assoc]; rfl) rfl rfl

/-- An accepted barrier arrival: that of a mapped partner is counted, or refused and waits (R389). -/
def placeArrival (k : Nat) (b pay : Bytes) (u : State) : State :=
  if connMapped u k = false then u else
  let bar := fld pay 0 2 % 4096
  let r := farArrive (frameSrc b) bar (fld pay 2 2) u
  if r.2 = false then r.1 else
  let v := { r.1 with net := { r.1.net with arrivals := r.1.net.arrivals ++ [⟨frameSrc b, bar, fld pay 2 2⟩] } }
  match farBarrier v bar with
  | none => v
  | some (key, p) =>
    let x := countRefusal key bar { v with free := v.free + 1 }
    match barrierPart key p bar with
    | some pk => noteLap pk bar ((Config.openWord v.free 0).toNat % 65536) (fld pay 2 2) x
    | none => setSyncFlag 0 x

theorem barrierFrame_eq {port : Nat} {b : Bytes} {s : State} (htype : frameType b = 4)
    (hstate : (connAt s (connFor s port b)).state = 4) : barrierFrame port b s =
      match openSealed (connFor s port b) b s with
      | (none, t) => t
      | (some pay, t) => placeArrival (connFor s port b) b pay t := by
  unfold barrierFrame
  simp only [htype, hstate, ne_eq, not_true_eq_false, or_self, if_false]
  rcases openSealed (connFor s port b) b s with ⟨_ | pay, t⟩
  · rfl
  · dsimp only [placeArrival]
    simp only [Bool.not_eq_true']
    split
    · rfl
    rcases farArrive (frameSrc b) (fld pay 0 2 % 4096) (fld pay 2 2) t with ⟨v, _ | _⟩ <;> rfl

/-- An accepted management or bulk frame: its payload is kept. -/
def placePayload (b : Bytes) (type : Nat) (pay : Bytes) (u : State) : State :=
  { u with net := { u.net with inbox := u.net.inbox ++ [(frameSrc b, type, pay)] } }

theorem keepFrame_eq {type port : Nat} {b : Bytes} {s : State} (htype : frameType b = type)
    (hstate : (connAt s (connFor s port b)).state = 4) : keepFrame type port b s =
      match openSealed (connFor s port b) b s with
      | (none, t) => t
      | (some pay, t) => placePayload b type pay t := by
  unfold keepFrame
  simp only [htype, hstate, ne_eq, not_true_eq_false, or_self, if_false]
  rfl

/-- A command that opens a frame has the effect of the accepted frame, or a nack. -/
theorem opened_eq {k : Nat} {s : State} {w : Wire} (hw : (connAt s k).wire = some w) (b : Bytes) (f : Bytes → State → State) :
    (match openSealed k b s with
      | (none, t) => t
      | (some pay, t) => f pay t) =
    match openedFrame w b with
    | none => sendNack k s
    | some pay =>
      if extend w.recvE (fld b 6 2) ≠ w.recvE ∨ b.length < 32 then sendNack k s else f pay (acceptFrame k w b s) := by
  rw [openSealed_eq hw]
  rcases openedFrame w b with _ | pay
  · rfl
  · dsimp only
    by_cases h : extend w.recvE (fld b 6 2) ≠ w.recvE ∨ b.length < 32
    · rw [if_pos h, if_pos h]
    · rw [if_neg h, if_neg h]

/-! ### The slots that waiting frames use -/

/-- How often a slot has been used in the index. -/
def usesOf (s : State) (x : SlotUse) : Nat := (s.net.used.filter fun y => y == x).length

/-- From `s` to `t` frames have left on a link in slots: no more than slots used, none on another link, and neither unreserved
slots nor those of a partition beyond what is left of them in the index. -/
structure SlotsUsed (link : Nat) (s t : State) : Prop where
  plans : t.plans = s.plans
  frames : t.out.frames.length + s.net.used.length ≤ s.out.frames.length + t.net.used.length
  unreserved : usesOf t ⟨link, none, false⟩ ≤ usesOf s ⟨link, none, false⟩ + unreservedLeft s link
  reserved : ∀ pk, usesOf t ⟨link, some pk, false⟩ ≤ usesOf s ⟨link, some pk, false⟩ + slotsLeft s pk link
  other : ∀ l x v, l ≠ link → usesOf t ⟨l, x, v⟩ = usesOf s ⟨l, x, v⟩

/-- The unreserved slots of a link, used or not. -/
def openSlots (s : State) (link : Nat) : Nat :=
  let plans := (plansOf s).filter fun x => x.2.state == 1 || x.2.state == 2
  16 - popcount (plans.foldl (fun m x => x.2.d.parts.foldl (fun m d =>
    (d.links.filter fun r => r.link == link).foldl (fun m r => m ||| r.mask) m) m) 0 % 65536)

theorem unreservedLeft_eq (s : State) (link : Nat) : unreservedLeft s link = openSlots s link - usesOf s ⟨link, none, false⟩ := rfl

theorem slotsLeft_eq (s : State) (pk link : Nat) : slotsLeft s pk link = slotsOn s pk link - usesOf s ⟨link, some pk, false⟩ := rfl

theorem openSlots_congr {s t : State} (h : t.plans = s.plans) (link : Nat) : openSlots t link = openSlots s link := by
  simp only [openSlots, plansOf, h]

theorem slotsOn_congr {s t : State} (h : t.plans = s.plans) (pk link : Nat) : slotsOn t pk link = slotsOn s pk link := by
  simp only [slotsOn, reservations, partDefOf, planAt, h]

theorem SlotsUsed.refl (link : Nat) (s : State) : SlotsUsed link s s :=
  ⟨rfl, Nat.le_refl _, Nat.le_add_right _ _, fun _ => Nat.le_add_right _ _, fun _ _ _ _ => rfl⟩

theorem SlotsUsed.trans {link : Nat} {s t u : State} (h : SlotsUsed link s t) (k : SlotsUsed link t u) : SlotsUsed link s u where
  plans := k.plans.trans h.plans
  frames := by have := h.frames; have := k.frames; omega
  unreserved := by
    have hst := h.unreserved
    have htu := k.unreserved
    rw [unreservedLeft_eq] at hst htu ⊢
    rw [openSlots_congr h.plans] at htu
    omega
  reserved pk := by
    have hst := h.reserved pk
    have htu := k.reserved pk
    rw [slotsLeft_eq] at hst htu ⊢
    rw [slotsOn_congr h.plans] at htu
    omega
  other l x v hl := (k.other l x v hl).trans (h.other l x v hl)

/-- An update of connections and of what waits uses no slot. -/
theorem slotsUsed_of_eq (link : Nat) {s t : State} (hplans : t.plans = s.plans) (hused : t.net.used = s.net.used)
    (hframes : t.out.frames = s.out.frames) : SlotsUsed link s t := by
  have huses (x : SlotUse) : usesOf t x = usesOf s x := by simp only [usesOf, hused]
  refine ⟨hplans, by rw [hframes, hused], ?_, fun pk => ?_, fun l x v _ => huses _⟩ <;> rw [huses] <;> exact Nat.le_add_right _ _

/-- The uses of one slot of a link. -/
theorem slotFor_open {s : State} {link : Nat} {us : List SlotUse} (h : openSlot s link = some us) :
    us = [⟨link, none, false⟩] ∧ 0 < unreservedLeft s link := by
  unfold openSlot at h
  split at h
  · exact ⟨(Option.some.inj h).symm, ‹_›⟩
  · cases h

/-- The sync slot of a partition counts as one for plan data too, where it is one. -/
theorem syncSlot_uses {s : State} {pk link : Nat} {us : List SlotUse} (h : syncSlot s pk link = some us) :
    us = [⟨link, some pk, true⟩] ∨ (us = [⟨link, some pk, true⟩, ⟨link, some pk, false⟩] ∧ 0 < slotsLeft s pk link) := by
  unfold syncSlot at h
  dsimp only at h
  split at h
  · cases h
  split at h
  · cases h
  split at h
  · split at h
    · exact .inr ⟨(Option.some.inj h).symm, ‹_›⟩
    · cases h
  · exact .inl (Option.some.inj h).symm

/-- The slot that a frame gets: an unreserved one that is left, or one of its partition. -/
theorem slotFor_cases {s : State} {w : Waiting} {us : List SlotUse} (h : slotFor s w = some us) :
    let link := portLink w.frame.port
    (us = [⟨link, none, false⟩] ∧ 0 < unreservedLeft s link) ∨
    ∃ pk, us = [⟨link, some pk, true⟩] ∨ (us = [⟨link, some pk, false⟩] ∧ 0 < slotsLeft s pk link) ∨
      (us = [⟨link, some pk, true⟩, ⟨link, some pk, false⟩] ∧ 0 < slotsLeft s pk link) := by
  unfold slotFor at h
  dsimp only at h ⊢
  split at h
  · exact .inl (slotFor_open h)
  rename_i pk _
  split at h
  · split at h
    · exact .inr ⟨pk, .inr (.inl ⟨(Option.some.inj h).symm, ‹_›⟩)⟩
    · cases h
  split at h
  · split at h
    · rename_i hsync
      obtain rfl := Option.some.inj h
      exact .inr ⟨pk, (syncSlot_uses hsync).imp_right .inr⟩
    · exact .inl (slotFor_open h)
  · exact .inl (slotFor_open h)

theorem usesOf_append {s t : State} {us : List SlotUse} (h : t.net.used = s.net.used ++ us) (x : SlotUse) :
    usesOf t x = usesOf s x + (us.filter fun y => y == x).length := by
  simp only [usesOf, h, List.filter_append, List.length_append]

/-- A frame that leaves in its slot. -/
theorem slotsUsed_of_slotFor {s t : State} {w : Waiting} {us : List SlotUse} (h : slotFor s w = some us)
    (hplans : t.plans = s.plans) (hused : t.net.used = s.net.used ++ us)
    (hframes : t.out.frames.length ≤ s.out.frames.length + 1) : SlotsUsed (portLink w.frame.port) s t := by
  have hlen : t.net.used.length = s.net.used.length + us.length := by rw [hused, List.length_append]
  have huses := usesOf_append hused
  obtain ⟨rfl, hleft⟩ | ⟨pk, rfl | ⟨rfl, hleft⟩ | ⟨rfl, hleft⟩⟩ := slotFor_cases h
  all_goals
    rw [List.length_cons] at hlen
    refine ⟨hplans, by omega, ?_, fun qk => ?_, fun l x v hl => ?_⟩
    case refine_3 => rw [huses]; simp [Ne.symm hl]
  all_goals rw [huses]
  case inl.refine_1 => simp; omega
  case inl.refine_2 => simp
  case inr.inl.refine_1 => simp
  case inr.inl.refine_2 => simp
  case inr.inr.inl.refine_1 => simp
  case inr.inr.inr.refine_1 => simp
  all_goals
    by_cases hqk : pk = qk
    · subst hqk
      simp
      omega
    · simp [hqk]

/-- From `s` to `t` at most one frame leaves a port, and no plan and no use of a slot changes. -/
structure EmitsOne (s t : State) : Prop where
  plans : t.plans = s.plans
  used : t.net.used = s.net.used
  frames : t.out.frames.length ≤ s.out.frames.length + 1

theorem emitsOne_refl (s : State) : EmitsOne s s := ⟨rfl, rfl, Nat.le_succ _⟩

theorem emitsOne_putFrame (port : Nat) (b : Bytes) {s t : State} (hplans : t.plans = s.plans) (hused : t.net.used = s.net.used)
    (hout : t.out = s.out) : EmitsOne s (putFrame port b t) :=
  ⟨hplans, hused, by simp [putFrame, hout]⟩

theorem emitAgain_emitsOne (f : FrameOut) (e : Nat) (s : State) : EmitsOne s (emitAgain f e s) := by
  unfold emitAgain
  dsimp only
  split
  · exact emitsOne_refl s
  split
  · exact emitsOne_refl s
  · exact emitsOne_putFrame _ _ rfl rfl rfl

theorem emitSealed_emitsOne (f : FrameOut) (s : State) : EmitsOne s (emitSealed f s) := by
  unfold emitSealed
  dsimp only
  split
  · exact emitsOne_refl s
  · exact emitsOne_putFrame _ _ rfl rfl rfl

theorem EmitsOne.setConn {s t : State} (h : EmitsOne s t) (k : Nat) (c : Conn) : EmitsOne s (setConn k c t) :=
  ⟨h.plans, h.used, h.frames⟩

theorem emit_emitsOne (w : Waiting) (s : State) : EmitsOne s (emit w s) := by
  unfold emit
  extract_lets f t c
  have ht : EmitsOne s t := by
    unfold t
    split
    · exact emitAgain_emitsOne f _ s
    split
    · exact emitSealed_emitsOne f s
    · exact emitsOne_putFrame _ _ rfl rfl rfl
  split
  · exact ht.setConn _ _
  · exact ht

theorem pumpOne_slotsUsed (s : State) (w : Waiting) (held : List Nat) :
    SlotsUsed (portLink w.frame.port) s (pumpOne s w held).1 := by
  unfold pumpOne
  split
  · exact .refl _ s
  split
  · exact slotsUsed_of_eq _ rfl rfl rfl
  split
  · exact slotsUsed_of_eq _ rfl rfl rfl
  · rename_i us hslot
    obtain ⟨hplans, hused, hframes⟩ := emit_emitsOne w { s with net := { s.net with used := s.net.used ++ us } }
    exact slotsUsed_of_slotFor hslot hplans hused hframes

theorem pumpAll_slotsUsed {port : Nat} (l : List Waiting) (hl : ∀ w ∈ l, w.frame.port = port) (held : List Nat) (s : State) :
    SlotsUsed (portLink port) s (pumpAll l held s) := by
  induction l generalizing held s with
  | nil => exact .refl _ s
  | cons w l ih =>
    have hw := pumpOne_slotsUsed s w held
    rw [hl w List.mem_cons_self] at hw
    exact hw.trans (ih (fun x hx => hl x (List.mem_cons_of_mem w hx)) _ _)

theorem mem_insertBy {α : Type} (before : α → α → Bool) (x y : α) (l : List α) : y ∈ insertBy before x l ↔ y = x ∨ y ∈ l := by
  induction l with
  | nil => simp [insertBy]
  | cons z l ih =>
    rw [insertBy]
    split
    · simp
    · simp only [List.mem_cons, ih]
      tauto

theorem mem_sortBy {α : Type} (before : α → α → Bool) (y : α) (l : List α) : y ∈ sortBy before l ↔ y ∈ l := by
  induction l with
  | nil => simp [sortBy]
  | cons x l ih => rw [sortBy, mem_insertBy, ih, List.mem_cons]

/-- The frames that wait at a port leave in slots of its link. -/
theorem pump_slotsUsed (port : Nat) (s : State) : SlotsUsed (portLink port) s (pump port s) := by
  refine .trans (t := { s with net := { s.net with queue := s.net.queue.filter fun w => w.frame.port != port } })
    (slotsUsed_of_eq _ rfl rfl rfl) (pumpAll_slotsUsed _ (fun w hw => ?_) _ _)
  rw [mem_sortBy] at hw
  simpa using (List.mem_filter.1 hw).2

/-! ### Nacks -/

/-- A frame with a bad CRC is nacked from Hello on. -/
theorem openFrame_bad {b : Bytes} (h : crcGood b = false) (port : Nat) (f : State → State) (s : State) : openFrame port b f s =
    if 2 ≤ (connAt s (connFor s port b)).state then sendNack (connFor s port b) s else s :=
  if_neg (ne_true_of_eq_false h)

theorem openFrame_good {b : Bytes} (h : crcGood b = true) (port : Nat) (f : State → State) (s : State) : openFrame port b f s = f s :=
  if_pos h

theorem exec_dritarNack (port : Nat) (b : Bytes) (s : State) : exec (.dritarNack port b) s = .next (openFrame port b
    (fun s => if frameType b = 6 then resendFrom (connFor s port b) (fld b 6 2) s else s) s) := rfl

section
variable {k n : Nat} {s : State} {w : Wire} (hw : (connAt s k).wire = some w)
include hw

/-- A connection with a frame sent 8 times detaches. -/
theorem resendFrom_detaches (h : ∃ u ∈ w.unacked.filter fun u => decide (extend w.sendE n ≤ u.seq), 8 ≤ u.tries) :
    resendFrom k n s = startPeers (detach k 2 s) := by
  unfold resendFrom
  simp only [hw]
  rw [if_pos]
  simpa only [List.any_eq_true, decide_eq_true_eq] using h

/-- Every kept frame from the number that a nack names waits to be sent again. -/
theorem resendFrom_resends (h : ∀ u ∈ w.unacked.filter fun u => decide (extend w.sendE n ≤ u.seq), u.tries < 8) :
    resendFrom k n s = pump (portOf s k) (
      let again := w.unacked.filter fun u => decide (extend w.sendE n ≤ u.seq)
      let rest := s.net.queue.filter fun x => !(x.frame.conn == k && x.num.isSome)
      setConn k { connAt s k with wire := some { w with unacked := again } }
        { s with net := { s.net with queue := again.map (fun u => (⟨u.body, true, some u.seq⟩ : Waiting)) ++ rest } }) := by
  unfold resendFrom
  simp only [hw]
  rw [if_neg]
  simpa only [List.any_eq_true, decide_eq_true_eq, not_exists, not_and, Nat.not_le] using h

end

/-- Settles O60: a sealed frame has the effect of its type where it opens in sequence; the waiting frames leave in slots. -/
theorem sealedFramesAndNacks : Obligations.SealedFramesAndNacks := by
  refine ⟨fun port b s => ?sealed, fun port b s => ⟨fun hbad => ?bad, fun hgood htype => ?othertype, ?slots, fun w hgood htype hw => ?nack⟩⟩
  case sealed =>
    intro k c row hrow
    have hrest (type : Nat) (h : frameType b ≠ type ∨ c.state ≠ 4) : keepFrame type port b s = s := if_pos h
    simp only [List.mem_cons, List.not_mem_nil, or_false] at hrow
    obtain rfl | rfl | rfl | rfl := hrow
    · refine ⟨fun h => congrArg Host.Outcome.next (if_pos h), fun w htype hstate hw => ?plan⟩
      case plan =>
        have key := (planData_eq htype hstate).trans (opened_eq hw b (placePlanData k b (dritarDest (fld b 10 4))))
        unfold openedFrame at key
        refine congrArg Host.Outcome.next (key.trans ?_)
        generalize gcmOpen _ _ _ _ _ = o
        cases o with
        | none => rfl
        | some pay =>
          refine if_congr Iff.rfl rfl (Eq.trans ?_ (if_pos rfl).symm)
          generalize dritarDest (fld b 10 4) = d
          obtain ⟨st, a⟩ := d
          unfold placePlanData acceptFrame
          generalize hu : setConn _ _ _ = u
          have hspin : s.spin = u.spin := hu ▸ rfl
          rewrite [hspin]
          dsimp only <;> rcases partOfStack u st with _ | x <;> rcases placeOf u st none a with _ | y <;> rfl
    · refine ⟨fun h => congrArg Host.Outcome.next (if_pos h), fun w htype hstate hw => ?arrival⟩
      case arrival =>
        have key := (barrierFrame_eq htype hstate).trans (opened_eq hw b (placeArrival k b))
        unfold openedFrame at key
        refine congrArg Host.Outcome.next (key.trans ?_)
        generalize gcmOpen _ _ _ _ _ = o
        cases o with
        | none => rfl
        | some pay =>
          refine if_congr Iff.rfl rfl (Eq.trans ?_ ((if_neg (by decide)).trans (if_pos rfl)).symm)
          unfold placeArrival acceptFrame
          generalize setConn _ _ _ = u
          rfl
    all_goals
      refine ⟨fun h => congrArg Host.Outcome.next (hrest _ h), fun w htype hstate hw => ?keep⟩
      case keep =>
        have key := (keepFrame_eq htype hstate).trans (opened_eq hw b (placePayload b _))
        unfold openedFrame at key
        refine congrArg Host.Outcome.next (key.trans ?_)
        generalize gcmOpen _ _ _ _ _ = o
        cases o with
        | none => rfl
        | some pay => exact if_congr Iff.rfl rfl (((if_neg (by decide)).trans (if_neg (by decide))).symm)
  case bad => rw [exec_dritarNack, openFrame_bad hbad]
  case othertype => rw [exec_dritarNack, openFrame_good hgood, if_neg htype]
  case slots =>
    obtain ⟨-, hframes, hopen, hreserved, hother⟩ := pump_slotsUsed port s
    exact ⟨hframes, hopen, hreserved, hother⟩
  case nack =>
    rw [exec_dritarNack, openFrame_good hgood, if_pos htype]
    exact ⟨fun h => congrArg _ (resendFrom_detaches hw h), fun h => congrArg _ (resendFrom_resends hw h)⟩

end Sys2Proof.Machine

/-!
PROOFS. BAR0 after reset, doorbells, the admin pair, and accesses to registers and memory windows (R358, R419, R456 to R465).
-/

namespace Sys2Proof.Machine

/-- Settles O6: the words of the 64-bit registers, then each 32-bit register, in the state after reset. -/
theorem registersAfterReset : Obligations.RegistersAfterReset := by
  have hnarrow {off : Nat} (hlow : off ∉ wideOffsets) (hhigh : off - 4 ∉ wideOffsets) :=
    readWord_eq_narrowRegister State.reset hlow hhigh
  refine ⟨fun off hoff => ?zeros, hnarrow (off := 0x24) (by decide) (by decide), ?part, ?sizes, ?units⟩
  case zeros =>
    by_cases h : off ∉ wideOffsets ∧ off - 4 ∉ wideOffsets
    · rw [hnarrow h.1 h.2]
      revert off
      decide
    · revert off
      decide
  case part =>
    have hstepping := Config.stepping.isLt
    have hread := hnarrow (off := 0x00) (by decide) (by decide)
    have hpart : narrowRegister State.reset 0x00 = 3 + 256 * Config.stepping.toNat + 65536 * 1 := rfl
    omega
  case sizes => rw [hnarrow (by decide) (by decide)]; rfl
  case units => rw [hnarrow (by decide) (by decide)]; rfl

/-! ### Doorbells -/

theorem ringBell_of_link {s : State} (hlink : s.phys.link = true) (kind fn q v : Nat) : ringBell kind fn q v s =
    match judgeBell s kind fn q v with
    | .stray => setHostFlag 3 s
    | .invalid => postOncePerTurn 1 0 0x0103 2 (kind * 64 + q) (le 1 kind ++ le 4 q ++ le 4 v) (setHostFlag 2 s)
    | .ok => { s with host := { s.host with bells := tset none s.host.bells (kind * 64 + q) (some v) } } := by
  simp only [ringBell, hlink, Bool.not_true, Bool.false_eq_true, if_false]
  rfl

theorem onArc_iff (n head tail v : Nat) : onArc n head tail v = true ↔ v < n ∧ (v + n - head) % n ≤ (tail + n - head) % n := by
  simp [onArc]

section
variable {s : State} (hlink : s.phys.link = true) {kind fn q v : Nat}
include hlink

theorem ringBell_stray (h : judgeBell s kind fn q v = .stray) : ringBell kind fn q v s = setHostFlag 3 s := by
  rw [ringBell_of_link hlink, h]

/-- A write to a queue's doorbell: stray for another function, else held in range and rejected outside it. -/
theorem ringBell_judged {foreign good : Prop} [Decidable foreign] [Decidable good]
    (h : judgeBell s kind fn q v = if foreign then .stray else if good then .ok else .invalid) : ringBell kind fn q v s =
      if foreign then setHostFlag 3 s
      else if good then { s with host := { s.host with bells := tset none s.host.bells (kind * 64 + q) (some v) } }
      else postOncePerTurn 1 0 0x0103 2 (kind * 64 + q) (le 1 kind ++ le 4 q ++ le 4 v) (setHostFlag 2 s) := by
  rw [ringBell_of_link hlink, h]
  split_ifs <;> rfl

end

section
variable (s : State) (fn q v : Nat)

theorem judgeBell_sq : judgeBell s 0 fn q v = match tget none s.host.sqs q with
    | none => .stray
    | some r => if r.owner ≠ fn then .stray else if v < 2 ^ r.exp then .ok else .invalid :=
  if_pos rfl

theorem judgeBell_cq : judgeBell s 1 fn q v = match tget none s.host.cqs q with
    | none => .stray
    | some r => if r.owner ≠ fn then .stray else if onArc (2 ^ r.exp) r.head r.tail v then .ok else .invalid :=
  (if_neg (by decide)).trans (if_pos rfl)

theorem judgeBell_evq : judgeBell s 2 fn q v = match tget none s.host.evqs q with
    | none => .stray
    | some r => if fn ≠ 0 then .stray else if onArc (2 ^ r.exp) r.head r.tail v then .ok else .invalid :=
  (if_neg (by decide)).trans ((if_neg (by decide)).trans (if_pos rfl))

theorem judgeBell_outq : judgeBell s 3 fn q v = match tget none s.host.outqs q with
    | none => .stray
    | some r => if r.owner ≠ fn then .stray else if v % 64 = 0 ∧ (r.head :: r.marks).contains v then .ok else .invalid :=
  (if_neg (by decide)).trans ((if_neg (by decide)).trans (if_neg (by decide)))

end

/-- A table whose values are changed where they stand reads as the changed value. -/
theorem tget_map_some {α : Type} (t : Tab (Option α)) (f : Nat → α → α) (q : Nat) :
    tget none (t.map fun (x : Nat × Option α) => (x.1, x.2.map (f x.1))) q = (tget none t q).map (f q) := by
  induction t with
  | nil => rfl
  | cons x t ih =>
    obtain ⟨k, o⟩ := x
    rw [List.map_cons]
    by_cases h : k = q
    · simp [tget, h]
    · simpa [tget, h] using ih

/-- Settles O9: the four judgements of doorbell values, and each queue's value consumed in its table. -/
theorem doorbellsAreJudgedAndConsumed : Obligations.DoorbellsAreJudgedAndConsumed := by
  refine ⟨fun s fn q v hlink => ?judged, fun s => ?consumed⟩
  case judged =>
    intro stray invalid held arc
    refine ⟨congrArg Host.Outcome.next ?sq, congrArg Host.Outcome.next ?cq, congrArg Host.Outcome.next ?evq,
      congrArg Host.Outcome.next ?outq⟩
    case sq =>
      have hjudge := judgeBell_sq s fn q v
      generalize tget none s.host.sqs q = o at hjudge ⊢
      cases o with
      | none => exact ringBell_stray hlink hjudge
      | some r => exact ringBell_judged hlink hjudge
    case cq =>
      have hjudge := judgeBell_cq s fn q v
      generalize tget none s.host.cqs q = o at hjudge ⊢
      cases o with
      | none => exact ringBell_stray hlink hjudge
      | some r => exact (ringBell_judged hlink hjudge).trans (by simp only [onArc_iff]; rfl)
    case evq =>
      have hjudge := judgeBell_evq s fn q v
      generalize tget none s.host.evqs q = o at hjudge ⊢
      cases o with
      | none => exact ringBell_stray hlink hjudge
      | some r => exact (ringBell_judged hlink hjudge).trans (by simp only [onArc_iff]; rfl)
    case outq =>
      have hjudge := judgeBell_outq s fn q v
      generalize tget none s.host.outqs q = o at hjudge ⊢
      cases o with
      | none => exact ringBell_stray hlink hjudge
      | some r =>
        exact (ringBell_judged hlink hjudge).trans (by simp only [List.contains_iff_mem, List.mem_cons]; rfl)
  case consumed =>
    refine ⟨consumeBells s, rfl, rfl, fun q => ?sq, fun q => ?cq, fun q => ?evq, fun q => ?outq, rfl⟩
    case sq =>
      have hsq := tget_map_some s.host.sqs (fun q r => { r with tail := (tget none s.host.bells (0 * 64 + q)).getD r.tail }) q
      rwa [Nat.zero_mul, Nat.zero_add] at hsq
    case cq =>
      exact tget_map_some s.host.cqs (fun q r => { r with head := (tget none s.host.bells (1 * 64 + q)).getD r.head }) q
    case evq =>
      exact tget_map_some s.host.evqs (fun q r => { r with head := (tget none s.host.bells (2 * 64 + q)).getD r.head }) q
    case outq =>
      have houtq := tget_map_some s.host.outqs (fun q r => match tget none s.host.bells (3 * 64 + q) with
        | none => r
        | some v => { r with head := v, marks := dropMarks v r.marks }) q
      refine (congrArg _ houtq).trans ?_
      cases tget none s.host.outqs q with
      | none => rfl
      | some r =>
        rw [Option.map_some]
        cases tget none s.host.bells (3 * 64 + q) <;> rfl

/-! ### The admin pair -/

/-- Settles O10, write by write. -/
theorem adminPairEnableAndDisable : Obligations.AdminPairEnableAndDisable := by
  intro s hlink b bad
  refine ⟨congrArg Host.Outcome.next ?enable, congrArg Host.Outcome.next ?disable⟩
  case enable =>
    unfold aqEnable
    simp only [hlink, Bool.not_true, Bool.or_false]
    rfl
  case disable =>
    unfold aqDisable finishAdmin
    rw [if_neg (by simp [hlink])]
    refine if_congr ?_ rfl rfl
    simp [sqBusy, b, and_assoc]

/-! ### Writes to registers, and the latched high word -/

/-- Which writes reach a register of BAR0. -/
theorem registerWrite_eq (fn bar off size : Nat) (v : BitVec 32) (s : State) : registerWrite fn bar off size v s =
    if s.phys.link = false ∨ size ≠ 4 ∨ off % 4 ≠ 0 ∨ fn ≠ 0 ∨ bar ≠ 0 then s else storeRegister off v.toNat s := by
  unfold registerWrite
  split_ifs <;> simp_all

/-- What a write stores, register by register. -/
theorem storeRegister_eq (off n : Nat) (s : State) : storeRegister off n s =
    if off = 0x100 then { s with phys := { s.phys with bootAddr := s.phys.bootAddr / 2 ^ 32 * 2 ^ 32 + n } }
    else if off = 0x104 then { s with phys := { s.phys with bootAddr := s.phys.bootAddr % 2 ^ 32 + n * 2 ^ 32 } }
    else if off = 0x108 then { s with phys := { s.phys with bootLength := n } }
    else if s.bar.active then s
    else if off = 0x40 then { s with bar := { s.bar with asqBase := s.bar.asqBase / 2 ^ 32 * 2 ^ 32 + n } }
    else if off = 0x44 then { s with bar := { s.bar with asqBase := s.bar.asqBase % 2 ^ 32 + n * 2 ^ 32 } }
    else if off = 0x48 then { s with bar := { s.bar with acqBase := s.bar.acqBase / 2 ^ 32 * 2 ^ 32 + n } }
    else if off = 0x4C then { s with bar := { s.bar with acqBase := s.bar.acqBase % 2 ^ 32 + n * 2 ^ 32 } }
    else if off = 0x50 then { s with bar := { s.bar with asqExp := n % 2 ^ 5, acqExp := n / 2 ^ 8 % 2 ^ 5 } }
    else s := by
  simp only [storeRegister, setHalf, bits]
  by_cases hlow : off = 0x100 ∨ off = 0x40 ∨ off = 0x48
  · obtain rfl | rfl | rfl := hlow <;> simp
  by_cases hhigh : off = 0x104 ∨ off = 0x44 ∨ off = 0x4C
  · obtain rfl | rfl | rfl := hhigh <;> simp
  simp only [not_or] at hlow hhigh
  simp [hlow, hhigh]

theorem wideRegister_spindleNow (s : State) (fn : Nat) : wideRegister s fn 0x18 = some s.spin.count := if_pos rfl

theorem readWord_spindleNow_high (s : State) (fn : Nat) : readWord s fn 0x1C = tget 0 s.bar.latches (fn * 65536 + 0x18) := by
  by_cases hfn : fn = 0
  · subst hfn; rfl
  · exact readWord_vf_spindleNow_high hfn s

theorem lowWordRead_spindleNow {s : State} (hlink : s.phys.link = true) (fn : Nat) : lowWordRead fn 0x18 s = { s with
    bar := { s.bar with latches := tset 0 s.bar.latches (fn * 65536 + 0x18) (s.spin.count / 2 ^ 32) }
    out := { s.out with reads := s.out.reads ++ [(fn, 0x18, s.spin.count % 2 ^ 32)] } } := by
  simp only [lowWordRead, hlink, Bool.not_true, Bool.false_eq_true, if_false, wideRegister_spindleNow]

/-! ### The memory windows -/

theorem leNat_le_mod (len n : Nat) : leNat (le len n) = n % 256 ^ len := by
  induction len generalizing n with
  | zero => simp [le, leNat, Nat.mod_one]
  | succ len ih =>
    have hpow : 256 ^ (len + 1) = 256 * 256 ^ len := Nat.pow_succ'
    rw [le, leNat, ih, BitVec.toNat_ofNat, hpow, Nat.mod_mul]

/-- A field at the front of a string. -/
theorem fld_le_append_mod (len n : Nat) (b : Bytes) : fld (le len n ++ b) 0 len = n % 256 ^ len := by
  rw [fld, List.drop_zero, List.take_left' (le_length len n), leNat_le_mod]

theorem fld_le_mod (len n : Nat) : fld (le len n) 0 len = n % 256 ^ len := by
  rw [fld, List.drop_zero, List.take_of_length_le (le_length len n).le, leNat_le_mod]

/-- The bytes of a string at consecutive places are a piece of it. -/
theorem map_byteAt_span {b : Bytes} {k n : Nat} (h : k + n ≤ b.length) : (span k n).map (byteAt b) = (b.drop k).take n := by
  refine List.ext_getElem (by simp [span]; omega) fun i hi hi' => ?_
  have hn : i < n := by simpa [span] using hi
  have hlt : i + k < b.length := by omega
  simp [span, byteAt, hlt, Nat.add_comm k i]

theorem barRead_bar4 (s : State) (off size : Nat) : barRead s 0 4 off size = leNat ((span off size).map (windowByte s)) := if_pos ⟨rfl, rfl⟩

theorem barRead_eq_fld {s : State} {off size k : Nat} {b : Bytes} (h : ∀ i, i < size → windowByte s (i + off) = byteAt b (i + k))
    (hlen : k + size ≤ b.length) : barRead s 0 4 off size = fld b k size := by
  rw [barRead_bar4, fld, ← map_byteAt_span hlen]
  refine congrArg leNat ?_
  simp only [span, List.map_map]
  exact List.map_congr_left fun i hi => h i (List.mem_range.1 hi)

theorem windowByte_box {s : State} {a : Nat} (h : a < 0x1000) : windowByte s a = byteAt (boxHeader s) a := if_pos h

theorem windowByte_record {s : State} {n i : Nat} (hn : n < 65536) (hi : i < 32) :
    windowByte s (i + (0x1000 + 32 * n)) = byteAt (tget [] s.ev.box n) (i + 0) := by
  have hrecord : (i + (0x1000 + 32 * n) - 0x1000) / 32 = n := by omega
  have hplace : (i + (0x1000 + 32 * n) - 0x1000) % 32 = i + 0 := by omega
  rw [windowByte, if_neg (by omega), if_pos (by omega), hrecord, hplace]

/-- The diagnostic regions before the first snapshot. -/
theorem windowByte_no_snapshot {s : State} (h : s.ev.snapSeq = 0) {a : Nat} (ha : 0x201000 ≤ a) : windowByte s a = 0 := by
  rw [windowByte, if_neg (by omega), if_neg (by omega), if_pos h]

theorem leNat_replicate_zero (n : Nat) : leNat (List.replicate n (0 : Byte)) = 0 := by
  induction n with
  | zero => rfl
  | succ n ih => rw [List.replicate_succ, leNat, ih]; rfl

theorem barRead_no_snapshot {s : State} (h : s.ev.snapSeq = 0) {off : Nat} (hoff : 0x201000 ≤ off) (size : Nat) :
    barRead s 0 4 off size = 0 := by
  have hzero : (span off size).map (windowByte s) = List.replicate size 0 := by
    rw [List.eq_replicate_iff]
    simp only [span, List.map_map, List.length_map, List.length_range, List.mem_map, List.mem_range, true_and]
    rintro _ ⟨i, -, rfl⟩
    exact windowByte_no_snapshot h (Nat.le_add_left_of_le hoff)
  rw [barRead_bar4, hzero, leNat_replicate_zero]

section
variable {s : State} (h : s.ev.snapSeq ≠ 0)
include h

theorem windowByte_snapHeader {a : Nat} (ha : a < 0x40) : windowByte s (a + 0x800000) = byteAt (snapHeader s) (a + 0) := by
  rw [windowByte, if_neg (by omega), if_neg (by omega), if_neg h, if_pos (by omega), Nat.add_sub_cancel]
  rfl

theorem windowByte_source {i j : Nat} (hi : i < 65536) (hj : j < 4) : windowByte s (j + (0x801000 + 4 * i)) =
    byteAt (le 4 ((tget none s.ev.snapSources i).getD 0xFFFFFFFF)) (j + 0) := by
  have hsource : (j + (0x801000 + 4 * i) - 0x801000) / 4 = i := by omega
  have hplace : (j + (0x801000 + 4 * i) - 0x801000) % 4 = j + 0 := by omega
  rw [windowByte, if_neg (by omega), if_neg (by omega), if_neg h, if_neg (by omega), if_pos (by omega), hsource, hplace]

theorem windowByte_queues {a : Nat} (ha : a < 0x1000) : windowByte s (0x841000 + a) = byteAt s.ev.snapQueues a := by
  rw [windowByte, if_neg (by omega), if_neg (by omega), if_neg h, if_neg (by omega), if_neg (by omega), if_pos (by omega),
    Nat.add_sub_cancel_left]

end

/-- The table of the black box's header (R419). -/
theorem boxHeader_eq (s : State) : boxHeader s = le 4 0x4242394B ++ (le 4 (b2n s.ev.frozen + 16 * s.ev.cause) ++
    (le 4 (s.ev.written % 65536) ++ (le 4 0 ++ (le 8 s.ev.written ++ (le 4 s.ev.dropped ++ (le 4 0 ++ le 8 s.ev.freezeCount)))))) := by
  have hzeros : zeros 4 = le 4 0 := rfl
  simp only [boxHeader, hzeros, List.append_assoc]

/-- Settles O11: writes register by register, the latch of SPINDLE_NOW, and the windows region by region. -/
theorem registerAccesses : Obligations.RegisterAccesses := by
  refine ⟨fun s fn bar off size v => ?writes, fun s fn hlink => ?latch, fun s fn off size => ?reads⟩
  case writes =>
    rw [exec_registerWrite, registerWrite_eq, storeRegister_eq]
  case latch =>
    refine ⟨_, rfl, ?_, fun n => ?_, ?_⟩
    · rw [lowWordRead_spindleNow hlink]
    · rw [readWord_spindleNow_high, lowWordRead_spindleNow hlink, tget_tset_self]
    · rw [lowWordRead_spindleNow hlink]
  case reads =>
    have hbox {k n : Nat} (hk : k + n ≤ 40) : barRead s 0 4 k n = fld (boxHeader s) k n :=
      barRead_eq_fld (fun i hi => windowByte_box (by omega)) (by simp [boxHeader, zeros]; omega)
    refine ⟨?words, rfl, ?vf, ?_, ?_, ?_, ?_, ?_, ?_, fun n hn hlen => ?record, fun h hoff => barRead_no_snapshot h hoff size,
      fun h => ?snapshot⟩
    case words =>
      rw [barRead, if_neg (fun h => absurd h.1 (by decide))]
      exact if_congr (by simp) rfl rfl
    case vf => exact fun hfn => by rw [barRead, if_neg (fun h => hfn h.2), if_neg (fun h => absurd h.1 (by decide))]
    case record =>
      rw [barRead_eq_fld (fun i hi => windowByte_record hn hi) (by rw [hlen]), fld, List.drop_zero, ← hlen, List.take_length]
    case snapshot =>
      have hhead {k n : Nat} (hk : k + n ≤ 16) : barRead s 0 4 (k + 0x800000) n = fld (snapHeader s) k n :=
        barRead_eq_fld (fun i hi => by rw [← Nat.add_assoc]; exact windowByte_snapHeader h (by omega)) (by simp [snapHeader]; omega)
      refine ⟨(hhead (k := 0) (by decide)).trans ?_, (hhead (k := 4) (by decide)).trans ?_, (hhead (k := 8) (by decide)).trans ?_, fun i hi => ?_, fun a ha => ?_⟩
      case refine_4 =>
        rw [barRead_eq_fld (fun j hj => windowByte_source h hi hj) (by simp), fld_le_mod]
        norm_num
      case refine_5 =>
        rw [barRead_bar4]
        simp [span, leNat, windowByte_queues h ha]
      all_goals
        simp (disch := decide) only [snapHeader, List.append_assoc, fld_le_append_of_le, fld_le_append_mod, fld_le_mod, Nat.reduceSub]
        norm_num
    all_goals
      rw [hbox (by decide)]
      simp (disch := decide) only [boxHeader_eq, fld_le_append_of_le, fld_le_append_mod, fld_le_mod, Nat.reduceSub, b2n]
      omega

end Sys2Proof.Machine

/-!
PROOFS. Link events, failed accesses to host memory, and the queue whose turn a fetch is (R454, R456, R467 to R470).
-/

namespace Sys2Proof.Machine

/-! ### Link events -/

theorem flagRate_phys (s : State) : (flagRate s).phys = s.phys := by
  unfold flagRate
  split <;> rfl

theorem flushWaiting_phys (s : State) : (flushWaiting s).phys = s.phys := by
  have hcpl (l : List (Nat × Bytes)) (t : State) : (l.foldl (fun s x => cqPut x.1 x.2 s) t).phys = t.phys :=
    (hostOnly_foldl (fun t x => cqPut_hostOnly x.1 x.2 t) l t).phys
  have hev (l : List (Nat × List Bytes)) (t : State) : (l.foldl (fun s x => evqDeliver x.1 x.2 s) t).phys = t.phys := by
    induction l generalizing t with
    | nil => rfl
    | cons x l ih => exact (ih _).trans (evqDeliver_posted x.1 x.2 t).phys
  unfold flushWaiting
  rw [(finishAdmin_hostOnly _).phys, hev, hcpl]

/-- LINK_CHANGED names the rate and the width in force. -/
theorem postLink_eq {s : State} {rate width : Nat} (hrate : s.phys.rate = rate) (hwidth : s.phys.width = width) (kind : Nat) :
    postLink kind s = postEvent 1 0 0x0102 2 (le 4 rate ++ le 4 width ++ le 1 kind) s := by
  rw [postLink, hrate, hwidth]

theorem flagRate_eq {s : State} {rate width : Nat} (hrate : s.phys.rate = rate) (hwidth : s.phys.width = width) :
    flagRate s = if rate = 32 ∧ width = 16 then s else setHostFlag 5 s := by
  rw [flagRate, hrate, hwidth]
  rfl

/-- A change of rate or width is flagged where it is not 64 GT/s on 16 lanes, and posted. -/
theorem postLink_flagRate {s : State} {rate width : Nat} (hrate : s.phys.rate = rate) (hwidth : s.phys.width = width) (kind : Nat) :
    postLink kind (flagRate s) = postEvent 1 0 0x0102 2 (le 4 rate ++ le 4 width ++ le 1 kind)
      (if rate = 32 ∧ width = 16 then s else setHostFlag 5 s) := by
  rw [postLink_eq (by rw [flagRate_phys, hrate]) (by rw [flagRate_phys, hwidth]), flagRate_eq hrate hwidth]

/-! ### Failed accesses of rings -/

section
variable {s : State} {q : Nat} (a : Nat)

theorem ringFault_sq {r : Sq} (hr : tget none s.host.sqs q = some r) (hsound : r.faulted = false) : ringFault 0 q a s =
    postFault 0 q r.owner a (adminFault q
      { s with host := { s.host with sqs := tset none s.host.sqs q (some { r with faulted := true }) } }) := by
  simp only [ringFault, if_true, hr, hsound, Bool.false_eq_true, if_false]

theorem ringFault_cq {r : Cq} (hr : tget none s.host.cqs q = some r) (hsound : r.faulted = false) : ringFault 1 q a s =
    postFault 1 q r.owner a (adminFault q
      { s with host := { s.host with cqs := tset none s.host.cqs q (some { r with faulted := true }) } }) := by
  simp only [ringFault, Nat.one_ne_zero, if_true, hr, hsound, Bool.false_eq_true, if_false]

theorem ringFault_evq {r : Evq} (hr : tget none s.host.evqs q = some r) (hsound : r.faulted = false) : ringFault 2 q a s =
    postFault 2 q 0 a { s with host := { s.host with evqs := tset none s.host.evqs q (some { r with faulted := true }) } } := by
  have h0 : ¬ (2 = 0) := by decide
  have h1 : ¬ (2 = 1) := by decide
  simp only [ringFault, h0, h1, hr, hsound, Bool.false_eq_true, if_false]

end

/-! ### The discarded record -/

/-- One write of `dropLastTwo`: kept, unless it is one of the last two of the `n` that `p` names. -/
def dropStep (p : HostWrite → Bool) (n : Nat) (acc : List HostWrite × Nat) (w : HostWrite) : List HostWrite × Nat :=
  if p w then (if n ≤ acc.2 + 2 then (acc.1, acc.2 + 1) else (acc.1 ++ [w], acc.2 + 1)) else (acc.1 ++ [w], acc.2)

theorem dropLastTwo_eq (p : HostWrite → Bool) (l : List HostWrite) :
    dropLastTwo p l = (l.foldl (dropStep p (l.filter p).length) ([], 0)).1 := rfl

/-- The writes before the last two that `p` names are all kept. -/
theorem foldl_dropStep_kept (p : HostWrite → Bool) {n : Nat} (l : List HostWrite) (acc : List HostWrite × Nat)
    (h : acc.2 + (l.filter p).length + 2 ≤ n) :
    l.foldl (dropStep p n) acc = (acc.1 ++ l, acc.2 + (l.filter p).length) := by
  induction l generalizing acc with
  | nil => simp
  | cons w l ih =>
    rw [List.foldl_cons]
    by_cases hw : p w = true
    · rw [List.filter_cons_of_pos hw, List.length_cons] at h
      have hstep : dropStep p n acc w = (acc.1 ++ [w], acc.2 + 1) := by
        rw [dropStep, if_pos hw, if_neg (by omega)]
      rw [hstep, ih _ (by dsimp only; omega), List.filter_cons_of_pos hw, List.length_cons]
      simp [Nat.add_comm, Nat.add_left_comm]
    · rw [List.filter_cons_of_neg hw] at h
      rw [dropStep, if_neg hw, ih (acc.1 ++ [w], acc.2) h, List.filter_cons_of_neg hw]
      simp

theorem dropLastTwo_append_two {p : HostWrite → Bool} (pre : List HostWrite) {x y : HostWrite} (hx : p x = true) (hy : p y = true) :
    dropLastTwo p (pre ++ [x, y]) = pre := by
  have hcount : ((pre ++ [x, y]).filter p).length = (pre.filter p).length + 2 := by simp [hx, hy]
  rw [dropLastTwo_eq, hcount, List.foldl_append, foldl_dropStep_kept p pre _ (by simp)]
  simp [dropStep, hx, hy]

theorem inRecord_iff (r : Outq) (start a : Nat) : inRecord r start a = true ↔
    r.base + start ≤ a ∧ a < r.base + (if r.tail ≤ start then r.size else r.tail) := by
  simp [inRecord]

/-- The writes of a queue's last record. -/
def ofRecord (r : Outq) (start : Nat) (w : HostWrite) : Bool := w.fn == r.owner && inRecord r start w.addr

section
variable {s : State} {q : Nat} (a : Nat) {r : Outq} {ms : List Nat} {m : Nat} (hr : tget none s.host.outqs q = some r)
  (hmarks : r.marks = ms ++ [m])
include hr hmarks

theorem recordFault_eq : recordFault q a s =
    let start := ms.getLast?.getD r.head
    if inRecord r start a then postFault 3 q r.owner a { s with
      out := { s.out with host := if s.host.waitOut.any (ofRecord r start) then s.out.host else dropLastTwo (ofRecord r start) s.out.host }
      host := { s.host with
        outqs := tset none s.host.outqs q (some { r with
          tail := start, marks := ms, phase := if r.tail ≤ start then !r.phase else r.phase })
        waitOut := dropLastTwo (ofRecord r start) s.host.waitOut } }
    else s := by
  have hstart : ((r.head :: r.marks).dropLast.getLast?).getD r.head = ms.getLast?.getD r.head := by
    rw [hmarks, ← List.cons_append, List.dropLast_concat, List.getLast?_cons, Option.getD_some]
  have hms : r.marks.dropLast = ms := by rw [hmarks, List.dropLast_concat]
  have hsome : r.marks.isEmpty = false := by simp [hmarks]
  unfold recordFault
  simp only [hr, hstart, hms, hsome, Bool.false_or, Bool.not_eq_true']
  by_cases h : inRecord r (ms.getLast?.getD r.head) a = true
  · rw [if_neg (by simp [h]), if_pos h]
    rfl
  · rw [if_pos (by simpa using h), if_neg h]

end

/-! ### Failed accesses of commands -/

theorem commandFault_install {s : State} {tag : Nat} {f : Fetched} (hf : tget none s.host.fetched tag = some f) {x : Install}
    (hx : installAt s tag = some x) : commandFault tag s =
      if x.copied = true ∨ x.read ≠ none then s else failInstall x ⟨0xA, 2, 0⟩ s := by
  simp only [commandFault, hf, hx]
  refine if_congr ?_ rfl rfl
  rw [Bool.or_eq_true, Option.isSome_iff_ne_none]

theorem commandFault_none {s : State} {tag : Nat} {f : Fetched} (hf : tget none s.host.fetched tag = some f)
    (hx : installAt s tag = none) : commandFault tag s =
      if f.begun = true ∨ mayBegin s tag f = false ∨ (fld f.raw 12 4 = 0 ∧ fld f.raw 32 8 = 0) then s
      else
        let e := (headFail f s).getD ⟨0xA, 2, 0⟩
        complete tag e.status e.sub e.result s := by
  simp only [commandFault, hf, hx]
  refine if_congr ?_ rfl rfl
  simp [or_assoc]

/-- Settles O12, event by event and access by access. -/
theorem linkEventsAndAccessFaults : Obligations.LinkEventsAndAccessFaults := by
  refine ⟨fun s rate width => ⟨fun hlink => ?down, fun hlink hne => ?change, fun hdown hperst hgood => ?back⟩,
    fun s q a r hr hsound => ?sq, fun s q a r hr hsound => ?cq, fun s q a r hr hsound => ?evq, fun s q a r hr hmarks => ?empty,
    fun s q a r ms m hr hmarks => ?record, fun s tag f hf => ?command⟩
  case down => exact congrArg Host.Outcome.next (if_neg (by simp [hlink]))
  case change =>
    refine congrArg Host.Outcome.next ((if_neg ?_).trans (postLink_flagRate rfl rfl 0))
    simp only [hlink]
    rintro (⟨rfl, rfl⟩ | h)
    · exact hne rfl
    · cases h
  case back =>
    exact congrArg Host.Outcome.next ((if_neg (by simp [hdown, hperst, hgood])).trans
      (postLink_flagRate (by rw [flushWaiting_phys]) (by rw [flushWaiting_phys]) 2))
  case sq => exact congrArg Host.Outcome.next (ringFault_sq a hr hsound)
  case cq => exact congrArg Host.Outcome.next (ringFault_cq a hr hsound)
  case evq => exact congrArg Host.Outcome.next (ringFault_evq a hr hsound)
  case empty =>
    refine congrArg Host.Outcome.next (?_ : recordFault q a s = s)
    simp [recordFault, hr, hmarks]
  case record =>
    have hfault := recordFault_eq a hr hmarks
    refine ⟨fun hout => congrArg Host.Outcome.next (hfault.trans (if_neg (by rwa [inRecord_iff]))), ?_⟩
    intro pre x y hin hwait hhost hx hy hxin hyin
    refine congrArg Host.Outcome.next (hfault.trans ((if_pos ((inRecord_iff _ _ _).2 hin)).trans ?_))
    have hx' : ofRecord r (ms.getLast?.getD r.head) x = true := by
      simp only [ofRecord, hx, beq_self_eq_true, Bool.true_and]
      exact (inRecord_iff _ _ _).2 hxin
    have hy' : ofRecord r (ms.getLast?.getD r.head) y = true := by
      simp only [ofRecord, hy, beq_self_eq_true, Bool.true_and]
      exact (inRecord_iff _ _ _).2 hyin
    simp only [hwait, hhost, dropLastTwo_append_two pre hx' hy', List.any_nil, Bool.false_eq_true, if_false]
    rfl
  case command =>
    refine ⟨fun x hx => congrArg Host.Outcome.next (commandFault_install hf hx), fun hx => ⟨fun h => ?_, fun hbegun hmay hbuf => ⟨?_, fun hstate => ?_⟩⟩⟩
    · exact congrArg Host.Outcome.next ((commandFault_none hf hx).trans (if_pos h))
    · refine congrArg Host.Outcome.next ((commandFault_none hf hx).trans ((if_neg ?_).trans ?_))
      · simp [hbegun, hmay]
        tauto
      · cases headFail f s <;> rfl
    · simp [headFail, firstFail, hstate]

/-! ### The queue whose turn it is -/

/-- The order in which fetching visits the queues above 0 after queue `l`. -/
def visitOrder (l : Nat) : List Nat := span (l + 1) (63 - l) ++ span 1 l

theorem visitOrder_length {l : Nat} (hl : l < 64) : (visitOrder l).length = 63 := by
  simp [visitOrder, span]
  omega

/-- The place of a queue in the order is its distance behind the last one, in rounds of 63. -/
theorem visitOrder_getElem {l : Nat} (hl : l < 64) {i : Nat} (hi : i < (visitOrder l).length) :
    0 < (visitOrder l)[i] ∧ (visitOrder l)[i] < 64 ∧ ((visitOrder l)[i] + 62 - l) % 63 = i := by
  have hi63 : i < 63 := by rwa [visitOrder_length hl] at hi
  by_cases h : i < 63 - l
  · have hget : (visitOrder l)[i] = i + (l + 1) := by simp [visitOrder, span, h]
    omega
  · have hget : (visitOrder l)[i] = i - (63 - l) + 1 := by simp [visitOrder, span, List.getElem_append, h]
    omega

theorem mem_visitOrder {l q : Nat} (hl : l < 64) : q ∈ visitOrder l ↔ 0 < q ∧ q < 64 := by
  simp only [visitOrder, span, List.mem_append, List.mem_map, List.mem_range]
  refine ⟨by rintro (⟨i, hi, rfl⟩ | ⟨i, hi, rfl⟩) <;> omega, fun ⟨h0, h64⟩ => ?_⟩
  by_cases h : l < q
  · exact .inl ⟨q - (l + 1), by omega, by omega⟩
  · exact .inr ⟨q - 1, by omega, by omega⟩

/-- The first queue after `l` that may fetch. -/
theorem find?_visitOrder {l q : Nat} (hl : l < 64) (h0 : 0 < q) (h64 : q < 64) (p : Nat → Bool) (hq : p q = true)
    (hfirst : ∀ r, 0 < r → r < 64 → p r = true → (q + 62 - l) % 63 ≤ (r + 62 - l) % 63) :
    (visitOrder l).find? p = some q := by
  obtain ⟨i, hi, hget⟩ := List.mem_iff_getElem.1 ((mem_visitOrder hl).2 ⟨h0, h64⟩)
  refine List.find?_eq_some_iff_getElem.2 ⟨hq, i, hi, hget, fun j hj => ?_⟩
  obtain ⟨hj0, hj64, hplace⟩ := visitOrder_getElem hl (hj.trans hi)
  have hplaceq := (visitOrder_getElem hl hi).2.2
  rw [hget] at hplaceq
  by_contra hp
  have := hfirst _ hj0 hj64 (by simpa using hp)
  omega

theorem find?_visitOrder_none {l : Nat} (hl : l < 64) (p : Nat → Bool) (h : ∀ r, 0 < r → r < 64 → p r = false) :
    (visitOrder l).find? p = none := by
  rw [List.find?_eq_none]
  intro r hr
  obtain ⟨h0, h64⟩ := (mem_visitOrder hl).1 hr
  simp [h r h0 h64]

theorem nextQueue_eq (s : State) : nextQueue s =
    if (s.host.zeroNext && mayFetch s 0) = true then some 0
    else ((visitOrder s.host.lastSq).find? (mayFetch s)).or (if mayFetch s 0 then some 0 else none) := by
  simp only [nextQueue, visitOrder]
  refine if_congr Iff.rfl rfl ?_
  cases (span (s.host.lastSq + 1) (63 - s.host.lastSq) ++ span 1 s.host.lastSq).find? (mayFetch s) <;> rfl

/-- Settles O16: the queue of the packet is the one whose turn it is. -/
theorem commandFetchTakesTheNextPacket : Obligations.CommandFetchTakesTheNextPacket := by
  intro s q raw r hfetch hraw hr hmay hlast hturn
  have hnext : nextQueue s = some q := by
    rw [nextQueue_eq]
    rcases hturn with ⟨rfl, hturn⟩ | ⟨h0, h64, hturn, hfirst⟩
    · by_cases hzero : s.host.zeroNext = true
      · rw [if_pos (by simp [hzero, hmay])]
      · have hnone := find?_visitOrder_none hlast (mayFetch s) (hturn.resolve_left hzero)
        rw [if_neg (by simp [hzero]), hnone, Option.none_or, if_pos hmay]
    · rw [if_neg (by rcases hturn with h | h <;> simp [h]), find?_visitOrder hlast h0 h64 (mayFetch s) hmay hfirst]
      rfl
  refine congrArg Host.Outcome.next (?_ : commandFetch q raw s = _)
  simp only [commandFetch, hfetch, hnext, hraw, hr, bne_self_eq_false, Bool.not_true, Bool.or_false, Bool.false_eq_true, if_false]
  have hdec : (q != 0) = decide (q ≠ 0) := by cases q <;> rfl
  rw [hdec]
  rfl

end Sys2Proof.Machine

/-!
PROOFS. Queue, reset, spindle and integrity commands and what they complete with (R36 to R57, R412 to R422, R465, R471 to R473, R503, R504).
-/

namespace Sys2Proof.Machine

/-! ### Accepted commands -/

section
variable {mk : CmdIn → Instr} {op : Nat} {checks : Cmd → State → List Check} {act : Cmd → State → Ran}
  (hexec : ∀ c s, exec (mk c) s = .next (runCommand op checks act c s))
include hexec

/-- An accepted command ends with what its effect leads to. -/
theorem exec_accepted {c : CmdIn} {s : State} {cmd : Cmd} {t : State} (h : Accepted op checks c s cmd t) :
    exec (mk c) s = .next (finish c.tag (act cmd t)) := by
  rw [hexec, runCommand_accepted h]

theorem succeeds_of_ok {result : Cmd → State → Nat} {effect : Cmd → State → State}
    (hact : ∀ cmd t, act cmd t = .ok (effect cmd t) (result cmd t)) : Succeeds mk op checks result effect := by
  intro c s cmd t h
  rw [exec_accepted hexec h, hact]
  rfl

theorem proceeds_of_later {effect : Cmd → State → State} (hact : ∀ cmd t, act cmd t = .later (effect cmd t)) :
    Proceeds mk op checks effect := by
  intro c s cmd t h
  rw [exec_accepted hexec h, hact]
  rfl

end

/-- The command that runs carries the tag it was fetched under. -/
theorem Accepted.tag {op : Nat} {checks : Cmd → State → List Check} {c : CmdIn} {s : State} {cmd : Cmd} {t : State}
    (h : Accepted op checks c s cmd t) : cmd.tag = c.tag := by
  obtain ⟨⟨-, -, -, -, -, hcmd⟩, -⟩ := h
  rw [hcmd]

/-! ### The identify page -/

/-- A piece of a padded string that lies in the string. -/
theorem drop_take_padTo {n off len : Nat} {b : Bytes} (hn : b.length ≤ n) (h : off + len ≤ b.length) :
    ((padTo n b).drop off).take len = (b.drop off).take len := by
  rw [padTo, List.take_of_length_le hn, List.drop_append_of_le_length (by omega),
    List.take_append_of_le_length (by rw [List.length_drop]; omega)]

theorem fld_padTo {n off len : Nat} {b : Bytes} (hn : b.length ≤ n) (h : off + len ≤ b.length) :
    fld (padTo n b) off len = fld b off len := by
  rw [fld, drop_take_padTo hn h, fld]

theorem drop_le_append {k off : Nat} (h : k ≤ off) (n : Nat) (b : Bytes) : (le k n ++ b).drop off = b.drop (off - k) := by
  rw [List.drop_append, List.drop_eq_nil_of_le (by rwa [le_length]), List.nil_append, le_length]

/-- The table of the identify page (R473). -/
def identifyFields (s : State) : Bytes :=
  le 4 0x4449394B ++ (le 1 Config.part ++ (le 1 Config.stepping.toNat ++ (le 2 1 ++ (le 4 ((s.phys.fw.map (·.version)).getD 0) ++
    (le 1 (runningSvn s) ++ (le 1 (fusedSvn s) ++ (le 2 0 ++ (identityBytes ++ (le 8 moduleSize ++ (le 8 (16 * packageSize) ++
    (le 1 s.phys.rate ++ (le 1 s.phys.width ++ (le 1 s.spin.power ++ (le 1 s.spin.state ++ (le 4 s.cal.epoch ++
    le 4 (63 - ((tkeys s.host.sqs).filter (· != 0)).length))))))))))))))))

theorem identifyPage_eq (s : State) : identifyPage s = padTo 4096 (identifyFields s) := by
  have hzeros : zeros 2 = le 2 0 := rfl
  simp only [identifyPage, identifyFields, hzeros, List.append_assoc]

theorem identityBytes_length : identityBytes.length = 32 := le_length _ _

theorem identifyFields_length (s : State) : (identifyFields s).length = 76 := by
  simp [identifyFields, identityBytes_length]

theorem fusedSvn_le (s : State) : fusedSvn s ≤ 32 := (List.length_filter_le _ _).trans (List.length_range).le

theorem identifyPage_fields (s : State) (hrate : s.phys.rate < 256) (hwidth : s.phys.width < 256) (hpower : s.spin.power < 256)
    (hstate : s.spin.state < 256) (hepoch : s.cal.epoch < 2 ^ 32) :
    let p := identifyPage s
    fld p 0 4 = 0x4449394B ∧ fld p 4 1 = 3 ∧ fld p 5 1 = Config.stepping.toNat % 256 ∧ fld p 6 2 = 1 ∧
      fld p 8 4 = ((s.phys.fw.map fun x => x.version).getD 0) % 2 ^ 32 ∧ fld p 12 1 = runningSvn s % 256 ∧
      fld p 13 1 = fusedSvn s ∧ fld p 14 2 = 0 ∧ fld p 48 8 = 2 ^ 41 ∧ fld p 56 8 = 16 * 48 * 2 ^ 30 ∧
      fld p 64 1 = s.phys.rate ∧ fld p 65 1 = s.phys.width ∧ fld p 66 1 = s.spin.power ∧ fld p 67 1 = s.spin.state ∧
      fld p 68 4 = s.cal.epoch ∧ fld p 72 4 = 63 - ((tkeys s.host.sqs).filter fun q => q != 0).length := by
  have hfused := fusedSvn_le s
  have hfield {off len : Nat} (h : off + len ≤ 76) : fld (identifyPage s) off len = fld (identifyFields s) off len := by
    rw [identifyPage_eq, fld_padTo] <;> rw [identifyFields_length] <;> omega
  have hid (off len : Nat) (hoff : 32 ≤ off) (b : Bytes) : fld (identityBytes ++ b) off len = fld b (off - 32) len := by
    rw [fld_append_of_length_le (by rwa [identityBytes_length]), identityBytes_length]
  intro p
  refine ⟨?_, ?_, ?_, ?_, ?_, ?_, ?_, ?_, ?_, ?_, ?_, ?_, ?_, ?_, ?_, ?_⟩ <;>
    rw [hfield (by decide)] <;>
    simp (disch := decide) only [identifyFields, fld_le_append_of_le, hid, fld_le_append_mod, fld_le_mod, Nat.reduceSub,
      Config.part, moduleSize, packageSize]
  all_goals omega

/-- The identity digest stands behind the versions, and nothing behind the free queues. -/
theorem identifyPage_identity (s : State) : slice (identifyPage s) 16 32 = b256 Config.identity := by
  have hpiece : ((identifyFields s).drop 16).take 32 = identityBytes := by
    simp (disch := decide) only [identifyFields, drop_le_append, Nat.reduceSub, List.drop_zero]
    exact List.take_left' identityBytes_length
  rw [slice, identifyPage_eq, drop_take_padTo (by rw [identifyFields_length]; decide) (by rw [identifyFields_length]; decide), hpiece,
    padTo, List.take_of_length_le identityBytes_length.le, identityBytes_length]
  exact List.append_nil _

theorem identifyPage_rest (s : State) {k : Nat} (hk : 76 ≤ k) : byteAt (identifyPage s) k = 0#8 := by
  have hlen := identifyFields_length s
  rw [identifyPage_eq, padTo, List.take_of_length_le (by omega), byteAt, List.getD_append_right _ _ _ _ (by omega)]
  simp [zeros]

/-- Settles O18: each queue command's effect, and the identify page field by field. -/
theorem queueCommandsComplete : Obligations.QueueCommandsComplete := by
  refine ⟨⟨succeeds_of_ok (fun _ _ => rfl) fun _ _ => rfl, succeeds_of_ok (fun _ _ => rfl) fun _ _ => rfl,
    succeeds_of_ok (fun _ _ => rfl) fun _ _ => rfl, succeeds_of_ok (fun _ _ => rfl) fun _ _ => rfl, fun c s cmd t h => ?delete⟩,
    fun s hrate hwidth hpower hstate hepoch => ?page⟩
  case delete =>
    have hexec := exec_accepted (mk := .queueDelete) (fun _ _ => rfl) h
    have htag := h.tag
    refine ⟨fun hkind => ?_, fun hkind => ?_, fun r hkind hr => ?_⟩
    · rw [hexec, queueDelete, if_pos hkind, hkind]
      rfl
    · rw [hexec, queueDelete, if_neg (by rw [hkind]; decide), if_pos hkind, hkind]
      rfl
    · rw [hexec, queueDelete, if_neg (by rw [hkind]; decide), if_neg (by rw [hkind]; decide), hkind, hr]
      rw [← htag]
      exact congrArg Host.Outcome.next (apply_ite (finish cmd.tag) _ _ _)
  case page =>
    obtain ⟨f0, f4, f5, f6, f8, f12, f13, f14, f48, f56, f64, f65, f66, f67, f68, f72⟩ :=
      identifyPage_fields s hrate hwidth hpower hstate hepoch
    refine ⟨?_, f0, f4, f5, f6, f8, f12, f13, f14, identifyPage_identity s, f48, f56, f64, f65, f66, f67, f68, f72,
      fun k hk => identifyPage_rest s hk⟩
    rw [identifyPage_eq, padTo_length]

/-! ### What a stack reset clears -/

/-- A table without the entries whose numbers `p` does not name. -/
theorem tget_filter_key {α : Type} (d : α) (t : Tab α) (p : Nat → Bool) (k : Nat) :
    tget d (t.filter fun x => p x.1) k = if p k then tget d t k else d := by
  induction t with
  | nil => simp [tget]
  | cons x t ih =>
    obtain ⟨j, v⟩ := x
    rw [List.filter_cons]
    by_cases hj : p j = true
    · rw [if_pos hj]
      by_cases hjk : j = k
      · subst hjk
        simp [tget, hj]
      · simpa [tget, hjk] using ih
    · rw [if_neg hj, ih]
      by_cases hjk : j = k
      · subst hjk
        simp [hj]
      · simp [tget, hjk]

theorem tget_offStack_self {α : Type} (d : α) (t : Tab α) {st size k : Nat} (h : k / size / 4096 = st) :
    tget d (offStack st size t) k = d := by
  rw [offStack, tget_filter_key d t fun k => k / size / 4096 != st, if_neg (by simp [h])]

theorem tget_offStack_of_ne {α : Type} (d : α) (t : Tab α) {st size k : Nat} (h : k / size / 4096 ≠ st) :
    tget d (offStack st size t) k = tget d t k := by
  rw [offStack, tget_filter_key d t fun k => k / size / 4096 != st, if_pos (by simp [h])]

theorem tget_offCores_self {α : Type} (d : α) (t : Tab α) {st k : Nat} (h : k / 640 = st) :
    tget d (t.filter fun x => x.1 / 640 != st) k = d := by
  rw [tget_filter_key d t fun k => k / 640 != st, if_neg (by simp [h])]

theorem tget_offCores_of_ne {α : Type} (d : α) (t : Tab α) {st k : Nat} (h : k / 640 ≠ st) :
    tget d (t.filter fun x => x.1 / 640 != st) k = tget d t k := by
  rw [tget_filter_key d t fun k => k / 640 != st, if_pos (by simp [h])]

theorem endTables_hostOnly (st : Nat) (s : State) : HostOnly s (endTables st s) := by
  refine hostOnly_foldl (fun t m => ?_) _ s
  split
  · exact complete_hostOnly _ _ _ _ _
  · exact .refl t

/-- The state in which a reset stack's tables and mark clears have ended. -/
def ended (s : State) (st : Nat) : State := endClears st (endTables st s)

theorem ended_hostOnly (s : State) (st : Nat) : HostOnly
    { endTables st s with integ := { (endTables st s).integ with
      clearing := (endTables st s).integ.clearing.filter fun x => x.2 / 640 != st } } (ended s st) := by
  unfold ended endClears
  exact hostOnly_foldl (f := fun t (x : Nat × Nat) => complete x.1 0 0 0xFFFF t) (fun t x => complete_hostOnly x.1 0 0 0xFFFF t) _ _

section
variable (s : State) (st : Nat)

theorem ended_stores : (ended s st).stores = s.stores := (ended_hostOnly s st).stores.trans (endTables_hostOnly st s).stores
theorem ended_arr : (ended s st).arr = s.arr := (ended_hostOnly s st).arr.trans (endTables_hostOnly st s).arr
theorem ended_conv : (ended s st).conv = s.conv := (ended_hostOnly s st).conv.trans (endTables_hostOnly st s).conv
theorem ended_cal : (ended s st).cal = s.cal := (ended_hostOnly s st).cal.trans (endTables_hostOnly st s).cal
theorem ended_mem : (ended s st).mem = s.mem := (ended_hostOnly s st).mem.trans (endTables_hostOnly st s).mem
theorem ended_model : (ended s st).model = s.model := (ended_hostOnly s st).model.trans (endTables_hostOnly st s).model
theorem ended_phys : (ended s st).phys = s.phys := (ended_hostOnly s st).phys.trans (endTables_hostOnly st s).phys

theorem ended_integ : (ended s st).integ =
    { s.integ with clearing := s.integ.clearing.filter fun x => x.2 / 640 != st } := by
  rw [(ended_hostOnly s st).integ]
  dsimp only
  rw [(endTables_hostOnly st s).integ]

/-- What a reset of stack `st` makes of each part of the state. -/
theorem resetStack_arr : (resetStack s st).arr = { s.arr with
    active := offStack st 1 s.arr.active, noDeck := offStack st 1 s.arr.noDeck
    refs := s.arr.refs.filter fun x => x.1 / 640 != st, refOn := s.arr.refOn.filter fun x => x.1 / 640 != st
    ordinal := offStack st 1 s.arr.ordinal } := by
  rw [← ended_arr s st]
  rfl

theorem resetStack_conv : (resetStack s st).conv = resetConv st s.conv := by
  rw [← ended_conv s st]
  rfl

theorem resetStack_cal : (resetStack s st).cal = resetFactors st s.cal := by
  rw [← ended_cal s st]
  rfl

theorem resetStack_integ : (resetStack s st).integ =
    resetCores st { s.integ with clearing := s.integ.clearing.filter fun x => x.2 / 640 != st } := by
  rw [← ended_integ s st]
  rfl

theorem resetStack_full : (resetStack s st).stores.full = s.stores.full.filter fun x => wordStack x.1 != st := by
  rw [← ended_stores s st]
  rfl

theorem resetStack_stored : (resetStack s st).stores.mem = s.stores.mem.filter fun x => wordStack (x.1 / 32) != st := by
  rw [← ended_stores s st]
  rfl

theorem resetStack_mem : (resetStack s st).mem = s.mem := ended_mem s st
theorem resetStack_model : (resetStack s st).model = s.model := ended_model s st
theorem resetStack_phys : (resetStack s st).phys = s.phys := ended_phys s st

end

theorem mread_congr {m n : Tab Byte} {a len : Nat} (h : ∀ i, i < len → tget 0#8 m (a + i) = tget 0#8 n (a + i)) :
    mread m a len = mread n a len := by
  induction len generalizing a with
  | zero => rfl
  | succ len ih =>
    have hfirst : tget 0#8 m a = tget 0#8 n a := h 0 (by omega)
    rw [mread, mread, hfirst, ih fun i hi => ?_]
    rw [Nat.add_assoc, Nat.add_comm 1 i]
    exact h (i + 1) (by omega)

theorem mread_zero {m : Tab Byte} {a len : Nat} (h : ∀ i, i < len → tget 0#8 m (a + i) = 0#8) : mread m a len = zeros len := by
  induction len generalizing a with
  | zero => rfl
  | succ len ih =>
    have hfirst : tget 0#8 m a = 0#8 := h 0 (by omega)
    rw [mread, hfirst, ih fun i hi => ?_]
    · rfl
    · rw [Nat.add_assoc, Nat.add_comm 1 i]
      exact h (i + 1) (by omega)

/-- A byte of word `g` is one of its stack's stores. -/
theorem tget_resetStack_stored (s : State) (st g : Nat) {i : Nat} (hi : i < 32) : tget 0#8 (resetStack s st).stores.mem (32 * g + i) =
    if wordStack g = st then 0#8 else tget 0#8 s.stores.mem (32 * g + i) := by
  have hword : (32 * g + i) / 32 = g := by omega
  rw [resetStack_stored, tget_filter_key 0#8 _ fun a => wordStack (a / 32) != st, hword]
  by_cases h : wordStack g = st <;> simp [h]

section
variable {s : State} {st g : Nat}

theorem word_resetStack_self (h : wordStack g = st) : fullAt (resetStack s st) g = false ∧ wordAt (resetStack s st) g = zeros 32 := by
  refine ⟨?_, mread_zero fun i hi => by rw [tget_resetStack_stored s st g hi, if_pos h]⟩
  rw [fullAt, resetStack_full, tget_filter_key false _ fun g => wordStack g != st, if_neg (by simp [h])]

theorem word_resetStack_other (h : wordStack g ≠ st) :
    fullAt (resetStack s st) g = fullAt s g ∧ wordAt (resetStack s st) g = wordAt s g := by
  refine ⟨?_, mread_congr fun i hi => by rw [tget_resetStack_stored s st g hi, if_neg h]⟩
  rw [fullAt, resetStack_full, tget_filter_key false _ fun g => wordStack g != st, if_pos (by simp [h]), fullAt]

end

/-- Settles O19: the three commands, and each part of the state that the reset of a stack clears or leaves. -/
theorem resetCommandsComplete : Obligations.ResetCommandsComplete := by
  refine ⟨⟨fun c s cmd t h => ?module, fun c s cmd t h => ?stack, fun s tag mask rest h => ?done⟩, fun s st hst => ?clears⟩
  case module =>
    rw [exec_accepted (mk := .moduleReset) (fun _ _ => rfl) h, moduleReset, h.tag]
    rfl
  case stack => exact exec_accepted (mk := .stackReset) (fun _ _ => rfl) h
  case done =>
    refine congrArg Host.Outcome.next (?_ : stackResetDone s = _)
    rw [stackResetDone, h]
    rfl
  case clears =>
    refine And.intro (fun g hg => word_resetStack_self hg) ⟨fun g hg => word_resetStack_other hg, fun e he => ?engines, ?count, ?valid,
      fun p hp => ?cores, fun e he => ?otherEngines, fun c hc => ?otherCores, resetStack_mem s st, ?decks, resetStack_phys s st⟩
    case engines =>
      have he1 : e / 1 / 4096 = st := by rwa [Nat.div_one]
      have htrim (a : Nat) (ha : a < 132) : (e * 132 + a) / 132 / 4096 = st := by omega
      have hword (k : Nat) (hk : k < 4096) : (e * 4096 + k) / 4096 / 4096 = st := by omega
      rw [resetStack_arr, resetStack_conv, resetStack_cal]
      exact ⟨tget_offStack_self _ _ he1, tget_offStack_self _ _ he1, tget_offStack_self _ _ he1, tget_offStack_self _ _ he1,
        tget_offStack_self _ _ he1, fun a ha => tget_offStack_self _ _ (htrim a ha),
        fun k hk => ⟨tget_offStack_self _ _ (hword k hk), tget_offStack_self _ _ (hword k hk)⟩⟩
    case count =>
      rw [resetStack_conv]
      exact tget_tset_self s.conv.calCount st 0
    case valid =>
      rw [resetStack_conv]
      simp [resetConv]
    case cores =>
      have hc : (st * 640 + p) / 640 = st := by omega
      rw [resetStack_integ, resetStack_arr, resetStack_cal]
      exact ⟨tget_offCores_self _ _ hc, tget_offCores_self _ _ hc, tget_offCores_self _ _ hc, tget_offCores_self _ _ hc,
        tget_offCores_self _ _ hc, tget_offCores_self _ _ hc, tget_offCores_self _ _ hc, tget_offCores_self _ _ hc⟩
    case otherEngines =>
      have he1 : e / 1 / 4096 ≠ st := by rwa [Nat.div_one]
      have htrim (a : Nat) (ha : a < 132) : (e * 132 + a) / 132 / 4096 ≠ st := by omega
      have hword (k : Nat) (hk : k < 4096) : (e * 4096 + k) / 4096 / 4096 ≠ st := by omega
      rw [resetStack_arr, resetStack_conv, resetStack_cal]
      exact ⟨tget_offStack_of_ne _ _ he1, tget_offStack_of_ne _ _ he1, fun a ha => tget_offStack_of_ne _ _ (htrim a ha),
        fun k hk => ⟨tget_offStack_of_ne _ _ (hword k hk), tget_offStack_of_ne _ _ (hword k hk)⟩⟩
    case otherCores =>
      rw [resetStack_integ, resetStack_arr]
      exact ⟨tget_offCores_of_ne _ _ hc, tget_offCores_of_ne _ _ hc, tget_offCores_of_ne _ _ hc⟩
    case decks => rw [resetStack_model]

/-! ### Power modes and the spindle source -/

/-- A mode that every partition has adopted is applied, unless the spindle is Coasting. -/
theorem finishMode_applies {s : State} {m : PendMode} (hm : s.spin.pend = some m) (hidle : m.idle = true) (hleft : m.left = [])
    (hcoast : s.spin.state ≠ 3) :
    (finishMode s).spin.power = m.mode ∧ (finishMode s).spin.pend = none ∧ (finishMode s).plans = s.plans := by
  have hfinish : finishMode s = complete m.tag 0 0 s.spin.count
      (postEvent 1 0 0x0110 1 (le 1 m.mode) { s with spin := { s.spin with power := m.mode, pend := none } }) := by
    simp [finishMode, hm, hidle, hleft, hcoast]
  have hcomplete := complete_hostOnly m.tag 0 0 s.spin.count
    (postEvent 1 0 0x0110 1 (le 1 m.mode) { s with spin := { s.spin with power := m.mode, pend := none } })
  have hpost := postEvent_posted 1 0 0x0110 1 (le 1 m.mode) { s with spin := { s.spin with power := m.mode, pend := none } }
  have hspin := hcomplete.spin.trans hpost.spin
  rw [hfinish]
  exact ⟨congrArg Spin.power hspin, congrArg Spin.pend hspin, hcomplete.plans.trans hpost.plans⟩

/-- A pending mode that no partition is left to adopt is in force once its turn has come. -/
theorem idleMode_applies {s : State} {m : PendMode} (hm : s.spin.pend = some m) (hleft : m.left = [])
    (hcoast : s.spin.state ≠ 3) (hturn : s.spin.state = 2 → m.turn ≤ turnOf s) :
    (idleMode s).spin.power = m.mode ∧ (idleMode s).spin.pend = none ∧ (idleMode s).plans = s.plans := by
  have hidle : idleMode s = finishMode { s with spin := { s.spin with pend := some { m with idle := true } } } := by
    simp only [idleMode, hm]
    refine if_neg ?_
    simpa [hcoast] using hturn
  have happlies := finishMode_applies (s := { s with spin := { s.spin with pend := some { m with idle := true } } }) rfl rfl hleft hcoast
  rw [← hidle] at happlies
  exact happlies

theorem sourceSet_eq (c : Cmd) (s : State) : sourceSet c s = .ok (
    let src := c.at 40 1
    let u := { s with spin := { s.spin with outEnable := c.at 42 1 } }
    if src = s.spin.source ∧ c.at 41 1 = s.spin.port then u else
    let v := if s.spin.state = 2 ∧ src ≠ 0 then postEvent 2 0 0x0202 2 (le 8 s.spin.count) u else u
    idleMode { v with spin := { v.spin with
      state := if src = 0 then 0 else 1, source := src, port := c.at 41 1, lastTurn := none
      selfStart := if src = 3 then some (c.at 48 8, v.spin.tick) else none
      count := if src = 3 then c.at 48 8 else v.spin.count
      badRun := 0, held := false, atTurn := false, hops := 0 } }) 0 := by
  have hsame : sameSource c s = true ↔ c.at 40 1 = s.spin.source ∧ c.at 41 1 = s.spin.port := by simp [sameSource]
  unfold sourceSet
  by_cases h : c.at 40 1 = s.spin.source ∧ c.at 41 1 = s.spin.port
  · dsimp only
    rw [if_pos (hsame.2 h), if_pos h]
  · dsimp only
    rw [if_neg (mt hsame.1 h), if_neg h]

theorem syncResult_eq (s : State) (b : Nat) : syncResult s b = match barrierPlan s b with
    | none => 0
    | some (key, p) =>
      let x := barrierAt p b
      x.g + 2 ^ 16 * (x.c0 % 2 ^ 13) + 2 ^ 29 * (x.c1 % 2 ^ 13) + 2 ^ 42 + 2 ^ 43 * (if lapWaiting s key b then 1 else 0) +
        2 ^ 44 * ((barrierDef p b).map (·.scope)).getD 0 + 2 ^ 48 * min x.refused (2 ^ 16 - 1) := by
  unfold syncResult
  cases barrierPlan s b <;> rfl

/-- Settles O20. -/
theorem spindleCommandsComplete : Obligations.SpindleCommandsComplete := by
  refine ⟨⟨proceeds_of_later (fun _ _ => rfl) fun _ _ => rfl, fun s m hm hidle hleft hcoast hturn => ?turn⟩, ?source,
    succeeds_of_ok (fun _ _ => rfl) fun _ _ => rfl, ?query⟩
  case turn => exact ⟨_, rfl, idleMode_applies hm hleft hcoast hturn⟩
  case source => exact succeeds_of_ok (fun _ _ => rfl) sourceSet_eq
  case query =>
    refine succeeds_of_ok (fun _ _ => rfl) fun c s => congrArg (Ran.ok s) ((syncResult_eq s (c.at 40 2)).trans ?_)
    cases barrierPlan s (c.at 40 2) <;> rfl

/-! ### Honing -/

/-- The result of HONE_STATUS with a logical core and a spare. -/
def honeResult (t : State) (st p served spare : Nat) : Nat :=
  coreState t (st * 640 + p) + 2 ^ 4 * served + 2 ^ 14 * spare + 2 ^ 24 * satBits 8 (tget 0 t.integ.failedTest (st * 640 + p)) +
    2 ^ 32 * satBits 32 (((t.integ.hones.find? fun h => h.st == st && h.core == p).map (·.done)).getD 0)

/-- HONE_STATUS changes the free values only, and answers the logical core and the spare where there are such. -/
theorem honeStatus_ok (cmd : Cmd) (t : State) : ∃ served spare free,
    honeStatus cmd t = .ok { t with free := free } (honeResult t (cmd.at 40 1) (cmd.at 42 2) served spare) ∧
      (∀ l, servedCore t (cmd.at 40 1) (cmd.at 42 2) = some l → served = l) ∧
      ∀ h, (t.integ.hones.find? fun h => h.st == cmd.at 40 1 && h.core == cmd.at 42 2) = some h → spare = h.spare := by
  unfold honeStatus
  cases hserved : servedCore t (cmd.at 40 1) (cmd.at 42 2) with
  | some l =>
    cases hhone : t.integ.hones.find? fun h => h.st == cmd.at 40 1 && h.core == cmd.at 42 2 with
    | none =>
      refine ⟨l, (freeBits 10 t).1, t.free + 1, ?_, by simp, by simp⟩
      simp only [hserved, hhone, honeResult, freeBits, fresh, coreState]
    | some x =>
      refine ⟨l, x.spare, t.free, ?_, by simp, by simp⟩
      simp only [hserved, hhone, honeResult, coreState]
  | none =>
    cases hhone : t.integ.hones.find? fun h => h.st == cmd.at 40 1 && h.core == cmd.at 42 2 with
    | none =>
      refine ⟨(freeBits 10 t).1, (freeBits 10 (freeBits 10 t).2).1, t.free + 2, ?_, by simp, by simp⟩
      simp only [hserved, hhone, honeResult, freeBits, fresh, coreState]
    | some x =>
      refine ⟨(freeBits 10 t).1, x.spare, t.free + 1, ?_, by simp, by simp⟩
      simp only [hserved, hhone, honeResult, freeBits, fresh, coreState]

/-- Settles O21. -/
theorem integrityCommandsComplete : Obligations.IntegrityCommandsComplete := by
  refine ⟨⟨succeeds_of_ok (fun _ _ => rfl) fun _ _ => rfl, succeeds_of_ok (fun _ _ => rfl) fun _ _ => rfl,
    succeeds_of_ok (fun _ _ => rfl) fun _ _ => rfl, succeeds_of_ok (fun _ _ => rfl) fun _ _ => rfl⟩,
    fun c s cmd t h => ?status, fun c s cmd t h => ⟨fun hclear hidle => ?clear, fun hclear hbusy => ?wait, fun hhone => ?hone⟩⟩
  case status =>
    obtain ⟨served, spare, free, hact, hserved, hspare⟩ := honeStatus_ok cmd t
    refine ⟨served, spare, { t with free := free }, ?_, hserved, hspare, rfl⟩
    rw [exec_accepted (mk := .honeStatus) (fun _ _ => rfl) h, hact]
    simp only [finish, honeResult, satBits, Nat.reducePow, Nat.reduceSub]
  case clear =>
    rw [exec_accepted (mk := .honeRequest) (fun _ _ => rfl) h, honeRequest, if_pos hclear, clearMark, honeCore,
      if_pos hidle]
    rfl
  case wait =>
    rw [exec_accepted (mk := .honeRequest) (fun _ _ => rfl) h, honeRequest, if_pos hclear, clearMark, honeCore,
      if_neg (by simp [hbusy]), h.tag]
    rfl
  case hone =>
    rw [exec_accepted (mk := .honeRequest) (fun _ _ => rfl) h, honeRequest, if_neg hhone, h.tag, honeNamed]
    refine congrArg Host.Outcome.next ?_
    cases startHone (some c.tag) (cmd.at 40 1) (cmd.at 42 2) (cmd.at 44 1 == 1)
      (if cmd.at 46 2 = 0xFFFF then none else some (cmd.at 46 2)) t <;> rfl

end Sys2Proof.Machine

/-!
PROOFS. Plan commands (R71 to R75, R436, R523).
-/

namespace Sys2Proof.Machine

/-! ### Plan commands -/

section
variable {c : CmdIn} {s : State} {cmd : Cmd} {t : State} {q : Plan}
  (hq : planAt t (planKey (cmd.at 40 4) (cmd.at 44 2)) = some q)
include hq

theorem planArm_some : planArm cmd t = .ok (q.d.parts.foldl zeroScratch (setPlan (namedPlan cmd) (some { q with
      state := 1, startTurn := cmd.at 48 8, stop := none, waiting := q.d.parts.map (·.part), released := []
      replaces := ((replacedParts t (namedPlan cmd) q.d).map (· / 16)).eraseDups
      barriers := [], arrivals := [] }) (forgetReplaced (namedPlan cmd) t))) (cmd.at 48 8) := by
  simp only [planArm, namedPlan, hq]

theorem planStop_some : planStop cmd t =
    if q.state = 1 then .ok (releaseStacks q (setPlan (namedPlan cmd) (some { q with
      state := 0, stop := none, waiting := [], released := [], barriers := [], arrivals := [] }) t)) t.spin.count
    else if q.state = 3 then .ok (releaseStacks q (setPlan (namedPlan cmd) (some { q with
      state := 0, stop := none, waiting := [], released := [], barriers := [], arrivals := [] }) t)) q.haltCount
    else .later (closePlan (namedPlan cmd) (setPlan (namedPlan cmd) (some { q with stop := some (cmd.tag, cmd.at 48 8) })
      (match q.stop with
        | none => t
        | some (old, _) => complete old 0xA 1 0 t))) := by
  simp only [planStop, namedPlan, hq] <;> cases q.stop <;> rfl

theorem planUnload_some : planUnload cmd t = .ok (addLog 2 q.d.id q.d.version (sha256 q.d.signed) (setPlan (namedPlan cmd) none t)) 0 := by
  simp only [planUnload, namedPlan, hq]

theorem planQuery_some : planQuery cmd t = .ok t (planResult q) := by
  simp only [planQuery, namedPlan, hq, Option.map_some, Option.getD_some]

end

/-- Settles O22: each command on the plan it names. -/
theorem planCommandsComplete : Obligations.PlanCommandsComplete := by
  refine ⟨fun c s cmd t q h hq => ?arm, fun c s cmd t q h hq => ⟨fun harmed => ?armed, fun hhalted => ?halted, fun hruns => ?running⟩,
    fun c s cmd t q h hq => ?unload, fun c s cmd t q h hq => ?query⟩
  case arm => rw [exec_accepted (mk := .planArm) (fun _ _ => rfl) h, planArm_some hq]; rfl
  case armed => rw [exec_accepted (mk := .planStop) (fun _ _ => rfl) h, planStop_some hq, if_pos harmed]; rfl
  case halted =>
    rw [exec_accepted (mk := .planStop) (fun _ _ => rfl) h, planStop_some hq, if_neg (by rw [hhalted]; decide), if_pos hhalted]
    rfl
  case running =>
    rw [exec_accepted (mk := .planStop) (fun _ _ => rfl) h, planStop_some hq, if_neg (by rw [hruns]; decide),
      if_neg (by rw [hruns]; decide), h.tag]
    cases q.stop <;> rfl
  case unload => rw [exec_accepted (mk := .planUnload) (fun _ _ => rfl) h, planUnload_some hq]; rfl
  case query => rw [exec_accepted (mk := .planQuery) (fun _ _ => rfl) h, planQuery_some hq]; rfl

/-! ### The first failed check -/

theorem firstFail_append (a b : List Check) : firstFail (a ++ b) = (firstFail a).or (firstFail b) := by
  induction a with
  | nil => rfl
  | cons x a ih =>
    obtain ⟨bad, f⟩ := x
    rw [List.cons_append, firstFail, firstFail, ih]
    cases bad <;> rfl

theorem firstFail_append_of_none {a : List Check} (h : firstFail a = none) (b : List Check) : firstFail (a ++ b) = firstFail b := by
  rw [firstFail_append, h, Option.none_or]

theorem firstFail_cons (x : Check) (l : List Check) : firstFail (x :: l) = if x.1 then some x.2 else firstFail l := rfl

theorem firstFail_cons_of_good {x : Check} (h : x.1 = false) (l : List Check) : firstFail (x :: l) = firstFail l := by
  rw [firstFail_cons, h]
  rfl

/-- A command that begins runs its checks, then its effect. -/
theorem exec_begins {mk : CmdIn → Instr} {op : Nat} {checks : Cmd → State → List Check} {act : Cmd → State → Ran}
    (hexec : ∀ c s, exec (mk c) s = .next (runCommand op checks act c s)) {c : CmdIn} {s : State} {cmd : Cmd} {t : State}
    (h : Begins op c s cmd t) : exec (mk c) s = .next ((firstFail (checks cmd t)).elim (finish c.tag (act cmd t))
      fun e => complete c.tag e.status e.sub e.result t) := by
  rw [hexec, runCommand_begins h]
  cases firstFail (checks cmd t) <;> rfl

/-- The checks of PLAN_LOAD behind those of the image's form and manifest. -/
def signatureChecks (c : Cmd) (s : State) : List Check :=
  let d := parsePlan c.data
  let m := planManifest s d
  let js := judged s d
  [ integrity 0 (js.any fun x => !x.2), unauthorised 4 (c.f.fn != 0 && !m.any fun m => m.tenant == c.tenant),
    unauthorised 0 (!js.any (·.2)), unauthorised 0 (m.any fun m => encrypted m.raw && !ownerSigned s d m),
    exhausted (d.parts.any fun p => p.stacks.any fun st => decide (4 ≤ plansOn s st)), exhausted (logFull s) ]

theorem planLoadChecks_eq (c : Cmd) (s : State) : planLoadChecks c s =
    (headChecks c .none .some 64 ++ [inlineZero c 44 20] ++ imageChecks c.data c.dataLen (c.at 40 4) ++
      [badImage 8 (planAt s (imageKey c.data)).isSome, badImage 48 ((planManifest s (parsePlan c.data)).any (reductionBad (parsePlan c.data)))]) ++
    signatureChecks c s := by
  simp only [planLoadChecks, signatureChecks, List.append_assoc, List.cons_append, List.nil_append]

/-- Settles O23: behind the form and the manifest the signatures alone decide. -/
theorem planLoadJudgesSignatures : Obligations.PlanLoadJudgesSignatures := by
  intro c s cmd t h b d m hform howner hroom hlog
  have hfirst : firstFail (planLoadChecks cmd t) =
      if (judged t (parsePlan cmd.data)).any (fun x => !x.2) then some ⟨7, 0, 0⟩
      else if !((judged t (parsePlan cmd.data)).any fun x => x.2) ∨
        ((planManifest t (parsePlan cmd.data)).any fun m => encrypted m.raw && !ownerSigned t (parsePlan cmd.data) m) then some ⟨6, 0, 0⟩
      else none := by
    have hown : (cmd.f.fn != 0 && !m.any fun m => m.tenant == cmd.tenant) = false := by
      rcases howner with h | h <;> simp [h]
    have hstacks : (d.parts.any fun p => p.stacks.any fun st => decide (4 ≤ plansOn t st)) = false := by
      simpa using hroom
    have hfull : logFull t = false := decide_eq_false (Nat.not_le.2 hlog)
    rw [planLoadChecks_eq, firstFail_append_of_none hform]
    simp only [signatureChecks, firstFail_cons, integrity, unauthorised, exhausted, hfull]
    rw [hown, hstacks]
    split_ifs <;> simp_all [firstFail]
  rw [exec_begins (mk := .planLoad) (fun _ _ => rfl) h, hfirst]
  split_ifs <;> rfl

end Sys2Proof.Machine

/-!
PROOFS. Trust and key commands, the load log, and the fuses that SVN_COMMIT sets (R428, R430, R436, R442 to R451).
-/

namespace Sys2Proof.Machine

/-! ### Commands whose data a cipher, a signature or a digest judges -/

/-- Where every other check passes, the first failed check is one that answers INTEGRITY_FAIL. -/
theorem firstFail_of_but {l : List Check} (h : firstFail (l.filter fun x => x.2.status != 7) = none) :
    firstFail l = firstFail (l.filter fun x => x.2.status == 7) := by
  induction l with
  | nil => rfl
  | cons x l ih =>
    obtain ⟨bad, f⟩ := x
    by_cases hf : f.status = 7
    · rw [List.filter_cons_of_neg (by simp [hf])] at h
      rw [List.filter_cons_of_pos (by simp [hf]), firstFail, firstFail, ih h]
    · rw [List.filter_cons_of_pos (by simp [hf])] at h
      rw [List.filter_cons_of_neg (by simp [hf]), firstFail]
      cases bad with
      | true => cases h
      | false => exact ih h

/-- A command that passes every check but the integrity checks is judged by these alone. -/
theorem exec_acceptedBut {mk : CmdIn → Instr} {op : Nat} {checks : Cmd → State → List Check} {act : Cmd → State → Ran}
    (hexec : ∀ c s, exec (mk c) s = .next (runCommand op checks act c s)) {c : CmdIn} {s : State} {cmd : Cmd} {t : State}
    (h : AcceptedBut op checks c s cmd t) :
    exec (mk c) s = .next ((firstFail ((checks cmd t).filter fun x => x.2.status == 7)).elim (finish c.tag (act cmd t))
      fun e => complete c.tag e.status e.sub e.result t) := by
  rw [exec_begins hexec h.1, firstFail_of_but h.2]

/-! ### Tenants' keys -/

theorem keySetChecks_integrity (c : Cmd) (s : State) : (keySetChecks c s).filter (fun x => x.2.status == 7) =
    [integrity 0 (c.param.take 32 != identityBytes), integrity 0 (openBlock c).isNone] := rfl

theorem keySet_some {c : Cmd} {b : Bytes} (h : openBlock c = some b) (s : State) : keySet c s =
    let again := (tget none s.trust.tenants c.tenant).isSome
    let mn := (randomBytes 32 s).1
    let r := (randomBytes 32 s).2
    let n : Tenant := { ts := b.take 32, rs := slice b 32 32, mn := mn, high := 0, seen := [] }
    let u := { r with trust := { r.trust with tenants := tset none r.trust.tenants c.tenant (some n) } }
    let u := if again then u else addLog 7 c.tenant 0 (sha256 (exportKey c.tenant n)) u
    .ok (postEvent 0xD 0 0x0A02 1 (le 2 c.tenant ++ le 1 (b2n again)) (hostWrite c.f.fn (c.at 24 8) mn u)) (1 + b2n again) := by
  unfold keySet
  rw [h]
  rfl

theorem keyClear_some {c : Cmd} {s : State} {n : Tenant} (h : tget none s.trust.tenants c.tenant = some n) :
    keyClear c s = .ok (addLog 8 c.tenant 0 (sha256 (exportKey c.tenant n))
      { s with trust := { s.trust with tenants := tset none s.trust.tenants c.tenant none } }) 0 := by
  simp only [keyClear, tenantOf, h]

theorem keyRemove_some {c : Cmd} {s : State} {k : Bytes} (h : tget none s.trust.planKeys (c.at 40 1) = some k) :
    keyRemove c s = .ok (addLog 6 (c.at 40 1) 0 (sha256 k)
      { s with trust := { s.trust with planKeys := tset none s.trust.planKeys (c.at 40 1) none } }) 0 := by
  simp only [keyRemove, h, Option.getD_some]

/-! ### The load log -/

theorem logEntry_fields {kind id version count : Nat} {digest : Bytes} (hkind : kind < 2 ^ 8) (hid : id < 2 ^ 32)
    (hversion : version < 2 ^ 16) (hdigest : digest.length = 32) (hcount : count < 2 ^ 64) :
    let e := logEntry kind id version digest count
    e.length = 64 ∧ fld e 0 1 = kind ∧ fld e 4 4 = id ∧ fld e 8 2 = version ∧ slice e 16 32 = digest ∧ fld e 48 8 = count ∧
      zeroAt e 1 3 = true ∧ zeroAt e 10 6 = true ∧ zeroAt e 56 8 = true := by
  have hpad : padTo 32 digest = digest := by simp [padTo, hdigest, zeros, List.take_of_length_le hdigest.le]
  have hentry : logEntry kind id version digest count =
      le 1 kind ++ (le 3 0 ++ (le 4 id ++ (le 2 version ++ (le 6 0 ++ (digest ++ (le 8 count ++ le 8 0)))))) := by
    have hz3 : zeros 3 = le 3 0 := rfl
    have hz6 : zeros 6 = le 6 0 := rfl
    have hz8 : zeros 8 = le 8 0 := rfl
    simp only [logEntry, hpad, hz3, hz6, hz8, List.append_assoc]
  have hdrop (off : Nat) (hoff : 32 ≤ off) (b : Bytes) : (digest ++ b).drop off = b.drop (off - 32) := by
    rw [List.drop_append, List.drop_eq_nil_of_le (by omega), List.nil_append, hdigest]
  have hfld (off len : Nat) (hoff : 32 ≤ off) (b : Bytes) : fld (digest ++ b) off len = fld b (off - 32) len := by
    rw [fld_append_of_length_le (by omega), hdigest]
  have htake (len n : Nat) (b : Bytes) : (le len n ++ b).take len = le len n := List.take_left' (le_length len n)
  intro e
  simp only [e, hentry]
  refine ⟨by simp [hdigest], ?_, ?_, ?_, ?_, ?_, ?_, ?_, ?_⟩
  case refine_4 =>
    simp (disch := decide) only [slice, drop_le_append, Nat.reduceSub, List.drop_zero]
    rw [List.take_left' hdigest, hpad]
  case refine_6 =>
    simp (disch := decide) only [zeroAt, drop_le_append, Nat.reduceSub, List.drop_zero, htake]
    rfl
  case refine_7 =>
    simp (disch := decide) only [zeroAt, drop_le_append, Nat.reduceSub, List.drop_zero, htake]
    rfl
  case refine_8 =>
    simp (disch := decide) only [zeroAt, drop_le_append, hdrop, Nat.reduceSub, List.drop_zero]
    rfl
  all_goals
    simp (disch := omega) only [fld_le_append_of_le, fld_le_append, hfld, Nat.reduceSub]

theorem addLog_eq (kind id version : Nat) (digest : Bytes) (s : State) : addLog kind id version digest s =
    let e := logEntry kind id version digest s.spin.count
    let t := { s with trust := { s.trust with log := s.trust.log ++ [e], digest := sha256 (s.trust.digest ++ sha256 (e.take 48)) } }
    if s.trust.log.length = 16383 then postEvent 0xD 0 0x0A04 3 (le 8 s.spin.count) t else t := by
  unfold addLog
  refine if_congr ?_ rfl rfl
  simp [logRoom]

theorem identityChecks_eq (c : Cmd) (s : State) : identityChecks c s =
    (pfOnly c :: headChecks c .none .some 64 ++ [inlineZero c 40 24]) ++ [badLength 32 (decide (c.dataLen < (certChain s).length))] := by
  simp only [identityChecks, List.append_assoc, List.cons_append, List.nil_append]

/-- Settles O24: each command's effect, the entry of the load log, and the burning of a thermometer code. -/
theorem trustCommandsComplete : Obligations.TrustCommandsComplete := by
  refine ⟨⟨fun c s cmd t h => ?set, fun c s cmd t n h hn => ?clear, succeeds_of_ok (fun _ _ => rfl) fun _ _ => rfl,
    succeeds_of_ok (fun _ _ => rfl) fun _ _ => rfl, fun c s cmd t k h hk => ?remove, fun c s cmd t h => ?commit,
    fun c s cmd t h hform => ?identity, succeeds_of_ok (fun _ _ => rfl) fun c s => ?log⟩, ?entry, ?fuses⟩
  case set =>
    rw [exec_acceptedBut (mk := .tenantKeySet) (fun _ _ => rfl) h, keySetChecks_integrity]
    by_cases hid : cmd.param.take 32 = identityBytes
    · cases hb : openBlock cmd with
      | none => simp [firstFail, integrity, hid]
      | some b =>
        simp only [firstFail, integrity, hid, bne_self_eq_false, Option.isNone_some, Bool.false_eq_true, if_false, if_true,
          Option.elim_none, keySet_some hb]
        cases (tget none t.trust.tenants cmd.tenant).isSome <;> rfl
    · simp [firstFail, integrity, hid]
  case clear => rw [exec_accepted (mk := .tenantKeyClear) (fun _ _ => rfl) h, keyClear_some hn]; rfl
  case remove => rw [exec_accepted (mk := .planKeyRemove) (fun _ _ => rfl) h, keyRemove_some hk]; rfl
  case commit =>
    rw [exec_accepted (mk := .svnCommit) (fun _ _ => rfl) h]
    exact congrArg Host.Outcome.next (apply_ite (finish c.tag) _ _ _)
  case identity =>
    rw [exec_begins (mk := .identityRead) (fun _ _ => rfl) h, identityChecks_eq, firstFail_append_of_none hform, firstFail_cons]
    have hlong : (badLength 32 (decide (cmd.dataLen < (certChain t).length))).1 = decide (cmd.at 32 8 < (certChain t).length) := rfl
    simp only [hlong, decide_eq_true_eq]
    split_ifs <;> rfl
  case log =>
    simp only [logRead, List.isEmpty_iff]
    rfl
  case entry =>
    intro kind id version digest s hkind hid hversion hdigest hcount
    obtain ⟨hlen, f0, f4, f8, hslice, f48, z1, z10, z56⟩ := logEntry_fields hkind hid hversion hdigest hcount
    exact ⟨_, hlen, f0, f4, f8, hslice, f48, z1, z10, z56, addLog_eq kind id version digest s⟩
  case fuses =>
    intro k n hkn
    have hburn := burnFuses_fuseCode n (k := k) (by omega)
    rwa [Nat.min_eq_right hkn] at hburn

end Sys2Proof.Machine

/-!
PROOFS. Models, keys and adapters.
-/

namespace Sys2Proof.Machine

/-! ### Manifests -/

theorem filter_status_eq_nil {n : Nat} {l : List Check} (h : ∀ x ∈ l, x.2.status ≠ n) : l.filter (fun x => x.2.status == n) = [] := by
  rw [List.filter_eq_nil_iff]
  intro x hx
  simpa using h x hx

theorem mfTableChecks_status (m : Bytes) : ∀ x ∈ mfTableChecks m, x.2.status = 4 := by
  simp only [mfTableChecks, List.mem_append, List.mem_flatMap, List.mem_map, List.mem_cons, List.not_mem_nil, or_false]
  rintro x (⟨i, -, rfl | rfl⟩ | ⟨i, -, rfl⟩) <;> rfl

theorem mfTierChecks_status (m : Bytes) : ∀ x ∈ mfTierChecks m, x.2.status = 4 := by
  simp only [mfTierChecks, List.mem_flatMap, List.mem_cons, List.not_mem_nil, or_false]
  rintro x ⟨i, -, rfl | rfl | rfl | rfl | rfl⟩ <;> rfl

theorem mfReductionChecks_status (m : Bytes) : ∀ x ∈ mfReductionChecks m, x.2.status = 4 := by
  simp only [mfReductionChecks, List.mem_append, List.mem_flatMap, List.mem_map, List.mem_cons, List.not_mem_nil, or_false]
  rintro x ⟨i, -, ((rfl | rfl | rfl | rfl | rfl | rfl) | ⟨j, -, rfl⟩) | rfl⟩ <;> rfl

theorem manifestChecks_integrity (c : Cmd) (s : State) : (manifestChecks c s).filter (fun x => x.2.status == 7) =
    let n := manifestLength c.data
    let raw := c.data.take n
    [ integrity 0 (!verifies (ownerKey raw) (raw.take (n - 384)) (raw.drop (n - 384))),
      integrity 0 (encrypted c.data && (contentKey c.param).isNone) ] := by
  have htables : (mfTableChecks c.data).filter (fun x => x.2.status == 7) = [] :=
    filter_status_eq_nil fun x hx => by rw [mfTableChecks_status _ x hx]; decide
  have htiers : (mfTierChecks c.data).filter (fun x => x.2.status == 7) = [] :=
    filter_status_eq_nil fun x hx => by rw [mfTierChecks_status _ x hx]; decide
  have hreductions : (mfReductionChecks c.data).filter (fun x => x.2.status == 7) = [] :=
    filter_status_eq_nil fun x hx => by rw [mfReductionChecks_status _ x hx]; decide
  have hheader : (if 256 ≤ c.dataLen then mfHeaderChecks c.data else []).filter (fun x => x.2.status == 7) = [] := by
    split_ifs <;> rfl
  have hbody : (if manifestLength c.data ≤ c.dataLen then mfDigestCheck c.data :: mfTableChecks c.data ++ mfTierChecks c.data ++
      mfReductionChecks c.data else []).filter (fun x => x.2.status == 7) = [] := by
    split_ifs
    · rw [List.filter_append, List.filter_append, List.filter_cons_of_neg (by simp [mfDigestCheck, badData]), htables, htiers, hreductions]
      rfl
    · rfl
  simp only [manifestChecks]
  rw [List.filter_append, List.filter_append, List.filter_append, hheader, hbody]
  rfl

/-! ### Binding keys -/

theorem randomBytes_model (n : Nat) (s : State) : (randomBytes n s).2.model = s.model := by
  simp only [randomBytes]

theorem keySupplyChecks_integrity (c : Cmd) (s : State) : (keySupplyChecks c s).filter (fun x => x.2.status == 7) =
    [integrity 0 (openBlob c.data).isNone] := rfl

/-- Settles O25. -/
theorem manifestAndKeyCommandsComplete : Obligations.ManifestAndKeyCommandsComplete := by
  refine ⟨fun c s cmd t h => ?manifest, fun c s cmd t h => ?create, fun c s cmd t h => ?supply⟩
  case manifest =>
    intro n raw
    rw [exec_acceptedBut (mk := .modelManifestLoad) (fun _ _ => rfl) h, manifestChecks_integrity]
    have hkey : (encrypted cmd.data && (contentKey cmd.param).isNone) = true ↔ encrypted cmd.data = true ∧ contentKey cmd.param = none := by
      rw [Bool.and_eq_true, Option.isNone_iff_eq_none]
    simp only [firstFail, integrity, hkey]
    by_cases hsigned : (!verifies (ownerKey raw) (raw.take (n - 384)) (raw.drop (n - 384))) = true
    · rw [if_pos hsigned, if_pos (.inl hsigned)]
      rfl
    · rw [if_neg hsigned]
      by_cases hblock : encrypted cmd.data = true ∧ contentKey cmd.param = none
      · rw [if_pos hblock, if_pos (.inr hblock)]
        rfl
      · rw [if_neg hblock]
        exact congrArg Host.Outcome.next (if_neg (not_or.2 ⟨hsigned, hblock⟩)).symm
  case create =>
    rw [exec_accepted (mk := .bindKeyCreate) (fun _ _ => rfl) h, keyCreate]
    rcases h32 : randomBytes 32 t with ⟨key, u⟩
    rcases h12 : randomBytes 12 u with ⟨nonce, v⟩
    have hu : u.model = t.model := by rw [← randomBytes_model 32 t, h32]
    have hv : v.model = t.model := by rw [← hu, ← randomBytes_model 12 u, h12]
    simp only [h12, hv]
    generalize gcmSeal _ _ _ _ = w
    rfl
  case supply =>
    rw [exec_acceptedBut (mk := .bindKeySupply) (fun _ _ => rfl) h, keySupplyChecks_integrity]
    cases hk : openBlob cmd.data with
    | none => rfl
    | some k =>
      simp only [keySupply, hk]
      rfl

/-! ### Banks -/

theorem beginEntry_tag {m : Manifest} {x : Install} {i : Nat} {s : State} {y : Install} {r : State × Install}
    (h : beginEntry m x (some (s, y)) i = some r) : r.2.tag = y.tag := by
  simp only [beginEntry, Option.bind_some] at h
  split at h
  · cases h
    rfl
  · obtain ⟨u, -, rfl⟩ := Option.map_eq_some_iff.1 h
    rfl

theorem foldl_beginEntry_tag {m : Manifest} {x : Install} (l : List Nat) {acc : Option (State × Install)} {r : State × Install} {tag : Nat}
    (hacc : ∀ y, acc = some y → y.2.tag = tag) (h : l.foldl (beginEntry m x) acc = some r) : r.2.tag = tag := by
  induction l generalizing acc with
  | nil => exact hacc r h
  | cons i l ih =>
    refine ih (fun y hy => ?_) h
    cases acc with
    | none => cases hy
    | some z => exact (beginEntry_tag hy).trans (hacc z rfl)

/-- An install carries the tag of its command. -/
theorem startInstall_tag {c : Cmd} {s u : State} {x : Install} (h : startInstall c s = some (u, x)) : x.tag = c.tag := by
  unfold startInstall at h
  obtain ⟨m, -, h⟩ := Option.bind_eq_some_iff.1 h
  obtain ⟨m', -, h⟩ := Option.bind_eq_some_iff.1 h
  exact foldl_beginEntry_tag _ (fun y hy => by cases hy; rfl) h

/-- Settles O26. -/
theorem modelCommandsComplete : Obligations.ModelCommandsComplete := by
  refine ⟨fun c s cmd t u x h hx => ⟨?install, (startInstall_tag hx).trans h.tag⟩, proceeds_of_later (fun _ _ => rfl) fun _ _ => rfl,
    succeeds_of_ok (fun _ _ => rfl) fun c s => ?release, succeeds_of_ok (fun _ _ => rfl) fun _ _ => rfl,
    succeeds_of_ok (fun _ _ => rfl) fun c s => ?status⟩
  case install =>
    rw [exec_accepted (mk := .modelInstall) (fun _ _ => rfl) h, install, hx]
    rfl
  case release => exact (apply_ite (Ran.ok · 0) _ _ _).symm
  case status =>
    refine congrArg (Ran.ok s) ?_
    simp only [b2n, mul_ite, mul_one, mul_zero, beq_iff_eq, satBits] <;> rfl

/-! ### Adapters -/

theorem firstFail_append_eq_none {a b : List Check} : firstFail (a ++ b) = none ↔ firstFail a = none ∧ firstFail b = none := by
  rw [firstFail_append, Option.or_eq_none_iff]

theorem firstFail_cons_eq_none {x : Check} {l : List Check} : firstFail (x :: l) = none ↔ x.1 = false ∧ firstFail l = none := by
  rw [firstFail_cons]
  cases x.1 <;> simp

/-- Where all but the image is in order, ADAPTER_LOAD is judged by what the envelope holds. -/
theorem adapterLoad_judged {cmd : Cmd} {t : State}
    (h : firstFail (headChecks cmd .none .some 64 ++
      [ badTenant cmd, inlineZero cmd 40 24, badData 0 (fld cmd.data 0 4 != 0x4541394B), badData 4 (noTenant (fld cmd.data 4 2)),
        badData 6 (fld cmd.data 6 2 != 0), badData 40 (!zeroAt cmd.data 40 8),
        badLength 32 (decide (cmd.dataLen < 112)), unauthorised 3 (tenantOf t cmd.tenant).isNone,
        unauthorised 4 (fld cmd.data 4 2 != cmd.tenant || foreignAdapter cmd t (fld cmd.data 8 4 % 2 ^ 24)),
        exhausted (decide (65536 ≤ (tkeys t.model.adapters).length) || decide (4 ≤ (residents t (fld cmd.data 8 4 % 2 ^ 24)).length)),
        inUse (tget none t.model.adapters (fld cmd.data 8 4 % 2 ^ 24 * 256 + fld cmd.data 8 4 / 2 ^ 24)).isSome ]) = none) :
    fld cmd.data 4 2 = cmd.tenant ∧ firstFail (adapterLoadChecks cmd t) = match adapterImage cmd t with
      | none => some ⟨7, 0, 0⟩
      | some raw => firstFail (adapterImageChecks t raw ++
          [ badLength 32 (decide (raw.length < fld raw 20 8) || decide (fld raw 20 8 < 64)),
            integrity 0 (fld raw 4 4 != fld cmd.data 8 4 || fld raw 12 2 != fld cmd.data 4 2) ]) := by
  simp only [firstFail_append_eq_none, firstFail_cons_eq_none] at h
  obtain ⟨hhead, htenant, hinline, hmagic, hid, hzero, hrest, hlen, hheld, hown, hfull, hused, -⟩ := h
  have hform : firstFail (headChecks cmd .none .some 64 ++
      [ badTenant cmd, inlineZero cmd 40 24, badData 0 (fld cmd.data 0 4 != 0x4541394B), badData 4 (noTenant (fld cmd.data 4 2)),
        badData 6 (fld cmd.data 6 2 != 0), badData 40 (!zeroAt cmd.data 40 8)]) = none := by
    simp only [firstFail_append_eq_none, firstFail_cons_eq_none]
    exact ⟨hhead, htenant, hinline, hmagic, hid, hzero, hrest, rfl⟩
  have hsome : (tenantOf t cmd.tenant).isSome = true := by
    rw [← Option.not_isNone]
    exact congrArg (!·) hheld
  have hlen : decide (cmd.dataLen < 112) = false := hlen
  refine ⟨by simpa using (Bool.or_eq_false_iff.1 hown).1, ?_⟩
  simp only [adapterLoadChecks]
  rw [List.append_assoc, firstFail_append_of_none hform, firstFail_append]
  cases himage : adapterImage cmd t with
  | none =>
    simp only [hlen, badLength, integrity, hsome, Option.map_none, Option.getD_none, Option.any_none, Option.isNone_none,
      Bool.or_self, Bool.and_self, firstFail]
    rfl
  | some raw =>
    simp only [Option.map_some, Option.getD_some, Option.any_some, hlen, Bool.false_or, Option.isNone_some, Bool.and_false]
    rw [firstFail_append]
    refine congrArg _ ?_
    have htail : firstFail [unauthorised 3 (tenantOf t cmd.tenant).isNone,
        unauthorised 4 (fld cmd.data 4 2 != cmd.tenant || foreignAdapter cmd t (adapterId (fld cmd.data 8 4))),
        exhausted (decide (65536 ≤ (tkeys t.model.adapters).length) || decide (4 ≤ (residents t (adapterId (fld cmd.data 8 4))).length)),
        inUse (tget none t.model.adapters (adapterId (fld cmd.data 8 4) * 256 + fld cmd.data 8 4 / 2 ^ 24)).isSome] = none := by
      simp only [firstFail_cons_eq_none]
      exact ⟨hheld, hown, hfull, hused, rfl⟩
    rw [firstFail_cons, firstFail_cons_of_good (x := integrity 0 false) rfl, firstFail_cons, htail]
    rfl

/-- Settles O27. -/
theorem adapterCommandsComplete : Obligations.AdapterCommandsComplete := by
  refine ⟨fun c s cmd t h => ?load, succeeds_of_ok (fun _ _ => rfl) fun c s => ?retire,
    succeeds_of_ok (fun _ _ => rfl) fun c s => ?query⟩
  case load =>
    intro b a hchecks
    obtain ⟨hown, hjudged⟩ := adapterLoad_judged hchecks
    rw [exec_begins (mk := .adapterLoad) (fun _ _ => rfl) h, hjudged]
    cases himage : adapterImage cmd t with
    | none => rfl
    | some raw =>
      refine congrArg Host.Outcome.next ?_
      dsimp only
      cases hfail : firstFail (adapterImageChecks t raw ++
          [ badLength 32 (decide (raw.length < fld raw 20 8) || decide (fld raw 20 8 < 64)),
            integrity 0 (fld raw 4 4 != fld cmd.data 8 4 || fld raw 12 2 != fld cmd.data 4 2) ]) with
      | some e => rfl
      | none =>
        obtain ⟨-, -, hsame, -⟩ := (firstFail_append_eq_none.1 hfail).imp_right fun h => (firstFail_cons_eq_none.1 h).imp_right firstFail_cons_eq_none.1
        obtain ⟨hid, htenant⟩ : fld raw 4 4 = fld cmd.data 8 4 ∧ fld raw 12 2 = fld cmd.data 4 2 := by
          simpa [integrity] using hsame
        simp only [Option.elim_none, adapterLoad, himage, storeAdapter, hid, htenant, hown]
        rfl
  case retire =>
    simp only [adapterRetire, Bool.and_eq_true, Bool.not_eq_true', List.contains_eq_mem, decide_eq_false_iff_not]
  case query =>
    have hpart : ∀ o : Option Nat, (match o with | none => 0 | some v => v + 256) = o.getD 0 + 256 * b2n o.isSome := by
      rintro (- | v) <;> rfl
    refine congrArg (Ran.ok s) ?_
    dsimp only
    rw [← hpart, ← hpart]
    rfl

end Sys2Proof.Machine

/-!
PROOFS. Sessions, output queues and contexts.
-/

namespace Sys2Proof.Machine

/-! ### Opening and feeding a session -/

section
variable {cmd : Cmd} {t : State}

theorem sessionOpen_busy (h : (newSession cmd).pending ≠ [] ∧ queueRoom ≤ t.serve.queue.length) : sessionOpen cmd t = refuseBusy t := by
  unfold sessionOpen
  exact if_pos (by simpa using h)

theorem sessionOpen_roomy (h : (newSession cmd).pending = [] ∨ t.serve.queue.length < queueRoom) :
    sessionOpen cmd t = (firstFail (sessionStateChecks cmd t)).elim
      (.ok (if (newSession cmd).state = 0 then queueSession (newSession cmd).id (setSession (newSession cmd).id (some (newSession cmd)) t)
        else setSession (newSession cmd).id (some (newSession cmd)) t) 0) (Ran.err · t) := by
  unfold sessionOpen
  refine (if_neg ?_).trans ?_
  · rw [Bool.and_eq_true, Bool.not_eq_true', decide_eq_true_eq, not_and, Nat.not_le, ← Bool.not_eq_true, List.isEmpty_iff]
    exact h.resolve_left
  · cases firstFail (sessionStateChecks cmd t) <;> rfl

theorem newSession_state : (newSession cmd).state = if (newSession cmd).pending = [] then 3 else 0 := by
  simp only [newSession, List.isEmpty_iff]

variable {x : Session}

theorem sessionFeed_some (hx : tget none t.serve.sessions (cmd.at 40 4) = some x) : sessionFeed cmd t =
    let input := x.pending ++ inputTokens cmd
    if inputRoom < input.length ∨ (x.state = 3 ∧ queueRoom ≤ t.serve.queue.length) then refuseBusy t
    else if x.state = 3 then
      .ok (queueSession x.id (setSession x.id (some { x with pending := input, state := 0, run := 0 }) t)) input.length
    else .ok (setSession x.id (some { x with pending := input }) t) input.length := by
  simp only [sessionFeed, sessionAt, hx, Bool.or_eq_true, decide_eq_true_eq, Bool.and_eq_true, beq_iff_eq, List.length_append]

theorem sessionClose_some (hx : tget none t.serve.sessions (cmd.at 40 4) = some x) : sessionClose cmd t =
    if x.admitted then .later (x.closing.elim (setSession x.id (some { x with closing := some cmd.tag }) t)
      fun old => complete old 0xA 1 0 (setSession x.id (some { x with closing := some cmd.tag }) t))
    else .ok { t with serve := { t.serve with sessions := tset none t.serve.sessions x.id none, queue := t.serve.queue.filter (· != x.id) } } x.total := by
  simp only [sessionClose, sessionAt, hx]
  cases x.closing <;> rfl

/-- Slot and partition of an admitted session; a free value for another. -/
def sessionPlace (x : Session) (s : State) : Nat × State :=
  if x.admitted then (x.slot + 2 ^ 14 * (x.part % 16), s) else freeBits 18 s

theorem sessionQuery_some (hx : tget none t.serve.sessions (cmd.at 40 4) = some x) : sessionQuery cmd t =
    .ok (sessionPlace x t).2 (x.state + 8 * b2n (withheld (sessionPlace x t).2 x.id) + 2 ^ 4 * (sessionPlace x t).1 +
      2 ^ 22 * satBits 20 x.pending.length + 2 ^ 42 * satBits 22 x.run) := by
  simp only [sessionQuery, sessionAt, hx, sessionPlace]
  split_ifs
  · rw [Nat.mul_add (2 ^ 4), ← Nat.mul_assoc, ← Nat.pow_add]
  · rw [Nat.mul_comm]

theorem sessionPlace_free (x : Session) (s : State) : (sessionPlace x s).2 = { s with free := (sessionPlace x s).2.free } := by
  unfold sessionPlace
  split_ifs <;> rfl

end

/-- Settles O28. -/
theorem sessionOpenAndFeed : Obligations.SessionOpenAndFeed := by
  refine ⟨⟨fun c s cmd t h => ?opened, fun c s cmd t x h hx hid => ?fed⟩, fun s => ?retry⟩
  case opened =>
    rw [exec_accepted (mk := .sessionOpen) (fun _ _ => rfl) h]
    refine ⟨fun hbusy => ?_, fun hroom e he => ?_, fun hroom hpass => ⟨?_, newSession_state, rfl⟩⟩
    · rw [sessionOpen_busy hbusy]
      rfl
    · rw [sessionOpen_roomy hroom, he]
      rfl
    · rw [sessionOpen_roomy hroom, hpass, newSession_state]
      by_cases hnone : (newSession cmd).pending = [] <;> simp only [hnone, if_true, if_false] <;> rfl
  case fed =>
    rw [exec_accepted (mk := .sessionFeed) (fun _ _ => rfl) h, sessionFeed_some hx]
    intro input full
    refine ⟨fun hfull => ?_, fun hfree => ?_⟩
    · exact congrArg (fun r => Host.Outcome.next (finish c.tag r)) (if_pos hfull)
    · refine (congrArg (fun r => Host.Outcome.next (finish c.tag r)) (if_neg hfree)).trans ?_
      by_cases hidle : x.state = 3 <;> simp only [hidle, if_true, if_false] <;> rfl
  case retry =>
    intro n
    have hretry : retryAfter s = if n = 0 then 64 else min 65535 (max 1 ((64 * s.serve.queue.length + n - 1) / n)) := rfl
    refine ⟨fun h0 => by rw [hretry, if_pos h0], fun hn => ?_⟩
    rw [hretry, if_neg (Nat.pos_iff_ne_zero.1 hn)]
    refine ⟨by omega, by omega, fun hq hle => ?_⟩
    obtain ⟨m, hm⟩ : ∃ m, 64 * s.serve.queue.length = m := ⟨_, rfl⟩
    rw [hm] at hle ⊢
    have hlow := Nat.div_add_mod (m + n - 1) n
    have hmod := Nat.mod_lt (m + n - 1) hn
    obtain ⟨k, hk⟩ : ∃ k, (m + n - 1) / n = k := ⟨_, rfl⟩
    rw [hk, Nat.mul_comm] at hlow
    have hone : 1 ≤ k := by
      rw [← hk, Nat.le_div_iff_mul_le hn]
      omega
    have htop : k ≤ 65535 := by
      rw [← hk]
      exact Nat.le_of_lt_succ ((Nat.div_lt_iff_lt_mul hn).2 (by omega))
    rw [hk, max_eq_right hone, min_eq_right htop, Nat.sub_mul, Nat.one_mul]
    omega

/-- Settles O29. -/
theorem sessionCloseAndOutputQueues : Obligations.SessionCloseAndOutputQueues := by
  refine ⟨⟨fun c s cmd t x h hx hid => ?close, fun c s cmd t x h hx => ?query⟩, succeeds_of_ok (fun _ _ => rfl) fun _ _ => rfl,
    succeeds_of_ok (fun _ _ => rfl) fun _ _ => rfl⟩
  case close =>
    rw [exec_accepted (mk := .sessionClose) (fun _ _ => rfl) h, sessionClose_some hx, h.tag]
    refine ⟨fun hout => by rw [if_neg (by simp [hout])]; rfl, fun hin => ?_⟩
    rw [if_pos hin]
    cases x.closing <;> rfl
  case query =>
    rw [exec_accepted (mk := .sessionQuery) (fun _ _ => rfl) h, sessionQuery_some hx]
    refine ⟨(sessionPlace x t).1, (sessionPlace x t).2, ?_, sessionPlace_free x t, fun hin => ?_, fun hout => ?_⟩
    · rw [sessionPlace_free]
      rfl
    · rw [sessionPlace, if_pos hin]
    · rw [sessionPlace, if_neg (by simp [hout])]
      exact Nat.mod_lt _ (by decide)

/-! ### Context commands -/

section
variable {cmd : Cmd} {t : State} {x : Ctx}

theorem tenantQuota_eq (c : Cmd) (s : State) : tenantQuota c s =
    .ok (setQuota c.tenant { quotaOf s c.tenant with
      hot := c.at 44 4, warm := c.at 48 4, cold := c.at 52 4, log := c.at 56 4
      coldKey := (if (quotaOf s c.tenant).coldKey == [] then randomBytes 32 s else ((quotaOf s c.tenant).coldKey, s)).1 }
      (if (quotaOf s c.tenant).coldKey == [] then randomBytes 32 s else ((quotaOf s c.tenant).coldKey, s)).2) 0 := by
  have hempty : ((quotaOf s c.tenant).coldKey == []) = (quotaOf s c.tenant).coldKey.isEmpty := by
    cases (quotaOf s c.tenant).coldKey <;> rfl
  rw [hempty]
  rfl

theorem ctxDelete_some (hx : ctxAt t (ctxKey cmd.tenant (cmd.at 40 4)) = some x) : ctxDelete cmd t =
    .ok { t with serve := { t.serve with
        ctxs := tset none t.serve.ctxs (ctxKey cmd.tenant (cmd.at 40 4)) none
        moves := t.serve.moves.filter fun m => m.ctx != ctxKey cmd.tenant (cmd.at 40 4) } }
      ((((tvals x.pages).filter fun p => p.2.tier != 3).map fun p => pageTiles x p.1).sum + logTiles x.log.length) := by
  simp only [ctxDelete, Cmd.ctx, hx]
  rfl

theorem ctxQuery_some (hx : ctxAt t (ctxKey cmd.tenant (cmd.at 40 4)) = some x) : ctxQuery cmd t =
    .ok t (x.log.length + 2 ^ 23 * x.mark + 2 ^ 46 * b2n (incomplete x || x.imported) +
      2 ^ 47 * b2n ((ctxSession t (ctxKey cmd.tenant (cmd.at 40 4))).any fun y => y.2.state != 3) + 2 ^ 48 * b2n x.job.isSome +
      2 ^ 49 * satBits 15 x.dropped) := by
  simp only [ctxQuery, Cmd.ctx, hx]

theorem ctxExport_some {n : Tenant} (hx : ctxAt t (ctxKey cmd.tenant (cmd.at 40 4)) = some x) (hn : tget none t.trust.tenants cmd.tenant = some n) :
    ctxExport cmd t =
      let nonce := (randomBytes 12 t).1
      let sealed' := gcmSeal (exportKey cmd.tenant n) nonce (exportHead x nonce) (x.param ++ x.log.flatMap (le 4))
      .ok (writeData cmd (exportHead x nonce ++ padTo 16 sealed'.2 ++ zeros 16 ++ sealed'.1) (randomBytes 12 t).2) (exportLength x) := by
  simp only [ctxExport, Cmd.ctx, hx, tenantOf, hn]

theorem consolidate_some (hx : ctxAt t (ctxKey cmd.tenant (cmd.at 40 4)) = some x) : consolidate cmd t =
    .ok { t with serve := { t.serve with
        ctxs := tset none t.serve.ctxs (ctxKey cmd.tenant (cmd.at 40 4)) (some { x with job := some (newJob cmd.param) })
        jobs := t.serve.jobs ++ [ctxKey cmd.tenant (cmd.at 40 4)] } }
      ((newJob cmd.param).epochs * jobChunks (newJob cmd.param)) := by
  simp only [consolidate, Cmd.ctx, hx]
  rfl

theorem jobCancel_some {j : Job} (hx : ctxAt t (ctxKey cmd.tenant (cmd.at 40 4)) = some x) (hj : x.job = some j) : jobCancel cmd t =
    let u := setCtx (ctxKey cmd.tenant (cmd.at 40 4)) (some { x with job := some { j with cancel := some cmd.tag } }) t
    .later (j.cancel.elim u fun old => complete old 0xA 1 0 u) := by
  simp only [jobCancel, Cmd.ctx, hx, hj, Option.bind_some, Option.map_some]
  cases j.cancel <;> rfl

end

/-- Settles O30. -/
theorem contextCommandsComplete : Obligations.ContextCommandsComplete := by
  refine ⟨⟨succeeds_of_ok (fun _ _ => rfl) tenantQuota_eq, succeeds_of_ok (fun _ _ => rfl) fun _ _ => rfl⟩,
    succeeds_of_ok (fun _ _ => rfl) fun _ _ => rfl, fun c s cmd t x h hx => ?delete, fun c s cmd t x h hx => ?query,
    fun c s cmd t x n h hx hn => ?exported⟩
  case delete =>
    rw [exec_accepted (mk := .ctxDelete) (fun _ _ => rfl) h, ctxDelete_some hx]
    rfl
  case query =>
    rw [exec_accepted (mk := .ctxQuery) (fun _ _ => rfl) h, ctxQuery_some hx]
    simp only [b2n, mul_ite, mul_one, mul_zero, satBits]
    rfl
  case exported =>
    rw [exec_accepted (mk := .ctxExport) (fun _ _ => rfl) h, ctxExport_some hx hn]
    simp only [exportHead]
    generalize gcmSeal _ _ _ _ = w
    rfl

/-- Where all but the blob's contents is in order, CTX_IMPORT is judged by these. -/
theorem ctxImport_judged {cmd : Cmd} {t : State}
    (h : firstFail (headChecks cmd .none .some 64 ++
      [ badTenant cmd, inlineZero cmd 40 24, badData 0 (fld cmd.data 0 4 != 0x5843394B), badData 4 (fld cmd.data 4 2 != 1),
        badData 6 (noTenant (fld cmd.data 6 2)), badData 8 (fld cmd.data 8 4 == 0), badData 12 (decide (4194304 < fld cmd.data 12 4)),
        badData 28 (!zeroAt cmd.data 28 4), badData 48 (!zeroAt cmd.data 48 16),
        badLength 32 (decide (cmd.dataLen < 160 + 4 * fld cmd.data 12 4)), unauthorised 3 (tenantOf t cmd.tenant).isNone,
        unauthorised 4 (fld cmd.data 6 2 != cmd.tenant), exhausted (noCtxRoom t cmd.tenant (fld cmd.data 12 4)),
        conflict (ctxAt t (cmd.tenant * 2 ^ 32 + fld cmd.data 8 4)).isSome ]) = none) :
    firstFail (ctxImportChecks cmd t) = (openExport cmd t).elim (some ⟨7, 0, 0⟩) fun b => firstFail (blobChecks cmd b) := by
  simp only [firstFail_append_eq_none, firstFail_cons_eq_none] at h
  obtain ⟨hhead, htenant, hinline, hmagic, hversion, howner, hid, htokens, hrest, hzero, hlen, hheld, hown, hroom, hfree, -⟩ := h
  have hform : firstFail (headChecks cmd .none .some 64 ++
      [ badTenant cmd, inlineZero cmd 40 24, badData 0 (fld cmd.data 0 4 != 0x5843394B), badData 4 (fld cmd.data 4 2 != 1),
        badData 6 (noTenant (fld cmd.data 6 2)), badData 8 (fld cmd.data 8 4 == 0), badData 12 (decide (4194304 < blobTokens cmd)),
        badData 28 (!zeroAt cmd.data 28 4), badData 48 (!zeroAt cmd.data 48 16) ]) = none := by
    simp only [firstFail_append_eq_none, firstFail_cons_eq_none]
    exact ⟨hhead, htenant, hinline, hmagic, hversion, howner, hid, htokens, hrest, hzero, rfl⟩
  have hsome : (tenantOf t cmd.tenant).isSome = true := by
    rw [← Option.not_isNone]
    exact congrArg (!·) hheld
  have htail : firstFail [unauthorised 3 (tenantOf t cmd.tenant).isNone, unauthorised 4 (fld cmd.data 6 2 != cmd.tenant),
      exhausted (noCtxRoom t cmd.tenant (blobTokens cmd)), conflict (ctxAt t (ctxKey cmd.tenant (fld cmd.data 8 4))).isSome] = none := by
    simp only [firstFail_cons_eq_none]
    exact ⟨hheld, hown, hroom, hfree, rfl⟩
  have hlen : (badLength 32 (decide (cmd.dataLen < 160 + 4 * blobTokens cmd))).1 = false := hlen
  simp only [ctxImportChecks]
  rw [List.append_assoc, firstFail_append_of_none hform, firstFail_append, firstFail_cons_of_good hlen, firstFail_cons, htail, hsome]
  cases hblob : openExport cmd t with
  | none => rfl
  | some b => exact Option.or_none

/-- Settles O31. -/
theorem contextImportAndConsolidation : Obligations.ContextImportAndConsolidation := by
  refine ⟨fun c s cmd t h => ?imported, fun c s cmd t x h hx => ?queued, fun c s cmd t x j h hx hj => ?cancelled⟩
  case imported =>
    intro d k hchecks
    rw [exec_begins (mk := .ctxImport) (fun _ _ => rfl) h, ctxImport_judged hchecks]
    cases hblob : openExport cmd t with
    | none => rfl
    | some b =>
      rw [Option.elim_some]
      refine congrArg Host.Outcome.next ?_
      dsimp only
      cases firstFail (blobChecks cmd b) with
      | some e => rfl
      | none =>
        simp only [Option.elim_none, ctxImport, hblob]
        rfl
  case queued =>
    rw [exec_accepted (mk := .ctxConsolidate) (fun _ _ => rfl) h, consolidate_some hx]
    rfl
  case cancelled =>
    rw [exec_accepted (mk := .ctxJobCancel) (fun _ _ => rfl) h, jobCancel_some hx hj, h.tag]
    cases j.cancel <;> rfl

end Sys2Proof.Machine

/-!
PROOFS. Converters, calibration, fabric and attestation to the host.
-/

namespace Sys2Proof.Machine

/-! ### Converters and monitors -/

/-- The trim words that stay where the stacks of `l` lose theirs. -/
def trimsOff (l : List Nat) (c : Conv) : Conv :=
  { c with trims := c.trims.filter fun x => !l.contains (x.1 / 132 / 4096), spare := c.spare.filter fun x => !l.contains (x.1 / 4096)
           valid := c.valid.filter fun st => !l.contains st }

theorem foldl_clearTrims (l : List Nat) (s : State) : l.foldl (fun s st => clearTrims st s) s = { s with conv := trimsOff l s.conv } := by
  induction l generalizing s with
  | nil => simp [trimsOff]
  | cons st l ih =>
    rw [List.foldl_cons, ih]
    simp only [clearTrims, trimsOff, List.filter_filter, List.contains_cons, Bool.not_or, bne, Bool.and_comm]

theorem contains_stacksOf (mask st : Nat) : (stacksOf mask).contains st = (decide (st < 16) && mask.testBit st) := by
  rw [Bool.eq_iff_iff, List.contains_iff_mem, stacksOf, List.mem_filter, List.mem_range, Bool.and_eq_true, decide_eq_true_eq]

theorem trimBytes_length (s : State) (e : Nat) : (trimBytes s e).length = 560 := by
  simp only [trimBytes, List.length_append, padTo_length, List.length_flatMap, le_length, List.map_const', List.length_range,
    List.sum_replicate]
  rfl

theorem tableSet_eq (c : Cmd) (s : State) : tableSet c s =
    let u := overtake (c.at 40 1) s
    if (monAt u (c.at 40 1)).suspended = false ∧ underway u (c.at 40 1) = true then
      .later (setMon (c.at 40 1) { monAt u (c.at 40 1) with next := some (c.tag, newTable c, (c.at 42 1).testBit 0) } u)
    else .ok (beginTable (c.at 40 1) (newTable c) ((c.at 42 1).testBit 0) u) (lockedCount u) := by
  simp only [tableSet, Bool.and_eq_true, Bool.not_eq_true', bit]

/-- Settles O32. -/
theorem converterCommandsComplete : Obligations.ConverterCommandsComplete := by
  refine ⟨proceeds_of_later (fun _ _ => rfl) fun c s => ?self, succeeds_of_ok (fun _ _ => rfl) fun _ _ => rfl, trimBytes_length,
    fun c s cmd t h => ?table, proceeds_of_later (fun _ _ => rfl) fun c s => ?urgent, succeeds_of_ok (fun _ _ => rfl) fun _ _ => rfl⟩
  case self =>
    simp only [calSelf, foldl_clearTrims, trimsOff, contains_stacksOf]
  case table =>
    intro mon u
    rw [exec_accepted (mk := .monTableSet) (fun _ _ => rfl) h, tableSet_eq, h.tag]
    exact congrArg Host.Outcome.next (apply_ite (finish c.tag) _ _ _)
  case urgent =>
    simp only [convertNow, Bool.and_eq_true, Bool.not_eq_true', Ran.later.injEq]
    cases (monAt s (c.at 40 1)).urgentNow <;> rfl

/-! ### Calibration -/

theorem recordChecks_status (b : Bytes) (j : Nat) : ∀ x ∈ recordChecks b j, x.2.status = 4 := by
  simp only [recordChecks, List.mem_cons, List.not_mem_nil, or_false]
  rintro x (rfl | rfl | rfl) <;> rfl

theorem factorsWriteChecks_integrity (c : Cmd) (s : State) : (factorsWriteChecks c s).filter (fun x => x.2.status == 7) =
    [integrity 0 (hmac factorKey (c.data.take 16220224) != slice c.data 16220224 32 || slice c.data 8 16 != identityBytes.take 16)] := by
  have hrecords : ((List.range 2560).flatMap (recordChecks c.data)).filter (fun x => x.2.status == 7) = [] := by
    refine filter_status_eq_nil fun x hx => ?_
    obtain ⟨j, -, hj⟩ := List.mem_flatMap.1 hx
    rw [recordChecks_status _ j x hj]
    decide
  have hblob : (if c.dataLen = blobLength then
      [ badData 0 (fld c.data 0 4 != 0x4643394B), badData 4 (fld c.data 4 2 != 1), badData 6 (fld c.data 6 1 != c.at 40 1),
        badData 7 !zeroAt c.data 7 1, badData 36 !zeroAt c.data 36 28 ] ++ (List.range 2560).flatMap (recordChecks c.data)
      else []).filter (fun x => x.2.status == 7) = [] := by
    split_ifs
    · rw [List.filter_append, hrecords]
      rfl
    · rfl
  simp only [factorsWriteChecks]
  rw [List.filter_append, List.filter_append, hblob]
  rfl

theorem loadFactors_ok (st : Nat) (recs : List (Nat × Bytes)) (s : State) : ∃ u n, loadFactors st recs s = .ok u n := ⟨_, _, rfl⟩

/-- Settles O33. -/
theorem calibrationCommandsComplete : Obligations.CalibrationCommandsComplete := by
  refine ⟨succeeds_of_ok (fun _ _ => rfl) fun _ _ => rfl, succeeds_of_ok (fun _ _ => rfl) fun _ _ => rfl, fun c s cmd t h => ?factors,
    proceeds_of_later (fun _ _ => rfl) fun _ _ => rfl, succeeds_of_ok (fun _ _ => rfl) fun _ _ => rfl, fun c s cmd t x h hx => ?stats⟩
  case factors =>
    obtain ⟨u, n, hload⟩ := loadFactors_ok (cmd.at 40 1)
      ((List.range 2560).map fun j => (cmd.at 40 1 * 4096 + j, slice cmd.data (64 + 6336 * j) 6336)) t
    refine ⟨u, n, hload, ?_⟩
    rw [exec_acceptedBut (mk := .calFactorsWrite) (fun _ _ => rfl) h, factorsWriteChecks_integrity, factorsWrite, hload]
    refine congrArg Host.Outcome.next ?_
    simp only [firstFail, integrity, Bool.or_eq_true, bne_iff_ne]
    split_ifs <;> rfl
  case stats =>
    rw [exec_accepted (mk := .trueStats) (fun _ _ => rfl) h, trueStats, hx]
    rfl

/-! ### Fabric commands -/

theorem fabricSet_eq (c : Cmd) (s : State) : fabricSet c s =
    let u := s.net.staged.elim s fun x => complete x.1 0xA 1 0 s
    let run := (parts s).map (·.1)
    let v : State := { u with net := { u.net with
      map := some (parseMap c.param), staged := some (c.tag, run)
      old := run.foldl (fun x pk => tset none x pk (some (mapFor u pk))) u.net.old } }
    .later (if run = [] then mapApplied c.tag 0 v else v) := by
  simp only [fabricSet, List.isEmpty_iff]
  cases s.net.staged <;> rfl

/-- A port's mapping rests on its identity, not on its counters. -/
theorem connMapped_setConn (k : Nat) (n : Conn) (s : State) (h : n.identity = (connAt s k).identity) :
    connMapped (setConn k n s) k = connMapped s k := by
  simp only [connMapped, connAt_setConn_self, h]
  rfl

theorem connMapped_free (k n : Nat) (s : State) : connMapped { s with free := n } k = connMapped s k := rfl

/-- What DRITAR_PORT_STATUS finds: a free number of codewords more could not be corrected. -/
def statusConn (n : Conn) (lost : Nat) : Conn := { n with fec := if n.state = 0 then n.fec else satBits 16 (n.fec + lost) }

theorem portStatus_eq (c : Cmd) (s : State) : portStatus c s =
    let n := connAt s (c.at 40 1)
    let m := statusConn n (freeBits 16 s).1
    let u := setConn (c.at 40 1) m { s with free := s.free + 1 }
    .ok (if c.dataLen = 0 then u else writeData c (padTo 64 n.hello) u)
      (n.state + 8 * b2n (connMapped s (c.at 40 1)) + 16 * reachClass (c.at 40 1) n.latency + 2 ^ 8 * (n.latency % 2 ^ 18) +
        2 ^ 26 * satBits 16 n.resent + 2 ^ 42 * satBits 16 m.fec + 2 ^ 58 * satBits 6 n.detaches) := by
  have hmapped (lost : Nat) : connMapped (setConn (c.at 40 1) (statusConn (connAt s (c.at 40 1)) lost) { s with free := s.free + 1 }) (c.at 40 1) =
      connMapped s (c.at 40 1) := by
    rw [connMapped_setConn]
    · exact connMapped_free _ _ _
    · rfl
  simp only [portStatus, freeBits, fresh]
  rw [← hmapped]
  rfl

/-- Settles O34. -/
theorem fabricCommandsComplete : Obligations.FabricCommandsComplete := by
  refine ⟨fun c s cmd t h => ?enable, fun c s cmd t h => ?mapSet, fun c s cmd t h => ?status⟩
  case enable =>
    intro ps
    have hexec : exec (.dritarPortEnable c) s = .next (finishEnables (finish c.tag (portEnable cmd t))) := by
      rw [← runCommand_accepted h]
      rfl
    rw [hexec, portEnable, h.tag]
    refine ⟨fun hon => ?_, fun hoff => congrArg (fun r => Host.Outcome.next (finishEnables (finish c.tag r))) (if_neg hoff)⟩
    refine congrArg (fun u => Host.Outcome.next (finishEnables u)) ?_
    refine (congrArg (finish c.tag) (if_pos hon)).trans ?_
    simp only [List.isEmpty_iff]
    by_cases hnone : (ps.filter fun p => (connAt t p).state == 0) = []
    · refine (congrArg (finish c.tag) (if_pos hnone)).trans (.trans ?_ (if_pos hnone).symm)
      rw [hnone]
      rfl
    · refine (congrArg (finish c.tag) (if_neg hnone)).trans (.trans ?_ (if_neg hnone).symm)
      rfl
  case mapSet =>
    rw [exec_accepted (mk := .fabricMapSet) (fun _ _ => rfl) h, fabricSet_eq, h.tag]
    cases t.net.staged <;> rfl
  case status =>
    intro p n
    refine ⟨(freeBits 16 t).1, Nat.mod_lt _ (by decide), ?_⟩
    rw [exec_accepted (mk := .dritarPortStatus) (fun _ _ => rfl) h, portStatus_eq]
    rfl

/-! ### SPDM -/

theorem mailboxUp_iff (s : State) (fn : Nat) : mailboxUp s fn = true ↔ fn ≤ 31 ∧ s.phys.state = 3 ∧ s.phys.link = true := by
  simp only [mailboxUp, offers, present, Bool.and_eq_true, decide_eq_true_eq, beq_iff_eq, and_assoc]

section
variable {code stage fn : Nat} {req : Bytes} {act : Spdm → State → State} {s : State}

theorem spdmRequest_down (h : ¬(fn ≤ 31 ∧ s.phys.state = 3 ∧ s.phys.link = true)) : spdmRequest code stage fn req act s = s := by
  rw [← mailboxUp_iff, Bool.not_eq_true, ← Bool.not_eq_true'] at h
  exact if_pos h

theorem spdmRequest_up (h : fn ≤ 31 ∧ s.phys.state = 3 ∧ s.phys.link = true) : spdmRequest code stage fn req act s =
    (spdmFault (spdmAt s fn) code stage req).elim (act (spdmAt s fn) s) (spdmError fn · s) := by
  have hup : ¬(!mailboxUp s fn) = true := by simp [(mailboxUp_iff s fn).2 h]
  refine (if_neg hup).trans ?_
  cases spdmFault (spdmAt s fn) code stage req <;> rfl

theorem spdmFault_code {x : Spdm} (h : fld req 1 1 ≠ code) : spdmFault x code stage req = some 1 := if_pos h

theorem spdmFault_stage {x : Spdm} (hcode : fld req 1 1 = code) (h : x.stage < stage) : spdmFault x code stage req = some 4 :=
  (if_neg (not_not.2 hcode)).trans (if_pos h)

theorem spdmFault_version {x : Spdm} (hcode : fld req 1 1 = code) (hstage : stage ≤ x.stage) (hany : code ≠ 0xE1)
    (h : fld req 0 1 ≠ if code = 0x84 then 0x10 else x.version) : spdmFault x code stage req = some 0x41 :=
  (if_neg (not_not.2 hcode)).trans ((if_neg (Nat.not_lt.2 hstage)).trans (if_pos ⟨hany, h⟩))

theorem spdmFault_none {x : Spdm} (hcode : fld req 1 1 = code) (hstage : stage ≤ x.stage)
    (h : code ≠ 0xE1 → fld req 0 1 = if code = 0x84 then 0x10 else x.version) : spdmFault x code stage req = none :=
  (if_neg (not_not.2 hcode)).trans ((if_neg (Nat.not_lt.2 hstage)).trans (if_neg fun ⟨hany, hv⟩ => hv (h hany)))

/-- A request of its code and of the version in force at its stage takes its effect. -/
theorem spdmRequest_named (hup : fn ≤ 31 ∧ s.phys.state = 3 ∧ s.phys.link = true) (hcode : fld req 1 1 = code)
    (hstage : stage ≤ (spdmAt s fn).stage) (hversion : code ≠ 0xE1 → fld req 0 1 = if code = 0x84 then 0x10 else (spdmAt s fn).version) :
    spdmRequest code stage fn req act s = act (spdmAt s fn) s := by
  rw [spdmRequest_up hup, spdmFault_none hcode hstage hversion]
  rfl

end

/-- The requests before a session with their codes and stages. -/
def openRequests : List ((Nat → Bytes → Instr) × Nat × Nat) :=
  [(.spdmGetVersion, 0x84, 0), (.spdmGetCapabilities, 0xE1, 1), (.spdmNegotiateAlgorithms, 0xE3, 2), (.spdmGetDigests, 0x81, 3),
    (.spdmGetCertificate, 0x82, 3), (.spdmChallenge, 0x83, 3), (.spdmGetMeasurements, 0xE0, 3), (.spdmKeyExchange, 0xE4, 3)]

theorem exec_openRequest {r : (Nat → Bytes → Instr) × Nat × Nat} (hr : r ∈ openRequests) (fn : Nat) (req : Bytes) (s : State) :
    ∃ act, exec (r.1 fn req) s = .next (spdmRequest r.2.1 r.2.2 fn req act s) := by
  simp only [openRequests, List.mem_cons, List.not_mem_nil, or_false] at hr
  rcases hr with rfl | rfl | rfl | rfl | rfl | rfl | rfl | rfl <;> exact ⟨_, rfl⟩

theorem fld_inner (req : Bytes) (off len : Nat) : fld (inner req) off len = fld req (4 + off) len := by
  rw [fld, fld, inner, List.drop_drop]

theorem slice_inner (req : Bytes) (off len : Nat) : slice (inner req) off len = slice req (4 + off) len := by
  rw [slice, slice, inner, List.drop_drop]

section
variable {code fn : Nat} {done : Bool} {req : Bytes} {act : Nat → Spdm → State → State} {s : State}

theorem securedRequest_absent (hup : mailboxUp s fn = true) (h : (spdmAt s fn).sessions.find? (fun y => y.1 == fld req 0 4) = none) :
    securedRequest code fn done req act s = spdmError fn 2 s := by
  simp only [securedRequest, hup, h]
  rfl

variable {id : Nat} {open_ : Bool} {keys : BitVec 512}

theorem securedRequest_found (hup : mailboxUp s fn = true)
    (h : (spdmAt s fn).sessions.find? (fun y => y.1 == fld req 0 4) = some (id, open_, keys)) :
    securedRequest code fn done req act s = if Config.spdmSecured keys req = false then spdmError fn 6 s else
      (spdmFault (spdmAt s fn) code 3 (inner req)).elim (if open_ ≠ done then spdmError fn 4 s else act id (spdmAt s fn) s)
        (spdmError fn · s) := by
  simp only [securedRequest, hup, h, Bool.not_eq_true', Bool.not_true, Bool.false_eq_true, if_false, bne_iff_ne]
  cases spdmFault (spdmAt s fn) code 3 (inner req) <;> rfl

end

/-- The requests of a secured session with their codes; all but FINISH need an established one. -/
def securedRequests : List ((Nat → Bytes → Instr) × Nat × Bool) :=
  [(.spdmFinish, 0xE5, false), (.spdmHeartbeat, 0xE8, true), (.spdmKeyUpdate, 0xE9, true), (.spdmEndSession, 0xEC, true),
    (.spdmVendorDefinedRequest, 0xFE, true)]

theorem exec_securedRequest {r : (Nat → Bytes → Instr) × Nat × Bool} (hr : r ∈ securedRequests) (fn : Nat) (req : Bytes) (s : State) :
    (∃ act, exec (r.1 fn req) s = .next (securedRequest r.2.1 fn r.2.2 req act s)) ∧ r.2.1 ≠ 0xE1 ∧ r.2.1 ≠ 0x84 := by
  simp only [securedRequests, List.mem_cons, List.not_mem_nil, or_false] at hr
  rcases hr with rfl | rfl | rfl | rfl | rfl <;> exact ⟨⟨_, rfl⟩, by decide, by decide⟩

/-- The streams after an IDE key management request (R437). -/
theorem ideRequest_eq (req : Bytes) (s : State) : ideRequest req s =
    let stream := fld req 19 1
    let old := (tget none s.trust.ide stream).getD ⟨[], []⟩
    let sub := fld req 21 1
    let rest := old.keys.filter fun y => y.1 != sub
    let going := old.go.filter (· != sub)
    let ide : Ide :=
      if fld req 16 1 = 2 then ⟨rest ++ [(sub, slice req 23 40)], old.go⟩
      else if fld req 16 1 = 4 then (if rest = old.keys then old else ⟨old.keys, going ++ [sub]⟩)
      else if fld req 16 1 = 5 then ⟨rest, going⟩ else old
    if 4 < stream then s else
      { s with trust := { s.trust with ide := tset none s.trust.ide stream (if ide.keys = [] then none else some ide) } } := by
  simp only [ideRequest, fld_inner, slice_inner, List.isEmpty_iff]
  refine congrArg (ite _ s) ?_
  have hafter (x : Ide) (obj sub : Nat) (key : Bytes) : x.after obj sub key =
      if obj = 2 then ⟨(x.keys.filter fun y => y.1 != sub) ++ [(sub, key)], x.go⟩
      else if obj = 4 then (if (x.keys.filter fun y => y.1 != sub) = x.keys then x else ⟨x.keys, x.go.filter (· != sub) ++ [sub]⟩)
      else if obj = 5 then ⟨x.keys.filter fun y => y.1 != sub, x.go.filter (· != sub)⟩ else x := by
    unfold Ide.after
    by_cases h2 : obj = 2
    · simp only [h2, if_true]
    · by_cases h4 : obj = 4
      · by_cases hsame : (x.keys.filter fun y => y.1 != sub) = x.keys <;> simp [h4, hsame]
      · simp only [h2, h4, false_and, if_false]
  simp only [hafter]

/-- A request in an open session that is in the state it needs: its effect, or an error where the keys do not open it. -/
theorem securedRequest_opened {code fn : Nat} {done : Bool} {req : Bytes} {act : Nat → Spdm → State → State} {s : State} {id : Nat}
    {keys : BitVec 512} (hup : mailboxUp s fn = true)
    (h : (spdmAt s fn).sessions.find? (fun y => y.1 == fld req 0 4) = some (id, done, keys)) (hcode : fld req 5 1 = code)
    (hstage : 3 ≤ (spdmAt s fn).stage) (hversion : fld req 4 1 = (spdmAt s fn).version) (hopen : code ≠ 0x84) :
    securedRequest code fn done req act s =
      if Config.spdmSecured keys req then act id (spdmAt s fn) s else spdmError fn 6 s := by
  have hnone : spdmFault (spdmAt s fn) code 3 (inner req) = none :=
    spdmFault_none (by rw [fld_inner, hcode]) hstage fun _ => by rw [fld_inner, if_neg hopen, hversion]
  rw [securedRequest_found hup h, hnone]
  cases Config.spdmSecured keys req
  · rfl
  · exact if_neg (not_not.2 rfl)

/-- Settles O35. -/
theorem spdmRequestsAreAnswered : Obligations.SpdmRequestsAreAnswered := by
  refine ⟨fun s fn req => ?plain, fun s fn req hfn hstate hlink => ?secured⟩
  case plain =>
    intro x up named rows
    refine ⟨fun r hr => ?_, fun h => ?_, fun hup hcode hstage => ?_, fun h hstage => ?_, fun hstage => ⟨fun h => ?_, fun h => ?_, fun h => ?_,
      fun h => ?_, fun h hfn => ?_, fun h hfn => ?_⟩⟩
    · obtain ⟨act, hact⟩ := exec_openRequest hr fn req s
      rw [hact]
      refine ⟨fun hdown => by rw [spdmRequest_down hdown], fun hup hcode => ?_, fun hup hcode hstage => ?_,
        fun hup hcode hstage hany hversion => ?_⟩
      · rw [spdmRequest_up hup, spdmFault_code hcode]
        rfl
      · rw [spdmRequest_up hup, spdmFault_stage hcode hstage]
        rfl
      · rw [spdmRequest_up hup, spdmFault_version hcode hstage hany hversion]
        rfl
    · exact congrArg Host.Outcome.next (spdmRequest_named h.1 h.2.1 (Nat.zero_le _) fun _ => h.2.2)
    · refine (congrArg Host.Outcome.next (spdmRequest_named hup hcode hstage fun h => absurd rfl h)).trans ?_
      by_cases hv : fld req 0 1 = 0x12 ∨ fld req 0 1 = 0x13
      · rw [if_pos hv]
        exact congrArg Host.Outcome.next (if_neg fun h => hv.elim h.1 h.2)
      · rw [if_neg hv]
        exact congrArg Host.Outcome.next (if_pos (not_or.1 hv))
    · exact congrArg Host.Outcome.next (spdmRequest_named h.1 h.2.1 hstage fun _ => h.2.2)
    · exact congrArg Host.Outcome.next (spdmRequest_named h.1 h.2.1 hstage fun _ => h.2.2)
    · refine (congrArg Host.Outcome.next (spdmRequest_named h.1 h.2.1 hstage fun _ => h.2.2)).trans ?_
      simp only [List.length_drop]
      rfl
    · exact congrArg Host.Outcome.next (spdmRequest_named h.1 h.2.1 hstage fun _ => h.2.2)
    · exact congrArg Host.Outcome.next (spdmRequest_named h.1 h.2.1 hstage fun _ => h.2.2)
    · refine (congrArg Host.Outcome.next (spdmRequest_named h.1 h.2.1 hstage fun _ => h.2.2)).trans ?_
      exact congrArg Host.Outcome.next (if_neg (not_not.2 hfn))
    · refine (congrArg Host.Outcome.next (spdmRequest_named h.1 h.2.1 hstage fun _ => h.2.2)).trans ?_
      exact congrArg Host.Outcome.next (if_pos hfn)
  case secured =>
    intro x id found rows
    have hup : mailboxUp s fn = true := (mailboxUp_iff s fn).2 ⟨hfn, hstate, hlink⟩
    refine ⟨fun r hr => ?_, fun done keys hfound hstage hversion => ?_⟩
    · obtain ⟨⟨act, hact⟩, hcaps, hversions⟩ := exec_securedRequest hr fn req s
      rw [hact]
      refine ⟨fun hnone => by rw [securedRequest_absent hup hnone], fun done keys hfound => ?_⟩
      rw [securedRequest_found hup hfound]
      refine ⟨fun hclosed => by rw [if_pos hclosed], fun hopen => ?_⟩
      rw [if_neg (by simp [hopen])]
      have hcode : fld (inner req) 1 1 = fld req 5 1 := fld_inner req 1 1
      have hwant : (if r.2.1 = 0x84 then 0x10 else (spdmAt s fn).version) = x.version := if_neg hversions
      refine ⟨fun hother => ?_, fun hown hearly => ?_, fun hown hstage hversion => ?_, fun hown hstage hversion hdone => ?_⟩
      · rw [spdmFault_code (hcode.trans_ne hother)]
        rfl
      · rw [spdmFault_stage (hcode.trans hown) hearly]
        rfl
      · rw [spdmFault_version (hcode.trans hown) hstage hcaps (by rw [fld_inner, hwant]; exact hversion)]
        rfl
      · rw [spdmFault_none (hcode.trans hown) hstage (fun _ => by rw [fld_inner, hwant]; exact hversion)]
        exact congrArg Host.Outcome.next (if_pos hdone)
    · intro opened
      refine ⟨fun hdone hcode => ?_, fun hdone => ⟨fun hcode => ?_, fun hcode => ?_, fun hcode => ?_, fun hcode => ?_⟩⟩ <;> subst hdone <;>
        refine (congrArg Host.Outcome.next (securedRequest_opened hup hfound hcode hstage hversion (by decide))).trans ?_
      · rfl
      · rfl
      · simp only [slice_inner]
        rfl
      · rfl
      · simp only [slice_inner, fld_inner, ideRequest_eq]
        rfl

end Sys2Proof.Machine

/-!
PROOFS. Power, resets and boot.
-/

namespace Sys2Proof.Machine

/-! ### Power and resets -/

/-- Settles O36. -/
theorem powerAndResetEvents : Obligations.PowerAndResetEvents := by
  refine ⟨⟨fun s hoff htrip => ?apply, fun s cause hon htrip hcause => ?trip, fun s cause htrip => ?tripped, fun s hon => ?release⟩,
    fun s ok => ?reset⟩
  case apply => exact congrArg Host.Outcome.next (if_neg (by simp [hoff, htrip]))
  case trip =>
    refine ⟨_, congrArg Host.Outcome.next (if_neg ?_), rfl, rfl, rfl, rfl, rfl, rfl, rfl⟩
    simpa [hon, htrip] using hcause
  case tripped =>
    exact ⟨congrArg Host.Outcome.next (if_pos (by simp [htrip])), congrArg Host.Outcome.next (if_pos (by simp [htrip]))⟩
  case release =>
    exact ⟨_, congrArg Host.Outcome.next (if_neg (by simp [hon])), rfl, rfl, rfl, rfl, rfl⟩
  case reset =>
    intro rom
    refine ⟨fun hgood hlow => ?_, fun hgood hhigh => ?_, fun hgood hhigh hlink => ?_, fun hdue => ?_⟩
    · exact congrArg Host.Outcome.next (if_neg (by simp [hgood, hlow]))
    · exact congrArg Host.Outcome.next (if_neg (by simp [hgood, hhigh]))
    · exact congrArg Host.Outcome.next (if_neg (by simp [alive, hgood, hhigh, hlink]))
    · exact congrArg Host.Outcome.next (if_neg (by simp [hdue]))

theorem tget_keptDir {t : Tab (Option DirEntry)} {k : Nat} {d : DirEntry} (h : tget none t k = some d) (hd : d.complete = true) :
    tget none (keptDir t) k = some d := by
  induction t with
  | nil => cases h
  | cons x t ih =>
    obtain ⟨j, v⟩ := x
    rw [tget] at h
    split_ifs at h with hj
    · subst h
      rw [keptDir, List.filter_cons_of_pos (by exact hd), tget, if_pos hj]
    · rw [keptDir, List.filter_cons]
      split_ifs
      · rw [tget, if_neg hj]
        exact ih h
      · exact ih h

/-- Settles O37. -/
theorem whatAResetKeeps : Obligations.WhatAResetKeeps := by
  intro s c w
  refine ⟨rfl, rfl, rfl, rfl, rfl, rfl, rfl, rfl, fun k d h hd => tget_keptDir h hd, fun k d h => ?_, fun x hx => ?_, rfl, rfl, rfl, rfl, rfl,
    rfl, rfl, rfl, rfl, rfl, rfl, rfl, rfl, rfl, rfl, rfl, rfl, rfl, rfl, rfl, rfl, rfl⟩
  · obtain ⟨hmem, hcomplete⟩ := List.mem_filter.1 h
    exact ⟨hcomplete, hmem, List.mem_map_of_mem (f := fun x : Nat × Option DirEntry => (x.1, 3)) h⟩
  · obtain ⟨y, -, rfl⟩ := List.mem_map.1 hx
    rfl

/-! ### Boot -/

theorem imageFault_fuseMap (s : State) (b : Bytes) : imageFault (fuseMap s) b =
    if b.length ≠ 1024 + fld b 12 4 then 3
    else if fld b 0 4 ≠ 0x5746394B ∨ fld b 4 2 ≠ 1 ∨ !zeroAt b 436 12 ∨ !zeroAt b 832 192 then 5
    else if sha256 (slice b 48 388) ≠ b256 Config.rootHash then 6
    else if Config.pssVerify ((slice b 48 388).take 384) (slice (slice b 48 388) 384 4) (b.take 448) (slice b 448 384) = false then 7
    else if sha256 (b.drop 1024) ≠ slice b 16 32 then 8
    else if fld b 6 2 < fusedSvn s then 9
    else 0 := by
  simp only [imageFault, fuseMap_rootHash, fuseMap_fusedSvn, verifies, Bool.not_eq_true']

/-- What follows a verification whose first failed check is `cause`. -/
def verified (b : Bytes) (s : State) (cause : Nat) : State :=
  if cause ≠ 0 then bootFails cause s else
    { s with phys := { s.phys with
      bootState := 4, state := if s.phys.state = 4 then 4 else 2, image := none
      fw := some { version := fld b 8 4, svn := fld b 6 2, digest := sha256 (b.take 448), length := b.length - 1024
                   root := Config.rootCert (b.drop 1024), intermediate := Config.intermediateCert (b.drop 1024) } } }

theorem bootVerifyDone_some {s : State} {b : Bytes} (halive : alive s = true) (hstate : s.phys.bootState = 3) (himage : s.phys.image = some b) :
    bootVerifyDone s = verified b s (imageFault (fuseMap s) b) := by
  refine (if_neg (by simp [halive, hstate])).trans ?_
  simp only [himage, List.length_drop, verified]

section
variable {s : State} (halive : alive s = true)
include halive

theorem bootLoad_sound (v : BitVec 32) (hlink : s.phys.link = true) (hpuf : s.phys.pufFailed = false) : bootLoad v s = { s with phys :=
    let q := { s.phys with bootAttempts := min 65535 (s.phys.bootAttempts + 1) }
    if v.toNat % 256 ≠ 1 then { s.phys with bootError := 2 }
    else if s.phys.bootState ≠ 1 then { q with bootError := 2 }
    else { q with bootState := 2, bootError := 0, image := none } } := by
  refine (if_neg (by simp [halive, hlink])).trans ?_
  simp only [hpuf, Bool.false_eq_true, if_false]
  split_ifs <;> rfl

theorem bootLoad_pufFailed {v : BitVec 32} (hlink : s.phys.link = true) (hpuf : s.phys.pufFailed = true) (hv : v.toNat % 256 = 1) :
    bootLoad v s = { s with phys := { s.phys with bootAttempts := min 65535 (s.phys.bootAttempts + 1), bootError := 1 } } :=
  (if_neg (by simp [halive, hlink])).trans ((if_neg (not_not.2 hv)).trans (if_pos hpuf))

theorem bootFetchDone_up (image : Bytes) (ok : Bool) (hlink : s.phys.link = true) (hfetch : s.phys.bootState = 2) :
    bootFetchDone image ok s = { s with phys :=
      if s.phys.bootLength < 1025 ∨ 1024 + 67108864 < s.phys.bootLength then { s.phys with bootState := 1, bootError := 3, image := none }
      else if ok = false then { s.phys with bootState := 1, bootError := 4, image := none }
      else { s.phys with bootState := 3, image := some (padTo s.phys.bootLength image) } } := by
  refine (if_neg (by simp [halive, hlink, hfetch])).trans ?_
  simp only [Bool.not_eq_true']
  split_ifs <;> rfl

theorem firmwareRunning_up (ok : Bool) (hstate : s.phys.state = 2) (hfail : s.phys.trainFailed = false) : firmwareRunning ok s =
    if ok then startMonitors (List.range 34) { s with phys := { s.phys with state := 3 } }
    else { s with phys := { s.phys with trainings := s.phys.trainings + 1, trainFailed := decide (3 ≤ s.phys.trainings + 1) } } :=
  if_neg (by simp [halive, hstate, hfail])

end

/-- Settles O38. -/
theorem bootAndVerification : Obligations.BootAndVerification := by
  refine ⟨fun s hgood hhigh => ?boot, fun s b hgood hhigh hstate himage => ?verify⟩
  case boot =>
    have halive : alive s = true := by simp [alive, hgood, hhigh]
    intro p
    refine ⟨fun h0 hb => ?_, fun fn hfn hlink => ?_, fun v hlink hpuf => ?_, fun v hlink hpuf hv => ?_, fun image ok hlink => ?_,
      fun image ok hfetch hlink => congrArg Host.Outcome.next (bootFetchDone_up halive image ok hlink hfetch), fun htrain hfail => ⟨?_, ?_⟩⟩
    · have h0 : s.phys.state = 0 := h0
      have hb : s.phys.bootState = 0 := hb
      exact congrArg Host.Outcome.next (if_neg (by simp [halive, h0, hb]))
    · have hlink : s.phys.link = true := hlink
      refine (congrArg Host.Outcome.next (if_neg (by simpa [halive, present, hlink] using hfn))).trans ?_
      have hready : (s.phys.state != 0) = decide (s.phys.state ≠ 0) := by
        rw [Bool.eq_iff_iff, bne_iff_ne, decide_eq_true_iff]
      rw [hready]
    · exact congrArg Host.Outcome.next (bootLoad_sound halive v hlink hpuf)
    · exact congrArg Host.Outcome.next (bootLoad_pufFailed halive hlink hpuf hv)
    · have hlink : s.phys.link = false := hlink
      exact congrArg Host.Outcome.next (if_pos (by simp [hlink]))
    · exact congrArg Host.Outcome.next (firmwareRunning_up halive true htrain hfail)
    · refine congrArg Host.Outcome.next ((firmwareRunning_up halive false htrain hfail).trans ?_)
      have hthird : decide (3 ≤ s.phys.trainings + 1) = decide (2 ≤ s.phys.trainings) := decide_eq_decide.2 (by omega)
      rw [hthird]
      rfl
  case verify =>
    intro fail
    have halive : alive s = true := by simp [alive, hgood, hhigh]
    refine congrArg Host.Outcome.next ((bootVerifyDone_some halive hstate himage).trans ?_)
    rw [imageFault_fuseMap]
    simp only [apply_ite (verified b s)]
    rfl

/-! ### Entries of a table -/

section
variable {α : Type} {k : Nat}

theorem mem_tvals {t : Tab (Option α)} {v : α} : (k, v) ∈ tvals t ↔ (k, some v) ∈ t := by
  simp only [tvals, List.mem_filterMap, Option.map_eq_some_iff, Prod.mk.injEq, Prod.exists]
  constructor
  · rintro ⟨j, o, hmem, w, rfl, rfl, rfl⟩
    exact hmem
  · exact fun h => ⟨k, some v, h, v, rfl, rfl, rfl⟩

theorem mem_of_tget {t : Tab (Option α)} {v : α} (h : tget none t k = some v) : (k, some v) ∈ t := by
  induction t with
  | nil => cases h
  | cons x t ih =>
    obtain ⟨j, w⟩ := x
    rw [tget] at h
    split_ifs at h with hj
    · rw [← hj, ← h]
      exact List.mem_cons_self
    · exact List.mem_cons_of_mem _ (ih h)

theorem mem_tput {t : Tab α} {v : α} {x : Nat × α} (h : x ∈ tput t k v) : x = (k, v) ∨ x ∈ t := by
  induction t with
  | nil => exact .inl (List.mem_singleton.1 h)
  | cons y t ih =>
    obtain ⟨j, w⟩ := y
    rw [tput] at h
    split_ifs at h
    · exact (List.mem_cons.1 h).imp_right (List.mem_cons_of_mem _)
    · exact List.mem_cons.1 h
    · rcases List.mem_cons.1 h with rfl | h
      · exact .inr List.mem_cons_self
      · exact (ih h).imp_right (List.mem_cons_of_mem _)

theorem mem_tdel {t : Tab α} {x : Nat × α} : x ∈ tdel t k ↔ x ∈ t ∧ x.1 ≠ k := by
  rw [tdel, List.mem_filter, bne_iff_ne]

end

/-! ### What completions leave of the queues -/

/-- The same completion queue, wherever its head and tail stand. -/
def SameRing (r r' : Cq) : Prop := r'.owner = r.owner ∧ r'.base = r.base ∧ r'.exp = r.exp

/-- From `s` to `t` the queues stay, but for what is written to completion queues, and of the fetched commands only those with a
tag of `gone` may go. -/
structure QueuesKept (gone : List Nat) (s t : State) : Prop where
  sqs : t.host.sqs = s.host.sqs
  outqs : t.host.outqs = s.host.outqs
  evqs : t.host.evqs = s.host.evqs
  bar : t.bar = s.bar
  cqs_of_mem : ∀ q r, (q, some r) ∈ t.host.cqs → ∃ r0, (q, some r0) ∈ s.host.cqs ∧ SameRing r r0
  cqs_of_tget : ∀ q r, tget none s.host.cqs q = some r → ∃ r', tget none t.host.cqs q = some r' ∧ SameRing r r'
  fetched_of_mem : ∀ x ∈ t.host.fetched, x ∈ s.host.fetched
  fetched_mem : ∀ x ∈ s.host.fetched, x.1 ∉ gone → x ∈ t.host.fetched

theorem SameRing.symm {a b : Cq} (h : SameRing a b) : SameRing b a := ⟨h.1.symm, h.2.1.symm, h.2.2.symm⟩

theorem SameRing.trans {a b c : Cq} (h : SameRing a b) (k : SameRing b c) : SameRing a c :=
  ⟨k.1.trans h.1, k.2.1.trans h.2.1, k.2.2.trans h.2.2⟩

theorem QueuesKept.refl (gone : List Nat) (s : State) : QueuesKept gone s s :=
  ⟨rfl, rfl, rfl, rfl, fun _ r h => ⟨r, h, rfl, rfl, rfl⟩, fun _ r h => ⟨r, h, rfl, rfl, rfl⟩, fun _ h => h, fun _ h _ => h⟩

theorem QueuesKept.trans {g g' : List Nat} {s t u : State} (h : QueuesKept g s t) (k : QueuesKept g' t u) : QueuesKept (g ++ g') s u where
  sqs := k.sqs.trans h.sqs
  outqs := k.outqs.trans h.outqs
  evqs := k.evqs.trans h.evqs
  bar := k.bar.trans h.bar
  cqs_of_mem q r hr := by
    obtain ⟨r1, h1, hs1⟩ := k.cqs_of_mem q r hr
    obtain ⟨r0, h0, hs0⟩ := h.cqs_of_mem q r1 h1
    exact ⟨r0, h0, hs1.trans hs0⟩
  cqs_of_tget q r hr := by
    obtain ⟨r1, h1, hs1⟩ := h.cqs_of_tget q r hr
    obtain ⟨r2, h2, hs2⟩ := k.cqs_of_tget q r1 h1
    exact ⟨r2, h2, hs1.trans hs2⟩
  fetched_of_mem x hx := h.fetched_of_mem x (k.fetched_of_mem x hx)
  fetched_mem x hx hg :=
    have ⟨hg1, hg2⟩ := not_or.1 (List.mem_append.not.1 hg)
    k.fetched_mem x (h.fetched_mem x hx hg1) hg2

theorem hostWrite_queues (fn addr : Nat) (b : Bytes) (s : State) :
    ∃ w o, hostWrite fn addr b s = { s with host := { s.host with waitOut := w }, out := o } := by
  unfold hostWrite
  split
  · exact ⟨_, _, rfl⟩
  · exact ⟨_, _, rfl⟩

theorem cqPut_queuesKept (q : Nat) (e : Bytes) (s : State) : QueuesKept [] s (cqPut q e s) := by
  unfold cqPut
  split
  · exact .refl _ s
  next c hc =>
  split
  · exact .refl _ s
  obtain ⟨w, o, hw⟩ := hostWrite_queues c.owner (c.base + 32 * c.tail) (withPhase e c.phase) s
  rw [hw]
  refine ⟨rfl, rfl, rfl, rfl, fun p r hr => ?_, fun p r hr => ?_, fun _ h => h, fun _ h _ => h⟩
  · rcases mem_tput (by exact hr) with h | h
    · obtain ⟨rfl, rfl⟩ := Prod.mk.inj h |>.imp_right Option.some.inj
      exact ⟨c, mem_of_tget hc, rfl, rfl, rfl⟩
    · exact ⟨r, h, rfl, rfl, rfl⟩
  · dsimp only
    by_cases hpq : p = q
    · subst hpq
      refine ⟨_, tget_tset_self _ _ _, ?_⟩
      rw [hc] at hr
      cases hr
      exact ⟨rfl, rfl, rfl⟩
    · exact ⟨r, (tget_tset_of_ne hpq).trans hr, rfl, rfl, rfl⟩

theorem completeOne_queuesKept (tag status sub result : Nat) (s : State) : QueuesKept [tag] s (completeOne tag status sub result s) := by
  unfold completeOne
  split
  · exact .refl _ s
  next f hf =>
  have hdel : QueuesKept [tag] s { s with host := { s.host with fetched := tdel s.host.fetched tag } } :=
    ⟨rfl, rfl, rfl, rfl, fun _ r h => ⟨r, h, rfl, rfl, rfl⟩, fun _ r h => ⟨r, h, rfl, rfl, rfl⟩, fun _ h => (mem_tdel.1 h).1,
      fun _ h hg => mem_tdel.2 ⟨h, fun he => hg (List.mem_singleton.2 he)⟩⟩
  dsimp only
  split
  · exact hdel
  split
  · exact hdel.trans (cqPut_queuesKept _ _ _)
  · exact ⟨hdel.sqs, hdel.outqs, hdel.evqs, hdel.bar, hdel.cqs_of_mem, hdel.cqs_of_tget, hdel.fetched_of_mem, hdel.fetched_mem⟩

theorem foldl_completeOne_queuesKept (l : List (Nat × Nat × Nat)) (s : State) :
    QueuesKept (l.map (·.1)) s (l.foldl (fun s x => completeOne x.1 0 0 x.2.2 s) s) := by
  induction l generalizing s with
  | nil => exact .refl _ s
  | cons x l ih => exact (completeOne_queuesKept x.1 0 0 x.2.2 s).trans (ih _)

theorem finishDeletes_queuesKept (s : State) : QueuesKept (s.host.deleting.map (·.1)) s (finishDeletes s) := by
  have h := foldl_completeOne_queuesKept (s.host.deleting.filter fun x => !sqBusy s x.2.1)
    { s with host := { s.host with deleting := s.host.deleting.filter fun x => sqBusy s x.2.1 } }
  refine ⟨h.sqs, h.outqs, h.evqs, h.bar, h.cqs_of_mem, h.cqs_of_tget, h.fetched_of_mem, fun x hx hg => h.fetched_mem x hx fun hready => ?_⟩
  obtain ⟨y, hy, hyx⟩ := List.mem_map.1 hready
  exact hg (List.mem_map.2 ⟨y, (List.mem_filter.1 hy).1, hyx⟩)

/-- A disabled admin pair may go out of use; nothing else does. -/
theorem finishAdmin_queues (s : State) : (finishAdmin s).host.outqs = s.host.outqs ∧ (finishAdmin s).host.evqs = s.host.evqs ∧
    (finishAdmin s).host.fetched = s.host.fetched ∧
    (finishAdmin s = s ∨ s.bar.enable = false ∧ (finishAdmin s).host.sqs = tdel s.host.sqs 0 ∧ (finishAdmin s).host.cqs = tdel s.host.cqs 0) := by
  unfold finishAdmin
  split
  next h =>
    simp only [Bool.and_eq_true, Bool.not_eq_true'] at h
    exact ⟨rfl, rfl, rfl, .inr ⟨h.1.1.2, rfl, rfl⟩⟩
  · exact ⟨rfl, rfl, rfl, .inl rfl⟩

section
variable {s : State} {q : Nat}

theorem finishAdmin_sqs_of_mem {r : Sq} (h : (q, some r) ∈ (finishAdmin s).host.sqs) : (q, some r) ∈ s.host.sqs := by
  obtain ⟨-, -, -, heq | ⟨-, hsq, -⟩⟩ := finishAdmin_queues s
  · rwa [heq] at h
  · rw [hsq] at h
    exact (mem_tdel.1 h).1

theorem finishAdmin_cqs_of_mem {r : Cq} (h : (q, some r) ∈ (finishAdmin s).host.cqs) : (q, some r) ∈ s.host.cqs := by
  obtain ⟨-, -, -, heq | ⟨-, -, hcq⟩⟩ := finishAdmin_queues s
  · rwa [heq] at h
  · rw [hcq] at h
    exact (mem_tdel.1 h).1

theorem finishAdmin_sqs_mem {r : Sq} (hq : q ≠ 0 ∨ s.bar.enable = true) (h : (q, some r) ∈ s.host.sqs) : (q, some r) ∈ (finishAdmin s).host.sqs := by
  obtain ⟨-, -, -, heq | ⟨hoff, hsq, -⟩⟩ := finishAdmin_queues s
  · rwa [heq]
  · rw [hsq]
    exact mem_tdel.2 ⟨h, hq.resolve_right (by simp [hoff])⟩

theorem finishAdmin_cqs_tget (hq : q ≠ 0 ∨ s.bar.enable = true) : tget none (finishAdmin s).host.cqs q = tget none s.host.cqs q := by
  obtain ⟨-, -, -, heq | ⟨hoff, -, hcq⟩⟩ := finishAdmin_queues s
  · rw [heq]
  · rw [hcq]
    exact tget_tdel_of_ne (hq.resolve_right (by simp [hoff]))

end

/-! ### Function-level reset -/

/-- The queues of a table that a function owns. -/
def ownedBy {α : Type} (owner : α → Nat) (fn : Nat) (t : Tab (Option α)) : List Nat := ((tvals t).filter fun x => owner x.2 == fn).map (·.1)

theorem mem_ownedBy {α : Type} {owner : α → Nat} {fn q : Nat} {t : Tab (Option α)} :
    q ∈ ownedBy owner fn t ↔ ∃ r, (q, some r) ∈ t ∧ owner r = fn := by
  simp only [ownedBy, List.mem_map, List.mem_filter, beq_iff_eq, Prod.exists, mem_tvals]
  constructor
  · rintro ⟨j, r, ⟨h, ho⟩, rfl⟩
    exact ⟨r, h, ho⟩
  · exact fun ⟨r, h, ho⟩ => ⟨q, r, ⟨h, ho⟩, rfl⟩

/-- The queues of a table that stay where a function's go. -/
def othersOf {α : Type} (owner : α → Nat) (fn : Nat) (t : Tab (Option α)) : Tab (Option α) :=
  t.filter fun x => !(ownedBy owner fn t).contains x.1

section
variable {α : Type} {owner : α → Nat} {fn q : Nat} {t : Tab (Option α)} {r : α}

theorem owner_of_mem_othersOf (h : (q, some r) ∈ othersOf owner fn t) : owner r ≠ fn ∧ (q, some r) ∈ t := by
  obtain ⟨hmem, hkeep⟩ := List.mem_filter.1 h
  refine ⟨fun ho => ?_, hmem⟩
  have hown : q ∈ ownedBy owner fn t := mem_ownedBy.2 ⟨r, hmem, ho⟩
  simp [hown] at hkeep

theorem not_mem_ownedBy (h : ∀ r', (q, some r') ∈ t → owner r' ≠ fn) : q ∉ ownedBy owner fn t := fun hown =>
  have ⟨r, hr, ho⟩ := mem_ownedBy.1 hown
  h r hr ho

theorem mem_othersOf (hmem : (q, some r) ∈ t) (h : ∀ r', (q, some r') ∈ t → owner r' ≠ fn) : (q, some r) ∈ othersOf owner fn t :=
  List.mem_filter.2 ⟨hmem, by simpa using not_mem_ownedBy h⟩

theorem tget_othersOf (h : ∀ r', (q, some r') ∈ t → owner r' ≠ fn) : tget none (othersOf owner fn t) q = tget none t q := by
  rw [othersOf, tget_filter_key none t (fun k => !(ownedBy owner fn t).contains k)]
  exact if_pos (by simpa using not_mem_ownedBy h)

end

/-- The commands of a function are lost: they complete nowhere. -/
def loseCommands (fn : Nat) (o : Option Fetched) : Option Fetched := o.map fun f => if f.fn = fn then { f with lost := true } else f

/-- The queues after a function's have gone. -/
def withoutFunction (fn : Nat) (s : State) : Queues :=
  let sqs := ownedBy Sq.owner fn s.host.sqs
  let cqs := ownedBy Cq.owner fn s.host.cqs
  let outs := ownedBy Outq.owner fn s.host.outqs
  let gone := (tvals s.host.fetched).filter fun x => x.2.fn == fn && waitsOnFence s x.1 x.2
  { s.host with
    sqs := othersOf Sq.owner fn s.host.sqs
    cqs := othersOf Cq.owner fn s.host.cqs
    outqs := othersOf Outq.owner fn s.host.outqs
    bells := s.host.bells.filter fun x => !(sqs.contains x.1 || (cqs.map (· + 64)).contains x.1 || (outs.map (· + 192)).contains x.1)
    fetched := (s.host.fetched.filter fun x => !(gone.map (·.1)).contains x.1).map fun x => (x.1, loseCommands fn x.2)
    waitCpl := s.host.waitCpl.filter fun x => !cqs.contains x.1 }

theorem functionReset_eq {fn : Nat} {s : State} (hlow : 1 ≤ fn) (hhigh : fn ≤ 31) (hgood : s.phys.pwrGood = true) (hperst : s.phys.perst = false) :
    functionReset fn s = finishAdmin (finishDeletes { s with host := withoutFunction fn s }) := by
  refine if_neg ?_
  simp [offers, present, alive, hgood, hperst, hhigh]
  omega

theorem lost_of_mem {fn : Nat} {s : State} {tag : Nat} {f : Fetched} (h : (tag, some f) ∈ (withoutFunction fn s).fetched) (hf : f.fn = fn) :
    f.lost = true := by
  obtain ⟨⟨k, o⟩, -, heq⟩ := List.mem_map.1 h
  obtain ⟨rfl, ho⟩ := Prod.mk.inj heq
  obtain ⟨g, -, hg⟩ := Option.map_eq_some_iff.1 ho
  rw [← hg] at hf ⊢
  split_ifs at hf ⊢ with hown
  · rfl
  · exact absurd hf hown

theorem mem_fetched_of_other {fn : Nat} {s : State} {tag : Nat} {f : Fetched} (h : (tag, some f) ∈ s.host.fetched)
    (hother : ∀ g, (tag, some g) ∈ s.host.fetched → g.fn ≠ fn) : (tag, some f) ∈ (withoutFunction fn s).fetched := by
  refine List.mem_map.2 ⟨(tag, some f), List.mem_filter.2 ⟨h, ?_⟩, ?_⟩
  · have hstays : tag ∉ ((tvals s.host.fetched).filter fun x => x.2.fn == fn && waitsOnFence s x.1 x.2).map (·.1) := by
      intro hgone
      obtain ⟨⟨k, g⟩, hg, rfl⟩ := List.mem_map.1 hgone
      obtain ⟨hmem, hfn⟩ := List.mem_filter.1 hg
      exact hother g (mem_tvals.1 hmem) (beq_iff_eq.1 (Bool.and_eq_true_iff.1 hfn).1)
    simpa using hstays
  · simp only [loseCommands, Option.map_some, if_neg (hother f h)]

/-- Settles O40. -/
theorem functionLevelResetEndsOneFunction : Obligations.FunctionLevelResetEndsOneFunction := by
  intro s fn hlow hhigh hgood hperst
  obtain ⟨u, hu⟩ : ∃ u : State, { s with host := withoutFunction fn s } = u := ⟨_, rfl⟩
  obtain ⟨houtqs, hevqs, hfetched, -⟩ := finishAdmin_queues (finishDeletes u)
  have hkept := finishDeletes_queuesKept u
  have hbar : (finishDeletes u).bar = s.bar := by
    rw [hkept.bar, ← hu]
  have hhost : HostOnly u (finishAdmin (finishDeletes u)) := (finishDeletes_hostOnly u).trans (finishAdmin_hostOnly _)
  refine ⟨finishAdmin (finishDeletes u), ?_, fun q r h => ?_, fun q r h => ?_, fun q r h => ?_, fun q r hq h hother => ?_, fun q r h hother => ?_,
    fun q r hq h hother => ?_, fun tag f h hf => ?_, fun tag f h hf hdel hother => ?_, hhost.trust.trans ?_, hhost.serve.trans ?_,
    hhost.phys.trans ?_, ?_⟩
  · rw [← hu]
    exact congrArg Host.Outcome.next (functionReset_eq hlow hhigh hgood hperst)
  · have h := finishAdmin_sqs_of_mem h
    rw [hkept.sqs, ← hu] at h
    exact owner_of_mem_othersOf h
  · obtain ⟨r0, h0, hsame⟩ := hkept.cqs_of_mem q r (finishAdmin_cqs_of_mem h)
    rw [← hu] at h0
    obtain ⟨hown, hmem⟩ := owner_of_mem_othersOf h0
    exact ⟨hsame.1 ▸ hown, r0, hmem, hsame⟩
  · rw [houtqs, hkept.outqs, ← hu] at h
    exact owner_of_mem_othersOf h
  · refine finishAdmin_sqs_mem (by rwa [hbar]) ?_
    rw [hkept.sqs, ← hu]
    exact mem_othersOf h hother
  · rw [houtqs, hkept.outqs, ← hu]
    exact mem_othersOf h hother
  · rw [finishAdmin_cqs_tget (by rwa [hbar])]
    refine hkept.cqs_of_tget q r ?_
    rw [← hu]
    exact (tget_othersOf hother).trans h
  · rw [hfetched] at h
    have h := hkept.fetched_of_mem _ h
    rw [← hu] at h
    exact lost_of_mem h hf
  · rw [hfetched]
    refine hkept.fetched_mem _ ?_ ?_
    · rw [← hu]
      exact mem_fetched_of_other h hother
    · rw [← hu]
      exact hdel
  · rw [← hu]
  · rw [← hu]
  · rw [← hu]
  · rw [hevqs, hkept.evqs, ← hu]
    rfl

end Sys2Proof.Machine

/-!
PROOFS. Fatal faults.
-/

namespace Sys2Proof.Machine

/-! ### Fatal faults -/

/-- Neither the halts nor what waited for them touches the boot and fault registers. -/
theorem halted_phys (s : State) (code : Nat) (pay : Bytes) :
    (dropReplays (settleHalts (freezeBox code (postEvent 1 0 0x080B 4 pay s)) (haltAll (freezeBox code (postEvent 1 0 0x080B 4 pay s))))).phys =
      s.phys :=
  have h : Keeps s (freezeBox code (postEvent 1 0 0x080B 4 pay s)) := freezeBox_keeps (postEvent_keeps ⟨rfl, rfl, id⟩)
  (dropReplays_keeps (settleHalts_keeps h (haltAll_keeps h))).phys

/-- Keys zeroized, ports idle, and Hold entered. -/
def held (code : Nat) (v : State) : State :=
  { idlePorts (zeroize v) with phys := { (idlePorts (zeroize v)).phys with state := 4, fatal := code } }

theorem fatalFault_eq {code : Nat} {s : State} (hlow : 1 ≤ code) (hhigh : code ≤ 5) (hstate : s.phys.state ≠ 4) (hgood : s.phys.pwrGood = true)
    (loc : Nat) : fatalFault code loc s = held code (dropReplays (settleHalts (freezeBox code (postEvent 1 0 0x080B 4 (le 2 code ++ le 4 loc) s))
      (haltAll (freezeBox code (postEvent 1 0 0x080B 4 (le 2 code ++ le 4 loc) s))))) := by
  refine if_neg ?_
  simp [hgood, hstate]
  omega

theorem held_fields (code : Nat) (v : State) : (held code v).phys = { v.phys with state := 4, fatal := code } ∧ (held code v).ev = v.ev ∧
    (held code v).plans = v.plans ∧ (held code v).serve.replays = v.serve.replays ∧ (held code v).model.bindKey = none ∧
    (held code v).model.manifests = v.model.manifests.map (fun m => { m with key := [] }) ∧
    (held code v).trust = { v.trust with tenants := [], memKey := zeros 64, spdm := [], ide := [] } ∧
    (held code v).net = { v.net with conns := [], enables := [] } := ⟨rfl, rfl, rfl, rfl, rfl, rfl, rfl, rfl⟩

/-- Settles O39. -/
theorem fatalFaultEntersHold : Obligations.FatalFaultEntersHold := by
  intro s code loc
  refine ⟨fun hlow hhigh hstate hgood => ?_, fun h => congrArg Host.Outcome.next (if_pos ?_)⟩
  · intro r u v
    have hu : u = freezeBox code r := rfl
    have hphys : v.phys = s.phys := by
      simp only [v, hu, r]
      exact halted_phys s code _
    have hexec : exec (.fatalFault code loc) s = .next (held code v) := by
      simp only [v, hu, r]
      exact congrArg Host.Outcome.next (fatalFault_eq hlow hhigh hstate hgood loc)
    clear_value v
    have hfields := held_fields code v
    rw [hphys] at hfields
    exact ⟨_, hexec, hfields⟩
  · rcases h with h | h | h | h
    · exact .inl (by omega)
    · exact .inr (.inl h)
    · exact .inr (.inr (.inl h))
    · exact .inr (.inr (.inr (by simp [h])))

end Sys2Proof.Machine

/-!
PROOFS. Dritar ports, hellos and attestation.
-/

namespace Sys2Proof.Machine

/-! ### Training and detaching -/

theorem tput_tput {α : Type} (t : Tab α) (k : Nat) (v w : α) : tput (tput t k v) k w = tput t k w := by
  induction t with
  | nil => simp [tput]
  | cons x t ih =>
    obtain ⟨j, u⟩ := x
    simp only [tput]
    split_ifs with hj hlt
    · rw [tput, if_pos rfl]
    · rw [tput, if_pos rfl]
    · rw [tput, if_neg hj, if_neg hlt, ih]

/-- Where neither is blank, the later of two connections stands. -/
theorem setConn_setConn {k : Nat} {c d : Conn} (hc : c ≠ .blank) (hd : d ≠ .blank) (s : State) (queue : List Waiting) :
    setConn k d { setConn k c s with net := { (setConn k c s).net with queue := queue } } =
      setConn k d { s with net := { s.net with queue := queue } } := by
  simp only [setConn, if_neg hc, if_neg hd, tset, if_neg (Option.some_ne_none _), tput_tput]

theorem ne_blank_of_state {c : Conn} (h : c.state ≠ 0) : c ≠ .blank := fun hc => h (by rw [hc]; rfl)

/-- A connection as it is left when it detaches from being Attached. -/
def detachedConn (c : Conn) (left : List FrameOut) : Conn :=
  { c with
    state := 1, wire := none, att := none, retry := false, detaches := min 63 (c.detaches + 1)
    kept := if left = [] then c.kept else left
    keptFor := if left = [] then c.keptFor else c.identity }

/-- A connection of a port after an Attached one has detached, with its event. -/
def detached (port cause : Nat) (c : Conn) (left : List FrameOut) (s : State) : State :=
  postEvent 9 port 0x0902 2 (le 1 port ++ le 1 cause) (setConn port (detachedConn c left)
    { s with net := { s.net with queue := s.net.queue.filter fun w => w.frame.conn != port } })

theorem dropConn_attached {port : Nat} {s : State} (hport : port < 64) (h4 : (connAt s port).state = 4) (cause : Nat) :
    dropConn port cause 1 s = detached port cause (connAt s port) (undelivered s port) s := by
  simp only [dropConn, h4, connEvent, if_pos hport, List.isEmpty_iff]
  rfl

theorem detach_attached {port : Nat} {s : State} (hport : port < 64) (h4 : (connAt s port).state = 4) (cause : Nat) :
    detach port cause s = detached port cause (connAt s port) (undelivered s port) s := by
  have hpeers : (if (connAt s port).state = 5 then peersOn s port else []) = [] := if_neg (by rw [h4]; decide)
  rw [← dropConn_attached hport h4]
  unfold detach
  rw [hpeers, if_pos hport]
  rfl

/-- What a connection has not delivered does not rest on its counters. -/
theorem undelivered_setConn {k : Nat} {c : Conn} {s : State} (h : c.wire = (connAt s k).wire) : undelivered (setConn k c s) k = undelivered s k := by
  simp only [undelivered, connAt_setConn_self, h]
  rfl

/-- The lowest waiting port trains. -/
theorem find_waiting {port : Nat} {s : State} (hport : port < 23) (h : (connAt s port).waiting = true)
    (hlow : ∀ p, p < port → (connAt s p).waiting = false) : (List.range 23).find? (fun p => (connAt s p).waiting) = some port := by
  rw [List.find?_range_eq_some]
  exact ⟨h, List.mem_range.2 hport, fun j hj => by simp [hlow j hj]⟩

/-- Settles O57. -/
theorem portsTrainAndDetach : Obligations.PortsTrainAndDetach := by
  intro port s hport c
  refine ⟨fun hnone => ?_, fun hwait hlow => ?_, fun _ => rfl, ?_, rfl, fun h4 h5 => ?_, fun h4 => ?_, fun h5 => ?_⟩
  · have hfind : (List.range 23).find? (fun p => (connAt s p).waiting) = none := by
      rw [List.find?_eq_none]
      exact fun p hp => by simp [hnone p (List.mem_range.1 hp)]
    refine congrArg Host.Outcome.next ?_
    simp only [trainNext, hfind]
  · refine congrArg Host.Outcome.next ?_
    simp only [trainNext, find_waiting hport hwait hlow]
    rfl
  · refine congrArg Host.Outcome.next ?_
    simp only [trainAgain]
    split_ifs with h1
    · rw [← h1]
    · rfl
  · have hout : ¬((connAt s port).state = 4 ∨ (connAt s port).state = 5) := not_or.2 ⟨h4, h5⟩
    exact ⟨congrArg Host.Outcome.next (if_neg hout), congrArg Host.Outcome.next (if_neg hout)⟩
  · have h4 : (connAt s port).state = 4 := h4
    have hlow : port < 64 := by omega
    intro sent left gone
    have hgone (cause fec : Nat) : gone cause fec = detached port cause { c with fec := fec } left s := rfl
    refine ⟨?_, ?_⟩
    · refine congrArg Host.Outcome.next ((if_pos (.inl h4)).trans ?_)
      rw [detach_attached hlow h4, hgone]
      rfl
    · refine congrArg Host.Outcome.next ((if_pos (.inl h4)).trans ?_)
      rw [detach_attached hlow (by rw [connAt_setConn_self]; exact h4), connAt_setConn_self, undelivered_setConn (by rfl), hgone, detached,
        setConn_setConn (ne_blank_of_state (by rw [h4]; decide)) (ne_blank_of_state (by simp [detachedConn]))]
      rfl
  · exact ⟨congrArg Host.Outcome.next (if_pos (.inr h5)), congrArg Host.Outcome.next (if_pos (.inr h5))⟩

/-! ### Hellos -/

theorem exec_dritarHello (port : Nat) (b : Bytes) (s : State) : exec (.dritarHello port b) s = .next (openFrame port b (hello port b) s) := rfl

/-- What a valid hello does (R375, R376). -/
def judgedHello (port : Nat) (b : Bytes) (s : State) : State :=
  let p := payloadOf b
  let c := connAt s port
  let now := { c with hello := p, identity := p.take 32 }
  if c.state = 2 then
    if (byteAt p 32).toNat = 1 then startPeers (setConn port { now with state := 5, retry := false } s)
    else if c.retry then setConn port now s
    else beginAttest port (setConn port now s)
  else if c.state = 3 then (if p.take 32 = c.identity then setConn port now s else s)
  else if p.take 32 ≠ c.identity ∨ ((byteAt p 32).toNat = 1) ≠ (c.state = 5) then detach port 3 s
  else setConn port { now with wire := c.wire.map fun w => w.acked (fld b 8 2) } s

section
variable {port : Nat} {b : Bytes} {s : State}

/-- A hello is judged where its form is right and its port is in Hello or beyond. -/
theorem hello_eq : hello port b s =
    if frameType b = 1 ∧ (payloadOf b).length = 64 ∧ (byteAt (payloadOf b) 32).toNat ≤ 1 ∧ zeroAt (payloadOf b) 41 23 = true ∧
      2 ≤ (connAt s port).state
    then judgedHello port b s else s := by
  by_cases h : frameType b = 1 ∧ (payloadOf b).length = 64 ∧ (byteAt (payloadOf b) 32).toNat ≤ 1 ∧ zeroAt (payloadOf b) 41 23 = true ∧
      2 ≤ (connAt s port).state
  · rw [if_pos h]
    obtain ⟨htype, hlen, hkind, hzero, hstate⟩ := h
    exact if_neg (by simp [htype, hlen, hzero, hkind, Nat.lt_of_succ_le hstate])
  · rw [if_neg h]
    refine if_pos ?_
    simp only [Bool.or_eq_true, bne_iff_ne, decide_eq_true_eq, Bool.not_eq_true']
    by_contra hgood
    simp only [not_or, not_not, Nat.not_lt, Bool.not_eq_false] at hgood
    obtain ⟨⟨⟨⟨htype, hlen⟩, hkind⟩, hzero⟩, hstate⟩ := hgood
    exact h ⟨htype, hlen, hkind, hzero, hstate⟩

end

/-- Settles O58. -/
theorem hellosAreJudged : Obligations.HellosAreJudged := by
  intro port b s c p k valid now
  have hgood (h : crcGood b = true) (hv : valid) : exec (.dritarHello port b) s = .next (judgedHello port b s) := by
    rw [exec_dritarHello, openFrame_good h, hello_eq]
    exact congrArg Host.Outcome.next (if_pos hv)
  refine ⟨fun hbad => ?_, fun h hinvalid => ?_, fun h hv h2 hswitch => ?_, fun h hv h2 hmodule => ?_, fun h hv h3 => ?_, fun h hv hup => ?_⟩
  · rw [exec_dritarHello, openFrame_bad hbad]
  · rw [exec_dritarHello, openFrame_good h, hello_eq]
    exact congrArg Host.Outcome.next (if_neg hinvalid)
  · rw [hgood h hv]
    exact congrArg Host.Outcome.next ((if_pos h2).trans (if_pos hswitch))
  · rw [hgood h hv]
    exact congrArg Host.Outcome.next ((if_pos h2).trans (if_neg fun h1 => absurd (hmodule.symm.trans h1) (by decide)))
  · rw [hgood h hv]
    exact congrArg Host.Outcome.next ((if_neg (by rw [h3]; decide)).trans (if_pos h3))
  · rw [hgood h hv]
    have h2 : ¬c.state = 2 := by omega
    have h3 : ¬c.state = 3 := by omega
    refine congrArg Host.Outcome.next ((if_neg h2).trans ((if_neg h3).trans ?_))
    have hkind : (byteAt p 32).toNat ≤ 1 := hv.2.2.1
    have hiff : (p.take 32 ≠ c.identity ∨ ((byteAt p 32).toNat = 1) ≠ (c.state = 5)) ↔
        ¬(p.take 32 = c.identity ∧ (byteAt p 32).toNat = if c.state = 5 then 1 else 0) := by
      rw [not_and_or]
      refine or_congr_right ?_
      rw [ne_eq, eq_iff_iff]
      split_ifs with h5
      · simp only [h5, iff_true]
      · simp only [h5, iff_false]
        omega
    by_cases hsame : p.take 32 = c.identity ∧ (byteAt p 32).toNat = if c.state = 5 then 1 else 0
    · rw [if_pos hsame]
      exact if_neg fun h => hiff.1 h hsame
    · rw [if_neg hsame]
      exact if_pos (hiff.2 hsame)

/-! ### Attestation -/

section
variable {port k : Nat} {b p : Bytes} {a : Att} {s : State}

/-- The whole chain is judged: it verifies and names the sender's identity, or the attempt is aborted. -/
theorem chain_judged (x : Att) (t : State) :
    (match Config.chainIdentity (rootCert t) x.chain with
      | none => abortAttest k 1 t
      | some i => if b256 i != (connAt t k).identity then abortAttest k 1 t else maybeSign k (sendOffer k x t)) =
    if (Config.chainIdentity (rootCert t) x.chain).any (fun i => b256 i == (connAt t k).identity) then maybeSign k (sendOffer k x t)
    else abortAttest k 1 t := by
  cases Config.chainIdentity (rootCert t) x.chain with
  | none => rfl
  | some i => by_cases hi : b256 i = (connAt t k).identity <;> simp [hi]

theorem attCert_some (h : attMessage s port b 0x10 = some (k, p, a)) :
    let x := { a with peerCerts := a.peerCerts ++ [p] }
    attCert port b s = if (byteAt p 33).toNat ≠ a.peerCerts.length ∨ a.whole = true then s
      else if x.whole = false then setAtt k x s
      else if (Config.chainIdentity (rootCert s) x.chain).any (fun i => b256 i == (connAt (setAtt k x s) k).identity) then
        maybeSign k (sendOffer k x (setAtt k x s))
      else abortAttest k 1 (setAtt k x s) := by
  intro x
  simp only [attCert, h, Bool.not_eq_true']
  exact congrArg (ite _ s) (congrArg (ite _ _) (chain_judged x (setAtt k x s)))

theorem attOffer_some (h : attMessage s port b 0x11 = some (k, p, a)) : attOffer port b s =
    if a.whole = false ∨ a.peerOffer ≠ [] then s
    else if (byteAt p 456).toNat < fusedSvn s then abortAttest k 2 s
    else (Config.oaepUnwrap identityKey (slice p 72 384) []).elim (abortAttest k 4 s)
      fun x => maybeSign k (setAtt k { a with peerOffer := p, peerSecret := padTo 32 x } s) := by
  simp only [attOffer, h, Bool.or_eq_true, Bool.not_eq_true', ne_eq, ← List.isEmpty_iff, Bool.not_eq_true]
  cases Config.oaepUnwrap identityKey (slice p 72 384) [] <;> rfl

theorem attSign_some (h : attMessage s port b 0x12 = some (k, p, a)) : attSign port b s =
    if a.offer = [] ∨ a.peerOffer = [] then s
    else if (byteAt a.peerOffer 456).toNat < fusedSvn s then abortAttest k 2 s
    else if Config.chainVerify a.chain (ascii "K9ATT" ++ attDigest (isLo (connAt s k).identity) a) (slice p 40 384) then
      attached k a (maybeSign k s)
    else abortAttest k 3 s := by
  simp only [attSign, h, Bool.or_eq_true, List.isEmpty_iff]

theorem attAbort_some (h : attMessage s port b 0x13 = some (k, p, a)) : attAbort port b s = failAttest k s := by
  simp only [attAbort, h]

end

/-- Settles O59. -/
theorem attestationRuns : Obligations.AttestationRuns := by
  refine ⟨⟨fun port b s hbad => ?bad, fun port b s h => ?good⟩, fun port s => ?timers⟩
  case bad =>
    have hdrop (f : State → State) := congrArg (Host.Outcome.next (φ := Fault) (ρ := Refusal)) (openFrame_bad hbad port f s)
    exact ⟨hdrop _, hdrop _, hdrop _, hdrop _⟩
  case good =>
    have hopen (f : State → State) := congrArg (Host.Outcome.next (φ := Fault) (ρ := Refusal)) (openFrame_good h port f s)
    refine ⟨fun hnone => ?_, fun hnone => ?_, fun hnone => ?_, fun hnone => ?_, fun k p a hm => ?_, fun k p a hm => ?_, fun k p a hm => ?_,
      fun k p a hm => ?_⟩ <;> refine (hopen _).trans (congrArg Host.Outcome.next ?_)
    · simp only [attCert, hnone]
    · simp only [attOffer, hnone]
    · simp only [attSign, hnone]
    · simp only [attAbort, hnone]
    · exact attCert_some hm
    · rw [attOffer_some hm]
      cases Config.oaepUnwrap identityKey (slice p 72 384) [] <;> rfl
    · exact attSign_some hm
    · exact attAbort_some hm
  case timers =>
    intro c
    refine ⟨⟨(freeBits 18 s).1, Nat.mod_lt _ (by decide), rfl⟩, ?_⟩
    refine congrArg Host.Outcome.next ?_
    simp only [Bool.not_eq_true', List.isEmpty_eq_false_iff]
    by_cases hlow : port < 64
    · rw [if_pos hlow, if_neg (Nat.not_le.2 hlow)]
    · rw [if_neg hlow, if_pos (Nat.not_lt.1 hlow)]

end Sys2Proof.Machine

/-!
PROOFS. Records, stages of a TRUE, transfers, and operations that wait.
-/

namespace Sys2Proof.Machine

/-! ### Accumulators -/

/-- One converted stroke joins an accumulator. -/
def accStep (trim : Nat) (acc : Int × Bool) (x : Nat × Int) : Int × Bool :=
  match adcCode trim x.2 with
  | some c => (acc.1 + x.1 * c, acc.2)
  | none => (acc.1, true)

/-- The clip flag stands once set, and the converted strokes add up. -/
theorem foldl_accStep (trim : Nat) (raws : List (Nat × Int)) (acc : Int × Bool) : raws.foldl (accStep trim) acc =
    (acc.1 + (raws.map fun x => (x.1 : Int) * (adcCode trim x.2).getD 0).sum, acc.2 || raws.any fun x => (adcCode trim x.2).isNone) := by
  induction raws generalizing acc with
  | nil => simp
  | cons x raws ih =>
    rw [List.foldl_cons, ih, accStep]
    cases hcode : adcCode trim x.2 <;> simp [hcode, add_assoc]

theorem accumulate_eq (trim : Nat) (raws : List (Nat × Int)) : accumulate trim raws =
    if raws.any (fun x => (adcCode trim x.2).isNone) then (0, true)
    else ((raws.map fun x => (x.1 : Int) * (adcCode trim x.2).getD 0).sum, false) := by
  have h : accumulate trim raws = if (raws.foldl (accStep trim) (0, false)).2 then (0, true) else raws.foldl (accStep trim) (0, false) := rfl
  rw [h, foldl_accStep, Bool.false_or, zero_add]
  cases raws.any fun x => (adcCode trim x.2).isNone <;> rfl

theorem divAway_mul (a : Int) {b : Nat} (hb : 0 < b) : divAway (a * b) b = a := by
  have h2 : (2 * b : Int) ≠ 0 := by omega
  rcases Int.lt_or_le a 0 with ha | ha
  · rw [divAway_of_neg (by nlinarith), show (b : Int) - 2 * (a * b) = b + -a * (2 * b) by ring, Int.add_mul_ediv_right _ _ h2]
    rw [Int.ediv_eq_zero_of_lt (by omega) (by omega)]
    omega
  · rw [divAway_of_nonneg (by positivity), show 2 * (a * b) + (b : Int) = b + a * (2 * b) by ring, Int.add_mul_ediv_right _ _ h2]
    rw [Int.ediv_eq_zero_of_lt (by omega) (by omega)]
    omega

theorem adcCode_untrimmed (u : Int) : adcCode 0 u = if u < -127 ∨ 127 < u then none else some u := by
  have hcode : divAway ((16 * u - signed 9 (0 % 512)) * (16384 + signed 12 (bits 0 27 16))) (16 * 16384) = u := by
    have h0 : (16 * u - signed 9 (0 % 512)) * (16384 + signed 12 (bits 0 27 16)) = u * (16 * 16384 : Nat) := by
      simp [signed, bits]
      ring
    rw [h0, divAway_mul u (by decide)]
  simp only [adcCode]
  rw [hcode]
  refine if_congr ?_ rfl rfl
  omega

/-- Settles O44. -/
theorem accumulatorsSumTheirCodes : Obligations.AccumulatorsSumTheirCodes := by
  refine ⟨fun trim raws => ?sum, fun trim u c h => ?bounds, fun trim => ⟨?_, ?_⟩, adcCode_untrimmed, fun kind base k elem path d => ?raw⟩
  case sum =>
    intro code
    rw [accumulate_eq]
    refine ⟨fun ⟨x, hx, hclip⟩ => if_pos ?_, fun hall => if_neg ?_⟩
    · exact List.any_eq_true.2 ⟨x, hx, Option.isNone_iff_eq_none.2 hclip⟩
    · intro hany
      obtain ⟨x, hx, hclip⟩ := List.any_eq_true.1 hany
      exact hall x hx (Option.isNone_iff_eq_none.1 hclip)
  case bounds =>
    simp only [adcCode] at h
    split_ifs at h with hclip
    rw [not_or, not_or] at hclip
    cases h
    omega
  · exact if_pos (.inr (.inr rfl))
  · exact if_pos (.inr (.inr rfl))
  case raw =>
    unfold rawValue
    split_ifs
    · omega
    · dsimp only
      rw [clampI]
      omega

/-! ### Records of a read -/

theorem needsReread_iff (j : ReadJob) (h : HalfRead) : needsReread j h = true ↔ j.unsettled = false ∧ h.kind ≠ 3 ∧ 32 < h.clips := by
  simp only [needsReread, Bool.and_eq_true, Bool.not_eq_true', bne_iff_ne, decide_eq_true_eq, and_assoc]

theorem Fly.with_wait {f : Fly} (h : f.wait = .none) (body : Body) : { f with wait := .none, body := body } = { f with body := body } := by
  rw [← h]

section
variable {id : Nat} {s : State} {f : Fly} {j : ReadJob}

/-- A record is written, or waits under FILL_DST while a word of it is full. -/
theorem tryRecord_eq (hwait : f.wait = .none) : tryRecord id f j s =
    let ws := j.halves.flatMap fun h => recordWordsOf j h (2 ^ j.burnish)
    if f.op.fill ∧ ∃ w ∈ ws, fullAt s w.1 = true then setFly id (some { f with wait := .fill (ws.map (·.1)), body := .read j }) s
    else setFly id (some { f with body := .read { j with done := true } }) (queuedWrite id f ws s) := by
  simp only [tryRecord, Bool.and_eq_true, List.any_eq_true]
  rw [Fly.with_wait hwait]
  rfl

theorem recordStage_due {code : Nat} (hf : flyAt s id = some f) (hbody : f.body = .read j) (hwait : f.wait = .none) (hdone : j.done = false)
    (hcode : f.op.code = code) (hdue : f.due ≤ s.spin.tick) (hnone : j.halves.any (needsReread j) = false) :
    recordStage code id s = tryRecord id f j s := by
  simp only [recordStage, hf, hbody]
  exact if_pos (by simp [hwait, hdone, hcode, hdue, hnone])

theorem recordStage_kept {code : Nat} (hf : flyAt s id = some f) (hbody : f.body = .read j) (hsome : j.halves.any (needsReread j) = true) :
    recordStage code id s = s := by
  simp only [recordStage, hf, hbody]
  exact if_neg (by simp [hsome])

/-- The halves of a read after their sub-reads. -/
def rereadJob (s : State) (f : Fly) (j : ReadJob) : ReadJob :=
  { j with halves := j.halves.map fun h => if needsReread j h then
      rereadHalf s ⟨j.phys, j.deck, (chuckOf s (bankOf s f.part) j.engine j.deck).getD [], j.gain, h.kind, j.a8, h.xs, s.free⟩ (repsOf j) h
    else h }

theorem rereadStage_due {d : Nat} (hf : flyAt s id = some f) (hbody : f.body = .read j) (hwait : f.wait = .none) (hdone : j.done = false)
    (hdrive : j.drive = some d) (hdue : d + 4 * j.strokes + 1 ≤ s.spin.tick) : rereadStage id s =
      let left := (((rereadJob s f j).halves.filter (·.split)).map fun h =>
        (h.redo.filter fun b => b).length + (h.redoCheck.filter fun b => b).length).sum
      tryRecord id f (rereadJob s f j) ((partAt s f.part).elim { s with free := s.free + 5 } fun p =>
        setPart f.part (some { p with rereads := p.rereads + 1, rereadLeft := p.rereadLeft + left }) { s with free := s.free + 5 }) := by
  have hwrite : rereadWrite j = some (d + 4 * j.strokes + 1) := by rw [rereadWrite, hdrive, Option.map_some]
  simp only [rereadStage, hf, hbody, hwrite]
  refine (if_pos (by simp [hwait, hdone, hdue])).trans ?_
  have hpart : partAt { s with free := s.free + 5 } f.part = partAt s f.part := rfl
  simp only [hpart]
  cases partAt s f.part <;> rfl

end

/-- Settles O43. -/
theorem recordsAreWritten : Obligations.RecordsAreWritten := by
  intro id s f j hf hbody hwait hdone records
  have hrecords (j : ReadJob) (u : State) : tryRecord id f j u = records j u := tryRecord_eq hwait
  refine ⟨fun hnone hdue => ?_, fun hsome => ⟨?_, fun d hdrive hdue => ?_⟩⟩
  · have hany : j.halves.any (needsReread j) = false := by
      rw [List.any_eq_false]
      intro h hh hneeds
      obtain ⟨hsettled, hkind, hclips⟩ := (needsReread_iff j h).1 hneeds
      rcases hnone h hh with h' | h' | h'
      · rw [h'] at hsettled
        cases hsettled
      · exact hkind h'
      · omega
    rw [← hrecords]
    exact ⟨fun hcode => congrArg Host.Outcome.next (recordStage_due hf hbody hwait hdone hcode hdue hany),
      fun hcode => congrArg Host.Outcome.next (recordStage_due hf hbody hwait hdone hcode hdue hany)⟩
  · obtain ⟨h, hh, hneeds⟩ := hsome
    exact congrArg Host.Outcome.next (recordStage_kept hf hbody (List.any_eq_true.2 ⟨h, hh, (needsReread_iff j h).2 hneeds⟩))
  · intro entry drive redone left
    have hredone : redone = rereadJob s f j := by
      simp only [redone, drive, entry, rereadJob, needsReread_iff]
      rfl
    have htrue : (fun b : Bool => b == true) = fun b => b := by
      funext b
      cases b <;> rfl
    refine congrArg Host.Outcome.next ((rereadStage_due hf hbody hwait hdone hdrive hdue).trans ?_)
    rw [← hrecords, hredone]
    simp only [left, htrue, hredone]
    cases partAt s f.part <;> rfl

/-! ### The stages of a TRUE -/

theorem openTrue_due {id : Nat} {s : State} {f : Fly} {t : TrueJob} (hf : flyAt s id = some f) (hbody : f.body = .true t)
    (hopen : t.opened = false) (hdue : f.due ≤ s.spin.tick) (hfirst : earlierTrue s f = false) :
    openTrue id s = advanceTrue id f { t with opened := true } (observe t t.inputs s) := by
  have h : trueDue s f = true := by
    simp only [trueDue, hbody]
    simp [hopen, hdue, hfirst]
  simp only [openTrue, hf, hbody, h]
  rfl

theorem readyRequest_some {s : State} {st req : Nat} {q : Request} (hq : q ∈ serviceOf s st)
    (honly : ∀ r ∈ serviceOf s st, r.id = req → r = q) (hid : q.id = req) (hstart : ∃ k, q.started = some k ∧ k + 12 ≤ s.spin.tick) :
    readyRequest s st req q.paired = some q := by
  obtain ⟨k, hk, hdue⟩ := hstart
  have hsome : (readyRequest s st req q.paired).isSome := by
    rw [readyRequest, List.find?_isSome]
    exact ⟨q, hq, by simp [hid, hk, hdue]⟩
  obtain ⟨r, hr⟩ := Option.isSome_iff_exists.1 hsome
  have hp := List.find?_some hr
  simp only [Bool.and_eq_true, beq_iff_eq] at hp
  rw [hr, honly r (List.mem_of_find?_eq_some hr) hp.1.1]

/-- What a read replay finds (R397): data columns that disagree, the check column, or nothing. -/
def replayOutcomeOf (t : TrueJob) (k : Nat) : Nat := if t.disagree k ≠ [] then 2 else if t.checkDisagrees k then 1 else 0

theorem replayOutcomeOf_cases (t : TrueJob) (k : Nat) : replayOutcomeOf t k = 0 ∨ replayOutcomeOf t k = 1 ∨ replayOutcomeOf t k = 2 := by
  unfold replayOutcomeOf
  split_ifs <;> simp

section
variable {id k : Nat} {s : State} {f : Fly} {t : TrueJob} {d : Int} (hf : flyAt s id = some f) (hbody : f.body = .true t)
  (hgroup : t.replay.find? (fun x => x.1 == k) = some (k, d))
include hf hbody hgroup

theorem resolveReplay_waits (h : replayReady t k = false) : resolveReplay id k s = s := by
  simp only [resolveReplay, hf, hbody, hgroup, h]
  rfl

theorem resolveReplay_ready (h : replayReady t k = true) : resolveReplay id k s =
    let out := replayOutcomeOf t k
    let v := postOncePerPass f.part 0x0801 2 t.phys (le 2 t.phys ++ le 1 t.deck ++ le 1 k ++ leInt 4 d ++ le 1 out) s
    let u :=
      if out = 0 then { v with integ := { v.integ with
        noise := tset 0 v.integ.noise (engineStack t.phys) (tget 0 v.integ.noise (engineStack t.phys) + 1) } }
      else if out = 1 then v
      else markSuspect (coreOf t.phys) 0 (blame (coreOf t.phys) v)
    let w := (t.disagree k ++ if t.checkDisagrees k then [512 + k] else []).foldl
      (fun w c => failElement (elemKey t.phys (t.column w f c)) 0 w) u
    advanceTrue id f { t with replay := t.replay.filter (fun x => x.1 != k), chosen := if out = 2 then t.chosen ++ [k] else t.chosen } w := by
  have hempty : (if !(t.disagree k).isEmpty then 2 else if t.checkDisagrees k then 1 else 0) = replayOutcomeOf t k := by
    simp only [replayOutcomeOf, Bool.not_eq_true', List.isEmpty_eq_false_iff]
  simp only [resolveReplay, hf, hbody, hgroup, h, hempty, Bool.not_true, Bool.false_eq_true, if_false]
  generalize postOncePerPass _ _ _ _ _ _ = v
  refine congrArg (fun u => advanceTrue id f _ (List.foldl _ u _)) ?_
  rcases replayOutcomeOf_cases t k with h0 | h1 | h2
  · rw [h0]
    rfl
  · rw [h1]
    rfl
  · simp only [h2, OfNat.ofNat_ne_zero, OfNat.ofNat_ne_one, if_false, if_true]

end

/-- Settles O46. -/
theorem trueStages : Obligations.TrueStages := by
  intro id st req group s
  refine ⟨fun f t hf hbody hopen hdue hfirst => congrArg Host.Outcome.next (openTrue_due hf hbody hopen hdue hfirst),
    fun q hq honly hid hstart => ?service, fun f t d hf hbody hgroup => ?replay⟩
  case service =>
    intro u
    have hready := readyRequest_some hq honly hid hstart
    refine ⟨fun hexact => ⟨?_, ?_⟩, fun hpaired => ?_⟩
    · rw [hexact] at hready
      refine congrArg (fun v => Host.Outcome.next (settleHalts s v)) ?_
      simp only [recomputeResult, hready]
      rfl
    · rw [hexact] at hready
      refine congrArg (fun v => Host.Outcome.next (settleHalts s v)) ?_
      simp only [recomputeResult, hready]
      rfl
    · rw [hpaired] at hready
      refine congrArg Host.Outcome.next ?_
      simp only [pairedResult, hready, u, dropRequest] <;> rfl
  case replay =>
    refine ⟨fun hwait => congrArg Host.Outcome.next (resolveReplay_waits hf hbody hgroup hwait), fun hready => ?_⟩
    intro bad out v u w
    exact congrArg Host.Outcome.next (resolveReplay_ready hf hbody hgroup hready)

/-! ### Memory transfers -/

/-- Where no partition has halted nothing goes on. -/
theorem settleHalts_self (s : State) : settleHalts s s = s := if_pos rfl

/-- Results are written, or wait under FILL_DST while a word of them is full. -/
theorem tryWrite_eq (id : Nat) (f : Fly) (ws : List (Nat × Bytes)) (s : State) : tryWrite id f ws s =
    if f.op.fill ∧ ∃ w ∈ ws, fullAt s w.1 = true then setFly id (some { f with wait := .fill (ws.map (·.1)), body := .out ws }) s
    else setFly id (some { f with wait := .none, body := .writing ws }) (queuedWrite id f ws s) := by
  simp only [tryWrite, Bool.and_eq_true, List.any_eq_true]
  rfl

section
variable {id : Nat} {s : State} {f : Fly}

theorem isNext_iff : isNext s id f = true ↔ (tget [] s.mem.order (channelKey f)).head? = some id := by
  rw [isNext, beq_iff_eq]

theorem not_next (h : s.spin.tick < f.due ∨ ¬(tget [] s.mem.order (channelKey f)).head? = some id) :
    s.spin.tick < f.due ∨ (!isNext s id f) = true := by
  rw [Bool.not_eq_true', ← Bool.not_eq_true, isNext_iff]
  exact h

theorem is_next (hdue : f.due ≤ s.spin.tick) (h : (tget [] s.mem.order (channelKey f)).head? = some id) :
    ¬(s.spin.tick < f.due ∨ (!isNext s id f) = true) := by
  rw [Bool.not_eq_true', ← Bool.not_eq_true, isNext_iff, not_or]
  exact ⟨Nat.not_lt.2 hdue, not_not.2 h⟩

variable {region a n dest : Nat} {b : Bytes}

theorem memArrival_early (hf : flyAt s id = some f) (hbody : f.body = .memRead region a n dest)
    (h : s.spin.tick < f.due ∨ ¬(tget [] s.mem.order (channelKey f)).head? = some id) (ok : Bool) : memArrival id ok s = s := by
  simp only [memArrival, hf, hbody]
  exact if_pos (not_next h)

theorem memArrival_due (hf : flyAt s id = some f) (hbody : f.body = .memRead region a n dest) (hdue : f.due ≤ s.spin.tick)
    (h : (tget [] s.mem.order (channelKey f)).head? = some id) (ok : Bool) : memArrival id ok s =
      let u := tryWrite id f (toWords dest (regionRead s f region a n)) (dequeue id f s)
      if ok then u else readTile f region a u := by
  simp only [memArrival, hf, hbody]
  exact if_neg (is_next hdue h)

theorem memDone_early (hf : flyAt s id = some f) (hbody : f.body = .memWrite region a b)
    (h : s.spin.tick < f.due ∨ ¬(tget [] s.mem.order (channelKey f)).head? = some id) : memDone id s = s := by
  simp only [memDone, hf, hbody]
  exact if_pos (not_next h)

theorem memDone_due (hf : flyAt s id = some f) (hbody : f.body = .memWrite region a b) (hdue : f.due ≤ s.spin.tick)
    (h : (tget [] s.mem.order (channelKey f)).head? = some id) : memDone id s =
      endFly id { dequeue id f s with mem := { (dequeue id f s).mem with scratch := mwrite (dequeue id f s).mem.scratch a b } } := by
  simp only [memDone, hf, hbody]
  exact if_neg (is_next hdue h)

end

/-! ### Frames of the grain links -/

section
variable {id link : Nat} {rest : List Nat} {s : State} {g : GrainFrame}

theorem grainArrival_stays (hg : s.net.frames.find? (fun h => h.id == id) = some g) (h : grainCan s g = false) (ok : Bool) :
    grainArrival id ok s = s := by
  simp only [grainArrival, hg, h]
  rfl

theorem grainArrival_crosses (hg : s.net.frames.find? (fun h => h.id == id) = some g) (hroute : g.route = link :: rest)
    (h : grainCan s g = true) (ok : Bool) : grainArrival id ok s =
      if ok && !linkRetrains s link then linkWait g.fly false { useSlots g.part link 1 s with net := { (useSlots g.part link 1 s).net with
        frames := s.net.frames.map fun h => if h.id = id then h.cross s.spin.tick else h } }
      else linkWait g.fly true (linkErrors link 1 (useSlots g.part link 1 s)) := by
  have hhead : g.route.headD 0 = link := by rw [hroute, List.headD_cons]
  simp only [grainArrival, hg, h, hhead]
  rfl

theorem linkRetrains_iff : linkRetrains s link = true ↔ ∃ r ∈ s.host.stackResets, r.2.testBit (link / 4) = true ∨ r.2.testBit (linkEnd link) = true := by
  simp only [linkRetrains, inReset, Bool.or_eq_true, List.any_eq_true]
  constructor
  · rintro (⟨r, hr, h⟩ | ⟨r, hr, h⟩)
    · exact ⟨r, hr, .inl h⟩
    · exact ⟨r, hr, .inr h⟩
  · rintro ⟨r, hr, h | h⟩
    · exact .inl ⟨r, hr, h⟩
    · exact .inr ⟨r, hr, h⟩

theorem linkWait_some {k : Nat} {f : Fly} (hf : flyAt s k = some f) (w : Bool) : linkWait k w s =
    if w = true ∧ f.wait = .none then setFly k (some { f with wait := .link }) s
    else if w = false ∧ f.wait = .link then setFly k (some { f with wait := .none }) s
    else s := by
  simp only [linkWait, hf]
  cases w <;> cases f.wait <;> rfl

end

/-- Settles O47. -/
theorem transfersAndGrainFrames : Obligations.TransfersAndGrainFrames := by
  refine ⟨fun id s f hf => ?transfers, fun id s g link rest hg hroute => ?frames⟩
  case transfers =>
    intro order next popped
    refine ⟨fun region a n dest hbody => ⟨fun h ok => ?_, fun hdue h => ?_⟩, fun region a b hbody => ⟨fun h => ?_, fun hdue h => ?_⟩⟩
    · refine congrArg Host.Outcome.next ((congrArg (settleHalts s) (memArrival_early hf hbody h ok)).trans (settleHalts_self s))
    · intro ws u
      have hu : tryWrite id f ws (dequeue id f s) = u := tryWrite_eq id f ws (dequeue id f s)
      exact ⟨congrArg (fun v => Host.Outcome.next (settleHalts s v)) ((memArrival_due hf hbody hdue h true).trans hu),
        congrArg (fun v => Host.Outcome.next (settleHalts s v)) ((memArrival_due hf hbody hdue h false).trans (congrArg (readTile f region a) hu))⟩
    · exact congrArg Host.Outcome.next (memDone_early hf hbody h)
    · exact congrArg Host.Outcome.next (memDone_due hf hbody hdue h)
  case frames =>
    intro used
    refine ⟨fun h ok => congrArg Host.Outcome.next (grainArrival_stays hg h ok), fun h => ?_, linkRetrains_iff, fun w f hf => linkWait_some hf w⟩
    intro failed
    refine ⟨congrArg Host.Outcome.next ((grainArrival_crosses hg hroute h true).trans ?_), congrArg Host.Outcome.next (grainArrival_crosses hg hroute h false)⟩
    rw [Bool.true_and]
    cases linkRetrains s link <;> rfl

/-! ### Barrier waits -/

theorem planOfFly_some {s : State} {f : Fly} {q : Plan} (h : tget none s.plans.loaded (f.part / 16) = some q) :
    planOfFly s f = some (f.part / 16, q) := by
  simp only [planOfFly, planAt, h, Option.map_some]

/-- How a release stands is judged by the copy: not released, released long ago, or released at an index. -/
def byRelease (r : Option (Option Nat)) (waiting done : State) (since : Nat → State) : State :=
  match r with
  | none => waiting
  | some none => done
  | some (some k) => since k

theorem startWait_some {id : Nat} {f : Fly} {s : State} {q : Plan} (h : tget none s.plans.loaded (f.part / 16) = some q) :
    startWait id f s =
      let b := opBits f.op 11 0
      let gen := (tget 0 q.arrivals (unitPos f.st f.op * 4096 + b) + 65535) % 65536
      let wait := setFly id (some { f with wait := .release gen, body := .barrier b gen }) s
      byRelease (releaseOf (barrierAt q b) gen) wait s fun k =>
        if k + releaseBound s f.part (((barrierDef q b).map (·.scope)).getD 0) ≤ s.spin.tick then s else wait := by
  simp only [startWait, planOfFly_some h, byRelease]
  rfl

theorem releaseReach_some {id : Nat} {f : Fly} {s : State} {q : Plan} {b gen : Nat} (hf : flyAt s id = some f) (hbody : f.body = .barrier b gen)
    (hwait : f.wait = .release gen) (h : tget none s.plans.loaded (f.part / 16) = some q) : releaseReach id s =
      byRelease (releaseOf (barrierAt q b) gen) s (endFly id s) fun k => if k < s.spin.tick then endFly id s else s := by
  simp only [releaseReach, hf, hbody, hwait, planOfFly_some h]
  rcases releaseOf (barrierAt q b) gen with _ | _ | k <;> rfl

/-! ### Waiting operations that try again -/

theorem stalledOut_iff (s : State) (f : Fly) : stalledOut s f = true ↔ f.wait ≠ .none ∧ limitOf s f ≤ f.stall := by
  rw [stalledOut, Bool.and_eq_true, bne_iff_ne, decide_eq_true_iff]

/-- What a waiting operation does once what it waits for is there. -/
def goesOn (id : Nat) (f : Fly) (s : State) : State :=
  let g := { f with wait := .none }
  match f.wait with
  | .guard _ => restartStall id (reread id g (setFly id (some g) s))
  | .fill _ => rewrite_ id g (setFly id (some g) s)
  | .arrival => retryArrive id g (setFly id (some g) s)
  | _ => s

theorem arrive_refused_iff (key : Nat) (q : Plan) (b a : Nat) (s : State) : (arrive key q b a s).2 = true ↔
    2 ≤ genDist a (barrierAt q b).g ∧ genDist a (barrierAt q b).g ≤ 32767 := by
  simp only [arrive]
  split_ifs
  · simp; omega
  · simp; omega
  · simp; omega

section
variable {id : Nat} {s : State} {f : Fly}

theorem resume_idle (hf : flyAt s id = some f) (h : f.wait = .none ∨ stalledOut s f = true) : resume id s = s := by
  simp only [resume, hf]
  refine if_pos ?_
  rcases h with hnone | hstalled
  · simp [satisfied, hnone]
  · simp [hstalled]

theorem resume_running (hf : flyAt s id = some f) (hrun : stalledOut s f = false) : resume id s =
    if satisfied s f = true then goesOn id f s else s := by
  simp only [resume, hf, hrun, Bool.or_false, Bool.not_eq_true']
  cases satisfied s f <;> rfl

theorem all_full_iff {ws : List Nat} : ws.all (fullAt s) = true ↔ ∀ w ∈ ws, fullAt s w = true := List.all_eq_true

theorem none_full_iff {ws : List Nat} : (!ws.any (fullAt s)) = true ↔ ∀ w ∈ ws, fullAt s w = false := by
  rw [Bool.not_eq_true', List.any_eq_false]
  simp only [Bool.not_eq_true]

theorem resume_guard {ws : List Nat} (hf : flyAt s id = some f) (hrun : stalledOut s f = false) (hwait : f.wait = .guard ws) :
    resume id s = if ∀ w ∈ ws, fullAt s w = true then
      restartStall id (reread id { f with wait := .none } (setFly id (some { f with wait := .none }) s)) else s := by
  have hsat : satisfied s f = ws.all (fullAt s) := by
    simp only [satisfied, hwait]
  rw [resume_running hf hrun, hsat]
  simp only [all_full_iff, goesOn, hwait]

theorem resume_fill {ws : List Nat} (hf : flyAt s id = some f) (hrun : stalledOut s f = false) (hwait : f.wait = .fill ws) {p : Prop} [Decidable p]
    (hsat : satisfied s f = true ↔ p) :
    resume id s = if p then rewrite_ id { f with wait := .none } (setFly id (some { f with wait := .none }) s) else s := by
  rw [resume_running hf hrun]
  simp only [hsat, goesOn, hwait]

theorem rewrite_out {out : List (Nat × Bytes)} (h : f.body = .out out) : rewrite_ id f s = tryWrite id f out s := by
  simp only [rewrite_, h]

theorem rewrite_read {j : ReadJob} (h : f.body = .read j) : rewrite_ id f s = tryRecord id f j s := by
  simp only [rewrite_, h]

theorem rewrite_true {t : TrueJob} (h : f.body = .true t) : rewrite_ id f s = flushTrue id f t s := by
  simp only [rewrite_, h]

theorem resume_arrival {q : Plan} {b a : Nat} (hf : flyAt s id = some f) (hrun : stalledOut s f = false) (hwait : f.wait = .arrival)
    (hbody : f.body = .barrier b a) (hq : tget none s.plans.loaded (f.part / 16) = some q) :
    resume id s = if 2 ≤ genDist a (barrierAt q b).g ∧ genDist a (barrierAt q b).g ≤ 32767 then s
      else retryArrive id { f with wait := .none } (setFly id (some { f with wait := .none }) s) := by
  have hsat : satisfied s f = !(arrive (f.part / 16) q b a s).2 := by
    simp only [satisfied, hwait, hbody, planOfFly_some hq]
  rw [resume_running hf hrun, hsat]
  simp only [goesOn, hwait, ← arrive_refused_iff (f.part / 16) q b a s]
  cases (arrive (f.part / 16) q b a s).2 <;> rfl

end

/-- Settles O49. -/
theorem waitingOperationsResume : Obligations.WaitingOperationsResume := by
  refine ⟨⟨fun st op s pk p q hdue hq => ?wait, fun id s f q b gen hf hbody hwait hq => ?reach⟩, fun id s f hf => ?resume⟩
  case wait =>
    intro b gen t wait
    refine congrArg Host.Outcome.next ((issue_due hdue startWait).trans ?_)
    rw [startWait_some (q := q) hq]
    change byRelease (releaseOf (barrierAt q b) gen) wait t (fun k =>
      if k + releaseBound t pk (((barrierDef q b).map (·.scope)).getD 0) ≤ s.spin.tick then t else wait) = _
    rcases releaseOf (barrierAt q b) gen with _ | _ | k <;> rfl
  case reach =>
    refine congrArg Host.Outcome.next ((releaseReach_some hf hbody hwait hq).trans ?_)
    rcases releaseOf (barrierAt q b) gen with _ | _ | k <;> rfl
  case resume =>
    intro g
    refine ⟨fun h => congrArg Host.Outcome.next (resume_idle hf h), stalledOut_iff s f, fun hrun => ⟨fun ws hwait => ?_, fun ws out hwait hbody => ?_,
      fun ws j hwait hbody => ?_, fun ws t hwait hbody => ?_, fun q b a hwait hbody hq => ?_⟩⟩
    · exact congrArg Host.Outcome.next (resume_guard hf hrun hwait)
    · have hsat : satisfied s f = true ↔ ∀ w ∈ ws, fullAt s w = false := by
        rw [← none_full_iff]
        simp only [satisfied, hwait, hbody]
      exact congrArg Host.Outcome.next ((resume_fill hf hrun hwait hsat).trans (congrArg (ite _ · s) (rewrite_out hbody)))
    · have hsat : satisfied s f = true ↔ ∀ w ∈ ws, fullAt s w = false := by
        rw [← none_full_iff]
        simp only [satisfied, hwait, hbody]
      exact congrArg Host.Outcome.next ((resume_fill hf hrun hwait hsat).trans (congrArg (ite _ · s) (rewrite_read hbody)))
    · have hsat : satisfied s f = true ↔ (∀ w ∈ ws, fullAt s w = false) ∧ ¬(0 ∈ t.left ∧ earlierTrue s f = true) := by
        rw [← none_full_iff]
        simp only [satisfied, hwait, hbody]
        refine Bool.and_eq_true_iff.trans (and_congr_right' ?_)
        rw [Bool.not_eq_true', ← Bool.not_eq_true, Bool.and_eq_true, List.contains_iff_mem]
      exact congrArg Host.Outcome.next ((resume_fill hf hrun hwait hsat).trans (congrArg (ite _ · s) (rewrite_true hbody)))
    · exact congrArg Host.Outcome.next (resume_arrival hf hrun hwait hbody hq)

end Sys2Proof.Machine

/-!
PROOFS. Index boundaries, failed tiles, received counts; spindle stops, pass starts, pass boundaries and stall limits.
-/

namespace Sys2Proof.Machine

/-! ### Index boundaries, failed tiles, and received counts -/

/-- A plan-table entry of the version that failed does not stay current. -/
theorem tget_other_ne (v : Nat) (t : Tab (Option Nat)) :
    tget none (t.filter fun x => x.2.map (x.1 * 256 + ·) != some v) (v / 256) ≠ some (v % 256) := by
  intro h
  have hne := (List.mem_filter.mp (mem_of_tget h)).2
  simp only [Option.map_some, bne_iff_ne, ne_eq, Option.some.injEq] at hne
  omega

/-- The code of one more bit stays within its width. -/
theorem crcStep_lt (w poly c : Nat) (b : Bool) (hpoly : poly < 2 ^ w) : crcStep w poly c b < 2 ^ w := by
  have hlow : c * 2 % 2 ^ w < 2 ^ w := Nat.mod_lt _ (Nat.two_pow_pos w)
  simp only [crcStep]
  split
  · exact Nat.xor_lt_two_pow hlow hpoly
  · exact hlow

theorem foldl_crcStep_lt (w poly : Nat) (hpoly : poly < 2 ^ w) (bs : List Bool) {c : Nat} (hc : c < 2 ^ w) :
    bs.foldl (crcStep w poly) c < 2 ^ w := by
  induction bs generalizing c with
  | nil => exact hc
  | cons b bs ih => exact ih (crcStep_lt w poly c b hpoly)

theorem crc16_lt (b : Bytes) : crc16 b < 2 ^ 16 := foldl_crcStep_lt 16 _ (by decide) _ (by decide)

section
variable (s : State)

theorem indexBoundary_open (fails : List CrcFail) (h : indexOpen s = true ∨ s.phys.pwrGood = false) : indexBoundary fails s = s :=
  if_pos (by rcases h with h | h <;> simp [h])

theorem indexBoundary_closed (fails : List CrcFail) (hopen : indexOpen s = false) (hpwr : s.phys.pwrGood = true) :
    indexBoundary fails s = beginIndex (endIndex (settleHalts s (fails.foldl crcFailed s))) :=
  if_neg (by simp [hopen, hpwr])

theorem partAt_suspectPass {pk cause : Nat} {p : Part} (h : partAt s pk = some p) :
    partAt (suspectPass pk cause s) pk = some { p with suspect := p.suspect ||| 2 ^ cause } := by
  rw [suspectPass, h]
  exact tget_tset_self s.plans.parts pk (some { p with suspect := p.suspect ||| 2 ^ cause })

theorem partAt_postTile (region place addr pk : Nat) : partAt (postTile region place addr s) pk = partAt s pk :=
  congrArg (fun x : Plans => tget none x.parts pk) (postEvent_plans ..)

theorem partAt_crcFailed_store {g pk : Nat} {p : Part} (hpart : partOfStack s (wordStack g) = some (pk, p))
    (hp : partAt s pk = some p) : partAt (crcFailed s (.store g)) pk = some { p with suspect := p.suspect ||| 8 } := by
  rw [crcFailed, hpart]
  refine partAt_suspectPass _ ?_
  rw [apply_ite (partAt · pk), partAt_postTile, partAt_postTile, ite_self, hp]

theorem ctxAt_crcFailed_log {k : Nat} {c : Ctx} (h : ctxAt s k = some c) :
    ctxAt (crcFailed s (.log k)) k = some { c with damaged := true } := by
  have hset : ctxAt (setCtx k (some { c with damaged := true }) (postTile 3 0 0 s)) k = some { c with damaged := true } :=
    tget_tset_self (postTile 3 0 0 s).serve.ctxs k (some { c with damaged := true })
  rw [crcFailed, logFailed, h]
  dsimp only
  split
  · exact hset
  · split <;> exact hset

theorem crcFailed_adapter {v : Nat} {a : Adapter} (h : tget none s.model.adapters v = some a) :
    tget none (crcFailed s (.adapter v)).model.adapters v = some { a with damaged := true } ∧
      tget none (crcFailed s (.adapter v)).model.current (v / 256) ≠ some (v % 256) := by
  rw [crcFailed, adapterFailed, h]
  exact ⟨tget_tset_self (postTile 4 0 0 s).model.adapters v (some { a with damaged := true }), tget_other_ne v _⟩

/-- Whether the count advances at an index boundary: while Locked and not held, or for a self spindle that acquires. -/
def countRuns (s : State) : Bool := (s.spin.state == 2 && !s.spin.held) || (s.spin.state == 1 && s.spin.selfStart.isSome)

theorem countRuns_iff : countRuns s = true ↔ (s.spin.state = 2 ∧ s.spin.held = false) ∨ (s.spin.state = 1 ∧ s.spin.selfStart ≠ none) := by
  simp [countRuns, Option.isSome_iff_ne_none]

/-- The state one tick later, at a count that may open a turn. -/
def ticked (s : State) (count : Nat) (atTurn : Bool) : State :=
  { s with spin := { s.spin with tick := s.spin.tick + 1, count := count, held := false, atTurn := atTurn } }

theorem tickOver_ticked : tickOver s =
    (ticked s (if countRuns s then (s.spin.count + 1) % 2 ^ 64 else s.spin.count)
      (s.spin.state == 2 && countRuns s && (if countRuns s then (s.spin.count + 1) % 2 ^ 64 else s.spin.count) % 8192 == 0), countRuns s) := rfl

theorem locked_countRuns (n : Nat) : (s.spin.state == 2 && countRuns s && n % 8192 == 0) =
    decide (s.spin.state = 2 ∧ s.spin.held = false ∧ n % 8192 = 0) := by
  rw [Bool.eq_iff_iff]
  by_cases h : s.spin.state = 2 <;> simp [countRuns, h]

end

/-! ### Received counts -/

section
variable (s : State)

/-- A valid count of a turn, compared with the own one. -/
theorem spindleFrame_eq {sync turn crc : Nat} (hsource : s.spin.source = 1) (hstate : s.spin.state ≠ 0) (hsync : sync < 2 ^ 8)
    (hturn : turn < 2 ^ 51) (hcrc : crc < 2 ^ 8) (bitError : Bool) :
    spindleFrame (BitVec.ofNat 67 (sync * 2 ^ 59 + turn * 2 ^ 8 + crc)) bitError s =
      if bitError = false ∧ sync = 0xD2 ∧ crc = crc8 ((List.range 51).map fun k => turn.testBit (50 - k))
      then validCount turn 66 s else badCount s := by
  have hn : (BitVec.ofNat 67 (sync * 2 ^ 59 + turn * 2 ^ 8 + crc)).toNat = sync * 2 ^ 59 + turn * 2 ^ 8 + crc := by
    rw [BitVec.toNat_ofNat, Nat.mod_eq_of_lt (by omega)]
  have hturns : (sync * 2 ^ 59 + turn * 2 ^ 8 + crc) / 256 % 2 ^ 51 = turn := by omega
  have hsyncs : (sync * 2 ^ 59 + turn * 2 ^ 8 + crc) / 2 ^ 59 = sync := by omega
  have hcrcs : (sync * 2 ^ 59 + turn * 2 ^ 8 + crc) % 256 = crc := by omega
  refine (if_neg (by simp [hsource, hstate])).trans ?_
  simp only [hn, hturns, hsyncs, hcrcs]
  refine if_congr ?_ rfl rfl
  simp only [Bool.and_eq_true, Bool.not_eq_true', beq_iff_eq, and_assoc, eq_comm (b := crc)]

/-- The fields of a marker block before its code. -/
def markerHead (turn hops sender : Nat) : Bytes := le 2 0xD25A ++ le 7 turn ++ le 1 hops ++ le 2 sender ++ le 2 0

theorem markerHead_length (turn hops sender : Nat) : (markerHead turn hops sender).length = 14 := by
  simp only [markerHead, List.length_append, le_length]

theorem dritarMarker_eq {turn hops sender crc : Nat} (hsource : s.spin.source = 2) (hstate : s.spin.state ≠ 0)
    (hconn : (connAt s s.spin.port).state = 4) (hturn : turn < 2 ^ 51) (hhops : hops < 2 ^ 8) (hcrc : crc < 2 ^ 16) :
    dritarMarker s.spin.port (markerHead turn hops sender ++ le 2 crc) s =
      if crc16 (markerHead turn hops sender) = crc
      then validCount turn 0 { s with spin := { s.spin with hops := min 255 (hops + 1) } } else badCount s := by
  have hlen : (markerHead turn hops sender ++ le 2 crc).length = 16 := by
    rw [List.length_append, markerHead_length, le_length]
  have hmagic : fld (markerHead turn hops sender ++ le 2 crc) 0 2 = 0xD25A := by
    simp (disch := decide) only [markerHead, List.append_assoc, fld_le_append]
  have hturns : fld (markerHead turn hops sender ++ le 2 crc) 2 7 = turn := by
    simp (disch := omega) only [markerHead, List.append_assoc, fld_le_append_of_le, fld_le_append, Nat.reduceSub]
  have hhop : fld (markerHead turn hops sender ++ le 2 crc) 9 1 = hops := by
    simp (disch := omega) only [markerHead, List.append_assoc, fld_le_append_of_le, fld_le_append, Nat.reduceSub]
  have hcode : fld (markerHead turn hops sender ++ le 2 crc) 14 2 = crc := by
    rw [fld_append_of_length_le (markerHead_length ..).le, markerHead_length]
    exact fld_le hcrc
  have htake : (markerHead turn hops sender ++ le 2 crc).take 14 = markerHead turn hops sender :=
    List.take_left' (markerHead_length ..)
  refine (if_neg (by simp [hsource, hstate, hconn])).trans ?_
  rw [hlen, hmagic, hturns, hhop, hcode, htake, Nat.mod_eq_of_lt hturn]
  exact if_congr (by simp) rfl rfl

end

/-- Settles O51. -/
theorem indexesAndFrames : Obligations.IndexesAndFrames := by
  refine ⟨fun s => ⟨fun fails h => congrArg Host.Outcome.next (indexBoundary_open s fails h),
    fun fails hopen hpwr => congrArg Host.Outcome.next (indexBoundary_closed s fails hopen hpwr), fun _ => rfl,
    fun g pk p hpart hp => partAt_crcFailed_store s hpart hp, fun k c h => ctxAt_crcFailed_log s h,
    fun v a h => crcFailed_adapter s h, ?_⟩, fun s turn hturn hstate => ?_⟩
  · intro runs count
    have hcount : (if countRuns s then (s.spin.count + 1) % 2 ^ 64 else s.spin.count) = count := if_congr (countRuns_iff s) rfl rfl
    refine (tickOver_ticked s).trans (congrArg₂ Prod.mk (congrArg₂ (ticked s) hcount ?_) ?_)
    · rw [hcount]
      exact locked_countRuns s count
    · exact Bool.eq_iff_iff.mpr ((countRuns_iff s).trans decide_eq_true_iff.symm)
  · intro judged bad
    refine ⟨fun hsource sync crc hsync hcrc bitError => congrArg Host.Outcome.next (spindleFrame_eq s hsource hstate hsync hturn hcrc bitError),
      fun hsource hconn hops sender hhops hsender => ?_⟩
    intro head
    refine ⟨congrArg Host.Outcome.next ?_, fun crc hcrc hne => congrArg Host.Outcome.next ?_⟩
    · exact (dritarMarker_eq s hsource hstate hconn hturn hhops (crc16_lt _)).trans (if_pos rfl)
    · refine (dritarMarker_eq s hsource hstate hconn hturn hhops hcrc).trans (if_neg fun h => hne ?_)
      rw [← h]
      exact (Nat.mod_eq_of_lt (crc16_lt _)).symm

/-! ### Spindle stops and returns, pass starts, pass boundaries and stall limits -/

section
variable (s : State)

theorem selfLock_some {n k : Nat} (hself : s.spin.selfStart = some (n, k)) (hstate : s.spin.state = 1) :
    selfLock s = if k + 2 ≤ s.spin.tick then lockAt s.spin.count s else s := by
  rw [selfLock, hself]
  simp only [hstate, beq_self_eq_true, Bool.true_and, decide_eq_true_eq]

theorem spindleStop_locked (hstate : s.spin.state = 2) (hsource : s.spin.source ≠ 3) : spindleStop s =
    postEvent 2 0 0x0202 2 (le 8 s.spin.count) { s with spin := { s.spin with state := 3, held := false, stopTick := s.spin.tick } } :=
  if_neg (by simp [hstate, hsource])

theorem spindleStop_other (h : s.spin.state ≠ 2 ∨ s.spin.source = 3) : spindleStop s = s :=
  if_pos (by simpa using h)

theorem spindleResume_other (h : s.spin.state ≠ 3) : spindleResume s = s := if_pos (by simpa using h)

theorem spindleResume_coasting (h : s.spin.state = 3) : spindleResume s =
    idleMode (postEvent 2 0 0x0203 1 (le 4 (s.spin.tick - s.spin.stopTick))
      (loseRun { s with spin := { s.spin with state := 2, count := (s.spin.count + 64) % 2 ^ 64, held := false, atTurn := false } })) :=
  if_neg (by simp [h])

/-! ### Starts -/

variable {s}

theorem stopDue_eq_false {q : Plan} : stopDue s q = false ↔ ∀ x, q.stop = some x → turnOf s < x.2 := by
  rw [stopDue, Option.any_eq_false]
  exact forall₂_congr fun x _ => decide_eq_false_iff_not.trans Nat.not_le

theorem mayStart_iff {q : Plan} {d : PartDef} : mayStart s q d = true ↔
    (q.state = 1 ∨ q.state = 2) ∧ d.part ∈ q.waiting ∧ (∀ x, q.stop = some x → turnOf s < x.2) ∧ s.spin.atTurn = true ∧
      s.spin.state = 2 ∧ q.startTurn ≤ turnOf s ∧ (∀ x ∈ parts s, x.2.d.mask &&& d.mask = 0) ∧ partBusy s d = false := by
  simp only [mayStart, Bool.and_eq_true, Bool.or_eq_true, beq_iff_eq, List.contains_iff_mem, Bool.not_eq_true', stopDue_eq_false,
    decide_eq_true_eq, List.all_eq_true, and_assoc]
  rw [and_comm (a := partBusy s d = false)]

section
variable {k part : Nat} {q : Plan} {d : PartDef} (hplan : planAt s k = some q) (hpart : q.d.parts.find? (fun d => d.part == part) = some d)
include hplan hpart

theorem planStart_waits (h : mayStart s q d = false ∨ nextBoundary s (partKey k part) = false) : planStart k part s = s := by
  rw [planStart, hplan]
  dsimp only
  rw [hpart]
  exact if_pos (by rcases h with h | h <;> simp [h])

/-- A partition's first pass, on the state whose stacks are free. -/
def startPart (k part : Nat) (q : Plan) (d : PartDef) (s : State) : State :=
  let pk := partKey k part
  let u := setPlan k (some { q with state := 2, waiting := q.waiting.filter (· != part) }) (releaseHalted k d s)
  let u := d.stacks.foldl (fun u st => emptyStack st u) (adoptSlots pk d q.d.digref u)
  let bank := firstBank u q.d
  let u := pinFollowers q.d.model bank pk (setPart pk (some (newPart u k d bank)) u)
  let u := { u with cal := { u.cal with released := u.cal.released.filter fun st => !d.mask.testBit st } }
  let u := joinMode pk (joinSwitches pk q.d.model u)
  enterPass pk d (postPlan pk 0x0210 1 (le 4 (k % 65536) ++ le 8 (turnOf u)) u)

theorem planStart_starts (hmay : mayStart s q d = true) (hnext : nextBoundary s (partKey k part) = true) :
    planStart k part s = startPart k part q d s := by
  rw [planStart, hplan]
  dsimp only
  rw [hpart]
  exact if_neg (by simp [hmay, hnext])

end

/-! ### Pass boundaries -/

/-- What a pass boundary does once the pass is counted: the partition stops, or its next pass begins. -/
def nextPass (pk : Nat) (d : PartDef) (u : State) : State :=
  match partAt u pk, planAt u (pk / 16) with
  | some x, some q =>
    if stopDue u q ∨ takers u pk ≠ [] then stopPart pk x u
    else enterPass pk d (setPart pk (some (freshPass u { x with last := some (x.charges, x.overflow, x.overFrozen) })) u)
  | _, _ => u

/-- The steps of a pass boundary before the commit, and the commit. -/
def countedPass (pk : Nat) (p : Part) (s : State) : State :=
  let u := checkSums pk p.d s
  let u := if intenseOn u p.d then suspectPass pk 4 u else u
  shiftRefs p.d (commitPass pk (countPass pk p (noteStretch pk p (passReports pk u))))

theorem passOver_iff {p : Part} : passOver s p = true ↔ s.spin.atTurn = true ∧ s.spin.state = 2 ∧ p.ending = true := by
  simp [passOver, and_assoc]

section
variable {pk : Nat} {p : Part} (hp : partAt s pk = some p)
include hp

theorem passBoundary_waits (h : ¬ (passOver s p = true ∧ nextBoundary s pk = true)) : passBoundary pk s = s := by
  rw [passBoundary, hp]
  exact if_pos (by rwa [Bool.not_eq_true', Bool.eq_false_iff, ne_eq, Bool.and_eq_true])

theorem passBoundary_ends (hover : passOver s p = true) (hnext : nextBoundary s pk = true) :
    passBoundary pk s = nextPass pk p.d (countedPass pk p s) := by
  rw [passBoundary, hp]
  refine (if_neg (by simp [hover, hnext])).trans ?_
  change (match partAt (countedPass pk p s) pk, planAt (countedPass pk p s) (pk / 16) with
    | some x, some q =>
      if stopDue (countedPass pk p s) q || !(takers (countedPass pk p s) pk).isEmpty then stopPart pk x (countedPass pk p s)
      else enterPass pk p.d (setPart pk (some (freshPass (countedPass pk p s) { x with last := some (x.charges, x.overflow, x.overFrozen) }))
        (countedPass pk p s))
    | _, _ => countedPass pk p s) = _
  generalize countedPass pk p s = u
  rw [nextPass]
  split
  · refine if_congr ?_ rfl rfl
    simp
  · rfl

theorem partAt_judgePasses (hturn : s.spin.atTurn = true) (hstate : s.spin.state = 2) :
    partAt (judgePasses s) pk = some { p with ending := passDone s pk p } := by
  rw [judgePasses, if_neg (by simp [hturn, hstate])]
  refine (tget_map_some s.plans.parts (fun k p => { p with ending := passDone s k p }) pk).trans ?_
  rw [show tget none s.plans.parts pk = some p from hp]
  rfl

end

theorem passDone_iff {pk : Nat} {p : Part} : passDone s pk p = true ↔
    p.due = [] ∧ p.d.work ≤ p.p ∧ p.start + p.d.length ≤ s.spin.count ∧
      fliesOf s pk = [] ∧ ∀ x ∈ s.plans.queues, ∀ r ∈ x.2, r.part = pk → r.paired = true := by
  simp only [passDone, Bool.and_eq_true, List.isEmpty_iff, decide_eq_true_eq, Bool.not_eq_true', List.any_eq_false, beq_iff_eq, not_and,
    and_assoc, List.any_eq_true, not_exists, Bool.not_eq_false]

/-! ### Stall limits -/

theorem stalledFlies_congr {u : State} (h : u.plans = s.plans) (pk : Nat) : stalledFlies u pk = stalledFlies s pk := by
  have hout : stalledOut u = stalledOut s := by
    funext f
    rw [stalledOut, stalledOut, limitOf, limitOf, partAt, partAt, h]
  rw [stalledFlies, stalledFlies, hout, fliesOf, fliesOf, h]

/-- The fault event of a wait leaves the plans as they are. -/
theorem stallFault_plans (pk : Nat) (u : State) (f : Fly) : (stallFault pk u f).plans = u.plans := by
  unfold stallFault
  split
  · exact (postPlan_posted ..).plans
  · exact (postPlan_posted ..).plans
  · exact (postPlan_posted ..).plans
  · exact (postPlan_posted ..).plans
  · rfl

theorem foldl_stallFault_plans (pk : Nat) (fs : List Fly) (u : State) : (fs.foldl (stallFault pk) u).plans = u.plans := by
  induction fs generalizing u with
  | nil => rfl
  | cons f fs ih => exact (ih _).trans (stallFault_plans pk u f)

/-- The faults of all partitions are those of the waits that stood before the first of them. -/
theorem foldl_stallFaults (hit : List Nat) {u : State} (h : u.plans = s.plans) :
    hit.foldl (fun u x => (stalledFlies u x).foldl (stallFault x) u) u =
      hit.foldl (fun u x => (stalledFlies s x).foldl (stallFault x) u) u := by
  induction hit generalizing u with
  | nil => rfl
  | cons x hit ih =>
    rw [List.foldl_cons, List.foldl_cons, stalledFlies_congr h]
    exact ih ((foldl_stallFault_plans x _ u).trans h)

theorem stallLimit_eq (pk : Nat) : stallLimit pk s = if stalledFlies s pk = [] then s else
    abandonPlan (pk / 16) (fun k => if k ∈ stalledParts s (pk / 16) then 1 else 2)
      ((stalledParts s (pk / 16)).foldl (fun u x => (stalledFlies s x).foldl (stallFault x) u) s) := by
  have hcause : (fun k => if k ∈ stalledParts s (pk / 16) then 1 else 2) =
      fun k => if (stalledParts s (pk / 16)).contains k then 1 else 2 :=
    funext fun k => (if_congr List.contains_iff_mem rfl rfl).symm
  rw [hcause, ← foldl_stallFaults _ rfl]
  exact if_congr List.isEmpty_iff rfl rfl

end

/-- Settles O52. -/
theorem spindleStopsAndPasses : Obligations.SpindleStopsAndPasses := by
  refine ⟨fun s => ⟨fun n k hself hstate => congrArg Host.Outcome.next (selfLock_some s hself hstate),
    fun hstate hsource => congrArg Host.Outcome.next (spindleStop_locked s hstate hsource),
    fun h => congrArg Host.Outcome.next (spindleStop_other s h), fun h => congrArg Host.Outcome.next (spindleResume_other s h),
    fun h => congrArg Host.Outcome.next (spindleResume_coasting s h)⟩, fun id version part s hpart hversion => ?_⟩
  intro key pk r
  have hkey : pk / 16 = key := by omega
  have hlow : key % 65536 = version := by omega
  refine ⟨fun q d hplan hd => ⟨?_, ?_⟩, fun p hp => ?_, fun p hp hturn hstate => ?_, ?_⟩
  · rintro ⟨hq, hwait, hstop, hturn, hstate, hstart, hfree, hidle, hnext⟩ rfl
    have hmay : mayStart s q d = true := mayStart_iff.mpr ⟨hq, hwait, hstop, hturn, hstate, hstart, hfree, hidle⟩
    refine congrArg Host.Outcome.next ((planStart_starts hplan hd hmay hnext).trans ?_)
    rw [← hlow]
    rfl
  · rintro h rfl
    refine congrArg Host.Outcome.next (planStart_waits hplan hd ?_)
    by_contra hno
    simp only [not_or, Bool.not_eq_false] at hno
    obtain ⟨hmay, hnext⟩ := hno
    obtain ⟨-, hwait, -, hturn, -, hstart, hfree, hidle⟩ := mayStart_iff.mp hmay
    rcases h with h | h | h | ⟨x, hx, hne⟩ | h | h
    · exact h hwait
    · simp [hturn] at h
    · exact absurd hstart (Nat.not_le.mpr h)
    · exact hne (hfree x hx)
    · simp [hidle] at h
    · exact Bool.noConfusion (hnext.symm.trans h)
  · have hended : (s.spin.atTurn = true ∧ s.spin.state = 2 ∧ p.ending = true ∧ nextBoundary s pk = true) ↔
        passOver s p = true ∧ nextBoundary s pk = true := by rw [passOver_iff, and_assoc, and_assoc]
    intro ended
    refine ⟨fun h => congrArg Host.Outcome.next (passBoundary_waits hp fun h' => h (hended.mpr h')), fun h => ?_⟩
    obtain ⟨hover, hnext⟩ := hended.mp h
    exact congrArg Host.Outcome.next (passBoundary_ends hp hover hnext)
  · intro done
    have hjudge := partAt_judgePasses hp hturn hstate
    refine ⟨fun h => ?_, fun h => ?_⟩
    · rw [hjudge, passDone_iff.mpr h]
    · rw [hjudge, Bool.eq_false_iff.mpr fun hd => h (passDone_iff.mp hd)]
  · refine congrArg (fun u => Host.Outcome.next (settleHalts s u)) ((stallLimit_eq pk).trans ?_)
    rw [hkey]

end Sys2Proof.Machine

/-!
PROOFS. Program loops, probe reads and honing tests.
-/

namespace Sys2Proof.Machine

/-! ### Program loops and probe reads -/

section
variable {e : Nat} {s : State}

theorem loopStart_starts {r : LoopRun} (hidle : engineIdle s e = true) (hheld : stackHeld s (engineStack e) = false)
    (hcap : (tvals s.model.loops).length < loopCap s.spin.power) (hquiet : engineQuiet s e 2 25002 = true) (hnext : nextLoop s e = some r) :
    loopStart e s = { s with model := { s.model with loops := tset none s.model.loops e (some r) } } := by
  refine (if_neg (by simp [hidle, hheld, hquiet, hcap])).trans ?_
  rw [hnext]

theorem loopStart_waits (h : engineIdle s e = false ∨ engineQuiet s e 2 25002 = false ∨ nextLoop s e = none) : loopStart e s = s := by
  unfold loopStart
  split
  · rfl
  · rename_i hgo
    have hnext : nextLoop s e = none := by simp only [Bool.or_eq_true, Bool.not_eq_true', not_or, Bool.not_eq_false] at hgo; simp_all
    rw [hnext]

theorem probeStart_starts {d : Nat} {use : ProbeUse} (hidle : engineIdle s e = true) (hquiet : engineQuiet s e 0 8 = true)
    (hlow : strokesLow s (engineStack e) = true) (hcal : calibrated s (engineStack e) = true) (hnext : nextProbe s e = some (d, use)) :
    let n := tget 0 s.cal.forward (e * 32 + d)
    probeStart e s = { s with
      cal := { s.cal with forward := if use = .factors then tset 0 s.cal.forward (e * 32 + d) (if n = 8 then 0 else n + 1) else s.cal.forward }
      free := s.free + 1
      model := { s.model with probes := tset none s.model.probes e (some ⟨d, decide (use = .factors ∧ n = 8), use, s.spin.tick, n⟩) } } := by
  intro n
  refine (if_neg (by simp [hidle, hquiet, hlow, hcal])).trans ?_
  rw [hnext]
  by_cases huse : use = .factors
  · subst huse
    simp only [beq_self_eq_true, Bool.true_and, if_true, true_and, beq_iff_eq]
    rfl
  · have hne : (use == .factors) = false := by simpa using huse
    simp only [hne, Bool.false_and, huse, if_false, false_and, decide_false]
    rfl

theorem probeStart_waits (h : engineIdle s e = false ∨ nextProbe s e = none) : probeStart e s = s := by
  unfold probeStart
  split
  · rfl
  · rename_i hgo
    have hnext : nextProbe s e = none := by simp only [Bool.or_eq_true, Bool.not_eq_true', not_or, Bool.not_eq_false] at hgo; simp_all
    rw [hnext]

theorem loopDone_none (unreached : List Nat) (h : tget none s.model.loops e = none) : loopDone e unreached s = s := by
  rw [loopDone, h]

/-- The state without an engine's loop. -/
def endedLoop (e : Nat) (s : State) : State := { s with model := { s.model with loops := tdel s.model.loops e } }

theorem loopDone_some {r : LoopRun} (unreached : List Nat) (h : tget none s.model.loops e = some r) : loopDone e unreached s =
    match r.spare with
    | none => rowDone e r unreached (endedLoop e s)
    | some k => spareDone e r k (endedLoop e s) := by
  rw [loopDone, h]
  rfl

theorem rowDone_single {r : LoopRun} {w : DeckWrite} (unreached : List Nat) (hw : s.model.writes = [w]) (hengine : w.engine = e)
    (hdeck : w.deck = r.deck) (hwriting : w.writing = true) (hrow : w.row = r.row) :
    let k := e * 32 + r.deck
    rowDone e r unreached s =
      unreached.foldl (fun u c => failElement (elemKey e (mapColumn w.entry c)) 0 u) { s with
        model := { s.model with writes := [{ w with row := r.row + 1 }] }
        arr := { s.arr with cells := tset [] s.arr.cells (k * 1024 + r.row) (rowCells s w.entry e r.deck (logicalRow s k r.row)) } } := by
  intro k
  have hfind : (s.model.writes.find? fun w => w.engine == e && w.deck == r.deck && w.writing && w.row == r.row) = some w := by
    rw [hw, List.find?_cons_of_pos]
    simp [hengine, hdeck, hwriting, hrow]
  have hset : (s.model.writes.map fun y => if y = w then { w with row := r.row + 1 } else y) = [{ w with row := r.row + 1 }] := by
    rw [hw, List.map_singleton, if_pos rfl]
  rw [rowDone, hfind]
  dsimp only [setWrite]
  rw [hset]

theorem probeDone_early {r : ProbeRun} (hr : tget none s.model.probes e = some r) (h : s.spin.tick < r.start + 8) : probeDone e s = s := by
  rw [probeDone, hr]
  exact if_pos h

theorem probeDone_ends {r : ProbeRun} (hr : tget none s.model.probes e = some r) (h : r.start + 8 ≤ s.spin.tick) : probeDone e s =
    endWarmups (
      let u := { s with model := { s.model with probes := tdel s.model.probes e } }
      match r.use with
      | .factors => factorProbe e r u
      | .print p => printProbe e p r u
      | .spare c => spareProbe e c r u) := by
  rw [probeDone, hr]
  exact if_neg (Nat.not_lt.mpr h)

end

/-! ### Honing tests -/

theorem tget_foldl_tset_of_ne {α : Type} [DecidableEq α] {d : α} {g : Nat} (key : Nat → Nat) (f : Nat → α) {ws : List Nat}
    (h : ∀ w ∈ ws, key w ≠ g) (t : Tab α) : tget d (ws.foldl (fun t w => tset d t (key w) (f w)) t) g = tget d t g := by
  induction ws generalizing t with
  | nil => rfl
  | cons w ws ih =>
    rw [List.forall_mem_cons] at h
    rw [List.foldl_cons, ih h.2, tget_tset_of_ne h.1.symm]

theorem wordAt_putWords_of_ne {g : Nat} {ws : List (Nat × Bytes)} (h : ∀ x ∈ ws, x.1 ≠ g) (s : State) :
    wordAt (putWords ws s) g = wordAt s g := by
  refine mread_congr fun i hi => ?_
  change tget 0#8 (ws.foldl (fun m x => mwrite m (32 * x.1) (padTo 32 x.2)) s.stores.mem) (32 * g + i) = _
  generalize s.stores.mem = m
  induction ws generalizing m with
  | nil => rfl
  | cons x ws ih =>
    rw [List.forall_mem_cons] at h
    have hne := h.1
    rw [List.foldl_cons, ih h.2, tget_mwrite_outside]
    rw [padTo_length]
    omega

/-- A core's store test leaves the words of every other store as they are. -/
theorem fullAt_testStore_of_ne {st core g : Nat} (h : g / 32768 ≠ st * 640 + core) (s : State) :
    fullAt (testStore st core s) g = fullAt s g := by
  have hout : ¬ (coreBase st core ≤ g ∧ g < coreBase st core + 32768) := by rw [coreBase]; omega
  have hne : ∀ w ∈ List.range 32768, coreBase st core + w ≠ g := fun w hw => by have := List.mem_range.mp hw; omega
  simp only [fullAt, testStore, putWords_full]
  rw [tget_foldl_tset_of_ne (coreBase st core + ·) _ hne]
  refine (tget_filter_key false s.stores.full (fun k => !(decide (coreBase st core ≤ k) && decide (k < coreBase st core + 32768))) g).trans
    (if_pos ?_)
  simpa [-not_and, not_and_or] using hout

theorem wordAt_testStore_of_ne {st core g : Nat} (h : g / 32768 ≠ st * 640 + core) (s : State) :
    wordAt (testStore st core s) g = wordAt s g := by
  simp only [testStore]
  rw [wordAt_putWords_of_ne fun x hx => ?_]
  · simp only [wordAt]
  obtain ⟨w, hw, rfl⟩ := List.mem_map.mp hx
  have := List.mem_range.mp hw
  simp only [coreBase, ne_eq]
  omega

/-- The state with other write counters. -/
def counted (t : Tab Nat) (s : State) : State := { s with model := { s.model with counters := t } }

/-- The write counter of an engine's lowest Free deck advances. -/
def testedEngine (s : State) (e : Nat) (t : Tab Nat) : Tab Nat :=
  match freeDeckOf s e with
  | none => t
  | some d => tset 0 t (e * 32 + d) (tget 0 t (e * 32 + d) + 1)

theorem testArrays_eq (st core : Nat) (s : State) :
    testArrays st core s = counted ((List.range 4).foldl (fun t j => testedEngine s (gea st core j) t) s.model.counters) s := by
  suffices h : ∀ (js : List Nat) (t : Tab Nat), js.foldl (fun s j =>
      let e := gea st core j
      match (List.range 32).find? fun d => deckState s (e * 32 + d) == 0 with
      | none => s
      | some d => (nextCounter (e * 32 + d) s).2) (counted t s) =
      counted (js.foldl (fun t j => testedEngine s (gea st core j) t) t) s from h (List.range 4) s.model.counters
  intro js
  induction js with
  | nil => exact fun t => rfl
  | cons j js ih =>
    intro t
    rw [List.foldl_cons, List.foldl_cons, ← ih]
    congr 1
    change (match freeDeckOf s (gea st core j) with
      | none => counted t s
      | some d => (nextCounter (gea st core j * 32 + d) (counted t s)).2) = _
    rw [testedEngine]
    cases freeDeckOf s (gea st core j) <;> rfl

theorem freeDeckOf_lt {s : State} {e d : Nat} (h : freeDeckOf s e = some d) : d < 32 := List.mem_range.mp (List.mem_of_find?_eq_some h)

theorem tget_testedEngine_of_ne {s : State} {e k : Nat} (h : k / 32 ≠ e) (t : Tab Nat) : tget 0 (testedEngine s e t) k = tget 0 t k := by
  rw [testedEngine]
  split
  · rfl
  · next d hd =>
    have := freeDeckOf_lt hd
    exact tget_tset_of_ne (by omega)

theorem tget_foldl_testedEngine_of_ne {s : State} {st core k : Nat} {js : List Nat} (h : ∀ j ∈ js, k / 32 ≠ gea st core j) (t : Tab Nat) :
    tget 0 (js.foldl (fun t j => testedEngine s (gea st core j) t) t) k = tget 0 t k := by
  induction js generalizing t with
  | nil => rfl
  | cons j js ih =>
    rw [List.forall_mem_cons] at h
    rw [List.foldl_cons, ih h.2, tget_testedEngine_of_ne h.1]

theorem tget_foldl_testedEngine {s : State} {st core d : Nat} {js : List Nat} (hjs : js.Nodup) {j : Nat} (hj : j ∈ js)
    (hd : freeDeckOf s (gea st core j) = some d) (t : Tab Nat) :
    tget 0 (js.foldl (fun t j => testedEngine s (gea st core j) t) t) (gea st core j * 32 + d) = tget 0 t (gea st core j * 32 + d) + 1 := by
  have hlt := freeDeckOf_lt hd
  induction js generalizing t with
  | nil => cases hj
  | cons i js ih =>
    rw [List.nodup_cons] at hjs
    rw [List.foldl_cons]
    by_cases hij : j = i
    · subst hij
      rw [tget_foldl_testedEngine_of_ne, testedEngine, hd]
      · exact tget_tset_self t _ _
      · intro x hx hkey
        have : x = j := by rw [gea, gea] at hkey; omega
        exact hjs.1 (this ▸ hx)
    · rw [ih hjs.2 ((List.mem_cons.mp hj).resolve_left hij), tget_testedEngine_of_ne]
      rw [gea, gea]
      omega

theorem freeDeckOf_some {s : State} {e d : Nat} (hd : d < 32) (hfree : deckState s (e * 32 + d) = 0)
    (hlow : ∀ i, i < d → deckState s (e * 32 + i) ≠ 0) : freeDeckOf s e = some d := by
  rw [freeDeckOf, List.find?_range_eq_some]
  exact ⟨by simp [hfree], List.mem_range.mpr hd, fun i hi => by simpa using hlow i hi⟩

section
variable {st core failed : Nat} {s : State}

/-- What the tests of a honing leave: the array test is the fourth and the store test the fifth. -/
def testedCore (st core failed : Nat) (s : State) : State :=
  let u := if failed = 0 ∨ 4 ≤ failed then testArrays st core s else s
  if failed = 0 ∨ 5 ≤ failed then testStore st core u else u

/-- The tests of a honing change stores, write counters and free values only. -/
theorem testedCore_frame : testedCore st core failed s = { s with
    stores := (testedCore st core failed s).stores
    model := { s.model with counters := (testedCore st core failed s).model.counters }, free := (testedCore st core failed s).free } := by
  simp only [testedCore, testArrays_eq]
  split <;> split <;> rfl

theorem testedCore_before_arrays (h : 1 ≤ failed) (h' : failed ≤ 3) : testedCore st core failed s = s := by
  rw [testedCore, if_neg (by omega), if_neg (by omega)]

theorem testedCore_arrays_only (h : failed = 4) : (testedCore st core failed s).stores = s.stores := by
  have harrays : failed = 0 ∨ 4 ≤ failed := by omega
  have hstore : ¬ (failed = 0 ∨ 5 ≤ failed) := by omega
  simp only [testedCore, if_pos harrays, if_neg hstore, testArrays_eq]
  rfl

theorem testedCore_counters (h : failed = 0 ∨ 4 ≤ failed) : (testedCore st core failed s).model.counters =
    (List.range 4).foldl (fun t j => testedEngine s (gea st core j) t) s.model.counters := by
  simp only [testedCore, if_pos h, testArrays_eq]
  split <;> rfl

theorem tget_testedCore_of_ne {k : Nat} (hk : ∀ j, j < 4 → k / 32 ≠ gea st core j) :
    tget 0 (testedCore st core failed s).model.counters k = tget 0 s.model.counters k := by
  by_cases h : failed = 0 ∨ 4 ≤ failed
  · rw [testedCore_counters h, tget_foldl_testedEngine_of_ne fun j hj => hk j (List.mem_range.mp hj)]
  · rw [testedCore_before_arrays (by omega) (by omega)]

theorem word_testedCore_of_ne {g : Nat} (hg : g / 32768 ≠ st * 640 + core) :
    fullAt (testedCore st core failed s) g = fullAt s g ∧ wordAt (testedCore st core failed s) g = wordAt s g := by
  have hcounted : ∀ u, u = s ∨ (∃ t, u = counted t s) → fullAt u g = fullAt s g ∧ wordAt u g = wordAt s g := by
    rintro u (rfl | ⟨t, rfl⟩) <;> exact ⟨rfl, rfl⟩
  have hu := hcounted (if failed = 0 ∨ 4 ≤ failed then testArrays st core s else s) (by
    split
    · exact .inr ⟨_, testArrays_eq st core s⟩
    · exact .inl rfl)
  simp only [testedCore]
  generalize (if failed = 0 ∨ 4 ≤ failed then testArrays st core s else s) = u at hu
  split
  · rwa [fullAt_testStore_of_ne hg, wordAt_testStore_of_ne hg]
  · exact hu

theorem honeTests_other (h : coreState s (st * 640 + core) ≠ 3) : honeTests st core failed s = s := if_pos h

/-- The core's state and failed test once its tests are done. -/
def judgedIntegrity (c failed : Nat) (s : State) : Integ :=
  { s.integ with cores := tset 0 s.integ.cores c (if failed = 0 then 4 else 5), failedTest := tset 0 s.integ.failedTest c failed }

theorem honeTests_judges (h : coreState s (st * 640 + core) = 3) : honeTests st core failed s =
    postEvent 4 st 0x080A (if failed = 0 then 1 else 3) (le 1 st ++ le 2 core ++ le 1 failed)
      { testedCore st core failed s with integ := judgedIntegrity (st * 640 + core) failed s } := by
  refine (if_neg (not_not.mpr h)).trans ?_
  have hinteg : (testedCore st core failed s).integ = s.integ := by rw [testedCore_frame]
  rw [judgedIntegrity, ← hinteg]
  rfl

theorem tget_tset_eq_ite {α : Type} [DecidableEq α] {d : α} (t : Tab α) (c x : Nat) (v : α) :
    tget d (tset d t c v) x = if x = c then v else tget d t x := by
  split
  · next h => rw [h, tget_tset_self]
  · next h => exact tget_tset_of_ne h

end

/-- Settles O53. -/
theorem loopsProbesAndHoningTests : Obligations.LoopsProbesAndHoningTests := by
  refine ⟨fun e s => ?loops, fun st core failed s hcore => ?tests⟩
  case loops =>
    refine ⟨fun r hidle hheld hcap hquiet hnext => congrArg Host.Outcome.next (loopStart_starts hidle hheld hcap hquiet hnext),
      fun h => congrArg Host.Outcome.next (loopStart_waits h),
      fun d use hidle hquiet hlow hcal hnext => congrArg Host.Outcome.next (probeStart_starts hidle hquiet hlow hcal hnext),
      fun h => congrArg Host.Outcome.next (probeStart_waits h),
      fun unreached h => congrArg Host.Outcome.next (loopDone_none unreached h),
      fun d row start w unreached hr hw hengine hdeck hwriting hrow => ?_,
      fun d row spare start unreached hr => congrArg Host.Outcome.next (loopDone_some unreached hr),
      fun r hr => ⟨fun h => congrArg Host.Outcome.next (probeDone_early hr h), fun h => congrArg Host.Outcome.next (probeDone_ends hr h)⟩⟩
    exact congrArg Host.Outcome.next ((loopDone_some unreached hr).trans (rowDone_single unreached hw hengine hdeck hwriting hrow))
  case tests =>
    intro c
    refine ⟨fun h => congrArg Host.Outcome.next (honeTests_other h), fun h => ?_⟩
    have hinteg : (honeTests st core failed s).integ = judgedIntegrity c failed s := by
      rw [honeTests_judges h]
      exact (postEvent_posted ..).integ
    refine ⟨honeTests st core failed s, testedCore st core failed s, rfl, ?_, fun x => ?_, fun x => ?_, ?_, testedCore_frame,
      testedCore_before_arrays, testedCore_arrays_only, fun g hg => word_testedCore_of_ne hg, fun k hk => tget_testedCore_of_ne hk,
      fun hf j d hj hd => ?_⟩
    · rw [hinteg]
      rfl
    · rw [hinteg]
      exact tget_tset_eq_ite ..
    · rw [hinteg]
      exact tget_tset_eq_ite ..
    · rw [hinteg]
      exact honeTests_judges h
    · intro k hfree hlow
      rw [testedCore_counters hf]
      exact tget_foldl_testedEngine List.nodup_range (List.mem_range.mpr hj) (freeDeckOf_some hd hfree hlow) _

end Sys2Proof.Machine

/-!
PROOFS. Image chunks and the end of CAL_SELF; monitor conversions; pages and step replays.
-/

namespace Sys2Proof.Machine

/-! ### Chunks of an install -/

section
variable {b : Bytes} {s : State}

theorem chunkRead_none (h : ∀ x ∈ s.model.installs, ∀ m, manifestOf s x.image x.version = some m → mfChunks m.raw ≤ x.chunks) :
    chunkRead b s = s := by
  have hfind : (s.model.installs.find? fun x => (manifestOf s x.image x.version).any fun m => decide (x.chunks < mfChunks m.raw)) = none := by
    rw [List.find?_eq_none]
    intro x hx
    rw [Option.any_eq_true, not_exists]
    rintro m ⟨hm, hlt⟩
    exact absurd (h x hx m hm) (Nat.not_le.mpr (of_decide_eq_true hlt))
  rw [chunkRead, hfind]
  exact ite_self s

theorem chunkRead_unlinked (h : s.phys.link = false) : chunkRead b s = s := if_pos (by simp [h])

theorem chunkRead_next {x : Install} {l : List Install} {m : Manifest} (hlink : s.phys.link = true) (hinst : s.model.installs = x :: l)
    (hm : manifestOf s x.image x.version = some m) (hlt : x.chunks < mfChunks m.raw) : chunkRead b s =
    match openChunk m x.chunks ((x.read.map fun d => slice d (4194304 * x.chunks) 4194304).getD b) with
    | none => failInstall x ⟨7, 0, 0⟩ s
    | some p =>
      let y := { x with stream := x.stream ++ p, chunks := x.chunks + 1 }
      match takeImages m (mfDecks m.raw) y s with
      | (y, u, some i) => failInstall y ⟨7, i % 65536, i⟩ u
      | (y, u, none) =>
        let last := decide (mfChunks m.raw ≤ y.chunks)
        tryEndInstall y.tag (setInstall { y with copied := last } (if last then copyTiers m y.stream u else u)) := by
  have hfind : (s.model.installs.find? fun x => (manifestOf s x.image x.version).any fun m => decide (x.chunks < mfChunks m.raw)) = some x := by
    rw [hinst, List.find?_cons_of_pos]
    rw [hm]
    exact decide_eq_true hlt
  rw [chunkRead, if_neg (by simp [hlink]), hfind]
  dsimp only
  rw [hm]
  dsimp only
  generalize openChunk m x.chunks _ = o
  cases o with
  | none => rfl
  | some p =>
    dsimp only
    generalize takeImages m (mfDecks m.raw) { x with stream := x.stream ++ p, chunks := x.chunks + 1 } s = r
    obtain ⟨y, u, bad⟩ := r
    cases bad <;> rfl

end

/-! ### The end of CAL_SELF -/

/-- What a table holds where every write at a number writes one value, and one is made or the table holds it. -/
theorem tget_foldl_tset_of_forall {α β : Type} [DecidableEq α] {d : α} (key : β → Nat) (f : β → α) {l : List β} {k : Nat} {v : α}
    (hall : ∀ y ∈ l, key y = k → f y = v) {t : Tab α} (h : (∃ y ∈ l, key y = k) ∨ tget d t k = v) :
    tget d (l.foldl (fun t y => tset d t (key y) (f y)) t) k = v := by
  induction l generalizing t with
  | nil => simpa using h
  | cons y l ih =>
    rw [List.forall_mem_cons] at hall
    refine ih hall.2 ?_
    by_cases hy : key y = k
    · right
      change tget d (tset d t (key y) (f y)) k = v
      rw [hy, tget_tset_self]
      exact hall.1 hy
    · rcases h with ⟨z, hz, hkey⟩ | h
      · refine .inl ⟨z, (List.mem_cons.mp hz).resolve_left fun e => hy (e ▸ hkey), hkey⟩
      · exact .inr ((tget_tset_of_ne fun e => hy e.symm).trans h)

/-- What the assignment of spare converters changes of the tables that a self calibration writes. -/
structure SparesOnly (s t : State) : Prop where
  runs : t.conv.runs = s.conv.runs
  valid : t.conv.valid = s.conv.valid
  trims : t.conv.trims = s.conv.trims
  cal : t.cal = s.cal
  plans : t.plans = s.plans
  stores : t.stores = s.stores
  model : t.model = s.model

theorem SparesOnly.trans {s t u : State} (h : SparesOnly s t) (h' : SparesOnly t u) : SparesOnly s u :=
  ⟨h'.runs.trans h.runs, h'.valid.trans h.valid, h'.trims.trans h.trims, h'.cal.trans h.cal, h'.plans.trans h.plans,
    h'.stores.trans h.stores, h'.model.trans h.model⟩

theorem Posted.sparesOnly {s t : State} (h : Posted s t) : SparesOnly s t :=
  ⟨congrArg Conv.runs h.conv, congrArg Conv.valid h.conv, congrArg Conv.trims h.conv, h.cal, h.plans, h.stores, h.model⟩

/-- The spare converter of an engine covers its lowest failed one, if it has passed itself. -/
def coverSpare (s : State) (e : Nat) : State :=
  let cover := if adcFailed s e 131 then none else ((List.range 132).filter (adcFailed s e)).head?
  { s with conv := { s.conv with spare := tset none s.conv.spare e cover } }

theorem assignSpare_sparesOnly (a : State × Nat × Nat) (e : Nat) : SparesOnly a.1 (assignSpare a e).1 := by
  refine SparesOnly.trans (t := coverSpare a.1 e) (by constructor <;> rfl) ?_
  exact (Posted.foldl (fun s x => postEvent_posted ..) _ _).sparesOnly

theorem foldl_assignSpare_sparesOnly (es : List Nat) (a : State × Nat × Nat) : SparesOnly a.1 (es.foldl assignSpare a).1 := by
  induction es generalizing a with
  | nil => constructor <;> rfl
  | cons e es ih => exact (assignSpare_sparesOnly a e).trans (ih _)

/-- What discarding the factors of stacks does to the tables of factors, and what it leaves. -/
structure Discarded (dropped : Nat → Prop) (s t : State) : Prop where
  conv : t.conv = s.conv
  epoch : t.cal.epoch = s.cal.epoch
  gone : ∀ k, dropped (k / 4096 / 4096) → tget 0 t.cal.words k = 0 ∧ tget none t.cal.staged k = none ∧ tget none t.cal.windows k = none
  kept : ∀ k, tget 0 s.cal.words k = 0 ∧ tget none s.cal.staged k = none ∧ tget none s.cal.windows k = none →
    tget 0 t.cal.words k = 0 ∧ tget none t.cal.staged k = none ∧ tget none t.cal.windows k = none
  plans : t.plans = s.plans
  stores : t.stores = s.stores
  model : t.model = s.model

theorem tget_dropStack {α : Type} (d : α) (st k : Nat) (t : Tab α) :
    tget d (dropStack st t) k = if k / 4096 / 4096 = st then d else tget d t k := by
  refine (tget_filter_key d t (fun k => k / 4096 / 4096 != st) k).trans ?_
  by_cases h : k / 4096 / 4096 = st <;> simp [h]

/-- The end of a restore posts an event, and leaves the tables of factors. -/
theorem dropRestore_cal (st : Nat) (s : State) : ∃ r, (dropRestore st s).cal = { s.cal with restores := r } ∧ (dropRestore st s).conv = s.conv ∧
    (dropRestore st s).plans = s.plans ∧ (dropRestore st s).stores = s.stores ∧ (dropRestore st s).model = s.model := by
  unfold dropRestore
  split
  · exact ⟨_, rfl, rfl, rfl, rfl, rfl⟩
  · next o p d _ =>
    have h := postEvent_posted 4 st 0x0756 1 (le 1 st ++ le 4 p ++ le 4 (d + o))
      { s with cal := { s.cal with restores := tset none s.cal.restores st none } }
    exact ⟨_, h.cal, h.conv, h.plans, h.stores, h.model⟩

theorem discardFactors_discarded (st ep : Nat) (s : State) : Discarded (· = st) s (discardFactors st ep s) := by
  obtain ⟨r, hcal, hconv, hplans, hstores, hmodel⟩ := dropRestore_cal st s
  have hwords : ∀ k, tget 0 (discardFactors st ep s).cal.words k = if k / 4096 / 4096 = st then 0 else tget 0 s.cal.words k := by
    intro k
    refine (tget_dropStack 0 st k _).trans ?_
    rw [hcal]
  have hstaged : ∀ k, tget none (discardFactors st ep s).cal.staged k = if k / 4096 / 4096 = st then none else tget none s.cal.staged k := by
    intro k
    refine (tget_dropStack none st k _).trans ?_
    rw [hcal]
  have hwindows : ∀ k, tget none (discardFactors st ep s).cal.windows k = if k / 4096 / 4096 = st then none else tget none s.cal.windows k := by
    intro k
    refine (tget_dropStack none st k _).trans ?_
    rw [hcal]
  refine ⟨hconv, (congrArg Cal.epoch hcal : (dropRestore st s).cal.epoch = _), fun k hk => ?_, fun k hk => ?_, hplans, hstores, hmodel⟩
  · rw [hwords, hstaged, hwindows, if_pos hk, if_pos hk, if_pos hk]
    exact ⟨rfl, rfl, rfl⟩
  · obtain ⟨hw, hs, hn⟩ := hk
    rw [hwords, hstaged, hwindows, hw, hs, hn, ite_self, ite_self, ite_self]
    exact ⟨rfl, rfl, rfl⟩

theorem foldl_discardFactors_discarded (sts : List Nat) (ep : Nat) (s : State) :
    Discarded (· ∈ sts) s (sts.foldl (fun s st => discardFactors st ep s) s) := by
  induction sts generalizing s with
  | nil => exact ⟨rfl, rfl, fun k hk => absurd hk List.not_mem_nil, fun k h => h, rfl, rfl, rfl⟩
  | cons st sts ih =>
    have h := discardFactors_discarded st ep s
    have h' := ih (discardFactors st ep s)
    refine ⟨h'.conv.trans h.conv, h'.epoch.trans h.epoch, fun k hk => ?_, fun k hk => h'.kept k (h.kept k hk),
      h'.plans.trans h.plans, h'.stores.trans h.stores, h'.model.trans h.model⟩
    rcases List.mem_cons.mp hk with hk | hk
    · exact h'.kept k (h.gone k hk)
    · exact h'.gone k hk

/-- A set of stacks as a mask stays within 16 bits. -/
theorem mask_range_lt (n : Nat) (p : Nat → Bool) : (((List.range n).filter p).map (2 ^ ·)).sum < 2 ^ n := by
  induction n with
  | zero => exact Nat.one_pos
  | succ n ih =>
    rw [List.range_succ, List.filter_append, List.map_append, List.sum_append, Nat.pow_succ]
    have hlast : ((([n] : List Nat).filter p).map (2 ^ ·)).sum ≤ 2 ^ n := by
      cases hp : p n <;> simp [hp]
    omega


theorem stacksOf_filter (mask : Nat) (p : Nat → Bool) : (stacksOf mask).filter p = (List.range 16).filter fun st => mask.testBit st && p st := by
  rw [stacksOf, List.filter_filter]
  exact List.filter_congr fun st _ => Bool.and_comm _ _

/-- The trims that a self calibration writes: those measured, and 2^31 elsewhere. -/
def calibratedTrims (good : List Nat) (results : List AdcResult) (t : Tab Nat) : Tab Nat :=
  let every := good.flatMap fun st => (enginesOf st).flatMap fun e => (List.range 132).map fun k => (e * 132 + k, 2 ^ 31)
  (results.filter fun x => good.contains (engineStack x.engine) && decide (x.engine % 4096 < 2560 ∧ x.adc < 132)).foldl
    (fun t x => tset 0 t (x.engine * 132 + x.adc) (trimWord x)) (every.foldl (fun t x => tset 0 t x.1 x.2) t)

section
variable {good : List Nat} {results : List AdcResult} {e adc : Nat} (hgood : e / 4096 ∈ good) (hcore : e % 4096 < 2560) (hadc : adc < 132)
  (t : Tab Nat)
include hgood hcore hadc

theorem mem_every : ((e * 132 + adc, 2 ^ 31) : Nat × Nat) ∈
    good.flatMap fun st => (enginesOf st).flatMap fun e => (List.range 132).map fun k => (e * 132 + k, 2 ^ 31) := by
  refine List.mem_flatMap.mpr ⟨e / 4096, hgood, List.mem_flatMap.mpr ⟨e, ?_, List.mem_map.mpr ⟨adc, List.mem_range.mpr hadc, rfl⟩⟩⟩
  rw [enginesOf, span, List.mem_map]
  exact ⟨e % 4096, List.mem_range.mpr hcore, by omega⟩

theorem tget_every : tget 0 ((good.flatMap fun st => (enginesOf st).flatMap fun e =>
    (List.range 132).map fun k => (e * 132 + k, 2 ^ 31)).foldl (fun t x => tset 0 t x.1 x.2) t) (e * 132 + adc) = 2 ^ 31 := by
  have hevery := mem_every hgood hcore hadc
  refine tget_foldl_tset_of_forall Prod.fst Prod.snd (fun y hy _ => ?_) (.inl ⟨_, hevery, rfl⟩)
  obtain ⟨st, -, hy⟩ := List.mem_flatMap.mp hy
  obtain ⟨i, -, hy⟩ := List.mem_flatMap.mp hy
  obtain ⟨k, -, rfl⟩ := List.mem_map.mp hy
  rfl

omit hgood hcore in
theorem mine_key {x : AdcResult} (hx : x ∈ results.filter fun x => good.contains (engineStack x.engine) && decide (x.engine % 4096 < 2560 ∧ x.adc < 132))
    (hkey : x.engine * 132 + x.adc = e * 132 + adc) : x ∈ results ∧ (x.engine, x.adc) = (e, adc) := by
  obtain ⟨hx, hmine⟩ := List.mem_filter.mp hx
  rw [Bool.and_eq_true, decide_eq_true_eq] at hmine
  obtain ⟨-, -, hlt⟩ := hmine
  refine ⟨hx, Prod.ext ?_ ?_⟩ <;> dsimp only <;> omega

theorem calibratedTrims_unmeasured (h : ∀ x ∈ results, (x.engine, x.adc) ≠ (e, adc)) :
    tget 0 (calibratedTrims good results t) (e * 132 + adc) = 2 ^ 31 := by
  refine tget_foldl_tset_of_forall (fun x : AdcResult => x.engine * 132 + x.adc) trimWord (fun x hx hkey => ?_)
    (.inr (tget_every hgood hcore hadc t))
  obtain ⟨hx, heq⟩ := mine_key hadc hx hkey
  exact absurd heq (h x hx)

theorem calibratedTrims_measured {x : AdcResult} (hx : x ∈ results) (heq : (x.engine, x.adc) = (e, adc))
    (hone : ∀ y ∈ results, (y.engine, y.adc) = (e, adc) → y = x) : tget 0 (calibratedTrims good results t) (e * 132 + adc) = trimWord x := by
  refine tget_foldl_tset_of_forall (fun x : AdcResult => x.engine * 132 + x.adc) trimWord (fun y hy hkey => ?_) (.inl ⟨x, ?_, ?_⟩)
  · obtain ⟨hy, heq⟩ := mine_key hadc hy hkey
    rw [hone y hy heq]
  · refine List.mem_filter.mpr ⟨hx, ?_⟩
    obtain ⟨rfl, rfl⟩ := Prod.mk.inj heq
    simp [engineStack, hgood, hcore, hadc]
  · obtain ⟨rfl, rfl⟩ := Prod.mk.inj heq
    rfl

end

/-- The tables of converters once a self calibration has ended. -/
def calibratedConv (mask : Nat) (good : List Nat) (rest : List CalRun) (results : List AdcResult) (s : State) : State :=
  let count := if s.spin.state = 2 then s.spin.count else 0
  { s with conv := { s.conv with
    runs := rest, trims := calibratedTrims good results s.conv.trims, valid := s.conv.valid ++ good,
    calCount := (stacksOf mask).foldl (fun t st => tset 0 t st count) s.conv.calCount } }

/-- The factors of the stacks that passed are discarded at the next calibration epoch. -/
def nextEpoch (good : List Nat) (s : State) : State :=
  let ep := (s.cal.epoch + 1) % 2 ^ 32
  if good.isEmpty then s else good.foldl (fun s st => discardFactors st ep s) { s with cal := { s.cal with epoch := ep } }

/-- The state at the end of a self calibration, with the numbers of spares assigned and of uncovered converters. -/
def sparesAssigned (mask : Nat) (good : List Nat) (rest : List CalRun) (results : List AdcResult) (s : State) : State × Nat × Nat :=
  (good.flatMap enginesOf).foldl assignSpare (calibratedConv mask good rest results s, 0, 0)

theorem nextEpoch_spec (good : List Nat) (s : State) : (nextEpoch good s).conv = s.conv ∧
    (nextEpoch good s).cal.epoch = (if good = [] then s.cal.epoch else (s.cal.epoch + 1) % 2 ^ 32) ∧
    (∀ k, k / 4096 / 4096 ∈ good → tget 0 (nextEpoch good s).cal.words k = 0 ∧ tget none (nextEpoch good s).cal.staged k = none ∧
      tget none (nextEpoch good s).cal.windows k = none) ∧
    (nextEpoch good s).plans = s.plans ∧ (nextEpoch good s).stores = s.stores ∧ (nextEpoch good s).model = s.model := by
  by_cases hgood : good = []
  · subst hgood
    exact ⟨rfl, rfl, fun k hk => absurd hk List.not_mem_nil, rfl, rfl, rfl⟩
  · have h := foldl_discardFactors_discarded good ((s.cal.epoch + 1) % 2 ^ 32) { s with cal := { s.cal with epoch := (s.cal.epoch + 1) % 2 ^ 32 } }
    have heq : nextEpoch good s = _ := if_neg (mt List.isEmpty_iff.mp hgood)
    rw [if_neg hgood, heq]
    exact ⟨h.conv, h.epoch, h.gone, h.plans, h.stores, h.model⟩

/-- The result field of CAL_SELF: the stacks that passed and that failed, and the counts of spares and of uncovered converters. -/
def calSelfResult (good bad : List Nat) (n u : Nat) : Nat :=
  (good.map (2 ^ ·)).sum + 2 ^ 16 * (bad.map (2 ^ ·)).sum + 2 ^ 32 * satBits 16 n + 2 ^ 48 * satBits 16 u

theorem calSelfResult_low (p q : Nat → Bool) (n u : Nat) :
    calSelfResult ((List.range 16).filter p) ((List.range 16).filter q) n u % 2 ^ 32 =
      (((List.range 16).filter p).map (2 ^ ·)).sum + 2 ^ 16 * (((List.range 16).filter q).map (2 ^ ·)).sum := by
  have hp := mask_range_lt 16 p
  have hq := mask_range_lt 16 q
  rw [calSelfResult]
  generalize (((List.range 16).filter p).map (2 ^ ·)).sum = a at hp
  generalize (((List.range 16).filter q).map (2 ^ ·)).sum = b at hq
  omega

theorem calSelfDone_run {refFail : BitVec 16} {results : List AdcResult} {s : State} {r : CalRun} {rest : List CalRun}
    (hruns : s.conv.runs = r :: rest) :
    let good := (List.range 16).filter fun st => r.mask.testBit st && !refFail.getLsbD st
    let bad := (List.range 16).filter fun st => r.mask.testBit st && refFail.getLsbD st
    let a := sparesAssigned r.mask good rest results s
    calSelfDone refFail results s =
      if bad.isEmpty then complete r.tag 0 0 (calSelfResult good bad a.2.1 a.2.2) (nextEpoch good a.1)
      else complete r.tag 7 (bad.map (2 ^ ·)).sum (calSelfResult good bad a.2.1 a.2.2) (nextEpoch good a.1) := by
  intro good bad a
  rw [calSelfDone, hruns]
  simp only [stacksOf_filter]
  rfl

/-- Settles O54. -/
theorem chunksAndSelfCalibration : Obligations.ChunksAndSelfCalibration := by
  refine ⟨fun b s => ⟨fun h => congrArg Host.Outcome.next (chunkRead_none h), fun h => congrArg Host.Outcome.next (chunkRead_unlinked h),
    fun x l m hlink hinst hm hlt => congrArg Host.Outcome.next (chunkRead_next hlink hinst hm hlt)⟩,
    fun refFail results s => ⟨fun h => congrArg Host.Outcome.next (by rw [calSelfDone, h]), fun r rest hruns => ?_⟩⟩
  intro good bad mask
  have hspares := foldl_assignSpare_sparesOnly (good.flatMap enginesOf) (calibratedConv r.mask good rest results s, 0, 0)
  obtain ⟨hconv, hepoch, hgone, hplans, hstores, hmodel⟩ := nextEpoch_spec good (sparesAssigned r.mask good rest results s).1
  have hcal : (sparesAssigned r.mask good rest results s).1.cal = s.cal := hspares.cal
  have htrims : (nextEpoch good (sparesAssigned r.mask good rest results s).1).conv.trims = calibratedTrims good results s.conv.trims :=
    (congrArg Conv.trims hconv).trans hspares.trims
  refine ⟨nextEpoch good (sparesAssigned r.mask good rest results s).1, _, ?_, calSelfResult_low _ _
    (sparesAssigned r.mask good rest results s).2.1 (sparesAssigned r.mask good rest results s).2.2,
    (congrArg Conv.runs hconv).trans hspares.runs, (congrArg Conv.valid hconv).trans hspares.valid, by rw [hepoch, hcal],
    fun e adc hgood hcore hadc => ⟨fun h => ?_, fun x hx heq hone => ?_⟩, hgone,
    hplans.trans hspares.plans, hstores.trans hspares.stores, hmodel.trans hspares.model⟩
  · refine congrArg Host.Outcome.next ((calSelfDone_run hruns).trans ?_)
    by_cases hbad : bad = []
    · rw [if_pos hbad, if_pos hbad]
      exact if_pos (List.isEmpty_iff.mpr hbad)
    · rw [if_neg hbad, if_neg hbad]
      exact if_neg (mt List.isEmpty_iff.mp hbad)
  · rw [htrims]
    exact calibratedTrims_unmeasured hgood hcore hadc _ h
  · rw [htrims]
    exact calibratedTrims_measured hgood hcore hadc _ hx heq hone

/-! ### Monitor conversions -/

section
variable {mon code : Nat} {skipped : Bool} {s : State}

theorem canEnd_unprobed (h : (channelNow s mon).bind (refEngine mon) = none) : canEnd s mon skipped = true := by
  rw [canEnd, h]

theorem canEnd_reference {e : Nat} (h : (channelNow s mon).bind (refEngine mon) = some e) : canEnd s mon skipped = true ↔
    if (monAt s mon).probed = true then skipped = false ∧ ∀ y, (monAt s mon).probe = some y → y.2 + 6 ≤ s.spin.tick
    else skipped = true ∧ ∃ t, (monAt s mon).asked = some t ∧ t + 8192 ≤ s.spin.tick := by
  rw [canEnd, h]
  dsimp only
  split
  · rw [Bool.and_eq_true, Bool.not_eq_true', Option.all_eq_true]
    exact and_congr_right' (forall₂_congr fun _ _ => decide_eq_true_iff)
  · rw [Bool.and_eq_true, Option.any_eq_true]
    exact and_congr_right' (exists_congr fun _ => and_congr_right' decide_eq_true_iff)

theorem conversionEnd_waits (h : 33 < mon ∨ converting s mon = false ∨ canEnd s mon skipped = false) :
    conversionEnd mon code skipped s = s := if_pos (by simpa using h)

section
variable (hcode : code < 4096) (hmon : mon ≤ 33) (hconv : converting s mon = true) (hend : canEnd s mon skipped = true)
include hcode hmon hconv hend

/-- A conversion that may end, by what the converter converts. -/
theorem conversionEnd_ends : conversionEnd mon code skipped s =
    let m := monAt s mon
    if m.urgentNow then afterConversion mon (urgentEnd mon code skipped (endProbe mon s))
    else if m.suspended then afterConversion (mon - 1) (afterConversion mon (tableResult (mon - 1) code skipped true (endProbe mon s)))
    else if m.interleave && m.oddNext then s
    else afterConversion mon (tableResult mon code skipped false (endProbe mon s)) := by
  refine (if_neg (by simp [hmon, hconv, hend])).trans ?_
  rw [Nat.mod_eq_of_lt hcode]

theorem conversionEnd_urgent (h : (monAt s mon).urgentNow = true) :
    conversionEnd mon code skipped s = afterConversion mon (urgentEnd mon code skipped (endProbe mon s)) :=
  (conversionEnd_ends hcode hmon hconv hend).trans (if_pos h)

theorem conversionEnd_suspended (h : (monAt s mon).urgentNow = false) (h' : (monAt s mon).suspended = true) :
    conversionEnd mon code skipped s =
      afterConversion (mon - 1) (afterConversion mon (tableResult (mon - 1) code skipped true (endProbe mon s))) :=
  (conversionEnd_ends hcode hmon hconv hend).trans ((if_neg (Bool.eq_false_iff.mp h)).trans (if_pos h'))

theorem conversionEnd_own (h : (monAt s mon).urgentNow = false) (h' : (monAt s mon).suspended = false) :
    conversionEnd mon code skipped s = if (monAt s mon).interleave && (monAt s mon).oddNext then s
      else afterConversion mon (tableResult mon code skipped false (endProbe mon s)) :=
  (conversionEnd_ends hcode hmon hconv hend).trans ((if_neg (Bool.eq_false_iff.mp h)).trans (if_neg (Bool.eq_false_iff.mp h')))

end

/-! ### Results -/

variable {k w : Nat} {e : MonEntry}

/-- The suspect-mark of a violating result is queued for the next boundary. -/
def markedResult (mon k code : Nat) (e : MonEntry) (s : State) : State :=
  if (code < e.low ∨ e.high < code) ∧ e.action = 1 then queueAct mon k e false s else s

theorem setViol_markedResult (v : Option MonViol) : setViol mon k v (markedResult mon k code e s) =
    { markedResult mon k code e s with conv := { (markedResult mon k code e s).conv with
      mons := tset none (markedResult mon k code e s).conv.mons mon (some { monAt s mon with viol := (monAt s mon).viol.set k v }) } } := by
  have hmon : monAt (markedResult mon k code e s) mon = monAt s mon := by
    rw [markedResult]
    split <;> rfl
  rw [setViol, hmon]
  rfl

theorem judgeResult_entry (he : (monAt s mon).table[k]? = some e) : judgeResult mon k w code s =
    let out := decide (code < e.low ∨ e.high < code)
    let u := if out && e.action == 1 then queueAct mon k e false s else s
    match ((monAt s mon).viol[k]?).join with
    | none =>
      if !out then u else
      let high := decide (e.high < code)
      let u := setViol mon k (some ⟨w % 65536, high, 0⟩) u
      let u := postEvent 5 mon 0x0710 2 (le 1 mon ++ le 1 k ++ le 4 w ++ le 2 code ++ le 1 (b2n high)) u
      let u := if e.action = 2 then queueAct mon k e true u else u
      if bits w 19 16 = 0 then trimRef (mon / 2 * 640 + w % 65536) u else u
    | some v =>
      let same := w % 65536 == v.select
      let inside := if v.high then decide (code + e.hyst ≤ e.high) else decide (e.low + e.hyst ≤ code)
      if same && !out && inside then
        postEvent 5 mon 0x0711 1 (le 1 mon ++ le 1 k ++ le 4 w ++ le 2 code ++ le 4 v.count) (setViol mon k none u)
      else if out || same then setViol mon k (some { v with count := min 65535 (v.count + 1) }) u
      else u := by
  rw [judgeResult, he] <;> rfl

theorem marked_eq : (if (decide (code < e.low ∨ e.high < code) && e.action == 1) = true then queueAct mon k e false s else s) =
    markedResult mon k code e s :=
  if_congr (by rw [Bool.and_eq_true, decide_eq_true_eq, beq_iff_eq]) rfl rfl

section
variable (he : (monAt s mon).table[k]? = some e)
include he

theorem judgeResult_clear (hgroup : bits w 19 16 ≠ 0) (hviol : (monAt s mon).viol[k]? = some none) : judgeResult mon k w code s =
    if code < e.low ∨ e.high < code then
      let u := postEvent 5 mon 0x0710 2 (le 1 mon ++ le 1 k ++ le 4 w ++ le 2 code ++ le 1 (b2n (decide (e.high < code))))
        (setViol mon k (some ⟨w % 65536, decide (e.high < code), 0⟩) (markedResult mon k code e s))
      if e.action = 2 then queueAct mon k e true u else u
    else s := by
  rw [judgeResult_entry he, hviol]
  simp only [marked_eq, Option.join_some, if_neg hgroup]
  by_cases hout : code < e.low ∨ e.high < code
  · rw [if_pos hout, decide_eq_true hout]
    rfl
  · rw [if_neg hout, decide_eq_false hout, markedResult, if_neg (show ¬ (_ ∧ e.action = 1) from fun h => hout h.1)]
    rfl

theorem judgeResult_violated {v : MonViol} (hviol : (monAt s mon).viol[k]? = some (some v)) : judgeResult mon k w code s =
    if w % 65536 = v.select ∧ ¬ (code < e.low ∨ e.high < code) ∧ (if v.high then code + e.hyst ≤ e.high else e.low + e.hyst ≤ code) then
      postEvent 5 mon 0x0711 1 (le 1 mon ++ le 1 k ++ le 4 w ++ le 2 code ++ le 4 v.count) (setViol mon k none (markedResult mon k code e s))
    else if (code < e.low ∨ e.high < code) ∨ w % 65536 = v.select then
      setViol mon k (some { v with count := min 65535 (v.count + 1) }) (markedResult mon k code e s)
    else s := by
  have hinside : (if v.high then decide (code + e.hyst ≤ e.high) else decide (e.low + e.hyst ≤ code)) =
      decide (if v.high then code + e.hyst ≤ e.high else e.low + e.hyst ≤ code) := by split <;> rfl
  rw [judgeResult_entry he, hviol]
  simp only [marked_eq, Option.join_some, hinside]
  refine if_congr ?_ rfl (ite_congr (propext ?_) (fun _ => rfl) fun hno => ?_)
  · simp only [Bool.and_eq_true, beq_iff_eq, Bool.not_eq_true', decide_eq_false_iff_not, decide_eq_true_eq, and_assoc]
  · simp only [Bool.or_eq_true, decide_eq_true_eq, beq_iff_eq]
  · rw [markedResult, if_neg fun h => hno (.inl h.1)]

end

end

/-- Settles O55. -/
theorem monitorConversionsAreJudged : Obligations.MonitorConversionsAreJudged := by
  refine ⟨fun mon code skipped s hcode => ?_, fun mon k w code s e he hgroup hk => ?_⟩
  · intro m u
    refine ⟨fun h => congrArg Host.Outcome.next (conversionEnd_waits h), canEnd_unprobed, fun e h => canEnd_reference h,
      fun hmon hconv hend => ⟨fun h => congrArg Host.Outcome.next (conversionEnd_urgent hcode hmon hconv hend h),
        fun h h' => congrArg Host.Outcome.next (conversionEnd_suspended hcode hmon hconv hend h h'), fun h h' hi ho => ?_, fun h h' hi => ?_⟩, rfl⟩
    · exact congrArg Host.Outcome.next ((conversionEnd_own hcode hmon hconv hend h h').trans (if_pos (by rw [hi, ho]; rfl)))
    · have hno : ¬ ((monAt s mon).interleave && (monAt s mon).oddNext) = true := by
        rw [Bool.and_eq_true]
        rintro ⟨hinter, hnext⟩
        rcases hi with hi | hi
        · exact Bool.noConfusion (hinter.symm.trans hi)
        · exact Bool.noConfusion (hnext.symm.trans hi)
      exact congrArg Host.Outcome.next ((conversionEnd_own hcode hmon hconv hend h h').trans (if_neg hno))
  · intro m out high act set marked
    have hset : ∀ v, setViol mon k v (markedResult mon k code e s) = set v marked := fun v => setViol_markedResult v
    refine ⟨fun hviol => ?_, fun v hviol => ?_⟩
    · rw [judgeResult_clear he hgroup hviol, hset]
      rfl
    · intro inside
      rw [judgeResult_violated he hviol, hset, hset]

/-! ### Moves and fetches of pages -/

section
variable {k layer n : Nat} {s : State} {c : Ctx} {p : Page} (hc : ctxAt s k = some c) (hp : tget none c.pages (pageKey layer n) = some p)

theorem pageMoveDone_unmoved (ok : Bool) (h : moveOf s k (pageKey layer n) = none) : pageMoveDone k layer n ok s = s := by
  rw [pageMoveDone, h]

include hc

theorem pageMoveDone_failed {m : Move} (h : moveOf s k (pageKey layer n) = some m) (hready : m.ready = false) :
    pageMoveDone k layer n false s = pageTile k (pageKey layer n) s := by
  rw [pageMoveDone, h, hc]
  exact if_neg (Bool.eq_false_iff.mp hready)

include hp

theorem pageMoveDone_copied {m : Move} (h : moveOf s k (pageKey layer n) = some m) (hready : m.ready = false) :
    pageMoveDone k layer n true s = if m.tier = 2 then
      (match writeCold k (pageKey layer n) c p s with
        | some u => readyMove k (pageKey layer n) u
        | none => dropMove k (pageKey layer n) s)
      else readyMove k (pageKey layer n) s := by
  rw [pageMoveDone, h, hc]
  refine (if_neg (Bool.eq_false_iff.mp hready)).trans ((if_neg (by simp)).trans ?_)
  rw [hp] <;> rfl

theorem coldFetch_waits (cipher : Bytes) (h : s.phys.link = false ∨ p.tier ≠ 2 ∨ moveOf s k (pageKey layer n) ≠ none ∨
    (ctxAwaits s k = false ∧ ctxBusy s k = false)) : coldFetch k layer n cipher s = s := by
  rw [coldFetch]
  dsimp only
  rw [hc]
  dsimp only
  rw [hp]
  refine if_pos ?_
  simpa only [Bool.not_eq_true', Option.isSome_iff_ne_none, Bool.or_eq_false_iff] using h

theorem coldFetch_arrives (cipher : Bytes) (hlink : s.phys.link = true) (htier : p.tier = 2) (hmove : moveOf s k (pageKey layer n) = none)
    (huse : ctxAwaits s k = true ∨ ctxBusy s k = true) :
    let page := pageKey layer n
    let put := fun q : Page => setCtx k (some { c with pages := tset none c.pages page (some q) }) s
    coldFetch k layer n cipher s = match gcmOpen (quotaOf s c.tenant).coldKey (le 12 p.nonce) (coldAad k page) cipher p.auth with
      | some b =>
        let u := put { p with data := mwrite [] 0 b, home := 0, nonce := 0, auth := [] }
        { u with serve := { u.serve with moves := s.serve.moves ++ [⟨k, page, 1, 0, true⟩] } }
      | none => postEvent 8 0 0x0604 3 (le 2 c.tenant ++ le 4 c.id ++ le 4 layer ++ le 4 n)
          (put { p with tier := 3, home := 0, nonce := 0, auth := [] }) := by
  intro page put
  have hput : ∀ q, setPage k page (some q) s = put q := fun q => by rw [setPage, hc]
  rw [coldFetch]
  dsimp only
  rw [hc]
  dsimp only
  rw [hp]
  refine (if_neg (by simpa [hlink, htier, hmove, or_iff_not_imp_left] using huse)).trans ?_
  generalize gcmOpen _ _ _ _ _ = o
  cases o with
  | none =>
    dsimp only
    rw [hput]
  | some b =>
    dsimp only
    rw [hput]
    rfl

end

/-! ### Results and the expiry of step replays -/

section
variable {n : Nat} {s : State} {r : Replay} (hr : replayAt s n = some r)
include hr

theorem replayResult_idle (ok : Bool) (h : r.state ≠ 1) : replayResult n ok s = s := by
  rw [replayResult, hr]
  exact if_pos h

theorem replayResult_failed (h : r.state = 1) : replayResult n false s =
    setReplay n { r with state := 0, host := none, partner := none, result := [], own := [], updates := [] } s := by
  rw [replayResult, hr]
  exact (if_neg (not_not.mpr h)).trans (if_pos rfl)

theorem replayResult_none (h : r.state = 1) (hout : replayOutcome n r s = none) : replayResult n true s = s := by
  rw [replayResult, hr]
  refine (if_neg (not_not.mpr h)).trans ((if_neg (by simp)).trans ?_)
  rw [hout]

theorem replayResult_own {out : Bytes × Tab Bytes} (h : r.state = 1) (hout : replayOutcome n r s = some out) (horigin : r.origin = none) :
    replayResult n true s = resolveReplayStep n r out s := by
  rw [replayResult, hr]
  refine (if_neg (not_not.mpr h)).trans ((if_neg (by simp)).trans ?_)
  rw [hout, horigin]

theorem replayResult_partner {out : Bytes × Tab Bytes} {src num version : Nat} (h : r.state = 1) (hout : replayOutcome n r s = some out)
    (horigin : r.origin = some (src, num, version)) : replayResult n true s = returnResult n src num out s := by
  rw [replayResult, hr]
  refine (if_neg (not_not.mpr h)).trans ((if_neg (by simp)).trans ?_)
  rw [hout, horigin]

theorem replayExpiry_waits (h : r.state ≠ 0 ∨ r.origin ≠ none ∨ s.spin.count / 8192 < r.turn + s.integ.wait) : replayExpiry n s = s := by
  rw [replayExpiry, hr]
  refine if_pos ?_
  simpa only [Option.isSome_iff_ne_none] using h

theorem replayExpiry_discards (h : r.state = 0) (horigin : r.origin = none) (hturn : r.turn + s.integ.wait ≤ s.spin.count / 8192) :
    replayExpiry n s = postPlan r.part 0x0807 2 (le 4 1 ++ le 4 (s.spin.count / 8192 - r.turn) ++ le 1 1)
        (discardTail r.step { s with serve := { s.serve with replays := tdel s.serve.replays n } }) := by
  rw [replayExpiry, hr]
  exact if_neg (by simp [h, horigin, Nat.not_lt.mpr hturn])

end

/-- Whether a replay's result counts as the step's own. -/
def sameStep (r : Replay) (out : Bytes × Tab Bytes) : Prop :=
  r.noTest = false ∧ ((r.step.job = 2 ∧ r.decision ≠ []) ∨ agrees r.decision out.1 = true)

theorem sameStep_iff (r : Replay) (out : Bytes × Tab Bytes) :
    (!r.noTest && ((r.step.job == 2 && !r.decision.isEmpty) || agrees r.decision out.1)) = true ↔ sameStep r out := by
  rw [sameStep, Bool.and_eq_true, Bool.or_eq_true, Bool.and_eq_true, Bool.not_eq_true', Bool.not_eq_true', beq_iff_eq, List.isEmpty_eq_false_iff]

/-- The state without the messages of a partner's result that have arrived. -/
def withoutResult (n : Nat) (r : Replay) (s : State) : State :=
  { s with net := { s.net with inbox := s.net.inbox.filter fun x => !(r.partner.any fun m => isPart m 5 3 n x) } }

theorem resolveReplayStep_same {n : Nat} {r : Replay} {out : Bytes × Tab Bytes} (s : State) (h : sameStep r out) :
    resolveReplayStep n r out s = postResolved r true (setReplay n { r with state := 2 } (withoutResult n r s)) := by
  rw [resolveReplayStep, (sameStep_iff r out).mpr h]
  rfl

theorem resolveReplayStep_other {n : Nat} {r : Replay} {out : Bytes × Tab Bytes} (s : State) (h : ¬ sameStep r out) :
    resolveReplayStep n r out s = postResolved r false (replaceStep n r out (withoutResult n r s)) := by
  rw [resolveReplayStep, Bool.eq_false_iff.mpr (mt (sameStep_iff r out).mp h)]
  rfl

/-- Settles O56. -/
theorem pagesAndReplaysMove : Obligations.PagesAndReplaysMove := by
  refine ⟨fun k layer n s c p hc hp => ?pages, fun n s r hr => ?replays⟩
  case pages =>
    intro page done
    refine ⟨fun h ok => congrArg Host.Outcome.next (pageMoveDone_unmoved ok h), fun m h hready =>
      ⟨congrArg Host.Outcome.next (pageMoveDone_failed hc h hready), fun ht => ?_, fun ht => ?_⟩,
      fun cipher h => congrArg Host.Outcome.next (coldFetch_waits hc hp cipher h),
      fun cipher hlink htier hmove huse => congrArg Host.Outcome.next (coldFetch_arrives hc hp cipher hlink htier hmove huse)⟩
    · exact congrArg Host.Outcome.next ((pageMoveDone_copied hc hp h hready).trans (if_neg ht))
    · exact congrArg Host.Outcome.next ((pageMoveDone_copied hc hp h hready).trans (if_pos ht))
  case replays =>
    refine ⟨fun h ok => congrArg Host.Outcome.next (replayResult_idle hr ok h), fun h => congrArg Host.Outcome.next (replayResult_failed hr h),
      fun h hout => congrArg Host.Outcome.next (replayResult_none hr h hout), fun out h hout => ⟨fun horigin => ?_, fun src num version horigin => ?_⟩,
      fun h => congrArg Host.Outcome.next (replayExpiry_waits hr h),
      fun h horigin hturn => congrArg Host.Outcome.next (replayExpiry_discards hr h horigin hturn)⟩
    · intro same u
      refine congrArg Host.Outcome.next ((replayResult_own hr h hout horigin).trans ?_)
      by_cases hsame : same
      · rw [if_pos hsame]
        exact resolveReplayStep_same s hsame
      · rw [if_neg hsame]
        exact resolveReplayStep_other s hsame
    · exact congrArg Host.Outcome.next (replayResult_partner hr h hout horigin)

end Sys2Proof.Machine

/-!
PROOFS. A TRUE holds its job with what it wants requested, and the operations of a plan as the statement gives them.
-/

namespace Sys2Proof.Machine

/-! ### What a TRUE holds once it has read its record -/

/-- The elements that a TRUE asks to be computed exactly. -/
def TrueJob.wanted (x : TrueJob) : List Nat := x.exact ++ x.exactChecks.map (· + 3000)

/-- A TRUE's job once the elements it wants are noted as requested. -/
def TrueJob.asking (x : TrueJob) : TrueJob := { x with inputs := x.inputs.ask x.wanted }

theorem flyAt_takeRecord {id : Nat} {f : Fly} {d : Bytes} {kind : Nat} {s : State}
    (hcount : (byteAt d 1).toNat = (if (formTrue s f d kind).flags.testBit 6 = true ∨ kind = 3 then 0
      else ((chuckOf s (bankOf s f.part) (formTrue s f d kind).engine (formTrue s f d kind).deck).map channelCount).getD 0)) :
    (flyAt (takeRecord id f d kind s) id).map (·.body) = some (.true (formTrue s f d kind).asking) := by
  unfold takeRecord
  extract_lets x off entry want els
  have hwant : want = (byteAt d 1).toNat := by
    rw [hcount]
    change (if (x.flags.testBit 6 || kind == 3) = true then 0
      else ((if x.flags.testBit 6 = true then none else chuckOf s (bankOf s f.part) x.engine x.deck).map channelCount).getD 0) = _
    by_cases hoff : x.flags.testBit 6 = true
    · rw [if_pos (Or.inl hoff), hoff]
      rfl
    · rw [if_neg hoff]
      refine if_congr ?_ rfl rfl
      rw [Bool.or_eq_true, beq_iff_eq]
  rw [if_neg (by simp [hwant]), flyAt_setFly]
  rfl

/-- A due TRUE whose descriptor and source words allow it holds its record's job, with what it wants noted as requested. -/
theorem trueOp_holds {st : Nat} {op : PlanOp} {s : State} {pk : Nat} {p : Part} (hdue : Due 0x24 st op s pk p) (hguard : op.guard = false)
    (hdrain : op.drain = false) :
    let t := taken st op pk p s
    let f := freshFly st op pk s
    let d := wordsAt t (descWord t f) 2
    let kind := kindOf t f
    let x := formTrue t { f with body := .desc d kind } d kind
    trueBad t f d kind = false →
    (byteAt d 1).toNat = (if x.flags.testBit 6 = true ∨ kind = 3 then 0 else ((chuckOf t (bankOf t pk) x.engine x.deck).map channelCount).getD 0) →
    ∃ u, exec (.trueOp st op) s = .next u ∧ (flyAt u s.plans.nextFly).map (·.body) = some (.true x.asking) := by
  intro t f d kind x hbad hcount
  refine ⟨takeRecord s.plans.nextFly { f with body := .desc d kind } d kind t, congrArg Host.Outcome.next ?_, flyAt_takeRecord hcount⟩
  refine (issue_due hdue startTrue).trans ((if_neg (Bool.eq_false_iff.mp hbad)).trans ?_)
  refine (withSource_full (fun h => absurd (hguard.symm.trans h) Bool.false_ne_true)).trans ?_
  exact congrArg (takeRecord _ _ d kind) (if_neg (Bool.eq_false_iff.mp hdrain))

/-! ### A TRUE whose record names a column to be computed exactly -/

/-- A TRUE of core 0 without source flags: record at word 0, output at word 800 of the stack's store, descriptor 0. -/
def redoOp : PlanOp := ⟨0, 1, 0, 0x24, false, false, false, BitVec.ofNat 80 (2 ^ 31 * 2 ^ 48 + (2 ^ 31 + 800) * 2 ^ 16), 0⟩

/-- A partition of stack 0 with its descriptors at word 1000, in which the TRUE is due. -/
def redoPart : Part :=
  { newPart State.reset 0 ⟨0, 1, 1, 100, 0, 0, 0, 2 ^ 31 + 1000, [], [], [], [(0, [])]⟩ 0 with due := [(0, redoOp)] }

/-- The record of a Wide read marks column 0 to be computed exactly; all else in it is 0. -/
def redoState : State :=
  setPart 0 (some redoPart) { State.reset with stores := { State.reset.stores with
    mem := [(32 * stackBase 0 + 96, 1#8), (32 * (stackBase 0 + 1000), 0x24#8)] } }

/-- The state once the TRUE has left its partition's list, the operation in flight, and its job. -/
def redoTaken : State := taken 0 redoOp 0 redoPart redoState
def redoFly : Fly := freshFly 0 redoOp 0 redoState
def redoDesc : Bytes := wordsAt redoTaken (descWord redoTaken redoFly) 2
def redoKind : Nat := kindOf redoTaken redoFly
def redoJob : TrueJob := formTrue redoTaken { redoFly with body := .desc redoDesc redoKind } redoDesc redoKind

theorem redoState_due : Due 0x24 0 redoOp redoState 0 redoPart := by
  have hparts : parts redoState = [(0, redoPart)] := by rfl
  have hmask : redoPart.d.mask = 1 := rfl
  exact ⟨by simp [partOfStack, hparts, hmask], rfl, List.mem_singleton.mpr rfl⟩

theorem redo_trueBad : trueBad redoTaken redoFly redoDesc redoKind = false := by decide +kernel

theorem redo_count : (byteAt redoDesc 1).toNat = (if redoJob.flags.testBit 6 = true ∨ redoKind = 3 then 0
    else ((chuckOf redoTaken (bankOf redoTaken 0) redoJob.engine redoJob.deck).map channelCount).getD 0) := by decide +kernel

/-- The job wants column 0, and nothing of its record has been asked for before. -/
theorem redoJob_asks : redoJob.inputs.asked = [] ∧ redoJob.wanted = [0] := by decide +kernel

theorem redoJob_asking_ne : redoJob.asking ≠ redoJob := by
  obtain ⟨hasked, hwanted⟩ := redoJob_asks
  intro h
  have hlist : redoJob.asking.inputs.asked = redoJob.inputs.asked := by rw [h]
  rw [TrueJob.asking, ReadInputs.ask, hasked, hwanted] at hlist
  simp at hlist

/-- Refutes O41: a TRUE whose record marks a column to be computed exactly asks for that column as it reads the record, and holds
its job with the column noted as requested (`TrueJob.asking`), so not the job as `formTrue` forms it. -/
theorem not_planOperationsIssue : ¬ Obligations.PlanOperationsIssue := by
  intro h
  obtain ⟨-, -, hlong⟩ := h
  obtain ⟨-, -, -, -, htrue, -⟩ := hlong 0 redoOp redoState 0 redoPart
  obtain ⟨u, hu, hbody, -⟩ := htrue redoState_due redo_trueBad (fun hguard => absurd hguard Bool.false_ne_true) redo_count
  obtain ⟨v, hv, hasking⟩ := trueOp_holds redoState_due rfl rfl redo_trueBad redo_count
  obtain rfl : u = v := Host.Outcome.next.inj (hu.symm.trans hv)
  obtain ⟨g, hg, hheld⟩ := Option.map_eq_some_iff.mp hbody
  rw [hg] at hasking
  have hjob : Body.true redoJob.asking = Body.true redoJob :=
    (Option.some.inj hasking).symm.trans (Prod.mk.inj (Prod.mk.inj hheld).2).2
  exact redoJob_asking_ne (Body.true.inj hjob)

end Sys2Proof.Machine
